-- ==== Sys2Proof/Word.lean ====
section
/-! DEFINITION. Words, lane masks and the sparse store: the plainest types of the model and their
plainest arithmetic. -/

namespace Sys2Proof

/-- A 32-bit register word (R103). -/
abbrev Word := BitVec 32
/-- A 64-bit value: a register pair (R112), an address, a time. -/
abbrev DWord := BitVec 64
/-- The smallest addressable unit of memory. -/
abbrev Byte := BitVec 8
/-- A set of lanes of one group: bit L is lane L (R3). -/
abbrev Mask := BitVec 32
/-- A 6-bit register field, naming v0–v63 or s0–s63 (R97). -/
abbrev Reg := BitVec 6

/-- Sparse data by number, in one canonical form: keys strictly rising, no entry equal to what an
unlisted key reads as (the type's default). Memory, register files and every table of the machine
that is numbered are held so. -/
abbrev Store (α : Type) := List (Nat × α)

namespace Store
variable {α : Type}

/-- What key `k` reads as. -/
def get [Inhabited α] (m : Store α) (k : Nat) : α :=
  match m with
  | [] => default
  | (j, w) :: t => if j = k then w else get t k

/-- Remove key `k`. -/
def erase (m : Store α) (k : Nat) : Store α :=
  match m with
  | [] => []
  | (j, w) :: t => if j = k then erase t k else (j, w) :: erase t k

/-- Put a new entry before the first greater key. -/
def place (m : Store α) (k : Nat) (v : α) : Store α :=
  match m with
  | [] => [(k, v)]
  | (j, w) :: t => if k < j then (k, v) :: (j, w) :: t else (j, w) :: place t k v

/-- Write `v` at `k`; writing what an unlisted key reads as removes the entry. -/
def put [Inhabited α] [DecidableEq α] (m : Store α) (k : Nat) (v : α) : Store α :=
  if v = default then erase m k else place (erase m k) k v

/-- Change the value at `k`. -/
def upd [Inhabited α] [DecidableEq α] (m : Store α) (k : Nat) (f : α → α) : Store α :=
  put m k (f (get m k))

/-- The keys listed, in rising order. -/
def keys (m : Store α) : List Nat := m.map Prod.fst

/-- Keys strictly rising from a bound. -/
def risesFrom (lo : Nat) : Store α → Bool
  | [] => true
  | (j, _) :: t => decide (lo ≤ j) && risesFrom (j + 1) t

/-- The canonical form. -/
def wf [Inhabited α] [DecidableEq α] (m : Store α) : Bool :=
  risesFrom 0 m && m.all (fun e => decide (e.2 ≠ default))

end Store

/-- Lane `L` belongs to the mask. -/
def inMask (m : Mask) (L : Nat) : Bool := m.getLsbD L

/-- The lanes of a mask, ascending. -/
def lanesOf (m : Mask) : List Nat := (List.range 32).filter (inMask m)

/-- The mask of the lanes that satisfy a test. -/
def maskOf (p : Nat → Bool) : Mask :=
  BitVec.ofNat 32 (((List.range 32).filter p).foldl (fun n L => n + 2 ^ L) 0)

/-- The number of lanes of a mask. -/
def laneCount (m : Mask) : Nat := (lanesOf m).length

/-- The lowest lane of a mask; 0 for the empty mask. -/
def lowLane (m : Mask) : Nat := (lanesOf m).headD 0

/-- The 64-bit value of a low and a high word (R112). -/
def pairOf (lo hi : Word) : DWord := hi ++ lo
/-- Bits 31:0 of a pair. -/
def loWord (x : DWord) : Word := x.setWidth 32
/-- Bits 63:32 of a pair. -/
def hiWord (x : DWord) : Word := (x >>> 32).setWidth 32

end Sys2Proof
end

