-- ==== Sys2Proof/Syntax.lean ====
section
/-! DEFINITION. The instruction set: one constructor for each row of the spec's opcode table, which
lists the instruction words and the part's other steps (file 95). A word's constructor carries the
fields of its encoding (R96, R97), lowest field first; an event's constructor names the piece of
state it acts on by number. The events stand first, then the words that the operand log, the engine
and the Gong keep. -/

namespace Sys2Proof

/-- R228, R353: what a request from outside the module asks of a page: a read, with a lease; a write; an ATOM,
whose operation is numbered as RED's are (0–11), 12 for an exchange and 13 for a compare and swap; a RED. -/
inductive FabricKind where
  | read
  | write
  | atom (op compare : Nat)
  | red (op : Nat)
  deriving DecidableEq, Repr

/-- One constructor per row of the opcode table. -/
inductive Instr where
  /-- SPILL_ROTATION, R21: After 4,096 cycles a waiting spilled split swaps with the rotation pointer's entry. -/
  | spillRotation (grp : Nat)
  /-- YIELD_EXPIRY, R140: 64 cycles after YIELD the yielding split becomes choosable again. -/
  | yieldExpiry (quad : Nat)
  /-- MMA_COMPLETE, R200: The engine completes an instruction and starts the next pending one. -/
  | mmaComplete (core : Nat)
  /-- GONG_ENTRY_EXECUTE, R218: The Gong executes its oldest queue entry and writes the results. -/
  | gongEntryExecute (die : Nat)
  /-- LOAD_DATA_RETURN, R99: A long-latency load's data arrives and its destinations are written. -/
  | loadDataReturn (op : Nat)
  /-- STORE_ACCEPT_REPLY, R238: The home's reply gives the storer its completion times. -/
  | storeAcceptReply (op : Nat)
  /-- STORE_APPLY, R237: A store reaches its home slice and is applied with completion times. -/
  | storeApply (op : Nat)
  /-- FILL_GRANT, R235: The home grants a line fill with a lease and settle time. -/
  | fillGrant (core line : Nat)
  /-- ATOM_AT_HOME, R277: An ATOM lane's read-modify-write runs at the home slice. -/
  | atomAtHome (op : Nat)
  /-- STASH_OWNERSHIP_FILL, R243: A stash ownership fill completes after live leases expire. -/
  | stashOwnershipFill (block line : Nat)
  /-- COMPLETION_TIME_PASSED, R238: A recorded completion or settle time passes, releasing waits on it. -/
  | completionTimePassed (time : Nat)
  /-- WC_FLUSH_TIMEOUT, R241: 64 cycles after the first held byte the write-combining buffer flushes. -/
  | wcFlushTimeout (core : Nat)
  /-- BATCH_COMPLETE, R182: A copy batch completes, releasing CWAIT and CBCLOSE. -/
  | batchComplete (grp : Nat)
  /-- TX_LANE_COMMIT, R269: Homes lock, validate and apply or reject one lane's logs. -/
  | txLaneCommit (grp : Nat)
  /-- WLAPP_ACCEPT, R214: A work list accepts an append run, serving waiting takes. -/
  | wlappAccept (op : Nat)
  /-- KNELL_QUIESCENCE, R216: Both Knell replicas declare the launch quiescent. -/
  | knellQuiescence (launch : Nat)
  /-- KNELL_DISAGREEMENT, R358: The replicas disagree; error 0x0A and a recount. -/
  | knellDisagreement (launch : Nat)
  /-- KNELL_RECOUNT_TIMEOUT, R358: After 10 ms of disagreement both replicas are reloaded. -/
  | knellRecountTimeout (launch : Nat)
  /-- PAGE_WALK_COMPLETE, R328: A translation walk ends with a leaf or a fault. -/
  | pageWalkComplete (core ctx : Nat) (vpage : Nat)
  /-- CARILLON_FAULT_SERVICE, R330: Carillon receives a fault record and notifies the driver or serves it. -/
  | carillonFaultService (fault : Nat)
  /-- UNCORRECTABLE_ERROR, R332: An unconsumed uncorrectable error enters the slice's error table. -/
  | uncorrectableError (line : Nat)
  /-- BREAKPOINT_STOP, R364: A split about to issue a planted breakpoint stops for the stub. -/
  | breakpointStop (grp uid : Nat)
  /-- QUEUE_TAIL_WRITE, R314: A producer's tail write wakes Carillon to read the ring. -/
  | queueTailWrite (queue : Nat)
  /-- GRAPH, R321: GRAPH packet starts a run of a graph table. -/
  | graph (queue : Nat)
  /-- XFER_PACKET, R138: XFER packet arms a running launch and sets its start version. -/
  | xferPacket (queue : Nat)
  /-- CHECKPOINT, R337: CHECKPOINT packet starts a checkpoint of the context. -/
  | checkpoint (queue : Nat)
  /-- SIGNAL, R315: SIGNAL packet stores a value at a scope. -/
  | signal (queue : Nat)
  /-- WAITSIG, R315: WAITSIG packet waits for a word to reach a value. -/
  | waitsig (queue : Nat)
  /-- WAITSIG_SATISFIED, R315: The awaited word reaches the value and the packet or node completes. -/
  | waitsigSatisfied (run node : Nat)
  /-- PACKET_COMPLETE, R314: A packet completes; head advances and the next packet begins. -/
  | packetComplete (queue : Nat)
  /-- GRAPH_NODE_COMPLETE, R321: A node completes; successors released and zero-count nodes started. -/
  | graphNodeComplete (run node : Nat)
  /-- LAUNCH_ACCEPT, R318: A launch record is checked and takes a slot, or is rejected. -/
  | launchAccept (sub : Nat)
  /-- BLOCK_PLACEMENT, R41: A waiting block is placed on a core and its groups start. -/
  | blockPlacement
  /-- LAUNCH_COMPLETE, R319: A launch completes, stores its completion value and frees its slot. -/
  | launchComplete (launch : Nat)
  /-- TIME_SLICE_EXPIRY, R324: A context's slice expires, pre-empting or restarting it. -/
  | timeSliceExpiry (ctx : Nat)
  /-- BLOCK_RESTORE, R335: A pre-empted block is restored on a core with its stash range free. -/
  | blockRestore (ctx : Nat)
  /-- WAITBUDGET_EXPIRY, R326: A block's wait clock reaches the budget; the context is held with a snapshot. -/
  | waitbudgetExpiry (block : Nat)
  /-- CHECKPOINT_BOUNDARY, R338: At a node boundary node starts hold while copy-on-write is set. -/
  | checkpointBoundary (ctx : Nat)
  /-- CHECKPOINT_COMMIT, R339: Streamed data complete; the commit record is written. -/
  | checkpointCommit (ctx : Nat)
  /-- FABRIC_REQUEST, R228: A request from outside the module reaches a page. -/
  | fabricRequest (kind : FabricKind) (pa size value : Nat)
  /-- CONTEXT_CREATE, R312: Mailbox command 0x0001 creates a context from its record. -/
  | contextCreate
  /-- CONTEXT_DESTROY, R346: Mailbox command 0x0002 destroys a context. -/
  | contextDestroy
  /-- CONTEXT_RESUME, R326: Mailbox command 0x0003 resumes a held or stopped context. -/
  | contextResume
  /-- CONTEXT_PREEMPT, R333: Mailbox command 0x0004 pre-empts a context. -/
  | contextPreempt
  /-- TRANSLATION_INVALIDATE, R328: Mailbox command 0x0005 invalidates translations on every die. -/
  | translationInvalidate
  /-- FAULT_REPLY, R330: Mailbox command 0x0006 replies to a fault: replay or stop. -/
  | faultReply
  /-- QUEUE_RESTART, R314: Mailbox command 0x0007 restarts a stopped queue. -/
  | queueRestart
  /-- CHECKPOINT_NOTICE, R337: Mailbox command 0x0008 starts a checkpoint at once. -/
  | checkpointNotice
  /-- UPDATE, R348: Mailbox command 0x0010 live-updates the firmware. -/
  | update
  /-- ROLL_BACK, R349: Mailbox command 0x0011 rolls back to the old image. -/
  | rollBack
  /-- MICROCODE, R350: Mailbox command 0x0012 replaces one controller's microcode. -/
  | microcode
  /-- MICROCODE_WINDOW, R350: The controller's window opens and the new microcode is installed. -/
  | microcodeWindow (controller : Nat)
  /-- CORE_RETIRE, R356: Mailbox command 0x0020 retires a core onto a spare. -/
  | coreRetire
  /-- AUTO_CORE_RETIRE, R356: Carillon retires a core after repeated register-file ECC. -/
  | autoCoreRetire (die core : Nat)
  /-- ERROR_ENTRY_CLEAR, R332: Mailbox command 0x0021 clears an error-table entry. -/
  | errorEntryClear
  /-- POWER_CAP, R360: Mailbox command 0x0030 sets the module power cap. -/
  | powerCap
  /-- UNKNOWN_COMMAND, R346: An unlisted command code replies with status 1. -/
  | unknownCommand
  /-- DOORBELL_OVERRUN, R345: A doorbell written before the previous reply is ignored and sets overrun. -/
  | doorbellOverrun (value : Word)
  /-- STATUS_READ, R345: A read of the status word clears the overrun bit. -/
  | statusRead
  /-- REGISTER_PAGE_WRITE, R344: A host write to a register-page word with no behaviour of its own. -/
  | registerPageWrite (offset : Nat) (value : Word)
  /-- HEARTBEAT, R348: The new image writes a heartbeat to the hub-die watchdog. -/
  | heartbeat
  /-- WATCHDOG_MISS, R349: A missed heartbeat deadline rolls back to the old image. -/
  | watchdogMiss
  /-- PROBATION_END, R348: After 60 s of heartbeats probation ends. -/
  | probationEnd
  /-- STANDBY_TAKEOVER, R349: The standby complex takes over after the active one fails. -/
  | standbyTakeover
  /-- STATE_TABLE_MIRROR, R347: Changed state-table sections are sent to the standby. -/
  | stateTableMirror
  /-- POWER_ON, R359: Boot ROM derives identity, verifies images and starts the active complex. -/
  | powerOn
  /-- FREQUENCY_STEP, R380: A die's CCLK steps by 0.1 GHz and a step record is written. -/
  | frequencyStep (die : Nat) (up : Bool)
  /-- RELOCK_END, R380: 1,200 ns after a step the clock crossing relocks and issue resumes. -/
  | relockEnd (die : Nat)
  /-- JUNCTION_105, R360: A die reaching 105 °C steps down until below 100 °C. -/
  | junction105 (die : Nat)
  /-- JUNCTION_115, R360: At 115 °C compute dies lose power. -/
  | junction115
  /-- POWER_REFRESH, R344: The power word is refreshed every 1 ms. -/
  | powerRefresh (watts : Word)
  /-- SKEW_MEASUREMENT, R378: Die skews are measured every 1 ms; changes write skew records. -/
  | skewMeasurement (die : Nat) (skew : Word)
  /-- FLIT_CRC_FAILURE, R353: A flit failing its CRC is resent. -/
  | flitCrcFailure (port lane : Nat)
  /-- LINK_RETRAIN_END, R354: A retrained link resumes after its pause. -/
  | linkRetrainEnd (port : Nat)
  /-- HBM_CORRECTABLE_ERROR, R357: Repeated correctable errors in a row replace it with a spare. -/
  | hbmCorrectableError (controller bank row : Nat)
  /-- PSEUDO_CHANNEL_FAILURE, R357: A failing pseudo-channel is replaced by the stack's spare while running. -/
  | pseudoChannelFailure (stack channel : Nat)
  /-- WORD_NOT_INSTRUCTION, R109: A split reaches an offset whose fetched word is not an instruction, or lies beyond the plane length, and traps ILL precisely. -/
  | wordNotInstruction (illop : Bool) (reason low : Byte) (plane : BitVec 2)
  /-- L1_EVICTION, R229: The L1 evicts a line, writing back a dirty private line or having the home collect an update-only copy. -/
  | l1Eviction (core line : Nat)
  /-- L2_EVICTION, R236: An L2 home slice evicts a line and folds its lease summaries and stamp into the slice's eviction expiry and eviction stamp. -/
  | l2Eviction (line : Nat)
  /-- COPY_COMPLETE, R181: One queued asynchronous copy finishes or meets a failure, freeing its place among the group's 32 queued copies. -/
  | copyComplete (grp copy : Nat)
  /-- CHECKPOINT_PAGE_COPY, R338: A copy engine finishes streaming one checkpoint page to the target, clears the page's copy-on-write bit and releases outside writes waiting at its home. -/
  | checkpointPageCopy (ctx page : Nat)
  /-- POWER_LOSS, R340: The module loses power, and every operation in flight, including a checkpoint being written, stops. -/
  | powerLoss
  /-- FDIV, R155: Correctly rounded division, long-latency. -/
  | fdiv (la : BitVec 4) (d a b : Reg)
  /-- FSQRT, R155: Correctly rounded square root. -/
  | fsqrt (la : BitVec 4) (d a : Reg)
  /-- FRCP, R155: Correctly rounded reciprocal. -/
  | frcp (la : BitVec 4) (d a : Reg)
  /-- FRSQ, R155: Correctly rounded reciprocal square root. -/
  | frsq (la : BitVec 4) (d a : Reg)
  /-- FEXP2, R155: Correctly rounded 2^a. -/
  | fexp2 (la : BitVec 4) (d a : Reg)
  /-- FLOG2, R155: Correctly rounded log2 a. -/
  | flog2 (la : BitVec 4) (d a : Reg)
  /-- FSINT, R155: Correctly rounded sin(2πa). -/
  | fsint (la : BitVec 4) (d a : Reg)
  /-- FCOST, R155: Correctly rounded cos(2πa). -/
  | fcost (la : BitVec 4) (d a : Reg)
  /-- FTANH, R155: Correctly rounded tanh a. -/
  | ftanh (la : BitVec 4) (d a : Reg)
  /-- FSIGM, R155: Correctly rounded logistic sigmoid. -/
  | fsigm (la : BitVec 4) (d a : Reg)
  /-- FERF, R155: Correctly rounded erf a. -/
  | ferf (la : BitVec 4) (d a : Reg)
  /-- LAUNCH, R211: Creates one child launch per lane from a launch record. -/
  | launch (la : BitVec 4) (d a : Reg)
  /-- WLAPP, R214: Appends lane items to a work list as one run. -/
  | wlapp (la : BitVec 4) (a b : Reg)
  /-- WLTAKE, R215: Takes items from a work list into the lowest lanes. -/
  | wltake (la : BitVec 4) (d a b : Reg)
  /-- C1HADD, R309: GCALL class 1: flushing packed FP16 add on the Gong. -/
  | c1hadd (d a b : Reg)
  /-- C1HSUB, R309: GCALL class 2: flushing packed FP16 subtract. -/
  | c1hsub (d a b : Reg)
  /-- C1HMUL, R309: GCALL class 3: flushing packed FP16 multiply. -/
  | c1hmul (d a b : Reg)
  /-- C1HFMA, R309: GCALL class 4: flushing packed FP16 fused multiply-add. -/
  | c1hfma (d a b : Reg)
  /-- C1CAS, R310: GCALL class 5: compare-and-swap returning success. -/
  | c1cas (d a b : Reg)
  /-- C1F2I, R308: GCALL class 6: C1 float-to-integer conversion. -/
  | c1f2i (d a : Reg)
  /-- C1BAR, R311: GCALL class 7: whole-group barrier arrival. -/
  | c1bar (d a : Reg)
  /-- LDG_SB, R171: Loads a sign-extended byte per lane. -/
  | ldgSb (la : BitVec 4) (d a : Reg) (s : BitVec 5) (m : Bool) (p : BitVec 2)
  /-- LDG_ZB, R171: Loads a zero-extended byte per lane. -/
  | ldgZb (la : BitVec 4) (d a : Reg) (s : BitVec 5) (m : Bool) (p : BitVec 2)
  /-- LDG_SH, R171: Loads a sign-extended half per lane. -/
  | ldgSh (la : BitVec 4) (d a : Reg) (s : BitVec 5) (m : Bool) (p : BitVec 2)
  /-- LDG_ZH, R171: Loads a zero-extended half per lane. -/
  | ldgZh (la : BitVec 4) (d a : Reg) (s : BitVec 5) (m : Bool) (p : BitVec 2)
  /-- LDG_W, R171: Loads a word per lane. -/
  | ldgW (la : BitVec 4) (d a : Reg) (s : BitVec 5) (m : Bool) (p : BitVec 2)
  /-- LDG_D, R171: Loads a doubleword into a pair per lane. -/
  | ldgD (la : BitVec 4) (d a : Reg) (s : BitVec 5) (m : Bool) (p : BitVec 2)
  /-- LDG_Q, R171: Loads 16 bytes into a quad per lane. -/
  | ldgQ (la : BitVec 4) (d a : Reg) (s : BitVec 5) (m : Bool) (p : BitVec 2)
  /-- STG_B, R171: Stores a byte per lane. -/
  | stgB (la : BitVec 4) (d a : Reg) (s : BitVec 5) (m : Bool) (p : BitVec 2)
  /-- STG_H, R171: Stores a half per lane. -/
  | stgH (la : BitVec 4) (d a : Reg) (s : BitVec 5) (m : Bool) (p : BitVec 2)
  /-- STG_W, R171: Stores a word per lane. -/
  | stgW (la : BitVec 4) (d a : Reg) (s : BitVec 5) (m : Bool) (p : BitVec 2)
  /-- STG_D, R171: Stores a pair per lane. -/
  | stgD (la : BitVec 4) (d a : Reg) (s : BitVec 5) (m : Bool) (p : BitVec 2)
  /-- STG_Q, R171: Stores a quad per lane. -/
  | stgQ (la : BitVec 4) (d a : Reg) (s : BitVec 5) (m : Bool) (p : BitVec 2)
  /-- LDA_W, R172: Acquiring word load at a scope. -/
  | ldaW (la : BitVec 4) (d a : Reg) (s : BitVec 5) (m : Bool) (c : BitVec 2)
  /-- LDA_D, R172: Acquiring doubleword load at a scope. -/
  | ldaD (la : BitVec 4) (d a : Reg) (s : BitVec 5) (m : Bool) (c : BitVec 2)
  /-- STL_W, R172: Releasing word store at a scope. -/
  | stlW (la : BitVec 4) (d a : Reg) (s : BitVec 5) (m : Bool) (c : BitVec 2)
  /-- STL_D, R172: Releasing doubleword store at a scope. -/
  | stlD (la : BitVec 4) (d a : Reg) (s : BitVec 5) (m : Bool) (c : BitVec 2)
  /-- LDS_SB, R173: Stash load, sign-extended byte. -/
  | ldsSb (la : BitVec 4) (d a : Reg) (s : BitVec 5)
  /-- LDS_ZB, R173: Stash load, zero-extended byte. -/
  | ldsZb (la : BitVec 4) (d a : Reg) (s : BitVec 5)
  /-- LDS_SH, R173: Stash load, sign-extended half. -/
  | ldsSh (la : BitVec 4) (d a : Reg) (s : BitVec 5)
  /-- LDS_ZH, R173: Stash load, zero-extended half. -/
  | ldsZh (la : BitVec 4) (d a : Reg) (s : BitVec 5)
  /-- LDS_W, R173: Stash word load, with guard-granule handling. -/
  | ldsW (la : BitVec 4) (d a : Reg) (s : BitVec 5)
  /-- LDS_D, R173: Stash doubleword load. -/
  | ldsD (la : BitVec 4) (d a : Reg) (s : BitVec 5)
  /-- LDS_Q, R173: Stash 16-byte load. -/
  | ldsQ (la : BitVec 4) (d a : Reg) (s : BitVec 5)
  /-- STS_B, R173: Stash byte store. -/
  | stsB (la : BitVec 4) (d a : Reg) (s : BitVec 5)
  /-- STS_H, R173: Stash half store. -/
  | stsH (la : BitVec 4) (d a : Reg) (s : BitVec 5)
  /-- STS_W, R173: Stash word store. -/
  | stsW (la : BitVec 4) (d a : Reg) (s : BitVec 5)
  /-- STS_D, R173: Stash doubleword store. -/
  | stsD (la : BitVec 4) (d a : Reg) (s : BitVec 5)
  /-- STS_Q, R173: Stash 16-byte store. -/
  | stsQ (la : BitVec 4) (d a : Reg) (s : BitVec 5)
  /-- STGC, R178: Compress-store of the pass lanes' words from the lowest lane's base. -/
  | stgc (la : BitVec 4) (d a : Reg) (s : BitVec 5) (m : Bool) (p : BitVec 2)
  /-- PFG, R180: Prefetches each lane's line into L1; never faults. -/
  | pfg (la : BitVec 4) (a : Reg) (s : BitVec 5) (m : Bool) (p : BitVec 2)
  /-- ATOM_ADD, R186: Atomic add returning the old value. -/
  | atomAdd (la : BitVec 4) (d a : Reg) (c : BitVec 2)
  /-- ATOM_AND, R186: Atomic AND. -/
  | atomAnd (la : BitVec 4) (d a : Reg) (c : BitVec 2)
  /-- ATOM_OR, R186: Atomic OR. -/
  | atomOr (la : BitVec 4) (d a : Reg) (c : BitVec 2)
  /-- ATOM_XOR, R186: Atomic XOR. -/
  | atomXor (la : BitVec 4) (d a : Reg) (c : BitVec 2)
  /-- ATOM_MIN, R186: Atomic signed minimum. -/
  | atomMin (la : BitVec 4) (d a : Reg) (c : BitVec 2)
  /-- ATOM_MAX, R186: Atomic signed maximum. -/
  | atomMax (la : BitVec 4) (d a : Reg) (c : BitVec 2)
  /-- ATOM_UMIN, R186: Atomic unsigned minimum. -/
  | atomUmin (la : BitVec 4) (d a : Reg) (c : BitVec 2)
  /-- ATOM_UMAX, R186: Atomic unsigned maximum. -/
  | atomUmax (la : BitVec 4) (d a : Reg) (c : BitVec 2)
  /-- ATOM_XCHG, R186: Atomic exchange. -/
  | atomXchg (la : BitVec 4) (d a : Reg) (c : BitVec 2)
  /-- ATOM_CAS, R186: Atomic 32-bit compare-and-swap. -/
  | atomCas (la : BitVec 4) (d a : Reg) (c : BitVec 2)
  /-- ATOM_FADD, R186: Atomic FP32 add. -/
  | atomFadd (la : BitVec 4) (d a : Reg) (c : BitVec 2)
  /-- ATOM_FMIN, R186: Atomic FP32 minimum. -/
  | atomFmin (la : BitVec 4) (d a : Reg) (c : BitVec 2)
  /-- ATOM_FMAX, R186: Atomic FP32 maximum. -/
  | atomFmax (la : BitVec 4) (d a : Reg) (c : BitVec 2)
  /-- ATOM_ADD_D, R186: Atomic 64-bit add. -/
  | atomAddD (la : BitVec 4) (d a : Reg) (c : BitVec 2)
  /-- ATOM_XCHG_D, R186: Atomic 64-bit exchange. -/
  | atomXchgD (la : BitVec 4) (d a : Reg) (c : BitVec 2)
  /-- ATOM_CAS_D, R186: Atomic 64-bit compare-and-swap. -/
  | atomCasD (la : BitVec 4) (d a : Reg) (c : BitVec 2)
  /-- RED_ADD, R187: Reduction add, no return. -/
  | redAdd (la : BitVec 4) (d a : Reg) (c : BitVec 2)
  /-- RED_AND, R187: Reduction AND. -/
  | redAnd (la : BitVec 4) (d a : Reg) (c : BitVec 2)
  /-- RED_OR, R187: Reduction OR. -/
  | redOr (la : BitVec 4) (d a : Reg) (c : BitVec 2)
  /-- RED_XOR, R187: Reduction XOR. -/
  | redXor (la : BitVec 4) (d a : Reg) (c : BitVec 2)
  /-- RED_MIN, R187: Reduction signed minimum. -/
  | redMin (la : BitVec 4) (d a : Reg) (c : BitVec 2)
  /-- RED_MAX, R187: Reduction signed maximum. -/
  | redMax (la : BitVec 4) (d a : Reg) (c : BitVec 2)
  /-- RED_UMIN, R187: Reduction unsigned minimum. -/
  | redUmin (la : BitVec 4) (d a : Reg) (c : BitVec 2)
  /-- RED_UMAX, R187: Reduction unsigned maximum. -/
  | redUmax (la : BitVec 4) (d a : Reg) (c : BitVec 2)
  /-- RED_FADD, R187: Reduction FP32 add, rounded at each merge. -/
  | redFadd (la : BitVec 4) (d a : Reg) (c : BitVec 2)
  /-- RED_FMIN, R187: Reduction FP32 minimum. -/
  | redFmin (la : BitVec 4) (d a : Reg) (c : BitVec 2)
  /-- RED_FMAX, R187: Reduction FP32 maximum. -/
  | redFmax (la : BitVec 4) (d a : Reg) (c : BitVec 2)
  /-- RED_ADD_D, R187: Reduction 64-bit add. -/
  | redAddD (la : BitVec 4) (d a : Reg) (c : BitVec 2)
  /-- CPY_G2S, R181: Queues an asynchronous global-to-stash copy in the open batch. -/
  | cpyG2s (x y n : Reg) (p : BitVec 2)
  /-- CPY_S2G, R181: Queues a stash-to-global copy. -/
  | cpyS2g (x y n : Reg) (p : BitVec 2)
  /-- CPY_G2S_2D, R181: Queues a 2D global-to-stash copy. -/
  | cpyG2s2d (x y n : Reg) (p : BitVec 2)
  /-- CPY_S2G_2D, R181: Queues a 2D stash-to-global copy. -/
  | cpyS2g2d (x y n : Reg) (p : BitVec 2)
  /-- CPY_G2G, R181: Queues a global-to-global copy. -/
  | cpyG2g (x y n : Reg) (p : BitVec 2)
  /-- CBCLOSE, R185: Closes the open batch and returns its number. -/
  | cbclose (d : Reg)
  /-- CWAIT, R185: Blocks until every batch numbered s[a] or lower completes. -/
  | cwait (a : Reg)
  /-- CQRY, R185: Reads the highest fully completed batch number. -/
  | cqry (d : Reg)
  /-- SALLOC, R176: Allocates stash with guard granules. -/
  | salloc (d a : Reg)
  /-- SFREE, R176: Frees a SALLOC allocation. -/
  | sfree (a : Reg)
  /-- SMAP, R177: Maps a stash range onto global memory. -/
  | smap (a : Reg)
  /-- SUNMAP, R176: Writes back and removes a stash map. -/
  | sunmap (a : Reg)
  /-- SFLUSH, R176: Writes back the dirty lines of one or every map. -/
  | sflush (a : Reg)
  /-- FENCE_REL, R188: Holds later stores until earlier completion times pass. -/
  | fenceRel (c : BitVec 2)
  /-- FENCE_ACQ, R188: Acquire fence. -/
  | fenceAcq (c : BitVec 2)
  /-- FENCE_AR, R188: Acquire-release fence. -/
  | fenceAr (c : BitVec 2)
  /-- FENCE_SC, R188: Holds all later instructions until completion and settle times pass. -/
  | fenceSc (c : BitVec 2)
  /-- BAR_INIT, R190: Sets a barrier's mode and expected count. -/
  | barInit (k : BitVec 4) (b : Reg)
  /-- BAR_ARRIVE, R190: Arrives the pass lanes at a barrier and returns the phase. -/
  | barArrive (d : Reg) (k : BitVec 4)
  /-- BAR_WAIT, R190: Blocks until the barrier phase differs from a token. -/
  | barWait (k : BitVec 4) (b : Reg)
  /-- BAR_SYNC, R190: Arrives and waits at a barrier. -/
  | barSync (k : BitVec 4)
  /-- QINIT, R191: Initialises a stash queue ring. -/
  | qinit (k : BitVec 3) (b : Reg)
  /-- QPUSH, R191: Pushes the lanes' values, blocking for room. -/
  | qpush (k : BitVec 3) (b : Reg)
  /-- QPOP, R191: Pops entries into the lanes, blocking for entries. -/
  | qpop (d : Reg) (k : BitVec 3)
  /-- QTRY, R191: Non-blocking pop of up to n entries. -/
  | qtry (d : Reg) (k : BitVec 3) (b : Reg)
  /-- SIGWAIT, R192: Blocks until a memory word reaches a value. -/
  | sigwait (a b : Reg)
  /-- TXBEGIN, R194: Opens a transaction in each pass lane. -/
  | txbegin
  /-- TXEND, R196: Validates and commits lane transactions in lane order. -/
  | txend (d : Reg) (a : BitVec 3)
  /-- TXIRR, R197: Requests the irrevocable token. -/
  | txirr
  /-- TXIRE, R197: Releases the irrevocable token. -/
  | txire
  /-- TXABORT, R196: Dooms the pass lanes' transactions with code 9 + k. -/
  | txabort (b : Reg)
  /-- TXQRY, R196: Reads each lane's transaction status. -/
  | txqry (d : Reg)
  /-- MMA, R203: Accumulating matrix multiply into a tile. -/
  | mma (la : BitVec 4) (x y : BitVec 2) (q : BitVec 4) (c : BitVec 2) (a b : BitVec 3)
  /-- MMAZ, R203: Matrix multiply replacing the tile rows. -/
  | mmaz (la : BitVec 4) (x y : BitVec 2) (q : BitVec 4) (c : BitVec 2) (a b : BitVec 3)
  /-- MMAI, R203: Accumulating integer matrix multiply. -/
  | mmai (la : BitVec 4) (x y : BitVec 2) (q : BitVec 4) (c : BitVec 2) (a b : BitVec 3)
  /-- MMAIZ, R203: Integer matrix multiply replacing the tile rows. -/
  | mmaiz (la : BitVec 4) (x y : BitVec 2) (q : BitVec 4) (c : BitVec 2) (a b : BitVec 3)
  /-- MMAS, R206: Accumulating MMA with B from the stash. -/
  | mmas (la : BitVec 4) (x : BitVec 2) (s : Reg) (q : BitVec 4) (c : BitVec 2) (a b : BitVec 3)
  /-- MMASZ, R206: Replacing MMA with B from the stash. -/
  | mmasz (la : BitVec 4) (x : BitVec 2) (s : Reg) (q : BitVec 4) (c : BitVec 2) (a b : BitVec 3)
  /-- MACQ, R44: Queues the group for the core's matrix engine. -/
  | macq
  /-- MREL, R200: Waits for pending products, then passes ownership on. -/
  | mrel
  /-- MWAIT, R200: Blocks until earlier MMA-family instructions complete. -/
  | mwait
  /-- MZERO, R200: Zeroes a tile in engine issue order. -/
  | mzero (c : BitVec 2)
  /-- MLD, R208: Copies eight tile columns of each lane's row to registers. -/
  | mld (d : Reg) (c g : BitVec 2)
  /-- MST, R208: Writes eight tile columns of each lane's row from registers. -/
  | mst (d : Reg) (c g : BitVec 2)
  /-- IADD, R115: Writes a + b in each lane of the pass. -/
  | iadd (d a b : Reg)
  /-- IADD_VS, R115: IADD with a scalar b operand, per lane. -/
  | iaddVs (d a b : Reg)
  /-- IADD_S, R115: IADD on scalar registers, group-uniform. -/
  | iaddS (d a b : Reg)
  /-- ISUB, R115: Writes a − b in each lane. -/
  | isub (d a b : Reg)
  /-- ISUB_VS, R115: ISUB with a scalar b operand. -/
  | isubVs (d a b : Reg)
  /-- ISUB_S, R115: ISUB on scalar registers. -/
  | isubS (d a b : Reg)
  /-- IMUL, R115: Writes the low 32 bits of a × b. -/
  | imul (d a b : Reg)
  /-- IMUL_VS, R115: IMUL with a scalar b operand. -/
  | imulVs (d a b : Reg)
  /-- IMUL_S, R115: IMUL on scalar registers. -/
  | imulS (d a b : Reg)
  /-- IMULHI, R115: Writes the high 32 bits of the signed product. -/
  | imulhi (d a b : Reg)
  /-- IMULHI_VS, R115: IMULHI with a scalar b operand. -/
  | imulhiVs (d a b : Reg)
  /-- IMULHI_S, R115: IMULHI on scalar registers. -/
  | imulhiS (d a b : Reg)
  /-- UMULHI, R115: Writes the high 32 bits of the unsigned product. -/
  | umulhi (d a b : Reg)
  /-- UMULHI_VS, R115: UMULHI with a scalar b operand. -/
  | umulhiVs (d a b : Reg)
  /-- UMULHI_S, R115: UMULHI on scalar registers. -/
  | umulhiS (d a b : Reg)
  /-- IMIN, R115: Writes the signed minimum. -/
  | imin (d a b : Reg)
  /-- IMIN_VS, R115: IMIN with a scalar b operand. -/
  | iminVs (d a b : Reg)
  /-- IMIN_S, R115: IMIN on scalar registers. -/
  | iminS (d a b : Reg)
  /-- IMAX, R115: Writes the signed maximum. -/
  | imax (d a b : Reg)
  /-- IMAX_VS, R115: IMAX with a scalar b operand. -/
  | imaxVs (d a b : Reg)
  /-- IMAX_S, R115: IMAX on scalar registers. -/
  | imaxS (d a b : Reg)
  /-- UMIN, R115: Writes the unsigned minimum. -/
  | umin (d a b : Reg)
  /-- UMIN_VS, R115: UMIN with a scalar b operand. -/
  | uminVs (d a b : Reg)
  /-- UMIN_S, R115: UMIN on scalar registers. -/
  | uminS (d a b : Reg)
  /-- UMAX, R115: Writes the unsigned maximum. -/
  | umax (d a b : Reg)
  /-- UMAX_VS, R115: UMAX with a scalar b operand. -/
  | umaxVs (d a b : Reg)
  /-- UMAX_S, R115: UMAX on scalar registers. -/
  | umaxS (d a b : Reg)
  /-- AND, R115: Writes a & b. -/
  | and (d a b : Reg)
  /-- AND_VS, R115: AND with a scalar b operand. -/
  | andVs (d a b : Reg)
  /-- AND_S, R115: AND on scalar registers. -/
  | andS (d a b : Reg)
  /-- OR, R115: Writes a | b. -/
  | or (d a b : Reg)
  /-- OR_VS, R115: OR with a scalar b operand. -/
  | orVs (d a b : Reg)
  /-- OR_S, R115: OR on scalar registers. -/
  | orS (d a b : Reg)
  /-- XOR, R115: Writes a ^ b. -/
  | xor (d a b : Reg)
  /-- XOR_VS, R115: XOR with a scalar b operand. -/
  | xorVs (d a b : Reg)
  /-- XOR_S, R115: XOR on scalar registers. -/
  | xorS (d a b : Reg)
  /-- ANDN, R115: Writes a & ~b. -/
  | andn (d a b : Reg)
  /-- ANDN_VS, R115: ANDN with a scalar b operand. -/
  | andnVs (d a b : Reg)
  /-- ANDN_S, R115: ANDN on scalar registers. -/
  | andnS (d a b : Reg)
  /-- SHL, R115: Shifts a left by b bits 4:0. -/
  | shl (d a b : Reg)
  /-- SHL_VS, R115: SHL with a scalar count. -/
  | shlVs (d a b : Reg)
  /-- SHL_S, R115: SHL on scalar registers. -/
  | shlS (d a b : Reg)
  /-- SHR, R115: Logical right shift. -/
  | shr (d a b : Reg)
  /-- SHR_VS, R115: SHR with a scalar count. -/
  | shrVs (d a b : Reg)
  /-- SHR_S, R115: SHR on scalar registers. -/
  | shrS (d a b : Reg)
  /-- SAR, R115: Arithmetic right shift. -/
  | sar (d a b : Reg)
  /-- SAR_VS, R115: SAR with a scalar count. -/
  | sarVs (d a b : Reg)
  /-- SAR_S, R115: SAR on scalar registers. -/
  | sarS (d a b : Reg)
  /-- ROL, R115: Rotates a left by b bits 4:0. -/
  | rol (d a b : Reg)
  /-- ROL_VS, R115: ROL with a scalar count. -/
  | rolVs (d a b : Reg)
  /-- ROL_S, R115: ROL on scalar registers. -/
  | rolS (d a b : Reg)
  /-- IABSD, R115: Writes the unsigned absolute signed difference. -/
  | iabsd (d a b : Reg)
  /-- IABSD_VS, R115: IABSD with a scalar b operand. -/
  | iabsdVs (d a b : Reg)
  /-- IABSD_S, R115: IABSD on scalar registers. -/
  | iabsdS (d a b : Reg)
  /-- IADDS, R115: Signed saturating add. -/
  | iadds (d a b : Reg)
  /-- IADDS_VS, R115: IADDS with a scalar b operand. -/
  | iaddsVs (d a b : Reg)
  /-- IADDS_S, R115: IADDS on scalar registers. -/
  | iaddsS (d a b : Reg)
  /-- ISUBS, R115: Signed saturating subtract. -/
  | isubs (d a b : Reg)
  /-- ISUBS_VS, R115: ISUBS with a scalar b operand. -/
  | isubsVs (d a b : Reg)
  /-- ISUBS_S, R115: ISUBS on scalar registers. -/
  | isubsS (d a b : Reg)
  /-- UADDS, R115: Unsigned saturating add. -/
  | uadds (d a b : Reg)
  /-- UADDS_VS, R115: UADDS with a scalar b operand. -/
  | uaddsVs (d a b : Reg)
  /-- UADDS_S, R115: UADDS on scalar registers. -/
  | uaddsS (d a b : Reg)
  /-- USUBS, R115: Unsigned saturating subtract. -/
  | usubs (d a b : Reg)
  /-- USUBS_VS, R115: USUBS with a scalar b operand. -/
  | usubsVs (d a b : Reg)
  /-- USUBS_S, R115: USUBS on scalar registers. -/
  | usubsS (d a b : Reg)
  /-- POPC, R115: Writes the number of 1 bits of a. -/
  | popc (d a : Reg)
  /-- POPC_VS, R115: POPC in the scalar-b major. -/
  | popcVs (d a : Reg)
  /-- POPC_S, R115: POPC on a scalar register. -/
  | popcS (d a : Reg)
  /-- CLZ, R115: Counts leading zero bits of a. -/
  | clz (d a : Reg)
  /-- CLZ_VS, R115: CLZ in the scalar-b major. -/
  | clzVs (d a : Reg)
  /-- CLZ_S, R115: CLZ on a scalar register. -/
  | clzS (d a : Reg)
  /-- BREV, R115: Reverses the bits of a. -/
  | brev (d a : Reg)
  /-- BREV_VS, R115: BREV in the scalar-b major. -/
  | brevVs (d a : Reg)
  /-- BREV_S, R115: BREV on a scalar register. -/
  | brevS (d a : Reg)
  /-- BFE, R115: Extracts a sign-extended bit field of a. -/
  | bfe (d a b : Reg)
  /-- BFE_VS, R115: BFE with a scalar field descriptor. -/
  | bfeVs (d a b : Reg)
  /-- BFE_S, R115: BFE on scalar registers. -/
  | bfeS (d a b : Reg)
  /-- UBFE, R115: Extracts a zero-extended bit field of a. -/
  | ubfe (d a b : Reg)
  /-- UBFE_VS, R115: UBFE with a scalar field descriptor. -/
  | ubfeVs (d a b : Reg)
  /-- UBFE_S, R115: UBFE on scalar registers. -/
  | ubfeS (d a b : Reg)
  /-- MOV, R115: Copies vector b to d. -/
  | mov (d b : Reg)
  /-- MOV_VS, R115: Copies scalar b into vector d in each lane. -/
  | movVs (d b : Reg)
  /-- MOV_S, R115: Copies scalar b to scalar d. -/
  | movS (d b : Reg)
  /-- ISET_LT, R115: Writes 1 when signed a < b, else 0. -/
  | isetLt (d a b : Reg)
  /-- ISET_LT_VS, R115: ISET.LT with a scalar b operand. -/
  | isetLtVs (d a b : Reg)
  /-- ISET_LT_S, R115: ISET.LT on scalar registers. -/
  | isetLtS (d a b : Reg)
  /-- ISET_LE, R115: Writes 1 when signed a ≤ b, else 0. -/
  | isetLe (d a b : Reg)
  /-- ISET_LE_VS, R115: ISET.LE with a scalar b operand. -/
  | isetLeVs (d a b : Reg)
  /-- ISET_LE_S, R115: ISET.LE on scalar registers. -/
  | isetLeS (d a b : Reg)
  /-- ISET_EQ, R115: Writes 1 when a = b, else 0. -/
  | isetEq (d a b : Reg)
  /-- ISET_EQ_VS, R115: ISET.EQ with a scalar b operand. -/
  | isetEqVs (d a b : Reg)
  /-- ISET_EQ_S, R115: ISET.EQ on scalar registers. -/
  | isetEqS (d a b : Reg)
  /-- ISET_NE, R115: Writes 1 when a ≠ b, else 0. -/
  | isetNe (d a b : Reg)
  /-- ISET_NE_VS, R115: ISET.NE with a scalar b operand. -/
  | isetNeVs (d a b : Reg)
  /-- ISET_NE_S, R115: ISET.NE on scalar registers. -/
  | isetNeS (d a b : Reg)
  /-- USET_LT, R115: Writes 1 when unsigned a < b, else 0. -/
  | usetLt (d a b : Reg)
  /-- USET_LT_VS, R115: USET.LT with a scalar b operand. -/
  | usetLtVs (d a b : Reg)
  /-- USET_LT_S, R115: USET.LT on scalar registers. -/
  | usetLtS (d a b : Reg)
  /-- USET_LE, R115: Writes 1 when unsigned a ≤ b, else 0. -/
  | usetLe (d a b : Reg)
  /-- USET_LE_VS, R115: USET.LE with a scalar b operand. -/
  | usetLeVs (d a b : Reg)
  /-- USET_LE_S, R115: USET.LE on scalar registers. -/
  | usetLeS (d a b : Reg)
  /-- MOV_16, R95: 16-bit MOV: writes vs to vd. -/
  | mov16 (d : Reg) (s : BitVec 5)
  /-- NOP_16, R95: 16-bit no-operation word 0x0000. -/
  | nop16
  /-- IADD_16, R95: 16-bit two-address IADD. -/
  | iadd16 (d : Reg) (s : BitVec 5)
  /-- ISUB_16, R95: 16-bit two-address ISUB. -/
  | isub16 (d : Reg) (s : BitVec 5)
  /-- IMUL_16, R95: 16-bit two-address IMUL. -/
  | imul16 (d : Reg) (s : BitVec 5)
  /-- AND_16, R95: 16-bit two-address AND. -/
  | and16 (d : Reg) (s : BitVec 5)
  /-- OR_16, R95: 16-bit two-address OR. -/
  | or16 (d : Reg) (s : BitVec 5)
  /-- XOR_16, R95: 16-bit two-address XOR. -/
  | xor16 (d : Reg) (s : BitVec 5)
  /-- SHL_16, R95: 16-bit two-address SHL. -/
  | shl16 (d : Reg) (s : BitVec 5)
  /-- SHR_16, R95: 16-bit two-address SHR. -/
  | shr16 (d : Reg) (s : BitVec 5)
  /-- SAR_16, R95: 16-bit two-address SAR. -/
  | sar16 (d : Reg) (s : BitVec 5)
  /-- FADD_16, R95: 16-bit two-address FADD. -/
  | fadd16 (d : Reg) (s : BitVec 5)
  /-- FSUB_16, R95: 16-bit two-address FSUB. -/
  | fsub16 (d : Reg) (s : BitVec 5)
  /-- FMUL_16, R95: 16-bit two-address FMUL. -/
  | fmul16 (d : Reg) (s : BitVec 5)
  /-- FMIN_16, R95: 16-bit two-address FMIN. -/
  | fmin16 (d : Reg) (s : BitVec 5)
  /-- FMAX_16, R95: 16-bit two-address FMAX. -/
  | fmax16 (d : Reg) (s : BitVec 5)
  /-- IADD_I5, R95: 16-bit add of a signed 5-bit immediate to vd. -/
  | iaddI5 (d : Reg) (i : BitVec 5)
  /-- IADD_D, R118: 64-bit add of vector pairs. -/
  | iaddD (d a b : Reg)
  /-- IADD_D_S, R118: 64-bit add of scalar pairs. -/
  | iaddDS (d a b : Reg)
  /-- ISUB_D, R118: 64-bit subtract of vector pairs. -/
  | isubD (d a b : Reg)
  /-- ISUB_D_S, R118: 64-bit subtract of scalar pairs. -/
  | isubDS (d a b : Reg)
  /-- SHL_D, R118: 64-bit left shift of a vector pair. -/
  | shlD (d a b : Reg)
  /-- SHL_D_S, R118: 64-bit left shift of a scalar pair. -/
  | shlDS (d a b : Reg)
  /-- SHR_D, R118: 64-bit logical right shift of a vector pair. -/
  | shrD (d a b : Reg)
  /-- SHR_D_S, R118: 64-bit logical right shift of a scalar pair. -/
  | shrDS (d a b : Reg)
  /-- SAR_D, R118: 64-bit arithmetic right shift of a vector pair. -/
  | sarD (d a b : Reg)
  /-- SAR_D_S, R118: 64-bit arithmetic right shift of a scalar pair. -/
  | sarDS (d a b : Reg)
  /-- IMULW, R118: Full 64-bit signed product into a vector pair. -/
  | imulw (d a b : Reg)
  /-- IMULW_S, R118: Full 64-bit signed product into a scalar pair. -/
  | imulwS (d a b : Reg)
  /-- UMULW, R118: Full 64-bit unsigned product into a vector pair. -/
  | umulw (d a b : Reg)
  /-- UMULW_S, R118: Full 64-bit unsigned product into a scalar pair. -/
  | umulwS (d a b : Reg)
  /-- IADDW, R118: Adds a sign-extended word to a vector pair. -/
  | iaddw (d a b : Reg)
  /-- IADDW_S, R118: Adds a sign-extended word to a scalar pair. -/
  | iaddwS (d a b : Reg)
  /-- UADDW, R118: Adds a zero-extended word to a vector pair. -/
  | uaddw (d a b : Reg)
  /-- UADDW_S, R118: Adds a zero-extended word to a scalar pair. -/
  | uaddwS (d a b : Reg)
  /-- IADDI, R116: Adds a sign-extended imm12 per lane. -/
  | iaddi (d a : Reg) (i : BitVec 12)
  /-- ANDI, R116: ANDs a sign-extended imm12 per lane. -/
  | andi (d a : Reg) (i : BitVec 12)
  /-- ORI, R116: ORs a sign-extended imm12 per lane. -/
  | ori (d a : Reg) (i : BitVec 12)
  /-- XORI, R116: XORs a sign-extended imm12 per lane. -/
  | xori (d a : Reg) (i : BitVec 12)
  /-- SHLI, R116: Shifts left by an immediate count. -/
  | shli (d a : Reg) (i : BitVec 5)
  /-- SHRI, R116: Logical right shift by an immediate count. -/
  | shri (d a : Reg) (i : BitVec 5)
  /-- SARI, R116: Arithmetic right shift by an immediate count. -/
  | sari (d a : Reg) (i : BitVec 5)
  /-- IADDI_S, R116: Scalar add of a sign-extended imm12. -/
  | iaddiS (d a : Reg) (i : BitVec 12)
  /-- ANDI_S, R116: Scalar AND with a sign-extended imm12. -/
  | andiS (d a : Reg) (i : BitVec 12)
  /-- ORI_S, R116: Scalar OR with a sign-extended imm12. -/
  | oriS (d a : Reg) (i : BitVec 12)
  /-- XORI_S, R116: Scalar XOR with a sign-extended imm12. -/
  | xoriS (d a : Reg) (i : BitVec 12)
  /-- SHLI_S, R116: Scalar left shift by an immediate. -/
  | shliS (d a : Reg) (i : BitVec 5)
  /-- SHRI_S, R116: Scalar logical right shift by an immediate. -/
  | shriS (d a : Reg) (i : BitVec 5)
  /-- SARI_S, R116: Scalar arithmetic right shift by an immediate. -/
  | sariS (d a : Reg) (i : BitVec 5)
  /-- MOVK, R117: Writes a sign-extended imm18 to a vector register. -/
  | movk (d : Reg) (k : BitVec 18)
  /-- MOVKH, R117: Replaces bits 31:14 of a vector register with imm18. -/
  | movkh (d : Reg) (k : BitVec 18)
  /-- MOVK_S, R117: Writes a sign-extended imm18 to a scalar register. -/
  | movkS (d : Reg) (k : BitVec 18)
  /-- MOVKH_S, R117: Replaces bits 31:14 of a scalar register with imm18. -/
  | movkhS (d : Reg) (k : BitVec 18)
  /-- IMAD, R119: Writes low 32 bits of a × b + c per lane. -/
  | imad (d a b c : Reg)
  /-- IMAD_S, R119: Scalar multiply-add. -/
  | imadS (d a b c : Reg)
  /-- BFI, R120: Inserts a field of b into a at the position from c. -/
  | bfi (d a b c : Reg)
  /-- SEL, R121: Selects a or b per lane by a predicate. -/
  | sel (d a b : Reg) (p : BitVec 3) (g : Bool)
  /-- SSEL, R121: Selects scalar a or b by scalar c non-zero. -/
  | ssel (d a b c : Reg)
  /-- FADD, R150: FP32 add rounded to nearest even. -/
  | fadd (d a b : Reg)
  /-- FADD_VS, R150: FADD with a scalar b. -/
  | faddVs (d a b : Reg)
  /-- FADD_RZ, R150: FP32 add rounded toward zero. -/
  | faddRz (d a b : Reg)
  /-- FADD_RZ_VS, R150: FADD.RZ with a scalar b. -/
  | faddRzVs (d a b : Reg)
  /-- FADD_RD, R150: FP32 add rounded down. -/
  | faddRd (d a b : Reg)
  /-- FADD_RD_VS, R150: FADD.RD with a scalar b. -/
  | faddRdVs (d a b : Reg)
  /-- FADD_RU, R150: FP32 add rounded up. -/
  | faddRu (d a b : Reg)
  /-- FADD_RU_VS, R150: FADD.RU with a scalar b. -/
  | faddRuVs (d a b : Reg)
  /-- FSUB, R150: FP32 subtract, RNE. -/
  | fsub (d a b : Reg)
  /-- FSUB_VS, R150: FSUB with a scalar b. -/
  | fsubVs (d a b : Reg)
  /-- FMUL, R150: FP32 multiply, RNE. -/
  | fmul (d a b : Reg)
  /-- FMUL_VS, R150: FMUL with a scalar b. -/
  | fmulVs (d a b : Reg)
  /-- FMUL_RZ, R150: FP32 multiply toward zero. -/
  | fmulRz (d a b : Reg)
  /-- FMUL_RZ_VS, R150: FMUL.RZ with a scalar b. -/
  | fmulRzVs (d a b : Reg)
  /-- FMUL_RD, R150: FP32 multiply rounded down. -/
  | fmulRd (d a b : Reg)
  /-- FMUL_RD_VS, R150: FMUL.RD with a scalar b. -/
  | fmulRdVs (d a b : Reg)
  /-- FMUL_RU, R150: FP32 multiply rounded up. -/
  | fmulRu (d a b : Reg)
  /-- FMUL_RU_VS, R150: FMUL.RU with a scalar b. -/
  | fmulRuVs (d a b : Reg)
  /-- FMIN, R151: IEEE minimum; any NaN gives the canonical NaN. -/
  | fmin (d a b : Reg)
  /-- FMIN_VS, R151: FMIN with a scalar b. -/
  | fminVs (d a b : Reg)
  /-- FMAX, R151: IEEE maximum; any NaN gives the canonical NaN. -/
  | fmax (d a b : Reg)
  /-- FMAX_VS, R151: FMAX with a scalar b. -/
  | fmaxVs (d a b : Reg)
  /-- FMINNUM, R151: minimumNumber: one NaN returns the other operand. -/
  | fminnum (d a b : Reg)
  /-- FMINNUM_VS, R151: FMINNUM with a scalar b. -/
  | fminnumVs (d a b : Reg)
  /-- FMAXNUM, R151: maximumNumber: one NaN returns the other operand. -/
  | fmaxnum (d a b : Reg)
  /-- FMAXNUM_VS, R151: FMAXNUM with a scalar b. -/
  | fmaxnumVs (d a b : Reg)
  /-- FABS, R150: Clears the sign bit; NaN becomes canonical. -/
  | fabs (d a : Reg)
  /-- FABS_VS, R150: FABS in the scalar-b major. -/
  | fabsVs (d a : Reg)
  /-- FNEG, R150: Inverts the sign bit; NaN becomes canonical. -/
  | fneg (d a : Reg)
  /-- FNEG_VS, R150: FNEG in the scalar-b major. -/
  | fnegVs (d a : Reg)
  /-- FCOPYSIGN, R150: Gives a the sign bit of b. -/
  | fcopysign (d a b : Reg)
  /-- FCOPYSIGN_VS, R150: FCOPYSIGN with a scalar b. -/
  | fcopysignVs (d a b : Reg)
  /-- FFLOOR, R150: Rounds down to an integer value. -/
  | ffloor (d a : Reg)
  /-- FFLOOR_VS, R150: FFLOOR in the scalar-b major. -/
  | ffloorVs (d a : Reg)
  /-- FCEIL, R150: Rounds up to an integer value. -/
  | fceil (d a : Reg)
  /-- FCEIL_VS, R150: FCEIL in the scalar-b major. -/
  | fceilVs (d a : Reg)
  /-- FTRUNC, R150: Rounds toward zero to an integer value. -/
  | ftrunc (d a : Reg)
  /-- FTRUNC_VS, R150: FTRUNC in the scalar-b major. -/
  | ftruncVs (d a : Reg)
  /-- FRINT, R150: Rounds to the nearest integer value, ties to even. -/
  | frint (d a : Reg)
  /-- FRINT_VS, R150: FRINT in the scalar-b major. -/
  | frintVs (d a : Reg)
  /-- FCLAMP01, R150: Clamps to +0.0 .. 1.0. -/
  | fclamp01 (d a : Reg)
  /-- FCLAMP01_VS, R150: FCLAMP01 in the scalar-b major. -/
  | fclamp01Vs (d a : Reg)
  /-- FFMA, R152: Fused a × b + c, rounded once RNE. -/
  | ffma (d a b c : Reg)
  /-- FFMS, R152: Fused a × b − c, RNE. -/
  | ffms (d a b c : Reg)
  /-- FFNMA, R152: Fused −(a × b) + c, RNE. -/
  | ffnma (d a b c : Reg)
  /-- FFMA_RZ, R152: Fused multiply-add toward zero. -/
  | ffmaRz (d a b c : Reg)
  /-- FFMA_RD, R152: Fused multiply-add rounded down. -/
  | ffmaRd (d a b c : Reg)
  /-- FFMA_RU, R152: Fused multiply-add rounded up. -/
  | ffmaRu (d a b c : Reg)
  /-- CMP, R122: Sets predicate pd per lane to a REL b under the type. -/
  | cmp (p : BitVec 3) (a b : Reg) (r t : BitVec 3)
  /-- CMP_VS, R122: CMP against a scalar b. -/
  | cmpVs (p : BitVec 3) (a b : Reg) (r t : BitVec 3)
  /-- CMPI, R123: Compares a with a sign-extended imm12 into a predicate. -/
  | cmpi (p r : BitVec 3) (a : Reg) (i : BitVec 12)
  /-- PAND, R124: Predicate AND. -/
  | pand (d a b : BitVec 3)
  /-- POR, R124: Predicate OR. -/
  | por (d a b : BitVec 3)
  /-- PXOR, R124: Predicate XOR. -/
  | pxor (d a b : BitVec 3)
  /-- PANDN, R124: Predicate AND-NOT. -/
  | pandn (d a b : BitVec 3)
  /-- PNOT, R124: Predicate NOT. -/
  | pnot (d a : BitVec 3)
  /-- PSET_PRED, R124: Sets a predicate in each lane of the pass. -/
  | psetPred (d : BitVec 3)
  /-- PCLR, R124: Clears a predicate in each lane of the pass. -/
  | pclr (d : BitVec 3)
  /-- BALLOT, R125: Writes the predicate bits of the mask lanes to a scalar. -/
  | ballot (d : Reg) (a : BitVec 3)
  /-- PFROM, R124: Sets a predicate where the vector register is non-zero. -/
  | pfrom (d : BitVec 3) (a : Reg)
  /-- PTOV, R124: Writes 1 or 0 per lane from a predicate. -/
  | ptov (d : Reg) (a : BitVec 3)
  /-- VANY, R125: Scalar 1 when the predicate is set in some mask lane. -/
  | vany (d : Reg) (a : BitVec 3)
  /-- VALL, R125: Scalar 1 when the predicate is set in every mask lane. -/
  | vall (d : Reg) (a : BitVec 3)
  /-- MASK, R125: Writes the mask to a scalar. -/
  | mask (d : Reg)
  /-- PLOAD, R124: Loads a predicate from the bits of a scalar. -/
  | pload (d : BitVec 3) (a : Reg)
  /-- HADD2, R153: Packed FP16 add. -/
  | hadd2 (d a b : Reg)
  /-- HSUB2, R153: Packed FP16 subtract. -/
  | hsub2 (d a b : Reg)
  /-- HMUL2, R153: Packed FP16 multiply. -/
  | hmul2 (d a b : Reg)
  /-- HMIN2, R153: Packed FP16 minimum. -/
  | hmin2 (d a b : Reg)
  /-- HMAX2, R153: Packed FP16 maximum. -/
  | hmax2 (d a b : Reg)
  /-- BADD2, R153: Packed BF16 add. -/
  | badd2 (d a b : Reg)
  /-- BSUB2, R153: Packed BF16 subtract. -/
  | bsub2 (d a b : Reg)
  /-- BMUL2, R153: Packed BF16 multiply. -/
  | bmul2 (d a b : Reg)
  /-- BMIN2, R153: Packed BF16 minimum. -/
  | bmin2 (d a b : Reg)
  /-- BMAX2, R153: Packed BF16 maximum. -/
  | bmax2 (d a b : Reg)
  /-- HFMA2, R154: Packed FP16 fused multiply-add. -/
  | hfma2 (d a b c : Reg)
  /-- BFMA2, R154: Packed BF16 fused multiply-add. -/
  | bfma2 (d a b c : Reg)
  /-- I2F, R157: Signed integer to FP32. -/
  | i2f (d a : Reg)
  /-- U2F, R157: Unsigned integer to FP32. -/
  | u2f (d a : Reg)
  /-- F2I, R157: FP32 to saturated signed integer, toward zero. -/
  | f2i (d a : Reg)
  /-- F2U, R157: FP32 to saturated unsigned integer, toward zero. -/
  | f2u (d a : Reg)
  /-- F2IN, R157: FP32 to saturated signed integer, nearest even. -/
  | f2in (d a : Reg)
  /-- F2UN, R157: FP32 to saturated unsigned integer, nearest even. -/
  | f2un (d a : Reg)
  /-- PKH, R157: Packs two FP32 values to FP16 halves. -/
  | pkh (d a b : Reg)
  /-- PKB, R157: Packs two FP32 values to BF16 halves. -/
  | pkb (d a b : Reg)
  /-- UPH_LO, R157: Unpacks the low FP16 half to FP32. -/
  | uphLo (d a : Reg)
  /-- UPH_HI, R157: Unpacks the high FP16 half to FP32. -/
  | uphHi (d a : Reg)
  /-- UPB_LO, R157: Unpacks the low BF16 half to FP32. -/
  | upbLo (d a : Reg)
  /-- UPB_HI, R157: Unpacks the high BF16 half to FP32. -/
  | upbHi (d a : Reg)
  /-- F2F19, R157: Rounds FP32 to FP19 with bits 12:0 zero. -/
  | f2f19 (d a : Reg)
  /-- FPACK, R159: Packs n FP32 registers into one word in the slot's format. -/
  | fpack (d a : Reg) (f : BitVec 3)
  /-- FPACK_SR, R160: FPACK with stochastic rounding from random words. -/
  | fpackSr (d a b : Reg) (f : BitVec 3)
  /-- FUNPK, R161: Unpacks element k of a packed word. -/
  | funpk (d a : Reg) (k : BitVec 6) (f : BitVec 3)
  /-- DOT4_SS, R162: Accumulates a 4 × 8-bit signed dot product. -/
  | dot4Ss (d a b : Reg)
  /-- DOT4_UU, R162: 4 × 8-bit unsigned dot product. -/
  | dot4Uu (d a b : Reg)
  /-- DOT4_SU, R162: 4 × 8-bit signed-by-unsigned dot product. -/
  | dot4Su (d a b : Reg)
  /-- DOT8_SS, R162: 8 × 4-bit signed dot product. -/
  | dot8Ss (d a b : Reg)
  /-- DOT8_UU, R162: 8 × 4-bit unsigned dot product. -/
  | dot8Uu (d a b : Reg)
  /-- DOT8_SU, R162: 8 × 4-bit signed-by-unsigned dot product. -/
  | dot8Su (d a b : Reg)
  /-- DOT16_SS, R162: 16 × 2-bit signed dot product. -/
  | dot16Ss (d a b : Reg)
  /-- DOT2_SS, R162: 2 × 16-bit signed dot product. -/
  | dot2Ss (d a b : Reg)
  /-- FDOT, R163: Exact float dot product of slot-format elements added to d. -/
  | fdot (d a b : Reg) (f : BitVec 3)
  /-- SHFL_IDX, R164: Reads a from the lane indexed by b. -/
  | shflIdx (d a b : Reg)
  /-- SHFL_UP, R164: Reads a from lane L − k. -/
  | shflUp (d a b : Reg)
  /-- SHFL_DN, R164: Reads a from lane L + k. -/
  | shflDn (d a b : Reg)
  /-- SHFL_XOR, R164: Reads a from lane L XOR k. -/
  | shflXor (d a b : Reg)
  /-- RDLANE, R164: Broadcasts a from one lane to the pass. -/
  | rdlane (d a b : Reg)
  /-- WRLANE, R164: Writes the lowest lane's a into one target lane. -/
  | wrlane (d a b : Reg)
  /-- REDUX_ADD, R164: Integer sum over the pass. -/
  | reduxAdd (d a : Reg)
  /-- REDUX_MIN, R164: Signed minimum over the pass. -/
  | reduxMin (d a : Reg)
  /-- REDUX_MAX, R164: Signed maximum over the pass. -/
  | reduxMax (d a : Reg)
  /-- REDUX_FADD, R164: Exact FP32 sum over the pass, rounded once. -/
  | reduxFadd (d a : Reg)
  /-- SCANX_ADD, R164: Exclusive prefix sum over the pass. -/
  | scanxAdd (d a : Reg)
  /-- IF, R27: Opens a structured IF, updating depth counters and jumping when no lane stays active. -/
  | ifP (p : BitVec 3) (g : Bool) (off : BitVec 16)
  /-- ELSE, R27: Swaps the IF lanes' activity; jumps to ENDIF when none active. -/
  | elseP (off : BitVec 20)
  /-- ENDIF, R27: Decrements non-zero depth counters and falls through. -/
  | endif
  /-- LOOP, R28: Opens a loop; jumps to ENDLOOP when no lane is active. -/
  | loop (off : BitVec 20)
  /-- ENDLOOP, R28: Jumps back while a lane is active, else decrements counters and falls through. -/
  | endloop (off : BitVec 20)
  /-- BRK, R28: Counted break: deactivates predicate lanes n+1 levels. -/
  | brk (p : BitVec 3) (g : Bool) (n : BitVec 4) (off : BitVec 16)
  /-- BRA, R128: Branches the lanes whose predicate holds, dividing the split. -/
  | bra (p : BitVec 3) (g : Bool) (off : BitVec 16)
  /-- JMP, R130: Moves every non-exited lane of the split to the target. -/
  | jmp (off : BitVec 20)
  /-- BSC, R130: Moves the whole split when the scalar condition holds. -/
  | bsc (s : Reg) (r : BitVec 2) (off : BitVec 16)
  /-- CALL, R131: Writes s63 = offset + 4 and jumps. -/
  | call (off : BitVec 20)
  /-- CALLI, R129: Per-lane indirect call; writes s63 once. -/
  | calli (a : Reg)
  /-- RET, R131: Moves the split to the scalar address. -/
  | ret (a : Reg)
  /-- BRX, R129: Per-lane indirect branch, dividing by outcome. -/
  | brx (a : Reg)
  /-- JOIN, R23: Parks the split until no runnable split remains, then merges parked splits. -/
  | join
  /-- EXIT, R134: Exits the pass lanes; may end the group and block. -/
  | exit
  /-- EXITC, R135: EXIT that records the block's successor launch record. -/
  | exitc (a : Reg)
  /-- SAFE, R136: Safe point n: transfers the split to the armed version when allowed. -/
  | safe (n : BitVec 12)
  /-- PSET, R137: Sets the pass lanes' plane from the next offset. -/
  | pset (k : BitVec 2)
  /-- PSEL, R137: Sets the plane of lanes whose predicate holds. -/
  | psel (g : Bool) (p : BitVec 3) (k : BitVec 2)
  /-- PMOV, R137: Sets each lane's plane from a register. -/
  | pmov (a : Reg)
  /-- PGET, R137: Reads each lane's plane into a register. -/
  | pget (d : Reg)
  /-- XFER, R138: Arms the group for a version transfer. -/
  | xfer (a : Reg)
  /-- XQRY, R138: Reads the group's armed version. -/
  | xqry (d : Reg)
  /-- XCLR, R138: Clears the group's arm. -/
  | xclr
  /-- VERSION, R138: Reads the issuing split's version index. -/
  | version (d : Reg)
  /-- NOP, R139: 32-bit no-operation, a drain point. -/
  | nop
  /-- YIELD, R140: Lets the other ready splits of the quad issue first. -/
  | yield
  /-- SREAD, R141: Reads a special register by code. -/
  | sread (d a b : Reg)
  /-- SWRITE, R141: Writes the core's CCLK counter half from a scalar. -/
  | swrite (d a b : Reg)
  /-- TRAP, R142: Stops the split with cause TRAP after its offset. -/
  | trap (a b : Reg)
  /-- BRKPT, R142: Stops the split with cause BRKPT after its offset. -/
  | brkpt
  /-- DBLS, R45: Toggles the group's double-stroke mode. -/
  | dbls
  /-- STAMP_OPEN, R143: Opens the group's stamp record with a tag. -/
  | stampOpen (a : Reg)
  /-- STAMP_CLOSE, R143: Closes the stamp record and writes it to the trace ring. -/
  | stampClose
  /-- DBGWAIT, R145: Takes the oldest stub record into the stash and selects its split. -/
  | dbgwait (d a : Reg)
  /-- DBGRD, R146: Reads state of the selected split. -/
  | dbgrd (d a : Reg)
  /-- DBGWR, R146: Writes state of the selected split. -/
  | dbgwr (a b : Reg)
  /-- DBGCTL_RESUME, R147: DBGCTL command 0: resumes the selected split. -/
  | dbgctlResume (d a : Reg)
  /-- DBGCTL_STEP, R365: DBGCTL command 1: lets the selected split issue one offset. -/
  | dbgctlStep (d a : Reg)
  /-- DBGCTL_HALT, R147: DBGCTL command 2: stops every split of the selected split's group. -/
  | dbgctlHalt (d a : Reg)
  /-- DBGCTL_RESUMEALL, R147: DBGCTL command 3: resumes every stopped split of the launch. -/
  | dbgctlResumeall (d a : Reg)
  /-- DBGCTL_BKSET, R147: DBGCTL command 4: plants a breakpoint. -/
  | dbgctlBkset (d a : Reg)
  /-- DBGCTL_BKCLR, R147: DBGCTL command 5: removes a breakpoint. -/
  | dbgctlBkclr (d a : Reg)
  /-- DBGCTL_WSET, R147: DBGCTL command 6: arms a watchpoint. -/
  | dbgctlWset (d a : Reg)
  /-- DBGCTL_WCLR, R147: DBGCTL command 7: removes a watchpoint. -/
  | dbgctlWclr (d a : Reg)
  /-- MBOXW, R148: Writes a word of the 16-word debug mailbox. -/
  | mboxw (a b : Reg)
  deriving DecidableEq, Repr, Inhabited

end Sys2Proof
end

