-- ==== Sys2Proof/WellFormed.lean ====
section
/-! DEFINITION. Which terms are instructions of the machine: the operand constraints of R104, R105,
R108 and R167 for the words, and the ranges of the numbers that events name. -/

namespace Sys2Proof

/-- An even register: the first of a pair (R104). -/
def evenReg (r : Reg) : Bool := r.toNat % 2 == 0
/-- The first register of a quad (R104). -/
def quadReg (r : Reg) : Bool := r.toNat % 4 == 0

/-- The special registers SREAD reads (R105). -/
def specialCode (a b : Reg) : Nat := a.toNat * 64 + b.toNat
/-- Codes 0x000–0x00A are per lane (R105). -/
def laneSpecial (code : Nat) : Bool := decide (code ≤ 0x00A)
/-- Codes 0x100–0x112 are per group (R105). -/
def groupSpecial (code : Nat) : Bool := decide (0x100 ≤ code ∧ code ≤ 0x112)

/-- Step 6 of R109 beyond the zero fields of the format: with am = 1, sp must be 0 (R167). -/
def Instr.zeroOk : Instr → Bool
  | .ldgSb _ _ _ s m _ | .ldgZb _ _ _ s m _ | .ldgSh _ _ _ s m _ | .ldgZh _ _ _ s m _
  | .ldgW _ _ _ s m _ | .ldgD _ _ _ s m _ | .ldgQ _ _ _ s m _ | .stgB _ _ _ s m _ | .stgH _ _ _ s m _
  | .stgW _ _ _ s m _ | .stgD _ _ _ s m _ | .stgQ _ _ _ s m _ | .stgc _ _ _ s m _
  | .ldaW _ _ _ s m _ | .ldaD _ _ _ s m _ | .stlW _ _ _ s m _ | .stlD _ _ _ s m _ => !m || s == 0
  | .pfg _ _ s m _ => !m || s == 0
  | _ => true

/-- The address register of format M: a pair when am = 1 (R167). -/
def addrOk (m : Bool) (a : Reg) : Bool := !m || evenReg a

/-- Step 7 of R109: pair, quad and base alignment (R104), with the scalar ranges of R104, R147, R176
and R191 that must not run past s63. DEDUCED (log entry 81): for CPY, SMAP and QINIT no rule names the step. -/
def Instr.aligned : Instr → Bool
  | .iaddD d a b | .isubD d a b | .iaddDS d a b | .isubDS d a b => evenReg d && evenReg a && evenReg b
  | .shlD d a _ | .shrD d a _ | .sarD d a _ | .iaddw d a _ | .uaddw d a _
  | .shlDS d a _ | .shrDS d a _ | .sarDS d a _ | .iaddwS d a _ | .uaddwS d a _ => evenReg d && evenReg a
  | .imulw d _ _ | .umulw d _ _ | .imulwS d _ _ | .umulwS d _ _ => evenReg d
  | .cmp _ a b _ t | .cmpVs _ a b _ t => decide (t.toNat < 4) || (evenReg a && evenReg b)
  | .exitc a | .sigwait a _ => evenReg a
  | .launch _ _ a => evenReg a
  | .ldgSb _ _ a _ m _ | .ldgZb _ _ a _ m _ | .ldgSh _ _ a _ m _ | .ldgZh _ _ a _ m _
  | .ldgW _ _ a _ m _ | .stgB _ _ a _ m _ | .stgH _ _ a _ m _ | .stgW _ _ a _ m _
  | .stgc _ _ a _ m _ | .ldaW _ _ a _ m _ | .stlW _ _ a _ m _ => addrOk m a
  | .pfg _ a _ m _ => addrOk m a
  | .ldgD _ d a _ m _ | .stgD _ d a _ m _ | .ldaD _ d a _ m _ | .stlD _ d a _ m _ => evenReg d && addrOk m a
  | .ldgQ _ d a _ m _ | .stgQ _ d a _ m _ => quadReg d && addrOk m a
  | .ldsD _ d _ _ | .stsD _ d _ _ => evenReg d
  | .ldsQ _ d _ _ | .stsQ _ d _ _ => quadReg d
  | .atomAdd _ _ a _ | .atomAnd _ _ a _ | .atomOr _ _ a _ | .atomXor _ _ a _ | .atomMin _ _ a _
  | .atomMax _ _ a _ | .atomUmin _ _ a _ | .atomUmax _ _ a _ | .atomXchg _ _ a _ | .atomFadd _ _ a _
  | .atomFmin _ _ a _ | .atomFmax _ _ a _ | .redAdd _ _ a _ | .redAnd _ _ a _ | .redOr _ _ a _
  | .redXor _ _ a _ | .redMin _ _ a _ | .redMax _ _ a _ | .redUmin _ _ a _ | .redUmax _ _ a _
  | .redFadd _ _ a _ | .redFmin _ _ a _ | .redFmax _ _ a _ => evenReg a
  | .atomCas _ d a _ | .atomAddD _ d a _ | .atomXchgD _ d a _ | .redAddD _ d a _ => evenReg d && evenReg a
  | .atomCasD _ d a _ => quadReg d && evenReg a
  | .cpyG2s _ y _ _ | .cpyS2g _ y _ _ => evenReg y
  | .cpyG2g x y _ _ => evenReg x && evenReg y
  | .cpyG2s2d _ y n _ | .cpyS2g2d _ y n _ => evenReg y && decide (n.toNat ≤ 60)
  | .smap a => decide (a.toNat ≤ 60)
  | .qinit _ b => decide (b.toNat ≤ 62)
  | .mld d _ _ | .mst d _ _ => d.toNat % 8 == 0
  | .c1cas _ a b => evenReg a && evenReg b
  | .dbgctlResume _ a | .dbgctlStep _ a | .dbgctlHalt _ a | .dbgctlResumeall _ a | .dbgctlBkset _ a
  | .dbgctlBkclr _ a | .dbgctlWset _ a | .dbgctlWclr _ a => decide (a.toNat ≤ 59)
  | _ => true

/-- Step 10 of R109: the special-register code is listed (R105); SWRITE takes only CYCLELO and
CYCLEHI (R141). -/
def Instr.listed : Instr → Bool
  | .sread _ a b => laneSpecial (specialCode a b) || groupSpecial (specialCode a b)
  | .swrite _ a b => specialCode a b == 0x108 || specialCode a b == 0x109
  | _ => true

/-- Step 4 of R109 for CMP: six types and six relations (R108); and the ranges of the numbers events
name: 8 dies, 32 logical cores, 512 queues, 64 contexts, 256 launch slots, 18 ports of 4 lanes. -/
def Instr.assigned : Instr → Bool
  | .cmp _ _ _ r t | .cmpVs _ _ _ r t => decide (t.toNat < 6 ∧ r.toNat < 6)
  | .mov16 d s => !(d == 0 && s == 0)
  | .yieldExpiry q => decide (q < 1024)
  | .spillRotation g | .batchComplete g | .txLaneCommit g | .breakpointStop g _ | .copyComplete g _ =>
    decide (g < 16384)
  | .mmaComplete c | .fillGrant c _ | .wcFlushTimeout c | .l1Eviction c _ => decide (c < 256)
  | .pageWalkComplete c x _ => decide (c < 256 ∧ x < 64)
  | .gongEntryExecute d | .frequencyStep d _ | .relockEnd d | .junction105 d | .skewMeasurement d _ =>
    decide (d < 8)
  | .autoCoreRetire d c => decide (d < 8 ∧ c < 32)
  | .stashOwnershipFill b _ | .waitbudgetExpiry b => decide (b < 16384)
  | .knellQuiescence l | .knellDisagreement l | .knellRecountTimeout l | .launchComplete l => decide (l < 256)
  | .queueTailWrite q | .graph q | .xferPacket q | .checkpoint q | .signal q | .waitsig q
  | .packetComplete q => decide (q < 512)
  | .timeSliceExpiry x | .blockRestore x | .checkpointBoundary x | .checkpointCommit x
  | .checkpointPageCopy x _ => decide (x < 64)
  | .flitCrcFailure p l => decide (p < 18 ∧ l < 4)
  | .linkRetrainEnd p => decide (p < 18)
  | .pseudoChannelFailure k _ => decide (k < 16)
  | .registerPageWrite o _ => decide (o < 4096)
  | .fabricRequest k _ n v => decide ((n = 1 ∨ n = 2 ∨ n = 4 ∨ n = 8) ∧ v < 2 ^ (8 * n))
    && (match k with
      | .read | .write => true
      | .atom op c => decide (op ≤ 13 ∧ c < 2 ^ (8 * n) ∧ 4 ≤ n ∧ (op ≤ 10 → n = 4) ∧ (op = 11 → n = 8))
      | .red op => decide (op ≤ 11 ∧ 4 ≤ n ∧ (op ≤ 10 → n = 4) ∧ (op = 11 → n = 8)))
  | _ => true

/-- A well-formed instruction. -/
def Instr.wf (i : Instr) : Bool := i.zeroOk && i.aligned && i.listed && i.assigned

end Sys2Proof
end

