-- ==== Sys2Proof/Decode.lean ====
section
/-! DEFINITION. The decoder of R93–R109 and the encoder from the same tables. Decoding is total on
any bytes and rejects by the name of the check that fails (R109); the checks that need the launch
(steps 1, 5, 8, 9 and 11) are made in Machine/Check.lean. -/

namespace Sys2Proof

/-- Why bytes are not an instruction: the context-free checks of R109, by step. -/
inductive DecodeError where
  /-- fewer bytes than the instruction's first unit says (R94) -/
  | truncated
  /-- step 2: major 0x00 -/
  | majorZero
  /-- step 3: unassigned major -/
  | major
  /-- step 4: unassigned minor, op, kind, width, type, relation or class -/
  | code
  /-- step 6: a zero or unused field is not zero -/
  | zeroField
  /-- step 7: pair, quad, fragment or base alignment -/
  | alignment
  /-- step 10: special-register code not listed -/
  | special
  deriving DecidableEq, Repr

/-- Bits `lo + n - 1 : lo` of a word. -/
def fld (w lo n : Nat) : BitVec n := BitVec.ofNat n (w / 2 ^ lo)
/-- Bit `lo` of a word. -/
def fld1 (w lo : Nat) : Bool := w / 2 ^ lo % 2 == 1

/-- Steps 6, 7 and 10 of R109 on a row of the table: the zero fields of its format, given as
(lowest bit, width), then the constraints on its operands. -/
def row (w : Nat) (zeros : List (Nat × Nat)) (i : Instr) : Except DecodeError Instr :=
  if (zeros.all fun z => w / 2 ^ z.1 % 2 ^ z.2 == 0) && i.zeroOk then
    if i.aligned then
      if i.listed then .ok i else .error .special
    else .error .alignment
  else .error .zeroField

/-- R95: the 16-bit word. Every one is an instruction. -/
noncomputable def decodeHalf (w : Nat) : Instr :=
  match w / 2 % 16 with
  | 0 => if w = 0 then .nop16 else .mov16 (fld w 5 6) (fld w 11 5)
  | 1 => .iadd16 (fld w 5 6) (fld w 11 5)
  | 2 => .isub16 (fld w 5 6) (fld w 11 5)
  | 3 => .imul16 (fld w 5 6) (fld w 11 5)
  | 4 => .and16 (fld w 5 6) (fld w 11 5)
  | 5 => .or16 (fld w 5 6) (fld w 11 5)
  | 6 => .xor16 (fld w 5 6) (fld w 11 5)
  | 7 => .shl16 (fld w 5 6) (fld w 11 5)
  | 8 => .shr16 (fld w 5 6) (fld w 11 5)
  | 9 => .sar16 (fld w 5 6) (fld w 11 5)
  | 10 => .fadd16 (fld w 5 6) (fld w 11 5)
  | 11 => .fsub16 (fld w 5 6) (fld w 11 5)
  | 12 => .fmul16 (fld w 5 6) (fld w 11 5)
  | 13 => .fmin16 (fld w 5 6) (fld w 11 5)
  | 14 => .fmax16 (fld w 5 6) (fld w 11 5)
  | _ => .iaddI5 (fld w 5 6) (fld w 11 5)

/-- R108: the codes of major 0x01. -/
noncomputable def decode01 (w : Nat) : Except DecodeError Instr :=
  match w / 2 ^ 26 % 64 with
  | 0x00 => row w [] (.iadd (fld w 8 6) (fld w 14 6) (fld w 20 6))
  | 0x01 => row w [] (.isub (fld w 8 6) (fld w 14 6) (fld w 20 6))
  | 0x02 => row w [] (.imul (fld w 8 6) (fld w 14 6) (fld w 20 6))
  | 0x03 => row w [] (.imulhi (fld w 8 6) (fld w 14 6) (fld w 20 6))
  | 0x04 => row w [] (.umulhi (fld w 8 6) (fld w 14 6) (fld w 20 6))
  | 0x05 => row w [] (.imin (fld w 8 6) (fld w 14 6) (fld w 20 6))
  | 0x06 => row w [] (.imax (fld w 8 6) (fld w 14 6) (fld w 20 6))
  | 0x07 => row w [] (.umin (fld w 8 6) (fld w 14 6) (fld w 20 6))
  | 0x08 => row w [] (.umax (fld w 8 6) (fld w 14 6) (fld w 20 6))
  | 0x09 => row w [] (.and (fld w 8 6) (fld w 14 6) (fld w 20 6))
  | 0x0A => row w [] (.or (fld w 8 6) (fld w 14 6) (fld w 20 6))
  | 0x0B => row w [] (.xor (fld w 8 6) (fld w 14 6) (fld w 20 6))
  | 0x0C => row w [] (.andn (fld w 8 6) (fld w 14 6) (fld w 20 6))
  | 0x0D => row w [] (.shl (fld w 8 6) (fld w 14 6) (fld w 20 6))
  | 0x0E => row w [] (.shr (fld w 8 6) (fld w 14 6) (fld w 20 6))
  | 0x0F => row w [] (.sar (fld w 8 6) (fld w 14 6) (fld w 20 6))
  | 0x10 => row w [] (.rol (fld w 8 6) (fld w 14 6) (fld w 20 6))
  | 0x11 => row w [] (.iabsd (fld w 8 6) (fld w 14 6) (fld w 20 6))
  | 0x12 => row w [] (.iadds (fld w 8 6) (fld w 14 6) (fld w 20 6))
  | 0x13 => row w [] (.isubs (fld w 8 6) (fld w 14 6) (fld w 20 6))
  | 0x14 => row w [] (.uadds (fld w 8 6) (fld w 14 6) (fld w 20 6))
  | 0x15 => row w [] (.usubs (fld w 8 6) (fld w 14 6) (fld w 20 6))
  | 0x16 => row w [(20, 6)] (.popc (fld w 8 6) (fld w 14 6))
  | 0x17 => row w [(20, 6)] (.clz (fld w 8 6) (fld w 14 6))
  | 0x18 => row w [(20, 6)] (.brev (fld w 8 6) (fld w 14 6))
  | 0x19 => row w [] (.bfe (fld w 8 6) (fld w 14 6) (fld w 20 6))
  | 0x1A => row w [] (.ubfe (fld w 8 6) (fld w 14 6) (fld w 20 6))
  | 0x1B => row w [(14, 6)] (.mov (fld w 8 6) (fld w 20 6))
  | 0x1C => row w [] (.isetLt (fld w 8 6) (fld w 14 6) (fld w 20 6))
  | 0x1D => row w [] (.isetLe (fld w 8 6) (fld w 14 6) (fld w 20 6))
  | 0x1E => row w [] (.isetEq (fld w 8 6) (fld w 14 6) (fld w 20 6))
  | 0x1F => row w [] (.isetNe (fld w 8 6) (fld w 14 6) (fld w 20 6))
  | 0x20 => row w [] (.usetLt (fld w 8 6) (fld w 14 6) (fld w 20 6))
  | 0x21 => row w [] (.usetLe (fld w 8 6) (fld w 14 6) (fld w 20 6))
  | _ => .error .code

/-- R108: the codes of major 0x02. -/
noncomputable def decode02 (w : Nat) : Except DecodeError Instr :=
  match w / 2 ^ 26 % 64 with
  | 0x00 => row w [] (.iaddVs (fld w 8 6) (fld w 14 6) (fld w 20 6))
  | 0x01 => row w [] (.isubVs (fld w 8 6) (fld w 14 6) (fld w 20 6))
  | 0x02 => row w [] (.imulVs (fld w 8 6) (fld w 14 6) (fld w 20 6))
  | 0x03 => row w [] (.imulhiVs (fld w 8 6) (fld w 14 6) (fld w 20 6))
  | 0x04 => row w [] (.umulhiVs (fld w 8 6) (fld w 14 6) (fld w 20 6))
  | 0x05 => row w [] (.iminVs (fld w 8 6) (fld w 14 6) (fld w 20 6))
  | 0x06 => row w [] (.imaxVs (fld w 8 6) (fld w 14 6) (fld w 20 6))
  | 0x07 => row w [] (.uminVs (fld w 8 6) (fld w 14 6) (fld w 20 6))
  | 0x08 => row w [] (.umaxVs (fld w 8 6) (fld w 14 6) (fld w 20 6))
  | 0x09 => row w [] (.andVs (fld w 8 6) (fld w 14 6) (fld w 20 6))
  | 0x0A => row w [] (.orVs (fld w 8 6) (fld w 14 6) (fld w 20 6))
  | 0x0B => row w [] (.xorVs (fld w 8 6) (fld w 14 6) (fld w 20 6))
  | 0x0C => row w [] (.andnVs (fld w 8 6) (fld w 14 6) (fld w 20 6))
  | 0x0D => row w [] (.shlVs (fld w 8 6) (fld w 14 6) (fld w 20 6))
  | 0x0E => row w [] (.shrVs (fld w 8 6) (fld w 14 6) (fld w 20 6))
  | 0x0F => row w [] (.sarVs (fld w 8 6) (fld w 14 6) (fld w 20 6))
  | 0x10 => row w [] (.rolVs (fld w 8 6) (fld w 14 6) (fld w 20 6))
  | 0x11 => row w [] (.iabsdVs (fld w 8 6) (fld w 14 6) (fld w 20 6))
  | 0x12 => row w [] (.iaddsVs (fld w 8 6) (fld w 14 6) (fld w 20 6))
  | 0x13 => row w [] (.isubsVs (fld w 8 6) (fld w 14 6) (fld w 20 6))
  | 0x14 => row w [] (.uaddsVs (fld w 8 6) (fld w 14 6) (fld w 20 6))
  | 0x15 => row w [] (.usubsVs (fld w 8 6) (fld w 14 6) (fld w 20 6))
  | 0x16 => row w [(20, 6)] (.popcVs (fld w 8 6) (fld w 14 6))
  | 0x17 => row w [(20, 6)] (.clzVs (fld w 8 6) (fld w 14 6))
  | 0x18 => row w [(20, 6)] (.brevVs (fld w 8 6) (fld w 14 6))
  | 0x19 => row w [] (.bfeVs (fld w 8 6) (fld w 14 6) (fld w 20 6))
  | 0x1A => row w [] (.ubfeVs (fld w 8 6) (fld w 14 6) (fld w 20 6))
  | 0x1B => row w [(14, 6)] (.movVs (fld w 8 6) (fld w 20 6))
  | 0x1C => row w [] (.isetLtVs (fld w 8 6) (fld w 14 6) (fld w 20 6))
  | 0x1D => row w [] (.isetLeVs (fld w 8 6) (fld w 14 6) (fld w 20 6))
  | 0x1E => row w [] (.isetEqVs (fld w 8 6) (fld w 14 6) (fld w 20 6))
  | 0x1F => row w [] (.isetNeVs (fld w 8 6) (fld w 14 6) (fld w 20 6))
  | 0x20 => row w [] (.usetLtVs (fld w 8 6) (fld w 14 6) (fld w 20 6))
  | 0x21 => row w [] (.usetLeVs (fld w 8 6) (fld w 14 6) (fld w 20 6))
  | _ => .error .code

/-- R108: the codes of major 0x03. -/
noncomputable def decode03 (w : Nat) : Except DecodeError Instr :=
  match w / 2 ^ 26 % 64 with
  | 0x00 => row w [] (.iaddD (fld w 8 6) (fld w 14 6) (fld w 20 6))
  | 0x01 => row w [] (.isubD (fld w 8 6) (fld w 14 6) (fld w 20 6))
  | 0x02 => row w [] (.shlD (fld w 8 6) (fld w 14 6) (fld w 20 6))
  | 0x03 => row w [] (.shrD (fld w 8 6) (fld w 14 6) (fld w 20 6))
  | 0x04 => row w [] (.sarD (fld w 8 6) (fld w 14 6) (fld w 20 6))
  | 0x05 => row w [] (.imulw (fld w 8 6) (fld w 14 6) (fld w 20 6))
  | 0x06 => row w [] (.umulw (fld w 8 6) (fld w 14 6) (fld w 20 6))
  | 0x07 => row w [] (.iaddw (fld w 8 6) (fld w 14 6) (fld w 20 6))
  | 0x08 => row w [] (.uaddw (fld w 8 6) (fld w 14 6) (fld w 20 6))
  | _ => .error .code

/-- R108: the codes of major 0x10. -/
noncomputable def decode10 (w : Nat) : Except DecodeError Instr :=
  match w / 2 ^ 26 % 64 with
  | 0x00 => row w [] (.fadd (fld w 8 6) (fld w 14 6) (fld w 20 6))
  | 0x01 => row w [] (.faddRz (fld w 8 6) (fld w 14 6) (fld w 20 6))
  | 0x02 => row w [] (.faddRd (fld w 8 6) (fld w 14 6) (fld w 20 6))
  | 0x03 => row w [] (.faddRu (fld w 8 6) (fld w 14 6) (fld w 20 6))
  | 0x04 => row w [] (.fsub (fld w 8 6) (fld w 14 6) (fld w 20 6))
  | 0x05 => row w [] (.fmul (fld w 8 6) (fld w 14 6) (fld w 20 6))
  | 0x06 => row w [] (.fmulRz (fld w 8 6) (fld w 14 6) (fld w 20 6))
  | 0x07 => row w [] (.fmulRd (fld w 8 6) (fld w 14 6) (fld w 20 6))
  | 0x08 => row w [] (.fmulRu (fld w 8 6) (fld w 14 6) (fld w 20 6))
  | 0x09 => row w [] (.fmin (fld w 8 6) (fld w 14 6) (fld w 20 6))
  | 0x0A => row w [] (.fmax (fld w 8 6) (fld w 14 6) (fld w 20 6))
  | 0x0B => row w [] (.fminnum (fld w 8 6) (fld w 14 6) (fld w 20 6))
  | 0x0C => row w [] (.fmaxnum (fld w 8 6) (fld w 14 6) (fld w 20 6))
  | 0x0D => row w [(20, 6)] (.fabs (fld w 8 6) (fld w 14 6))
  | 0x0E => row w [(20, 6)] (.fneg (fld w 8 6) (fld w 14 6))
  | 0x0F => row w [] (.fcopysign (fld w 8 6) (fld w 14 6) (fld w 20 6))
  | 0x10 => row w [(20, 6)] (.ffloor (fld w 8 6) (fld w 14 6))
  | 0x11 => row w [(20, 6)] (.fceil (fld w 8 6) (fld w 14 6))
  | 0x12 => row w [(20, 6)] (.ftrunc (fld w 8 6) (fld w 14 6))
  | 0x13 => row w [(20, 6)] (.frint (fld w 8 6) (fld w 14 6))
  | 0x14 => row w [(20, 6)] (.fclamp01 (fld w 8 6) (fld w 14 6))
  | _ => .error .code

/-- R108: the codes of major 0x11. -/
noncomputable def decode11 (w : Nat) : Except DecodeError Instr :=
  match w / 2 ^ 26 % 64 with
  | 0x00 => row w [] (.faddVs (fld w 8 6) (fld w 14 6) (fld w 20 6))
  | 0x01 => row w [] (.faddRzVs (fld w 8 6) (fld w 14 6) (fld w 20 6))
  | 0x02 => row w [] (.faddRdVs (fld w 8 6) (fld w 14 6) (fld w 20 6))
  | 0x03 => row w [] (.faddRuVs (fld w 8 6) (fld w 14 6) (fld w 20 6))
  | 0x04 => row w [] (.fsubVs (fld w 8 6) (fld w 14 6) (fld w 20 6))
  | 0x05 => row w [] (.fmulVs (fld w 8 6) (fld w 14 6) (fld w 20 6))
  | 0x06 => row w [] (.fmulRzVs (fld w 8 6) (fld w 14 6) (fld w 20 6))
  | 0x07 => row w [] (.fmulRdVs (fld w 8 6) (fld w 14 6) (fld w 20 6))
  | 0x08 => row w [] (.fmulRuVs (fld w 8 6) (fld w 14 6) (fld w 20 6))
  | 0x09 => row w [] (.fminVs (fld w 8 6) (fld w 14 6) (fld w 20 6))
  | 0x0A => row w [] (.fmaxVs (fld w 8 6) (fld w 14 6) (fld w 20 6))
  | 0x0B => row w [] (.fminnumVs (fld w 8 6) (fld w 14 6) (fld w 20 6))
  | 0x0C => row w [] (.fmaxnumVs (fld w 8 6) (fld w 14 6) (fld w 20 6))
  | 0x0D => row w [(20, 6)] (.fabsVs (fld w 8 6) (fld w 14 6))
  | 0x0E => row w [(20, 6)] (.fnegVs (fld w 8 6) (fld w 14 6))
  | 0x0F => row w [] (.fcopysignVs (fld w 8 6) (fld w 14 6) (fld w 20 6))
  | 0x10 => row w [(20, 6)] (.ffloorVs (fld w 8 6) (fld w 14 6))
  | 0x11 => row w [(20, 6)] (.fceilVs (fld w 8 6) (fld w 14 6))
  | 0x12 => row w [(20, 6)] (.ftruncVs (fld w 8 6) (fld w 14 6))
  | 0x13 => row w [(20, 6)] (.frintVs (fld w 8 6) (fld w 14 6))
  | 0x14 => row w [(20, 6)] (.fclamp01Vs (fld w 8 6) (fld w 14 6))
  | _ => .error .code

/-- R108: the codes of major 0x1B. -/
noncomputable def decode1B (w : Nat) : Except DecodeError Instr :=
  match w / 2 ^ 26 % 64 with
  | 0x00 => row w [(11, 3), (17, 3), (23, 3)] (.pand (fld w 8 3) (fld w 14 3) (fld w 20 3))
  | 0x01 => row w [(11, 3), (17, 3), (23, 3)] (.por (fld w 8 3) (fld w 14 3) (fld w 20 3))
  | 0x02 => row w [(11, 3), (17, 3), (23, 3)] (.pxor (fld w 8 3) (fld w 14 3) (fld w 20 3))
  | 0x03 => row w [(11, 3), (17, 3), (23, 3)] (.pandn (fld w 8 3) (fld w 14 3) (fld w 20 3))
  | 0x04 => row w [(11, 3), (17, 9)] (.pnot (fld w 8 3) (fld w 14 3))
  | 0x05 => row w [(11, 15)] (.psetPred (fld w 8 3))
  | 0x06 => row w [(11, 15)] (.pclr (fld w 8 3))
  | 0x07 => row w [(17, 9)] (.ballot (fld w 8 6) (fld w 14 3))
  | 0x08 => row w [(11, 3), (20, 6)] (.pfrom (fld w 8 3) (fld w 14 6))
  | 0x09 => row w [(17, 9)] (.ptov (fld w 8 6) (fld w 14 3))
  | 0x0A => row w [(17, 9)] (.vany (fld w 8 6) (fld w 14 3))
  | 0x0B => row w [(17, 9)] (.vall (fld w 8 6) (fld w 14 3))
  | 0x0C => row w [(14, 12)] (.mask (fld w 8 6))
  | 0x0D => row w [(11, 3), (20, 6)] (.pload (fld w 8 3) (fld w 14 6))
  | _ => .error .code

/-- R108: the codes of major 0x1C. -/
noncomputable def decode1C (w : Nat) : Except DecodeError Instr :=
  match w / 2 ^ 26 % 64 with
  | 0x00 => row w [] (.hadd2 (fld w 8 6) (fld w 14 6) (fld w 20 6))
  | 0x01 => row w [] (.hsub2 (fld w 8 6) (fld w 14 6) (fld w 20 6))
  | 0x02 => row w [] (.hmul2 (fld w 8 6) (fld w 14 6) (fld w 20 6))
  | 0x03 => row w [] (.hmin2 (fld w 8 6) (fld w 14 6) (fld w 20 6))
  | 0x04 => row w [] (.hmax2 (fld w 8 6) (fld w 14 6) (fld w 20 6))
  | 0x05 => row w [] (.badd2 (fld w 8 6) (fld w 14 6) (fld w 20 6))
  | 0x06 => row w [] (.bsub2 (fld w 8 6) (fld w 14 6) (fld w 20 6))
  | 0x07 => row w [] (.bmul2 (fld w 8 6) (fld w 14 6) (fld w 20 6))
  | 0x08 => row w [] (.bmin2 (fld w 8 6) (fld w 14 6) (fld w 20 6))
  | 0x09 => row w [] (.bmax2 (fld w 8 6) (fld w 14 6) (fld w 20 6))
  | _ => .error .code

/-- R108: the codes of major 0x1F. -/
noncomputable def decode1F (w : Nat) : Except DecodeError Instr :=
  match w / 2 ^ 26 % 64 with
  | 0x00 => row w [(20, 6)] (.i2f (fld w 8 6) (fld w 14 6))
  | 0x01 => row w [(20, 6)] (.u2f (fld w 8 6) (fld w 14 6))
  | 0x02 => row w [(20, 6)] (.f2i (fld w 8 6) (fld w 14 6))
  | 0x03 => row w [(20, 6)] (.f2u (fld w 8 6) (fld w 14 6))
  | 0x04 => row w [(20, 6)] (.f2in (fld w 8 6) (fld w 14 6))
  | 0x05 => row w [(20, 6)] (.f2un (fld w 8 6) (fld w 14 6))
  | 0x06 => row w [] (.pkh (fld w 8 6) (fld w 14 6) (fld w 20 6))
  | 0x07 => row w [] (.pkb (fld w 8 6) (fld w 14 6) (fld w 20 6))
  | 0x08 => row w [(20, 6)] (.uphLo (fld w 8 6) (fld w 14 6))
  | 0x09 => row w [(20, 6)] (.uphHi (fld w 8 6) (fld w 14 6))
  | 0x0A => row w [(20, 6)] (.upbLo (fld w 8 6) (fld w 14 6))
  | 0x0B => row w [(20, 6)] (.upbHi (fld w 8 6) (fld w 14 6))
  | 0x0C => row w [(20, 6)] (.f2f19 (fld w 8 6) (fld w 14 6))
  | _ => .error .code

/-- R108: the codes of major 0x20. -/
noncomputable def decode20 (w : Nat) : Except DecodeError Instr :=
  match w / 2 ^ 26 % 8 with
  | 0x00 => row w [(20, 6)] (.fpack (fld w 8 6) (fld w 14 6) (fld w 29 3))
  | 0x01 => row w [] (.fpackSr (fld w 8 6) (fld w 14 6) (fld w 20 6) (fld w 29 3))
  | 0x02 => row w [] (.funpk (fld w 8 6) (fld w 14 6) (fld w 20 6) (fld w 29 3))
  | _ => .error .code

/-- R108: the codes of major 0x21. -/
noncomputable def decode21 (w : Nat) : Except DecodeError Instr :=
  match w / 2 ^ 26 % 64 with
  | 0x00 => row w [] (.dot4Ss (fld w 8 6) (fld w 14 6) (fld w 20 6))
  | 0x01 => row w [] (.dot4Uu (fld w 8 6) (fld w 14 6) (fld w 20 6))
  | 0x02 => row w [] (.dot4Su (fld w 8 6) (fld w 14 6) (fld w 20 6))
  | 0x03 => row w [] (.dot8Ss (fld w 8 6) (fld w 14 6) (fld w 20 6))
  | 0x04 => row w [] (.dot8Uu (fld w 8 6) (fld w 14 6) (fld w 20 6))
  | 0x05 => row w [] (.dot8Su (fld w 8 6) (fld w 14 6) (fld w 20 6))
  | 0x06 => row w [] (.dot16Ss (fld w 8 6) (fld w 14 6) (fld w 20 6))
  | 0x07 => row w [] (.dot2Ss (fld w 8 6) (fld w 14 6) (fld w 20 6))
  | _ => .error .code

/-- R108: the codes of major 0x22. -/
noncomputable def decode22 (w : Nat) : Except DecodeError Instr :=
  match w / 2 ^ 26 % 8 with
  | 0x00 => row w [] (.fdot (fld w 8 6) (fld w 14 6) (fld w 20 6) (fld w 29 3))
  | _ => .error .code

/-- R108: the codes of major 0x23. -/
noncomputable def decode23 (w : Nat) : Except DecodeError Instr :=
  match w / 2 ^ 26 % 64 with
  | 0x00 => row w [] (.shflIdx (fld w 8 6) (fld w 14 6) (fld w 20 6))
  | 0x01 => row w [] (.shflUp (fld w 8 6) (fld w 14 6) (fld w 20 6))
  | 0x02 => row w [] (.shflDn (fld w 8 6) (fld w 14 6) (fld w 20 6))
  | 0x03 => row w [] (.shflXor (fld w 8 6) (fld w 14 6) (fld w 20 6))
  | 0x04 => row w [] (.rdlane (fld w 8 6) (fld w 14 6) (fld w 20 6))
  | 0x05 => row w [] (.wrlane (fld w 8 6) (fld w 14 6) (fld w 20 6))
  | 0x06 => row w [(20, 6)] (.reduxAdd (fld w 8 6) (fld w 14 6))
  | 0x07 => row w [(20, 6)] (.reduxMin (fld w 8 6) (fld w 14 6))
  | 0x08 => row w [(20, 6)] (.reduxMax (fld w 8 6) (fld w 14 6))
  | 0x09 => row w [(20, 6)] (.reduxFadd (fld w 8 6) (fld w 14 6))
  | 0x0A => row w [(20, 6)] (.scanxAdd (fld w 8 6) (fld w 14 6))
  | _ => .error .code

/-- R108: the codes of major 0x24. -/
noncomputable def decode24 (w : Nat) : Except DecodeError Instr :=
  match w / 2 ^ 30 % 4 with
  | 0x00 => row w [] (.fdiv (fld w 8 4) (fld w 12 6) (fld w 18 6) (fld w 24 6))
  | 0x01 => row w [(24, 6)] (.fsqrt (fld w 8 4) (fld w 12 6) (fld w 18 6))
  | 0x02 => row w [(24, 6)] (.frcp (fld w 8 4) (fld w 12 6) (fld w 18 6))
  | _ => row w [(24, 6)] (.frsq (fld w 8 4) (fld w 12 6) (fld w 18 6))

/-- R108: the codes of major 0x25. -/
noncomputable def decode25 (w : Nat) : Except DecodeError Instr :=
  match w / 2 ^ 30 % 4 with
  | 0x00 => row w [(24, 6)] (.fexp2 (fld w 8 4) (fld w 12 6) (fld w 18 6))
  | 0x01 => row w [(24, 6)] (.flog2 (fld w 8 4) (fld w 12 6) (fld w 18 6))
  | 0x02 => row w [(24, 6)] (.fsint (fld w 8 4) (fld w 12 6) (fld w 18 6))
  | _ => row w [(24, 6)] (.fcost (fld w 8 4) (fld w 12 6) (fld w 18 6))

/-- R108: the codes of major 0x26. -/
noncomputable def decode26 (w : Nat) : Except DecodeError Instr :=
  match w / 2 ^ 30 % 4 with
  | 0x00 => row w [(24, 6)] (.ftanh (fld w 8 4) (fld w 12 6) (fld w 18 6))
  | 0x01 => row w [(24, 6)] (.fsigm (fld w 8 4) (fld w 12 6) (fld w 18 6))
  | 0x02 => row w [(24, 6)] (.ferf (fld w 8 4) (fld w 12 6) (fld w 18 6))
  | _ => .error .code

/-- R108: the codes of major 0x30. -/
noncomputable def decode30 (w : Nat) : Except DecodeError Instr :=
  match w / 2 ^ 26 % 64 with
  | 0x00 => row w [] (.iaddS (fld w 8 6) (fld w 14 6) (fld w 20 6))
  | 0x01 => row w [] (.isubS (fld w 8 6) (fld w 14 6) (fld w 20 6))
  | 0x02 => row w [] (.imulS (fld w 8 6) (fld w 14 6) (fld w 20 6))
  | 0x03 => row w [] (.imulhiS (fld w 8 6) (fld w 14 6) (fld w 20 6))
  | 0x04 => row w [] (.umulhiS (fld w 8 6) (fld w 14 6) (fld w 20 6))
  | 0x05 => row w [] (.iminS (fld w 8 6) (fld w 14 6) (fld w 20 6))
  | 0x06 => row w [] (.imaxS (fld w 8 6) (fld w 14 6) (fld w 20 6))
  | 0x07 => row w [] (.uminS (fld w 8 6) (fld w 14 6) (fld w 20 6))
  | 0x08 => row w [] (.umaxS (fld w 8 6) (fld w 14 6) (fld w 20 6))
  | 0x09 => row w [] (.andS (fld w 8 6) (fld w 14 6) (fld w 20 6))
  | 0x0A => row w [] (.orS (fld w 8 6) (fld w 14 6) (fld w 20 6))
  | 0x0B => row w [] (.xorS (fld w 8 6) (fld w 14 6) (fld w 20 6))
  | 0x0C => row w [] (.andnS (fld w 8 6) (fld w 14 6) (fld w 20 6))
  | 0x0D => row w [] (.shlS (fld w 8 6) (fld w 14 6) (fld w 20 6))
  | 0x0E => row w [] (.shrS (fld w 8 6) (fld w 14 6) (fld w 20 6))
  | 0x0F => row w [] (.sarS (fld w 8 6) (fld w 14 6) (fld w 20 6))
  | 0x10 => row w [] (.rolS (fld w 8 6) (fld w 14 6) (fld w 20 6))
  | 0x11 => row w [] (.iabsdS (fld w 8 6) (fld w 14 6) (fld w 20 6))
  | 0x12 => row w [] (.iaddsS (fld w 8 6) (fld w 14 6) (fld w 20 6))
  | 0x13 => row w [] (.isubsS (fld w 8 6) (fld w 14 6) (fld w 20 6))
  | 0x14 => row w [] (.uaddsS (fld w 8 6) (fld w 14 6) (fld w 20 6))
  | 0x15 => row w [] (.usubsS (fld w 8 6) (fld w 14 6) (fld w 20 6))
  | 0x16 => row w [(20, 6)] (.popcS (fld w 8 6) (fld w 14 6))
  | 0x17 => row w [(20, 6)] (.clzS (fld w 8 6) (fld w 14 6))
  | 0x18 => row w [(20, 6)] (.brevS (fld w 8 6) (fld w 14 6))
  | 0x19 => row w [] (.bfeS (fld w 8 6) (fld w 14 6) (fld w 20 6))
  | 0x1A => row w [] (.ubfeS (fld w 8 6) (fld w 14 6) (fld w 20 6))
  | 0x1B => row w [(14, 6)] (.movS (fld w 8 6) (fld w 20 6))
  | 0x1C => row w [] (.isetLtS (fld w 8 6) (fld w 14 6) (fld w 20 6))
  | 0x1D => row w [] (.isetLeS (fld w 8 6) (fld w 14 6) (fld w 20 6))
  | 0x1E => row w [] (.isetEqS (fld w 8 6) (fld w 14 6) (fld w 20 6))
  | 0x1F => row w [] (.isetNeS (fld w 8 6) (fld w 14 6) (fld w 20 6))
  | 0x20 => row w [] (.usetLtS (fld w 8 6) (fld w 14 6) (fld w 20 6))
  | 0x21 => row w [] (.usetLeS (fld w 8 6) (fld w 14 6) (fld w 20 6))
  | _ => .error .code

/-- R108: the codes of major 0x3C. -/
noncomputable def decode3C (w : Nat) : Except DecodeError Instr :=
  match w / 2 ^ 26 % 64 with
  | 0x00 => row w [] (.iaddDS (fld w 8 6) (fld w 14 6) (fld w 20 6))
  | 0x01 => row w [] (.isubDS (fld w 8 6) (fld w 14 6) (fld w 20 6))
  | 0x02 => row w [] (.shlDS (fld w 8 6) (fld w 14 6) (fld w 20 6))
  | 0x03 => row w [] (.shrDS (fld w 8 6) (fld w 14 6) (fld w 20 6))
  | 0x04 => row w [] (.sarDS (fld w 8 6) (fld w 14 6) (fld w 20 6))
  | 0x05 => row w [] (.imulwS (fld w 8 6) (fld w 14 6) (fld w 20 6))
  | 0x06 => row w [] (.umulwS (fld w 8 6) (fld w 14 6) (fld w 20 6))
  | 0x07 => row w [] (.iaddwS (fld w 8 6) (fld w 14 6) (fld w 20 6))
  | 0x08 => row w [] (.uaddwS (fld w 8 6) (fld w 14 6) (fld w 20 6))
  | _ => .error .code

/-- R108: the codes of major 0x4A. -/
noncomputable def decode4A (w : Nat) : Except DecodeError Instr :=
  match w / 2 ^ 26 % 64 with
  | 0x00 => row w [(8, 6), (20, 6)] (.calli (fld w 14 6))
  | _ => .error .code

/-- R108: the codes of major 0x4B. -/
noncomputable def decode4B (w : Nat) : Except DecodeError Instr :=
  match w / 2 ^ 26 % 64 with
  | 0x00 => row w [(8, 6), (20, 6)] (.ret (fld w 14 6))
  | _ => .error .code

/-- R108: the codes of major 0x4C. -/
noncomputable def decode4C (w : Nat) : Except DecodeError Instr :=
  match w / 2 ^ 26 % 64 with
  | 0x00 => row w [(8, 6), (20, 6)] (.brx (fld w 14 6))
  | _ => .error .code

/-- R108: the codes of major 0x4E. -/
noncomputable def decode4E (w : Nat) : Except DecodeError Instr :=
  match w / 2 ^ 26 % 64 with
  | 0x00 => row w [(8, 18)] .exit
  | 0x01 => row w [(8, 6), (20, 6)] (.exitc (fld w 14 6))
  | _ => .error .code

/-- R108: the codes of major 0x50. -/
noncomputable def decode50 (w : Nat) : Except DecodeError Instr :=
  match w / 2 ^ 26 % 64 with
  | 0x00 => row w [(8, 12), (22, 4)] (.pset (fld w 20 2))
  | 0x01 => row w [(9, 5), (17, 3), (22, 4)] (.psel (fld1 w 8) (fld w 14 3) (fld w 20 2))
  | 0x02 => row w [(8, 6), (20, 6)] (.pmov (fld w 14 6))
  | 0x03 => row w [(14, 12)] (.pget (fld w 8 6))
  | _ => .error .code

/-- R108: the codes of major 0x51. -/
noncomputable def decode51 (w : Nat) : Except DecodeError Instr :=
  match w / 2 ^ 26 % 64 with
  | 0x00 => row w [(8, 6), (20, 6)] (.xfer (fld w 14 6))
  | 0x01 => row w [(14, 12)] (.xqry (fld w 8 6))
  | 0x02 => row w [(8, 18)] .xclr
  | 0x03 => row w [(14, 12)] (.version (fld w 8 6))
  | _ => .error .code

/-- R108: the codes of major 0x52. -/
noncomputable def decode52 (w : Nat) : Except DecodeError Instr :=
  match w / 2 ^ 30 % 4 with
  | 0x00 => row w [(24, 6)] (.launch (fld w 8 4) (fld w 12 6) (fld w 18 6))
  | 0x01 => row w [(12, 6)] (.wlapp (fld w 8 4) (fld w 18 6) (fld w 24 6))
  | 0x02 => row w [] (.wltake (fld w 8 4) (fld w 12 6) (fld w 18 6) (fld w 24 6))
  | _ => .error .code

/-- R108: the codes of major 0x53. -/
noncomputable def decode53 (w : Nat) : Except DecodeError Instr :=
  match w / 2 ^ 26 % 64 with
  | 0x00 => row w [(8, 18)] .nop
  | 0x01 => row w [(8, 18)] .yield
  | 0x02 => row w [] (.sread (fld w 8 6) (fld w 14 6) (fld w 20 6))
  | 0x03 => row w [] (.swrite (fld w 8 6) (fld w 14 6) (fld w 20 6))
  | 0x04 => row w [(8, 6)] (.trap (fld w 14 6) (fld w 20 6))
  | 0x05 => row w [(8, 18)] .brkpt
  | 0x06 => row w [(8, 18)] .dbls
  | 0x07 => row w [(8, 6), (20, 6)] (.stampOpen (fld w 14 6))
  | 0x08 => row w [(8, 18)] .stampClose
  | 0x09 => row w [(20, 6)] (.dbgwait (fld w 8 6) (fld w 14 6))
  | 0x0A => row w [(20, 6)] (.dbgrd (fld w 8 6) (fld w 14 6))
  | 0x0B => row w [(8, 6)] (.dbgwr (fld w 14 6) (fld w 20 6))
  | 0x0C => row w [(20, 6)] (.dbgctlResume (fld w 8 6) (fld w 14 6))
  | 0x0D => row w [(8, 6)] (.mboxw (fld w 14 6) (fld w 20 6))
  | _ => .error .code

/-- R108: the codes of major 0x54. -/
noncomputable def decode54 (w : Nat) : Except DecodeError Instr :=
  match w / 2 ^ 26 % 64 with
  | 0x01 => row w [] (.c1hadd (fld w 8 6) (fld w 14 6) (fld w 20 6))
  | 0x02 => row w [] (.c1hsub (fld w 8 6) (fld w 14 6) (fld w 20 6))
  | 0x03 => row w [] (.c1hmul (fld w 8 6) (fld w 14 6) (fld w 20 6))
  | 0x04 => row w [] (.c1hfma (fld w 8 6) (fld w 14 6) (fld w 20 6))
  | 0x05 => row w [] (.c1cas (fld w 8 6) (fld w 14 6) (fld w 20 6))
  | 0x06 => row w [(20, 6)] (.c1f2i (fld w 8 6) (fld w 14 6))
  | 0x07 => row w [(20, 6)] (.c1bar (fld w 8 6) (fld w 14 6))
  | _ => .error .code

/-- R108: the codes of major 0x70. -/
noncomputable def decode70 (w : Nat) : Except DecodeError Instr :=
  match w / 2 ^ 29 % 8 with
  | 0x00 => row w [] (.ldsSb (fld w 8 4) (fld w 12 6) (fld w 18 6) (fld w 24 5))
  | 0x01 => row w [] (.ldsZb (fld w 8 4) (fld w 12 6) (fld w 18 6) (fld w 24 5))
  | 0x02 => row w [] (.ldsSh (fld w 8 4) (fld w 12 6) (fld w 18 6) (fld w 24 5))
  | 0x03 => row w [] (.ldsZh (fld w 8 4) (fld w 12 6) (fld w 18 6) (fld w 24 5))
  | 0x04 => row w [] (.ldsW (fld w 8 4) (fld w 12 6) (fld w 18 6) (fld w 24 5))
  | 0x05 => row w [] (.ldsD (fld w 8 4) (fld w 12 6) (fld w 18 6) (fld w 24 5))
  | 0x06 => row w [] (.ldsQ (fld w 8 4) (fld w 12 6) (fld w 18 6) (fld w 24 5))
  | _ => .error .code

/-- R108: the codes of major 0x71. -/
noncomputable def decode71 (w : Nat) : Except DecodeError Instr :=
  match w / 2 ^ 29 % 8 with
  | 0x00 => row w [] (.stsB (fld w 8 4) (fld w 12 6) (fld w 18 6) (fld w 24 5))
  | 0x01 => row w [] (.stsH (fld w 8 4) (fld w 12 6) (fld w 18 6) (fld w 24 5))
  | 0x02 => row w [] (.stsW (fld w 8 4) (fld w 12 6) (fld w 18 6) (fld w 24 5))
  | 0x03 => row w [] (.stsD (fld w 8 4) (fld w 12 6) (fld w 18 6) (fld w 24 5))
  | 0x04 => row w [] (.stsQ (fld w 8 4) (fld w 12 6) (fld w 18 6) (fld w 24 5))
  | _ => .error .code

/-- R108: the codes of major 0x74. -/
noncomputable def decode74 (w : Nat) : Except DecodeError Instr :=
  match w / 2 ^ 24 % 16 with
  | 0x00 => row w [(30, 2)] (.atomAdd (fld w 8 4) (fld w 12 6) (fld w 18 6) (fld w 28 2))
  | 0x01 => row w [(30, 2)] (.atomAnd (fld w 8 4) (fld w 12 6) (fld w 18 6) (fld w 28 2))
  | 0x02 => row w [(30, 2)] (.atomOr (fld w 8 4) (fld w 12 6) (fld w 18 6) (fld w 28 2))
  | 0x03 => row w [(30, 2)] (.atomXor (fld w 8 4) (fld w 12 6) (fld w 18 6) (fld w 28 2))
  | 0x04 => row w [(30, 2)] (.atomMin (fld w 8 4) (fld w 12 6) (fld w 18 6) (fld w 28 2))
  | 0x05 => row w [(30, 2)] (.atomMax (fld w 8 4) (fld w 12 6) (fld w 18 6) (fld w 28 2))
  | 0x06 => row w [(30, 2)] (.atomUmin (fld w 8 4) (fld w 12 6) (fld w 18 6) (fld w 28 2))
  | 0x07 => row w [(30, 2)] (.atomUmax (fld w 8 4) (fld w 12 6) (fld w 18 6) (fld w 28 2))
  | 0x08 => row w [(30, 2)] (.atomXchg (fld w 8 4) (fld w 12 6) (fld w 18 6) (fld w 28 2))
  | 0x09 => row w [(30, 2)] (.atomCas (fld w 8 4) (fld w 12 6) (fld w 18 6) (fld w 28 2))
  | 0x0A => row w [(30, 2)] (.atomFadd (fld w 8 4) (fld w 12 6) (fld w 18 6) (fld w 28 2))
  | 0x0B => row w [(30, 2)] (.atomFmin (fld w 8 4) (fld w 12 6) (fld w 18 6) (fld w 28 2))
  | 0x0C => row w [(30, 2)] (.atomFmax (fld w 8 4) (fld w 12 6) (fld w 18 6) (fld w 28 2))
  | 0x0D => row w [(30, 2)] (.atomAddD (fld w 8 4) (fld w 12 6) (fld w 18 6) (fld w 28 2))
  | 0x0E => row w [(30, 2)] (.atomXchgD (fld w 8 4) (fld w 12 6) (fld w 18 6) (fld w 28 2))
  | _ => row w [(30, 2)] (.atomCasD (fld w 8 4) (fld w 12 6) (fld w 18 6) (fld w 28 2))

/-- R108: the codes of major 0x75. -/
noncomputable def decode75 (w : Nat) : Except DecodeError Instr :=
  match w / 2 ^ 24 % 16 with
  | 0x00 => row w [(30, 2)] (.redAdd (fld w 8 4) (fld w 12 6) (fld w 18 6) (fld w 28 2))
  | 0x01 => row w [(30, 2)] (.redAnd (fld w 8 4) (fld w 12 6) (fld w 18 6) (fld w 28 2))
  | 0x02 => row w [(30, 2)] (.redOr (fld w 8 4) (fld w 12 6) (fld w 18 6) (fld w 28 2))
  | 0x03 => row w [(30, 2)] (.redXor (fld w 8 4) (fld w 12 6) (fld w 18 6) (fld w 28 2))
  | 0x04 => row w [(30, 2)] (.redMin (fld w 8 4) (fld w 12 6) (fld w 18 6) (fld w 28 2))
  | 0x05 => row w [(30, 2)] (.redMax (fld w 8 4) (fld w 12 6) (fld w 18 6) (fld w 28 2))
  | 0x06 => row w [(30, 2)] (.redUmin (fld w 8 4) (fld w 12 6) (fld w 18 6) (fld w 28 2))
  | 0x07 => row w [(30, 2)] (.redUmax (fld w 8 4) (fld w 12 6) (fld w 18 6) (fld w 28 2))
  | 0x08 => row w [(30, 2)] (.redFadd (fld w 8 4) (fld w 12 6) (fld w 18 6) (fld w 28 2))
  | 0x09 => row w [(30, 2)] (.redFmin (fld w 8 4) (fld w 12 6) (fld w 18 6) (fld w 28 2))
  | 0x0A => row w [(30, 2)] (.redFmax (fld w 8 4) (fld w 12 6) (fld w 18 6) (fld w 28 2))
  | 0x0B => row w [(30, 2)] (.redAddD (fld w 8 4) (fld w 12 6) (fld w 18 6) (fld w 28 2))
  | _ => .error .code

/-- R108: the codes of major 0x76. -/
noncomputable def decode76 (w : Nat) : Except DecodeError Instr :=
  match w / 2 ^ 8 % 16 with
  | 0x00 => row w [] (.cpyG2s (fld w 12 6) (fld w 18 6) (fld w 24 6) (fld w 30 2))
  | 0x01 => row w [] (.cpyS2g (fld w 12 6) (fld w 18 6) (fld w 24 6) (fld w 30 2))
  | 0x02 => row w [] (.cpyG2s2d (fld w 12 6) (fld w 18 6) (fld w 24 6) (fld w 30 2))
  | 0x03 => row w [] (.cpyS2g2d (fld w 12 6) (fld w 18 6) (fld w 24 6) (fld w 30 2))
  | 0x04 => row w [] (.cpyG2g (fld w 12 6) (fld w 18 6) (fld w 24 6) (fld w 30 2))
  | _ => .error .code

/-- R108: the codes of major 0x77. -/
noncomputable def decode77 (w : Nat) : Except DecodeError Instr :=
  match w / 2 ^ 26 % 64 with
  | 0x00 => row w [(14, 12)] (.cbclose (fld w 8 6))
  | 0x01 => row w [(8, 6), (20, 6)] (.cwait (fld w 14 6))
  | 0x02 => row w [(14, 12)] (.cqry (fld w 8 6))
  | _ => .error .code

/-- R108: the codes of major 0x78. -/
noncomputable def decode78 (w : Nat) : Except DecodeError Instr :=
  match w / 2 ^ 26 % 64 with
  | 0x00 => row w [(20, 6)] (.salloc (fld w 8 6) (fld w 14 6))
  | 0x01 => row w [(8, 6), (20, 6)] (.sfree (fld w 14 6))
  | 0x02 => row w [(8, 6), (20, 6)] (.smap (fld w 14 6))
  | 0x03 => row w [(8, 6), (20, 6)] (.sunmap (fld w 14 6))
  | 0x04 => row w [(8, 6), (20, 6)] (.sflush (fld w 14 6))
  | _ => .error .code

/-- R108: the codes of major 0x79. -/
noncomputable def decode79 (w : Nat) : Except DecodeError Instr :=
  match w / 2 ^ 8 % 16 with
  | 0x00 => row w [(14, 18)] (.fenceRel (fld w 12 2))
  | 0x01 => row w [(14, 18)] (.fenceAcq (fld w 12 2))
  | 0x02 => row w [(14, 18)] (.fenceAr (fld w 12 2))
  | 0x03 => row w [(14, 18)] (.fenceSc (fld w 12 2))
  | _ => .error .code

/-- R108: the codes of major 0x7A. -/
noncomputable def decode7A (w : Nat) : Except DecodeError Instr :=
  match w / 2 ^ 26 % 64 with
  | 0x00 => row w [(8, 6), (18, 2)] (.barInit (fld w 14 4) (fld w 20 6))
  | 0x01 => row w [(18, 8)] (.barArrive (fld w 8 6) (fld w 14 4))
  | 0x02 => row w [(8, 6), (18, 2)] (.barWait (fld w 14 4) (fld w 20 6))
  | 0x03 => row w [(8, 6), (18, 8)] (.barSync (fld w 14 4))
  | 0x04 => row w [(8, 6), (17, 3)] (.qinit (fld w 14 3) (fld w 20 6))
  | 0x05 => row w [(8, 6), (17, 3)] (.qpush (fld w 14 3) (fld w 20 6))
  | 0x06 => row w [(17, 9)] (.qpop (fld w 8 6) (fld w 14 3))
  | 0x07 => row w [(17, 3)] (.qtry (fld w 8 6) (fld w 14 3) (fld w 20 6))
  | 0x08 => row w [(8, 6)] (.sigwait (fld w 14 6) (fld w 20 6))
  | _ => .error .code

/-- R108: the codes of major 0x7B. -/
noncomputable def decode7B (w : Nat) : Except DecodeError Instr :=
  match w / 2 ^ 26 % 64 with
  | 0x00 => row w [(8, 18)] .txbegin
  | 0x01 => row w [(17, 9)] (.txend (fld w 8 6) (fld w 14 3))
  | 0x02 => row w [(8, 18)] .txirr
  | 0x03 => row w [(8, 18)] .txire
  | 0x04 => row w [(8, 12)] (.txabort (fld w 20 6))
  | 0x05 => row w [(14, 12)] (.txqry (fld w 8 6))
  | _ => .error .code

/-- R108: the codes of major 0x7C. -/
noncomputable def decode7C (w : Nat) : Except DecodeError Instr :=
  match w / 2 ^ 28 % 16 with
  | 0x00 => row w [] (.mma (fld w 8 4) (fld w 12 2) (fld w 14 2) (fld w 16 4) (fld w 20 2) (fld w 22 3) (fld w 25 3))
  | 0x01 => row w [] (.mmaz (fld w 8 4) (fld w 12 2) (fld w 14 2) (fld w 16 4) (fld w 20 2) (fld w 22 3) (fld w 25 3))
  | 0x02 => row w [] (.mmai (fld w 8 4) (fld w 12 2) (fld w 14 2) (fld w 16 4) (fld w 20 2) (fld w 22 3) (fld w 25 3))
  | 0x03 => row w [] (.mmaiz (fld w 8 4) (fld w 12 2) (fld w 14 2) (fld w 16 4) (fld w 20 2) (fld w 22 3) (fld w 25 3))
  | _ => .error .code

/-- R108: the codes of major 0x7F. -/
noncomputable def decode7F (w : Nat) : Except DecodeError Instr :=
  match w / 2 ^ 26 % 64 with
  | 0x00 => row w [(8, 18)] .macq
  | 0x01 => row w [(8, 18)] .mrel
  | 0x02 => row w [(8, 18)] .mwait
  | 0x03 => row w [(8, 6), (16, 10)] (.mzero (fld w 14 2))
  | 0x04 => row w [(16, 4), (22, 4)] (.mld (fld w 8 6) (fld w 14 2) (fld w 20 2))
  | 0x05 => row w [(16, 4), (22, 4)] (.mst (fld w 8 6) (fld w 14 2) (fld w 20 2))
  | _ => .error .code

/-- R96, R107: the 32-bit word: the major opcode selects the rest. -/
noncomputable def decodeWord (w : Nat) : Except DecodeError Instr :=
  match w / 2 % 128 with
  | 0x00 => .error .majorZero
  | 0x01 => decode01 w
  | 0x02 => decode02 w
  | 0x03 => decode03 w
  | 0x04 => row w [] (.iaddi (fld w 8 6) (fld w 14 6) (fld w 20 12))
  | 0x05 => row w [] (.andi (fld w 8 6) (fld w 14 6) (fld w 20 12))
  | 0x06 => row w [] (.ori (fld w 8 6) (fld w 14 6) (fld w 20 12))
  | 0x07 => row w [] (.xori (fld w 8 6) (fld w 14 6) (fld w 20 12))
  | 0x08 => row w [(25, 7)] (.shli (fld w 8 6) (fld w 14 6) (fld w 20 5))
  | 0x09 => row w [(25, 7)] (.shri (fld w 8 6) (fld w 14 6) (fld w 20 5))
  | 0x0A => row w [(25, 7)] (.sari (fld w 8 6) (fld w 14 6) (fld w 20 5))
  | 0x0B => row w [] (.movk (fld w 8 6) (fld w 14 18))
  | 0x0C => row w [] (.movkh (fld w 8 6) (fld w 14 18))
  | 0x0D => row w [] (.imad (fld w 8 6) (fld w 14 6) (fld w 20 6) (fld w 26 6))
  | 0x0E => row w [] (.bfi (fld w 8 6) (fld w 14 6) (fld w 20 6) (fld w 26 6))
  | 0x0F => row w [(30, 2)] (.sel (fld w 8 6) (fld w 14 6) (fld w 20 6) (fld w 26 3) (fld1 w 29))
  | 0x10 => decode10 w
  | 0x11 => decode11 w
  | 0x12 => row w [] (.ffma (fld w 8 6) (fld w 14 6) (fld w 20 6) (fld w 26 6))
  | 0x13 => row w [] (.ffms (fld w 8 6) (fld w 14 6) (fld w 20 6) (fld w 26 6))
  | 0x14 => row w [] (.ffnma (fld w 8 6) (fld w 14 6) (fld w 20 6) (fld w 26 6))
  | 0x15 => row w [] (.ffmaRz (fld w 8 6) (fld w 14 6) (fld w 20 6) (fld w 26 6))
  | 0x16 => row w [] (.ffmaRd (fld w 8 6) (fld w 14 6) (fld w 20 6) (fld w 26 6))
  | 0x17 => row w [] (.ffmaRu (fld w 8 6) (fld w 14 6) (fld w 20 6) (fld w 26 6))
  | 0x18 => if w / 2 ^ 29 % 8 < 6 ∧ w / 2 ^ 26 % 8 < 6 then row w [(11, 3)] (.cmp (fld w 8 3) (fld w 14 6) (fld w 20 6) (fld w 26 3) (fld w 29 3)) else .error .code
  | 0x19 => if w / 2 ^ 29 % 8 < 6 ∧ w / 2 ^ 26 % 8 < 6 then row w [(11, 3)] (.cmpVs (fld w 8 3) (fld w 14 6) (fld w 20 6) (fld w 26 3) (fld w 29 3)) else .error .code
  | 0x1A => row w [] (.cmpi (fld w 8 3) (fld w 11 3) (fld w 14 6) (fld w 20 12))
  | 0x1B => decode1B w
  | 0x1C => decode1C w
  | 0x1D => row w [] (.hfma2 (fld w 8 6) (fld w 14 6) (fld w 20 6) (fld w 26 6))
  | 0x1E => row w [] (.bfma2 (fld w 8 6) (fld w 14 6) (fld w 20 6) (fld w 26 6))
  | 0x1F => decode1F w
  | 0x20 => decode20 w
  | 0x21 => decode21 w
  | 0x22 => decode22 w
  | 0x23 => decode23 w
  | 0x24 => decode24 w
  | 0x25 => decode25 w
  | 0x26 => decode26 w
  | 0x30 => decode30 w
  | 0x31 => row w [] (.iaddiS (fld w 8 6) (fld w 14 6) (fld w 20 12))
  | 0x32 => row w [] (.andiS (fld w 8 6) (fld w 14 6) (fld w 20 12))
  | 0x33 => row w [] (.oriS (fld w 8 6) (fld w 14 6) (fld w 20 12))
  | 0x34 => row w [] (.xoriS (fld w 8 6) (fld w 14 6) (fld w 20 12))
  | 0x35 => row w [(25, 7)] (.shliS (fld w 8 6) (fld w 14 6) (fld w 20 5))
  | 0x36 => row w [(25, 7)] (.shriS (fld w 8 6) (fld w 14 6) (fld w 20 5))
  | 0x37 => row w [(25, 7)] (.sariS (fld w 8 6) (fld w 14 6) (fld w 20 5))
  | 0x38 => row w [] (.movkS (fld w 8 6) (fld w 14 18))
  | 0x39 => row w [] (.movkhS (fld w 8 6) (fld w 14 18))
  | 0x3A => row w [] (.imadS (fld w 8 6) (fld w 14 6) (fld w 20 6) (fld w 26 6))
  | 0x3B => row w [] (.ssel (fld w 8 6) (fld w 14 6) (fld w 20 6) (fld w 26 6))
  | 0x3C => decode3C w
  | 0x40 => row w [(12, 4)] (.ifP (fld w 8 3) (fld1 w 11) (fld w 16 16))
  | 0x41 => row w [(8, 4)] (.elseP (fld w 12 20))
  | 0x42 => row w [(8, 24)] .endif
  | 0x43 => row w [(8, 4)] (.loop (fld w 12 20))
  | 0x44 => row w [(8, 4)] (.endloop (fld w 12 20))
  | 0x45 => row w [] (.brk (fld w 8 3) (fld1 w 11) (fld w 12 4) (fld w 16 16))
  | 0x46 => row w [(12, 4)] (.bra (fld w 8 3) (fld1 w 11) (fld w 16 16))
  | 0x47 => row w [(8, 4)] (.jmp (fld w 12 20))
  | 0x48 => row w [] (.bsc (fld w 8 6) (fld w 14 2) (fld w 16 16))
  | 0x49 => row w [(8, 4)] (.call (fld w 12 20))
  | 0x4A => decode4A w
  | 0x4B => decode4B w
  | 0x4C => decode4C w
  | 0x4D => row w [(8, 24)] .join
  | 0x4E => decode4E w
  | 0x4F => row w [(8, 4), (24, 8)] (.safe (fld w 12 12))
  | 0x50 => decode50 w
  | 0x51 => decode51 w
  | 0x52 => decode52 w
  | 0x53 => decode53 w
  | 0x54 => decode54 w
  | 0x60 => row w [] (.ldgSb (fld w 8 4) (fld w 12 6) (fld w 18 6) (fld w 24 5) (fld1 w 29) (fld w 30 2))
  | 0x61 => row w [] (.ldgZb (fld w 8 4) (fld w 12 6) (fld w 18 6) (fld w 24 5) (fld1 w 29) (fld w 30 2))
  | 0x62 => row w [] (.ldgSh (fld w 8 4) (fld w 12 6) (fld w 18 6) (fld w 24 5) (fld1 w 29) (fld w 30 2))
  | 0x63 => row w [] (.ldgZh (fld w 8 4) (fld w 12 6) (fld w 18 6) (fld w 24 5) (fld1 w 29) (fld w 30 2))
  | 0x64 => row w [] (.ldgW (fld w 8 4) (fld w 12 6) (fld w 18 6) (fld w 24 5) (fld1 w 29) (fld w 30 2))
  | 0x65 => row w [] (.ldgD (fld w 8 4) (fld w 12 6) (fld w 18 6) (fld w 24 5) (fld1 w 29) (fld w 30 2))
  | 0x66 => row w [] (.ldgQ (fld w 8 4) (fld w 12 6) (fld w 18 6) (fld w 24 5) (fld1 w 29) (fld w 30 2))
  | 0x67 => row w [] (.stgB (fld w 8 4) (fld w 12 6) (fld w 18 6) (fld w 24 5) (fld1 w 29) (fld w 30 2))
  | 0x68 => row w [] (.stgH (fld w 8 4) (fld w 12 6) (fld w 18 6) (fld w 24 5) (fld1 w 29) (fld w 30 2))
  | 0x69 => row w [] (.stgW (fld w 8 4) (fld w 12 6) (fld w 18 6) (fld w 24 5) (fld1 w 29) (fld w 30 2))
  | 0x6A => row w [] (.stgD (fld w 8 4) (fld w 12 6) (fld w 18 6) (fld w 24 5) (fld1 w 29) (fld w 30 2))
  | 0x6B => row w [] (.stgQ (fld w 8 4) (fld w 12 6) (fld w 18 6) (fld w 24 5) (fld1 w 29) (fld w 30 2))
  | 0x6C => row w [] (.ldaW (fld w 8 4) (fld w 12 6) (fld w 18 6) (fld w 24 5) (fld1 w 29) (fld w 30 2))
  | 0x6D => row w [] (.ldaD (fld w 8 4) (fld w 12 6) (fld w 18 6) (fld w 24 5) (fld1 w 29) (fld w 30 2))
  | 0x6E => row w [] (.stlW (fld w 8 4) (fld w 12 6) (fld w 18 6) (fld w 24 5) (fld1 w 29) (fld w 30 2))
  | 0x6F => row w [] (.stlD (fld w 8 4) (fld w 12 6) (fld w 18 6) (fld w 24 5) (fld1 w 29) (fld w 30 2))
  | 0x70 => decode70 w
  | 0x71 => decode71 w
  | 0x72 => row w [] (.stgc (fld w 8 4) (fld w 12 6) (fld w 18 6) (fld w 24 5) (fld1 w 29) (fld w 30 2))
  | 0x73 => row w [(12, 6)] (.pfg (fld w 8 4) (fld w 18 6) (fld w 24 5) (fld1 w 29) (fld w 30 2))
  | 0x74 => decode74 w
  | 0x75 => decode75 w
  | 0x76 => decode76 w
  | 0x77 => decode77 w
  | 0x78 => decode78 w
  | 0x79 => decode79 w
  | 0x7A => decode7A w
  | 0x7B => decode7B w
  | 0x7C => decode7C w
  | 0x7D => row w [] (.mmas (fld w 8 4) (fld w 12 2) (fld w 14 6) (fld w 20 4) (fld w 24 2) (fld w 26 3) (fld w 29 3))
  | 0x7E => row w [] (.mmasz (fld w 8 4) (fld w 12 2) (fld w 14 6) (fld w 20 4) (fld w 24 2) (fld w 26 3) (fld w 29 3))
  | 0x7F => decode7F w
  | _ => .error .major

/-- R93: bytes to an instruction and the bytes that follow it. Bit 0 of the first unit gives the
length; units are little-endian. -/
noncomputable def decode (bs : List Byte) : Except DecodeError (Instr × List Byte) :=
  match bs with
  | b0 :: b1 :: rest =>
    if b0.toNat % 2 = 0 then .ok (decodeHalf (b0.toNat + 256 * b1.toNat), rest)
    else
      match rest with
      | b2 :: b3 :: rest' =>
        match decodeWord (b0.toNat + 256 * b1.toNat + 65536 * b2.toNat + 16777216 * b3.toNat) with
        | .ok i => .ok (i, rest')
        | .error e => .error e
      | _ => .error .truncated
  | _ => .error .truncated

/-- An encoded instruction: one unit or two. -/
inductive Code where
  | half (w : Nat)
  | word (w : Nat)
  deriving DecidableEq, Repr

/-- `n` bytes of a number, least significant first. -/
def bytesLE (n w : Nat) : List Byte :=
  match n with
  | 0 => []
  | n + 1 => BitVec.ofNat 8 w :: bytesLE n (w / 256)

/-- A code from its fixed bits and its fields, each with its lowest bit. -/
def codeOf (fixed : Nat) (fields : List (Nat × Nat)) : Nat :=
  fields.foldl (fun n f => n + f.2 * 2 ^ f.1) fixed

/-- A code's bytes in memory (R93). -/
def Code.bytes : Code → List Byte
  | .half w => bytesLE 2 w
  | .word w => bytesLE 4 w

/-- The words of an instruction, from the same tables; an event of the part has none. The eight
DBGCTL commands share one word (R147). -/
def encode : Instr → Option Code
  | .spillRotation _ => none
  | .yieldExpiry _ => none
  | .mmaComplete _ => none
  | .gongEntryExecute _ => none
  | .loadDataReturn _ => none
  | .storeAcceptReply _ => none
  | .storeApply _ => none
  | .fillGrant _ _ => none
  | .atomAtHome _ => none
  | .stashOwnershipFill _ _ => none
  | .completionTimePassed _ => none
  | .wcFlushTimeout _ => none
  | .batchComplete _ => none
  | .txLaneCommit _ => none
  | .wlappAccept _ => none
  | .knellQuiescence _ => none
  | .knellDisagreement _ => none
  | .knellRecountTimeout _ => none
  | .pageWalkComplete _ _ _ => none
  | .carillonFaultService _ => none
  | .uncorrectableError _ => none
  | .breakpointStop _ _ => none
  | .queueTailWrite _ => none
  | .graph _ => none
  | .xferPacket _ => none
  | .checkpoint _ => none
  | .signal _ => none
  | .waitsig _ => none
  | .waitsigSatisfied _ _ => none
  | .packetComplete _ => none
  | .graphNodeComplete _ _ => none
  | .launchAccept _ => none
  | .blockPlacement => none
  | .launchComplete _ => none
  | .timeSliceExpiry _ => none
  | .blockRestore _ => none
  | .waitbudgetExpiry _ => none
  | .checkpointBoundary _ => none
  | .checkpointCommit _ => none
  | .fabricRequest _ _ _ _ => none
  | .contextCreate => none
  | .contextDestroy => none
  | .contextResume => none
  | .contextPreempt => none
  | .translationInvalidate => none
  | .faultReply => none
  | .queueRestart => none
  | .checkpointNotice => none
  | .update => none
  | .rollBack => none
  | .microcode => none
  | .microcodeWindow _ => none
  | .coreRetire => none
  | .autoCoreRetire _ _ => none
  | .errorEntryClear => none
  | .powerCap => none
  | .unknownCommand => none
  | .doorbellOverrun _ => none
  | .statusRead => none
  | .registerPageWrite _ _ => none
  | .heartbeat => none
  | .watchdogMiss => none
  | .probationEnd => none
  | .standbyTakeover => none
  | .stateTableMirror => none
  | .powerOn => none
  | .frequencyStep _ _ => none
  | .relockEnd _ => none
  | .junction105 _ => none
  | .junction115 => none
  | .powerRefresh _ => none
  | .skewMeasurement _ _ => none
  | .flitCrcFailure _ _ => none
  | .linkRetrainEnd _ => none
  | .hbmCorrectableError _ _ _ => none
  | .pseudoChannelFailure _ _ => none
  | .wordNotInstruction _ _ _ _ => none
  | .l1Eviction _ _ => none
  | .l2Eviction _ => none
  | .copyComplete _ _ => none
  | .checkpointPageCopy _ _ => none
  | .powerLoss => none
  | .fdiv la d a b => some (.word (codeOf 0x49 [(8, la.toNat), (12, d.toNat), (18, a.toNat), (24, b.toNat)]))
  | .fsqrt la d a => some (.word (codeOf 0x40000049 [(8, la.toNat), (12, d.toNat), (18, a.toNat)]))
  | .frcp la d a => some (.word (codeOf 0x80000049 [(8, la.toNat), (12, d.toNat), (18, a.toNat)]))
  | .frsq la d a => some (.word (codeOf 0xC0000049 [(8, la.toNat), (12, d.toNat), (18, a.toNat)]))
  | .fexp2 la d a => some (.word (codeOf 0x4B [(8, la.toNat), (12, d.toNat), (18, a.toNat)]))
  | .flog2 la d a => some (.word (codeOf 0x4000004B [(8, la.toNat), (12, d.toNat), (18, a.toNat)]))
  | .fsint la d a => some (.word (codeOf 0x8000004B [(8, la.toNat), (12, d.toNat), (18, a.toNat)]))
  | .fcost la d a => some (.word (codeOf 0xC000004B [(8, la.toNat), (12, d.toNat), (18, a.toNat)]))
  | .ftanh la d a => some (.word (codeOf 0x4D [(8, la.toNat), (12, d.toNat), (18, a.toNat)]))
  | .fsigm la d a => some (.word (codeOf 0x4000004D [(8, la.toNat), (12, d.toNat), (18, a.toNat)]))
  | .ferf la d a => some (.word (codeOf 0x8000004D [(8, la.toNat), (12, d.toNat), (18, a.toNat)]))
  | .launch la d a => some (.word (codeOf 0xA5 [(8, la.toNat), (12, d.toNat), (18, a.toNat)]))
  | .wlapp la a b => some (.word (codeOf 0x400000A5 [(8, la.toNat), (18, a.toNat), (24, b.toNat)]))
  | .wltake la d a b => some (.word (codeOf 0x800000A5 [(8, la.toNat), (12, d.toNat), (18, a.toNat), (24, b.toNat)]))
  | .c1hadd d a b => some (.word (codeOf 0x40000A9 [(8, d.toNat), (14, a.toNat), (20, b.toNat)]))
  | .c1hsub d a b => some (.word (codeOf 0x80000A9 [(8, d.toNat), (14, a.toNat), (20, b.toNat)]))
  | .c1hmul d a b => some (.word (codeOf 0xC0000A9 [(8, d.toNat), (14, a.toNat), (20, b.toNat)]))
  | .c1hfma d a b => some (.word (codeOf 0x100000A9 [(8, d.toNat), (14, a.toNat), (20, b.toNat)]))
  | .c1cas d a b => some (.word (codeOf 0x140000A9 [(8, d.toNat), (14, a.toNat), (20, b.toNat)]))
  | .c1f2i d a => some (.word (codeOf 0x180000A9 [(8, d.toNat), (14, a.toNat)]))
  | .c1bar d a => some (.word (codeOf 0x1C0000A9 [(8, d.toNat), (14, a.toNat)]))
  | .ldgSb la d a s m p => some (.word (codeOf 0xC1 [(8, la.toNat), (12, d.toNat), (18, a.toNat), (24, s.toNat), (29, m.toNat), (30, p.toNat)]))
  | .ldgZb la d a s m p => some (.word (codeOf 0xC3 [(8, la.toNat), (12, d.toNat), (18, a.toNat), (24, s.toNat), (29, m.toNat), (30, p.toNat)]))
  | .ldgSh la d a s m p => some (.word (codeOf 0xC5 [(8, la.toNat), (12, d.toNat), (18, a.toNat), (24, s.toNat), (29, m.toNat), (30, p.toNat)]))
  | .ldgZh la d a s m p => some (.word (codeOf 0xC7 [(8, la.toNat), (12, d.toNat), (18, a.toNat), (24, s.toNat), (29, m.toNat), (30, p.toNat)]))
  | .ldgW la d a s m p => some (.word (codeOf 0xC9 [(8, la.toNat), (12, d.toNat), (18, a.toNat), (24, s.toNat), (29, m.toNat), (30, p.toNat)]))
  | .ldgD la d a s m p => some (.word (codeOf 0xCB [(8, la.toNat), (12, d.toNat), (18, a.toNat), (24, s.toNat), (29, m.toNat), (30, p.toNat)]))
  | .ldgQ la d a s m p => some (.word (codeOf 0xCD [(8, la.toNat), (12, d.toNat), (18, a.toNat), (24, s.toNat), (29, m.toNat), (30, p.toNat)]))
  | .stgB la d a s m p => some (.word (codeOf 0xCF [(8, la.toNat), (12, d.toNat), (18, a.toNat), (24, s.toNat), (29, m.toNat), (30, p.toNat)]))
  | .stgH la d a s m p => some (.word (codeOf 0xD1 [(8, la.toNat), (12, d.toNat), (18, a.toNat), (24, s.toNat), (29, m.toNat), (30, p.toNat)]))
  | .stgW la d a s m p => some (.word (codeOf 0xD3 [(8, la.toNat), (12, d.toNat), (18, a.toNat), (24, s.toNat), (29, m.toNat), (30, p.toNat)]))
  | .stgD la d a s m p => some (.word (codeOf 0xD5 [(8, la.toNat), (12, d.toNat), (18, a.toNat), (24, s.toNat), (29, m.toNat), (30, p.toNat)]))
  | .stgQ la d a s m p => some (.word (codeOf 0xD7 [(8, la.toNat), (12, d.toNat), (18, a.toNat), (24, s.toNat), (29, m.toNat), (30, p.toNat)]))
  | .ldaW la d a s m c => some (.word (codeOf 0xD9 [(8, la.toNat), (12, d.toNat), (18, a.toNat), (24, s.toNat), (29, m.toNat), (30, c.toNat)]))
  | .ldaD la d a s m c => some (.word (codeOf 0xDB [(8, la.toNat), (12, d.toNat), (18, a.toNat), (24, s.toNat), (29, m.toNat), (30, c.toNat)]))
  | .stlW la d a s m c => some (.word (codeOf 0xDD [(8, la.toNat), (12, d.toNat), (18, a.toNat), (24, s.toNat), (29, m.toNat), (30, c.toNat)]))
  | .stlD la d a s m c => some (.word (codeOf 0xDF [(8, la.toNat), (12, d.toNat), (18, a.toNat), (24, s.toNat), (29, m.toNat), (30, c.toNat)]))
  | .ldsSb la d a s => some (.word (codeOf 0xE1 [(8, la.toNat), (12, d.toNat), (18, a.toNat), (24, s.toNat)]))
  | .ldsZb la d a s => some (.word (codeOf 0x200000E1 [(8, la.toNat), (12, d.toNat), (18, a.toNat), (24, s.toNat)]))
  | .ldsSh la d a s => some (.word (codeOf 0x400000E1 [(8, la.toNat), (12, d.toNat), (18, a.toNat), (24, s.toNat)]))
  | .ldsZh la d a s => some (.word (codeOf 0x600000E1 [(8, la.toNat), (12, d.toNat), (18, a.toNat), (24, s.toNat)]))
  | .ldsW la d a s => some (.word (codeOf 0x800000E1 [(8, la.toNat), (12, d.toNat), (18, a.toNat), (24, s.toNat)]))
  | .ldsD la d a s => some (.word (codeOf 0xA00000E1 [(8, la.toNat), (12, d.toNat), (18, a.toNat), (24, s.toNat)]))
  | .ldsQ la d a s => some (.word (codeOf 0xC00000E1 [(8, la.toNat), (12, d.toNat), (18, a.toNat), (24, s.toNat)]))
  | .stsB la d a s => some (.word (codeOf 0xE3 [(8, la.toNat), (12, d.toNat), (18, a.toNat), (24, s.toNat)]))
  | .stsH la d a s => some (.word (codeOf 0x200000E3 [(8, la.toNat), (12, d.toNat), (18, a.toNat), (24, s.toNat)]))
  | .stsW la d a s => some (.word (codeOf 0x400000E3 [(8, la.toNat), (12, d.toNat), (18, a.toNat), (24, s.toNat)]))
  | .stsD la d a s => some (.word (codeOf 0x600000E3 [(8, la.toNat), (12, d.toNat), (18, a.toNat), (24, s.toNat)]))
  | .stsQ la d a s => some (.word (codeOf 0x800000E3 [(8, la.toNat), (12, d.toNat), (18, a.toNat), (24, s.toNat)]))
  | .stgc la d a s m p => some (.word (codeOf 0xE5 [(8, la.toNat), (12, d.toNat), (18, a.toNat), (24, s.toNat), (29, m.toNat), (30, p.toNat)]))
  | .pfg la a s m p => some (.word (codeOf 0xE7 [(8, la.toNat), (18, a.toNat), (24, s.toNat), (29, m.toNat), (30, p.toNat)]))
  | .atomAdd la d a c => some (.word (codeOf 0xE9 [(8, la.toNat), (12, d.toNat), (18, a.toNat), (28, c.toNat)]))
  | .atomAnd la d a c => some (.word (codeOf 0x10000E9 [(8, la.toNat), (12, d.toNat), (18, a.toNat), (28, c.toNat)]))
  | .atomOr la d a c => some (.word (codeOf 0x20000E9 [(8, la.toNat), (12, d.toNat), (18, a.toNat), (28, c.toNat)]))
  | .atomXor la d a c => some (.word (codeOf 0x30000E9 [(8, la.toNat), (12, d.toNat), (18, a.toNat), (28, c.toNat)]))
  | .atomMin la d a c => some (.word (codeOf 0x40000E9 [(8, la.toNat), (12, d.toNat), (18, a.toNat), (28, c.toNat)]))
  | .atomMax la d a c => some (.word (codeOf 0x50000E9 [(8, la.toNat), (12, d.toNat), (18, a.toNat), (28, c.toNat)]))
  | .atomUmin la d a c => some (.word (codeOf 0x60000E9 [(8, la.toNat), (12, d.toNat), (18, a.toNat), (28, c.toNat)]))
  | .atomUmax la d a c => some (.word (codeOf 0x70000E9 [(8, la.toNat), (12, d.toNat), (18, a.toNat), (28, c.toNat)]))
  | .atomXchg la d a c => some (.word (codeOf 0x80000E9 [(8, la.toNat), (12, d.toNat), (18, a.toNat), (28, c.toNat)]))
  | .atomCas la d a c => some (.word (codeOf 0x90000E9 [(8, la.toNat), (12, d.toNat), (18, a.toNat), (28, c.toNat)]))
  | .atomFadd la d a c => some (.word (codeOf 0xA0000E9 [(8, la.toNat), (12, d.toNat), (18, a.toNat), (28, c.toNat)]))
  | .atomFmin la d a c => some (.word (codeOf 0xB0000E9 [(8, la.toNat), (12, d.toNat), (18, a.toNat), (28, c.toNat)]))
  | .atomFmax la d a c => some (.word (codeOf 0xC0000E9 [(8, la.toNat), (12, d.toNat), (18, a.toNat), (28, c.toNat)]))
  | .atomAddD la d a c => some (.word (codeOf 0xD0000E9 [(8, la.toNat), (12, d.toNat), (18, a.toNat), (28, c.toNat)]))
  | .atomXchgD la d a c => some (.word (codeOf 0xE0000E9 [(8, la.toNat), (12, d.toNat), (18, a.toNat), (28, c.toNat)]))
  | .atomCasD la d a c => some (.word (codeOf 0xF0000E9 [(8, la.toNat), (12, d.toNat), (18, a.toNat), (28, c.toNat)]))
  | .redAdd la d a c => some (.word (codeOf 0xEB [(8, la.toNat), (12, d.toNat), (18, a.toNat), (28, c.toNat)]))
  | .redAnd la d a c => some (.word (codeOf 0x10000EB [(8, la.toNat), (12, d.toNat), (18, a.toNat), (28, c.toNat)]))
  | .redOr la d a c => some (.word (codeOf 0x20000EB [(8, la.toNat), (12, d.toNat), (18, a.toNat), (28, c.toNat)]))
  | .redXor la d a c => some (.word (codeOf 0x30000EB [(8, la.toNat), (12, d.toNat), (18, a.toNat), (28, c.toNat)]))
  | .redMin la d a c => some (.word (codeOf 0x40000EB [(8, la.toNat), (12, d.toNat), (18, a.toNat), (28, c.toNat)]))
  | .redMax la d a c => some (.word (codeOf 0x50000EB [(8, la.toNat), (12, d.toNat), (18, a.toNat), (28, c.toNat)]))
  | .redUmin la d a c => some (.word (codeOf 0x60000EB [(8, la.toNat), (12, d.toNat), (18, a.toNat), (28, c.toNat)]))
  | .redUmax la d a c => some (.word (codeOf 0x70000EB [(8, la.toNat), (12, d.toNat), (18, a.toNat), (28, c.toNat)]))
  | .redFadd la d a c => some (.word (codeOf 0x80000EB [(8, la.toNat), (12, d.toNat), (18, a.toNat), (28, c.toNat)]))
  | .redFmin la d a c => some (.word (codeOf 0x90000EB [(8, la.toNat), (12, d.toNat), (18, a.toNat), (28, c.toNat)]))
  | .redFmax la d a c => some (.word (codeOf 0xA0000EB [(8, la.toNat), (12, d.toNat), (18, a.toNat), (28, c.toNat)]))
  | .redAddD la d a c => some (.word (codeOf 0xB0000EB [(8, la.toNat), (12, d.toNat), (18, a.toNat), (28, c.toNat)]))
  | .cpyG2s x y n p => some (.word (codeOf 0xED [(12, x.toNat), (18, y.toNat), (24, n.toNat), (30, p.toNat)]))
  | .cpyS2g x y n p => some (.word (codeOf 0x1ED [(12, x.toNat), (18, y.toNat), (24, n.toNat), (30, p.toNat)]))
  | .cpyG2s2d x y n p => some (.word (codeOf 0x2ED [(12, x.toNat), (18, y.toNat), (24, n.toNat), (30, p.toNat)]))
  | .cpyS2g2d x y n p => some (.word (codeOf 0x3ED [(12, x.toNat), (18, y.toNat), (24, n.toNat), (30, p.toNat)]))
  | .cpyG2g x y n p => some (.word (codeOf 0x4ED [(12, x.toNat), (18, y.toNat), (24, n.toNat), (30, p.toNat)]))
  | .cbclose d => some (.word (codeOf 0xEF [(8, d.toNat)]))
  | .cwait a => some (.word (codeOf 0x40000EF [(14, a.toNat)]))
  | .cqry d => some (.word (codeOf 0x80000EF [(8, d.toNat)]))
  | .salloc d a => some (.word (codeOf 0xF1 [(8, d.toNat), (14, a.toNat)]))
  | .sfree a => some (.word (codeOf 0x40000F1 [(14, a.toNat)]))
  | .smap a => some (.word (codeOf 0x80000F1 [(14, a.toNat)]))
  | .sunmap a => some (.word (codeOf 0xC0000F1 [(14, a.toNat)]))
  | .sflush a => some (.word (codeOf 0x100000F1 [(14, a.toNat)]))
  | .fenceRel c => some (.word (codeOf 0xF3 [(12, c.toNat)]))
  | .fenceAcq c => some (.word (codeOf 0x1F3 [(12, c.toNat)]))
  | .fenceAr c => some (.word (codeOf 0x2F3 [(12, c.toNat)]))
  | .fenceSc c => some (.word (codeOf 0x3F3 [(12, c.toNat)]))
  | .barInit k b => some (.word (codeOf 0xF5 [(14, k.toNat), (20, b.toNat)]))
  | .barArrive d k => some (.word (codeOf 0x40000F5 [(8, d.toNat), (14, k.toNat)]))
  | .barWait k b => some (.word (codeOf 0x80000F5 [(14, k.toNat), (20, b.toNat)]))
  | .barSync k => some (.word (codeOf 0xC0000F5 [(14, k.toNat)]))
  | .qinit k b => some (.word (codeOf 0x100000F5 [(14, k.toNat), (20, b.toNat)]))
  | .qpush k b => some (.word (codeOf 0x140000F5 [(14, k.toNat), (20, b.toNat)]))
  | .qpop d k => some (.word (codeOf 0x180000F5 [(8, d.toNat), (14, k.toNat)]))
  | .qtry d k b => some (.word (codeOf 0x1C0000F5 [(8, d.toNat), (14, k.toNat), (20, b.toNat)]))
  | .sigwait a b => some (.word (codeOf 0x200000F5 [(14, a.toNat), (20, b.toNat)]))
  | .txbegin => some (.word (codeOf 0xF7 []))
  | .txend d a => some (.word (codeOf 0x40000F7 [(8, d.toNat), (14, a.toNat)]))
  | .txirr => some (.word (codeOf 0x80000F7 []))
  | .txire => some (.word (codeOf 0xC0000F7 []))
  | .txabort b => some (.word (codeOf 0x100000F7 [(20, b.toNat)]))
  | .txqry d => some (.word (codeOf 0x140000F7 [(8, d.toNat)]))
  | .mma la x y q c a b => some (.word (codeOf 0xF9 [(8, la.toNat), (12, x.toNat), (14, y.toNat), (16, q.toNat), (20, c.toNat), (22, a.toNat), (25, b.toNat)]))
  | .mmaz la x y q c a b => some (.word (codeOf 0x100000F9 [(8, la.toNat), (12, x.toNat), (14, y.toNat), (16, q.toNat), (20, c.toNat), (22, a.toNat), (25, b.toNat)]))
  | .mmai la x y q c a b => some (.word (codeOf 0x200000F9 [(8, la.toNat), (12, x.toNat), (14, y.toNat), (16, q.toNat), (20, c.toNat), (22, a.toNat), (25, b.toNat)]))
  | .mmaiz la x y q c a b => some (.word (codeOf 0x300000F9 [(8, la.toNat), (12, x.toNat), (14, y.toNat), (16, q.toNat), (20, c.toNat), (22, a.toNat), (25, b.toNat)]))
  | .mmas la x s q c a b => some (.word (codeOf 0xFB [(8, la.toNat), (12, x.toNat), (14, s.toNat), (20, q.toNat), (24, c.toNat), (26, a.toNat), (29, b.toNat)]))
  | .mmasz la x s q c a b => some (.word (codeOf 0xFD [(8, la.toNat), (12, x.toNat), (14, s.toNat), (20, q.toNat), (24, c.toNat), (26, a.toNat), (29, b.toNat)]))
  | .macq => some (.word (codeOf 0xFF []))
  | .mrel => some (.word (codeOf 0x40000FF []))
  | .mwait => some (.word (codeOf 0x80000FF []))
  | .mzero c => some (.word (codeOf 0xC0000FF [(14, c.toNat)]))
  | .mld d c g => some (.word (codeOf 0x100000FF [(8, d.toNat), (14, c.toNat), (20, g.toNat)]))
  | .mst d c g => some (.word (codeOf 0x140000FF [(8, d.toNat), (14, c.toNat), (20, g.toNat)]))
  | .iadd d a b => some (.word (codeOf 0x3 [(8, d.toNat), (14, a.toNat), (20, b.toNat)]))
  | .iaddVs d a b => some (.word (codeOf 0x5 [(8, d.toNat), (14, a.toNat), (20, b.toNat)]))
  | .iaddS d a b => some (.word (codeOf 0x61 [(8, d.toNat), (14, a.toNat), (20, b.toNat)]))
  | .isub d a b => some (.word (codeOf 0x4000003 [(8, d.toNat), (14, a.toNat), (20, b.toNat)]))
  | .isubVs d a b => some (.word (codeOf 0x4000005 [(8, d.toNat), (14, a.toNat), (20, b.toNat)]))
  | .isubS d a b => some (.word (codeOf 0x4000061 [(8, d.toNat), (14, a.toNat), (20, b.toNat)]))
  | .imul d a b => some (.word (codeOf 0x8000003 [(8, d.toNat), (14, a.toNat), (20, b.toNat)]))
  | .imulVs d a b => some (.word (codeOf 0x8000005 [(8, d.toNat), (14, a.toNat), (20, b.toNat)]))
  | .imulS d a b => some (.word (codeOf 0x8000061 [(8, d.toNat), (14, a.toNat), (20, b.toNat)]))
  | .imulhi d a b => some (.word (codeOf 0xC000003 [(8, d.toNat), (14, a.toNat), (20, b.toNat)]))
  | .imulhiVs d a b => some (.word (codeOf 0xC000005 [(8, d.toNat), (14, a.toNat), (20, b.toNat)]))
  | .imulhiS d a b => some (.word (codeOf 0xC000061 [(8, d.toNat), (14, a.toNat), (20, b.toNat)]))
  | .umulhi d a b => some (.word (codeOf 0x10000003 [(8, d.toNat), (14, a.toNat), (20, b.toNat)]))
  | .umulhiVs d a b => some (.word (codeOf 0x10000005 [(8, d.toNat), (14, a.toNat), (20, b.toNat)]))
  | .umulhiS d a b => some (.word (codeOf 0x10000061 [(8, d.toNat), (14, a.toNat), (20, b.toNat)]))
  | .imin d a b => some (.word (codeOf 0x14000003 [(8, d.toNat), (14, a.toNat), (20, b.toNat)]))
  | .iminVs d a b => some (.word (codeOf 0x14000005 [(8, d.toNat), (14, a.toNat), (20, b.toNat)]))
  | .iminS d a b => some (.word (codeOf 0x14000061 [(8, d.toNat), (14, a.toNat), (20, b.toNat)]))
  | .imax d a b => some (.word (codeOf 0x18000003 [(8, d.toNat), (14, a.toNat), (20, b.toNat)]))
  | .imaxVs d a b => some (.word (codeOf 0x18000005 [(8, d.toNat), (14, a.toNat), (20, b.toNat)]))
  | .imaxS d a b => some (.word (codeOf 0x18000061 [(8, d.toNat), (14, a.toNat), (20, b.toNat)]))
  | .umin d a b => some (.word (codeOf 0x1C000003 [(8, d.toNat), (14, a.toNat), (20, b.toNat)]))
  | .uminVs d a b => some (.word (codeOf 0x1C000005 [(8, d.toNat), (14, a.toNat), (20, b.toNat)]))
  | .uminS d a b => some (.word (codeOf 0x1C000061 [(8, d.toNat), (14, a.toNat), (20, b.toNat)]))
  | .umax d a b => some (.word (codeOf 0x20000003 [(8, d.toNat), (14, a.toNat), (20, b.toNat)]))
  | .umaxVs d a b => some (.word (codeOf 0x20000005 [(8, d.toNat), (14, a.toNat), (20, b.toNat)]))
  | .umaxS d a b => some (.word (codeOf 0x20000061 [(8, d.toNat), (14, a.toNat), (20, b.toNat)]))
  | .and d a b => some (.word (codeOf 0x24000003 [(8, d.toNat), (14, a.toNat), (20, b.toNat)]))
  | .andVs d a b => some (.word (codeOf 0x24000005 [(8, d.toNat), (14, a.toNat), (20, b.toNat)]))
  | .andS d a b => some (.word (codeOf 0x24000061 [(8, d.toNat), (14, a.toNat), (20, b.toNat)]))
  | .or d a b => some (.word (codeOf 0x28000003 [(8, d.toNat), (14, a.toNat), (20, b.toNat)]))
  | .orVs d a b => some (.word (codeOf 0x28000005 [(8, d.toNat), (14, a.toNat), (20, b.toNat)]))
  | .orS d a b => some (.word (codeOf 0x28000061 [(8, d.toNat), (14, a.toNat), (20, b.toNat)]))
  | .xor d a b => some (.word (codeOf 0x2C000003 [(8, d.toNat), (14, a.toNat), (20, b.toNat)]))
  | .xorVs d a b => some (.word (codeOf 0x2C000005 [(8, d.toNat), (14, a.toNat), (20, b.toNat)]))
  | .xorS d a b => some (.word (codeOf 0x2C000061 [(8, d.toNat), (14, a.toNat), (20, b.toNat)]))
  | .andn d a b => some (.word (codeOf 0x30000003 [(8, d.toNat), (14, a.toNat), (20, b.toNat)]))
  | .andnVs d a b => some (.word (codeOf 0x30000005 [(8, d.toNat), (14, a.toNat), (20, b.toNat)]))
  | .andnS d a b => some (.word (codeOf 0x30000061 [(8, d.toNat), (14, a.toNat), (20, b.toNat)]))
  | .shl d a b => some (.word (codeOf 0x34000003 [(8, d.toNat), (14, a.toNat), (20, b.toNat)]))
  | .shlVs d a b => some (.word (codeOf 0x34000005 [(8, d.toNat), (14, a.toNat), (20, b.toNat)]))
  | .shlS d a b => some (.word (codeOf 0x34000061 [(8, d.toNat), (14, a.toNat), (20, b.toNat)]))
  | .shr d a b => some (.word (codeOf 0x38000003 [(8, d.toNat), (14, a.toNat), (20, b.toNat)]))
  | .shrVs d a b => some (.word (codeOf 0x38000005 [(8, d.toNat), (14, a.toNat), (20, b.toNat)]))
  | .shrS d a b => some (.word (codeOf 0x38000061 [(8, d.toNat), (14, a.toNat), (20, b.toNat)]))
  | .sar d a b => some (.word (codeOf 0x3C000003 [(8, d.toNat), (14, a.toNat), (20, b.toNat)]))
  | .sarVs d a b => some (.word (codeOf 0x3C000005 [(8, d.toNat), (14, a.toNat), (20, b.toNat)]))
  | .sarS d a b => some (.word (codeOf 0x3C000061 [(8, d.toNat), (14, a.toNat), (20, b.toNat)]))
  | .rol d a b => some (.word (codeOf 0x40000003 [(8, d.toNat), (14, a.toNat), (20, b.toNat)]))
  | .rolVs d a b => some (.word (codeOf 0x40000005 [(8, d.toNat), (14, a.toNat), (20, b.toNat)]))
  | .rolS d a b => some (.word (codeOf 0x40000061 [(8, d.toNat), (14, a.toNat), (20, b.toNat)]))
  | .iabsd d a b => some (.word (codeOf 0x44000003 [(8, d.toNat), (14, a.toNat), (20, b.toNat)]))
  | .iabsdVs d a b => some (.word (codeOf 0x44000005 [(8, d.toNat), (14, a.toNat), (20, b.toNat)]))
  | .iabsdS d a b => some (.word (codeOf 0x44000061 [(8, d.toNat), (14, a.toNat), (20, b.toNat)]))
  | .iadds d a b => some (.word (codeOf 0x48000003 [(8, d.toNat), (14, a.toNat), (20, b.toNat)]))
  | .iaddsVs d a b => some (.word (codeOf 0x48000005 [(8, d.toNat), (14, a.toNat), (20, b.toNat)]))
  | .iaddsS d a b => some (.word (codeOf 0x48000061 [(8, d.toNat), (14, a.toNat), (20, b.toNat)]))
  | .isubs d a b => some (.word (codeOf 0x4C000003 [(8, d.toNat), (14, a.toNat), (20, b.toNat)]))
  | .isubsVs d a b => some (.word (codeOf 0x4C000005 [(8, d.toNat), (14, a.toNat), (20, b.toNat)]))
  | .isubsS d a b => some (.word (codeOf 0x4C000061 [(8, d.toNat), (14, a.toNat), (20, b.toNat)]))
  | .uadds d a b => some (.word (codeOf 0x50000003 [(8, d.toNat), (14, a.toNat), (20, b.toNat)]))
  | .uaddsVs d a b => some (.word (codeOf 0x50000005 [(8, d.toNat), (14, a.toNat), (20, b.toNat)]))
  | .uaddsS d a b => some (.word (codeOf 0x50000061 [(8, d.toNat), (14, a.toNat), (20, b.toNat)]))
  | .usubs d a b => some (.word (codeOf 0x54000003 [(8, d.toNat), (14, a.toNat), (20, b.toNat)]))
  | .usubsVs d a b => some (.word (codeOf 0x54000005 [(8, d.toNat), (14, a.toNat), (20, b.toNat)]))
  | .usubsS d a b => some (.word (codeOf 0x54000061 [(8, d.toNat), (14, a.toNat), (20, b.toNat)]))
  | .popc d a => some (.word (codeOf 0x58000003 [(8, d.toNat), (14, a.toNat)]))
  | .popcVs d a => some (.word (codeOf 0x58000005 [(8, d.toNat), (14, a.toNat)]))
  | .popcS d a => some (.word (codeOf 0x58000061 [(8, d.toNat), (14, a.toNat)]))
  | .clz d a => some (.word (codeOf 0x5C000003 [(8, d.toNat), (14, a.toNat)]))
  | .clzVs d a => some (.word (codeOf 0x5C000005 [(8, d.toNat), (14, a.toNat)]))
  | .clzS d a => some (.word (codeOf 0x5C000061 [(8, d.toNat), (14, a.toNat)]))
  | .brev d a => some (.word (codeOf 0x60000003 [(8, d.toNat), (14, a.toNat)]))
  | .brevVs d a => some (.word (codeOf 0x60000005 [(8, d.toNat), (14, a.toNat)]))
  | .brevS d a => some (.word (codeOf 0x60000061 [(8, d.toNat), (14, a.toNat)]))
  | .bfe d a b => some (.word (codeOf 0x64000003 [(8, d.toNat), (14, a.toNat), (20, b.toNat)]))
  | .bfeVs d a b => some (.word (codeOf 0x64000005 [(8, d.toNat), (14, a.toNat), (20, b.toNat)]))
  | .bfeS d a b => some (.word (codeOf 0x64000061 [(8, d.toNat), (14, a.toNat), (20, b.toNat)]))
  | .ubfe d a b => some (.word (codeOf 0x68000003 [(8, d.toNat), (14, a.toNat), (20, b.toNat)]))
  | .ubfeVs d a b => some (.word (codeOf 0x68000005 [(8, d.toNat), (14, a.toNat), (20, b.toNat)]))
  | .ubfeS d a b => some (.word (codeOf 0x68000061 [(8, d.toNat), (14, a.toNat), (20, b.toNat)]))
  | .mov d b => some (.word (codeOf 0x6C000003 [(8, d.toNat), (20, b.toNat)]))
  | .movVs d b => some (.word (codeOf 0x6C000005 [(8, d.toNat), (20, b.toNat)]))
  | .movS d b => some (.word (codeOf 0x6C000061 [(8, d.toNat), (20, b.toNat)]))
  | .isetLt d a b => some (.word (codeOf 0x70000003 [(8, d.toNat), (14, a.toNat), (20, b.toNat)]))
  | .isetLtVs d a b => some (.word (codeOf 0x70000005 [(8, d.toNat), (14, a.toNat), (20, b.toNat)]))
  | .isetLtS d a b => some (.word (codeOf 0x70000061 [(8, d.toNat), (14, a.toNat), (20, b.toNat)]))
  | .isetLe d a b => some (.word (codeOf 0x74000003 [(8, d.toNat), (14, a.toNat), (20, b.toNat)]))
  | .isetLeVs d a b => some (.word (codeOf 0x74000005 [(8, d.toNat), (14, a.toNat), (20, b.toNat)]))
  | .isetLeS d a b => some (.word (codeOf 0x74000061 [(8, d.toNat), (14, a.toNat), (20, b.toNat)]))
  | .isetEq d a b => some (.word (codeOf 0x78000003 [(8, d.toNat), (14, a.toNat), (20, b.toNat)]))
  | .isetEqVs d a b => some (.word (codeOf 0x78000005 [(8, d.toNat), (14, a.toNat), (20, b.toNat)]))
  | .isetEqS d a b => some (.word (codeOf 0x78000061 [(8, d.toNat), (14, a.toNat), (20, b.toNat)]))
  | .isetNe d a b => some (.word (codeOf 0x7C000003 [(8, d.toNat), (14, a.toNat), (20, b.toNat)]))
  | .isetNeVs d a b => some (.word (codeOf 0x7C000005 [(8, d.toNat), (14, a.toNat), (20, b.toNat)]))
  | .isetNeS d a b => some (.word (codeOf 0x7C000061 [(8, d.toNat), (14, a.toNat), (20, b.toNat)]))
  | .usetLt d a b => some (.word (codeOf 0x80000003 [(8, d.toNat), (14, a.toNat), (20, b.toNat)]))
  | .usetLtVs d a b => some (.word (codeOf 0x80000005 [(8, d.toNat), (14, a.toNat), (20, b.toNat)]))
  | .usetLtS d a b => some (.word (codeOf 0x80000061 [(8, d.toNat), (14, a.toNat), (20, b.toNat)]))
  | .usetLe d a b => some (.word (codeOf 0x84000003 [(8, d.toNat), (14, a.toNat), (20, b.toNat)]))
  | .usetLeVs d a b => some (.word (codeOf 0x84000005 [(8, d.toNat), (14, a.toNat), (20, b.toNat)]))
  | .usetLeS d a b => some (.word (codeOf 0x84000061 [(8, d.toNat), (14, a.toNat), (20, b.toNat)]))
  | .mov16 d s => some (.half (codeOf 0x0 [(5, d.toNat), (11, s.toNat)]))
  | .nop16 => some (.half (codeOf 0x0 []))
  | .iadd16 d s => some (.half (codeOf 0x2 [(5, d.toNat), (11, s.toNat)]))
  | .isub16 d s => some (.half (codeOf 0x4 [(5, d.toNat), (11, s.toNat)]))
  | .imul16 d s => some (.half (codeOf 0x6 [(5, d.toNat), (11, s.toNat)]))
  | .and16 d s => some (.half (codeOf 0x8 [(5, d.toNat), (11, s.toNat)]))
  | .or16 d s => some (.half (codeOf 0xA [(5, d.toNat), (11, s.toNat)]))
  | .xor16 d s => some (.half (codeOf 0xC [(5, d.toNat), (11, s.toNat)]))
  | .shl16 d s => some (.half (codeOf 0xE [(5, d.toNat), (11, s.toNat)]))
  | .shr16 d s => some (.half (codeOf 0x10 [(5, d.toNat), (11, s.toNat)]))
  | .sar16 d s => some (.half (codeOf 0x12 [(5, d.toNat), (11, s.toNat)]))
  | .fadd16 d s => some (.half (codeOf 0x14 [(5, d.toNat), (11, s.toNat)]))
  | .fsub16 d s => some (.half (codeOf 0x16 [(5, d.toNat), (11, s.toNat)]))
  | .fmul16 d s => some (.half (codeOf 0x18 [(5, d.toNat), (11, s.toNat)]))
  | .fmin16 d s => some (.half (codeOf 0x1A [(5, d.toNat), (11, s.toNat)]))
  | .fmax16 d s => some (.half (codeOf 0x1C [(5, d.toNat), (11, s.toNat)]))
  | .iaddI5 d i => some (.half (codeOf 0x1E [(5, d.toNat), (11, i.toNat)]))
  | .iaddD d a b => some (.word (codeOf 0x7 [(8, d.toNat), (14, a.toNat), (20, b.toNat)]))
  | .iaddDS d a b => some (.word (codeOf 0x79 [(8, d.toNat), (14, a.toNat), (20, b.toNat)]))
  | .isubD d a b => some (.word (codeOf 0x4000007 [(8, d.toNat), (14, a.toNat), (20, b.toNat)]))
  | .isubDS d a b => some (.word (codeOf 0x4000079 [(8, d.toNat), (14, a.toNat), (20, b.toNat)]))
  | .shlD d a b => some (.word (codeOf 0x8000007 [(8, d.toNat), (14, a.toNat), (20, b.toNat)]))
  | .shlDS d a b => some (.word (codeOf 0x8000079 [(8, d.toNat), (14, a.toNat), (20, b.toNat)]))
  | .shrD d a b => some (.word (codeOf 0xC000007 [(8, d.toNat), (14, a.toNat), (20, b.toNat)]))
  | .shrDS d a b => some (.word (codeOf 0xC000079 [(8, d.toNat), (14, a.toNat), (20, b.toNat)]))
  | .sarD d a b => some (.word (codeOf 0x10000007 [(8, d.toNat), (14, a.toNat), (20, b.toNat)]))
  | .sarDS d a b => some (.word (codeOf 0x10000079 [(8, d.toNat), (14, a.toNat), (20, b.toNat)]))
  | .imulw d a b => some (.word (codeOf 0x14000007 [(8, d.toNat), (14, a.toNat), (20, b.toNat)]))
  | .imulwS d a b => some (.word (codeOf 0x14000079 [(8, d.toNat), (14, a.toNat), (20, b.toNat)]))
  | .umulw d a b => some (.word (codeOf 0x18000007 [(8, d.toNat), (14, a.toNat), (20, b.toNat)]))
  | .umulwS d a b => some (.word (codeOf 0x18000079 [(8, d.toNat), (14, a.toNat), (20, b.toNat)]))
  | .iaddw d a b => some (.word (codeOf 0x1C000007 [(8, d.toNat), (14, a.toNat), (20, b.toNat)]))
  | .iaddwS d a b => some (.word (codeOf 0x1C000079 [(8, d.toNat), (14, a.toNat), (20, b.toNat)]))
  | .uaddw d a b => some (.word (codeOf 0x20000007 [(8, d.toNat), (14, a.toNat), (20, b.toNat)]))
  | .uaddwS d a b => some (.word (codeOf 0x20000079 [(8, d.toNat), (14, a.toNat), (20, b.toNat)]))
  | .iaddi d a i => some (.word (codeOf 0x9 [(8, d.toNat), (14, a.toNat), (20, i.toNat)]))
  | .andi d a i => some (.word (codeOf 0xB [(8, d.toNat), (14, a.toNat), (20, i.toNat)]))
  | .ori d a i => some (.word (codeOf 0xD [(8, d.toNat), (14, a.toNat), (20, i.toNat)]))
  | .xori d a i => some (.word (codeOf 0xF [(8, d.toNat), (14, a.toNat), (20, i.toNat)]))
  | .shli d a i => some (.word (codeOf 0x11 [(8, d.toNat), (14, a.toNat), (20, i.toNat)]))
  | .shri d a i => some (.word (codeOf 0x13 [(8, d.toNat), (14, a.toNat), (20, i.toNat)]))
  | .sari d a i => some (.word (codeOf 0x15 [(8, d.toNat), (14, a.toNat), (20, i.toNat)]))
  | .iaddiS d a i => some (.word (codeOf 0x63 [(8, d.toNat), (14, a.toNat), (20, i.toNat)]))
  | .andiS d a i => some (.word (codeOf 0x65 [(8, d.toNat), (14, a.toNat), (20, i.toNat)]))
  | .oriS d a i => some (.word (codeOf 0x67 [(8, d.toNat), (14, a.toNat), (20, i.toNat)]))
  | .xoriS d a i => some (.word (codeOf 0x69 [(8, d.toNat), (14, a.toNat), (20, i.toNat)]))
  | .shliS d a i => some (.word (codeOf 0x6B [(8, d.toNat), (14, a.toNat), (20, i.toNat)]))
  | .shriS d a i => some (.word (codeOf 0x6D [(8, d.toNat), (14, a.toNat), (20, i.toNat)]))
  | .sariS d a i => some (.word (codeOf 0x6F [(8, d.toNat), (14, a.toNat), (20, i.toNat)]))
  | .movk d k => some (.word (codeOf 0x17 [(8, d.toNat), (14, k.toNat)]))
  | .movkh d k => some (.word (codeOf 0x19 [(8, d.toNat), (14, k.toNat)]))
  | .movkS d k => some (.word (codeOf 0x71 [(8, d.toNat), (14, k.toNat)]))
  | .movkhS d k => some (.word (codeOf 0x73 [(8, d.toNat), (14, k.toNat)]))
  | .imad d a b c => some (.word (codeOf 0x1B [(8, d.toNat), (14, a.toNat), (20, b.toNat), (26, c.toNat)]))
  | .imadS d a b c => some (.word (codeOf 0x75 [(8, d.toNat), (14, a.toNat), (20, b.toNat), (26, c.toNat)]))
  | .bfi d a b c => some (.word (codeOf 0x1D [(8, d.toNat), (14, a.toNat), (20, b.toNat), (26, c.toNat)]))
  | .sel d a b p g => some (.word (codeOf 0x1F [(8, d.toNat), (14, a.toNat), (20, b.toNat), (26, p.toNat), (29, g.toNat)]))
  | .ssel d a b c => some (.word (codeOf 0x77 [(8, d.toNat), (14, a.toNat), (20, b.toNat), (26, c.toNat)]))
  | .fadd d a b => some (.word (codeOf 0x21 [(8, d.toNat), (14, a.toNat), (20, b.toNat)]))
  | .faddVs d a b => some (.word (codeOf 0x23 [(8, d.toNat), (14, a.toNat), (20, b.toNat)]))
  | .faddRz d a b => some (.word (codeOf 0x4000021 [(8, d.toNat), (14, a.toNat), (20, b.toNat)]))
  | .faddRzVs d a b => some (.word (codeOf 0x4000023 [(8, d.toNat), (14, a.toNat), (20, b.toNat)]))
  | .faddRd d a b => some (.word (codeOf 0x8000021 [(8, d.toNat), (14, a.toNat), (20, b.toNat)]))
  | .faddRdVs d a b => some (.word (codeOf 0x8000023 [(8, d.toNat), (14, a.toNat), (20, b.toNat)]))
  | .faddRu d a b => some (.word (codeOf 0xC000021 [(8, d.toNat), (14, a.toNat), (20, b.toNat)]))
  | .faddRuVs d a b => some (.word (codeOf 0xC000023 [(8, d.toNat), (14, a.toNat), (20, b.toNat)]))
  | .fsub d a b => some (.word (codeOf 0x10000021 [(8, d.toNat), (14, a.toNat), (20, b.toNat)]))
  | .fsubVs d a b => some (.word (codeOf 0x10000023 [(8, d.toNat), (14, a.toNat), (20, b.toNat)]))
  | .fmul d a b => some (.word (codeOf 0x14000021 [(8, d.toNat), (14, a.toNat), (20, b.toNat)]))
  | .fmulVs d a b => some (.word (codeOf 0x14000023 [(8, d.toNat), (14, a.toNat), (20, b.toNat)]))
  | .fmulRz d a b => some (.word (codeOf 0x18000021 [(8, d.toNat), (14, a.toNat), (20, b.toNat)]))
  | .fmulRzVs d a b => some (.word (codeOf 0x18000023 [(8, d.toNat), (14, a.toNat), (20, b.toNat)]))
  | .fmulRd d a b => some (.word (codeOf 0x1C000021 [(8, d.toNat), (14, a.toNat), (20, b.toNat)]))
  | .fmulRdVs d a b => some (.word (codeOf 0x1C000023 [(8, d.toNat), (14, a.toNat), (20, b.toNat)]))
  | .fmulRu d a b => some (.word (codeOf 0x20000021 [(8, d.toNat), (14, a.toNat), (20, b.toNat)]))
  | .fmulRuVs d a b => some (.word (codeOf 0x20000023 [(8, d.toNat), (14, a.toNat), (20, b.toNat)]))
  | .fmin d a b => some (.word (codeOf 0x24000021 [(8, d.toNat), (14, a.toNat), (20, b.toNat)]))
  | .fminVs d a b => some (.word (codeOf 0x24000023 [(8, d.toNat), (14, a.toNat), (20, b.toNat)]))
  | .fmax d a b => some (.word (codeOf 0x28000021 [(8, d.toNat), (14, a.toNat), (20, b.toNat)]))
  | .fmaxVs d a b => some (.word (codeOf 0x28000023 [(8, d.toNat), (14, a.toNat), (20, b.toNat)]))
  | .fminnum d a b => some (.word (codeOf 0x2C000021 [(8, d.toNat), (14, a.toNat), (20, b.toNat)]))
  | .fminnumVs d a b => some (.word (codeOf 0x2C000023 [(8, d.toNat), (14, a.toNat), (20, b.toNat)]))
  | .fmaxnum d a b => some (.word (codeOf 0x30000021 [(8, d.toNat), (14, a.toNat), (20, b.toNat)]))
  | .fmaxnumVs d a b => some (.word (codeOf 0x30000023 [(8, d.toNat), (14, a.toNat), (20, b.toNat)]))
  | .fabs d a => some (.word (codeOf 0x34000021 [(8, d.toNat), (14, a.toNat)]))
  | .fabsVs d a => some (.word (codeOf 0x34000023 [(8, d.toNat), (14, a.toNat)]))
  | .fneg d a => some (.word (codeOf 0x38000021 [(8, d.toNat), (14, a.toNat)]))
  | .fnegVs d a => some (.word (codeOf 0x38000023 [(8, d.toNat), (14, a.toNat)]))
  | .fcopysign d a b => some (.word (codeOf 0x3C000021 [(8, d.toNat), (14, a.toNat), (20, b.toNat)]))
  | .fcopysignVs d a b => some (.word (codeOf 0x3C000023 [(8, d.toNat), (14, a.toNat), (20, b.toNat)]))
  | .ffloor d a => some (.word (codeOf 0x40000021 [(8, d.toNat), (14, a.toNat)]))
  | .ffloorVs d a => some (.word (codeOf 0x40000023 [(8, d.toNat), (14, a.toNat)]))
  | .fceil d a => some (.word (codeOf 0x44000021 [(8, d.toNat), (14, a.toNat)]))
  | .fceilVs d a => some (.word (codeOf 0x44000023 [(8, d.toNat), (14, a.toNat)]))
  | .ftrunc d a => some (.word (codeOf 0x48000021 [(8, d.toNat), (14, a.toNat)]))
  | .ftruncVs d a => some (.word (codeOf 0x48000023 [(8, d.toNat), (14, a.toNat)]))
  | .frint d a => some (.word (codeOf 0x4C000021 [(8, d.toNat), (14, a.toNat)]))
  | .frintVs d a => some (.word (codeOf 0x4C000023 [(8, d.toNat), (14, a.toNat)]))
  | .fclamp01 d a => some (.word (codeOf 0x50000021 [(8, d.toNat), (14, a.toNat)]))
  | .fclamp01Vs d a => some (.word (codeOf 0x50000023 [(8, d.toNat), (14, a.toNat)]))
  | .ffma d a b c => some (.word (codeOf 0x25 [(8, d.toNat), (14, a.toNat), (20, b.toNat), (26, c.toNat)]))
  | .ffms d a b c => some (.word (codeOf 0x27 [(8, d.toNat), (14, a.toNat), (20, b.toNat), (26, c.toNat)]))
  | .ffnma d a b c => some (.word (codeOf 0x29 [(8, d.toNat), (14, a.toNat), (20, b.toNat), (26, c.toNat)]))
  | .ffmaRz d a b c => some (.word (codeOf 0x2B [(8, d.toNat), (14, a.toNat), (20, b.toNat), (26, c.toNat)]))
  | .ffmaRd d a b c => some (.word (codeOf 0x2D [(8, d.toNat), (14, a.toNat), (20, b.toNat), (26, c.toNat)]))
  | .ffmaRu d a b c => some (.word (codeOf 0x2F [(8, d.toNat), (14, a.toNat), (20, b.toNat), (26, c.toNat)]))
  | .cmp p a b r t => some (.word (codeOf 0x31 [(8, p.toNat), (14, a.toNat), (20, b.toNat), (26, r.toNat), (29, t.toNat)]))
  | .cmpVs p a b r t => some (.word (codeOf 0x33 [(8, p.toNat), (14, a.toNat), (20, b.toNat), (26, r.toNat), (29, t.toNat)]))
  | .cmpi p r a i => some (.word (codeOf 0x35 [(8, p.toNat), (11, r.toNat), (14, a.toNat), (20, i.toNat)]))
  | .pand d a b => some (.word (codeOf 0x37 [(8, d.toNat), (14, a.toNat), (20, b.toNat)]))
  | .por d a b => some (.word (codeOf 0x4000037 [(8, d.toNat), (14, a.toNat), (20, b.toNat)]))
  | .pxor d a b => some (.word (codeOf 0x8000037 [(8, d.toNat), (14, a.toNat), (20, b.toNat)]))
  | .pandn d a b => some (.word (codeOf 0xC000037 [(8, d.toNat), (14, a.toNat), (20, b.toNat)]))
  | .pnot d a => some (.word (codeOf 0x10000037 [(8, d.toNat), (14, a.toNat)]))
  | .psetPred d => some (.word (codeOf 0x14000037 [(8, d.toNat)]))
  | .pclr d => some (.word (codeOf 0x18000037 [(8, d.toNat)]))
  | .ballot d a => some (.word (codeOf 0x1C000037 [(8, d.toNat), (14, a.toNat)]))
  | .pfrom d a => some (.word (codeOf 0x20000037 [(8, d.toNat), (14, a.toNat)]))
  | .ptov d a => some (.word (codeOf 0x24000037 [(8, d.toNat), (14, a.toNat)]))
  | .vany d a => some (.word (codeOf 0x28000037 [(8, d.toNat), (14, a.toNat)]))
  | .vall d a => some (.word (codeOf 0x2C000037 [(8, d.toNat), (14, a.toNat)]))
  | .mask d => some (.word (codeOf 0x30000037 [(8, d.toNat)]))
  | .pload d a => some (.word (codeOf 0x34000037 [(8, d.toNat), (14, a.toNat)]))
  | .hadd2 d a b => some (.word (codeOf 0x39 [(8, d.toNat), (14, a.toNat), (20, b.toNat)]))
  | .hsub2 d a b => some (.word (codeOf 0x4000039 [(8, d.toNat), (14, a.toNat), (20, b.toNat)]))
  | .hmul2 d a b => some (.word (codeOf 0x8000039 [(8, d.toNat), (14, a.toNat), (20, b.toNat)]))
  | .hmin2 d a b => some (.word (codeOf 0xC000039 [(8, d.toNat), (14, a.toNat), (20, b.toNat)]))
  | .hmax2 d a b => some (.word (codeOf 0x10000039 [(8, d.toNat), (14, a.toNat), (20, b.toNat)]))
  | .badd2 d a b => some (.word (codeOf 0x14000039 [(8, d.toNat), (14, a.toNat), (20, b.toNat)]))
  | .bsub2 d a b => some (.word (codeOf 0x18000039 [(8, d.toNat), (14, a.toNat), (20, b.toNat)]))
  | .bmul2 d a b => some (.word (codeOf 0x1C000039 [(8, d.toNat), (14, a.toNat), (20, b.toNat)]))
  | .bmin2 d a b => some (.word (codeOf 0x20000039 [(8, d.toNat), (14, a.toNat), (20, b.toNat)]))
  | .bmax2 d a b => some (.word (codeOf 0x24000039 [(8, d.toNat), (14, a.toNat), (20, b.toNat)]))
  | .hfma2 d a b c => some (.word (codeOf 0x3B [(8, d.toNat), (14, a.toNat), (20, b.toNat), (26, c.toNat)]))
  | .bfma2 d a b c => some (.word (codeOf 0x3D [(8, d.toNat), (14, a.toNat), (20, b.toNat), (26, c.toNat)]))
  | .i2f d a => some (.word (codeOf 0x3F [(8, d.toNat), (14, a.toNat)]))
  | .u2f d a => some (.word (codeOf 0x400003F [(8, d.toNat), (14, a.toNat)]))
  | .f2i d a => some (.word (codeOf 0x800003F [(8, d.toNat), (14, a.toNat)]))
  | .f2u d a => some (.word (codeOf 0xC00003F [(8, d.toNat), (14, a.toNat)]))
  | .f2in d a => some (.word (codeOf 0x1000003F [(8, d.toNat), (14, a.toNat)]))
  | .f2un d a => some (.word (codeOf 0x1400003F [(8, d.toNat), (14, a.toNat)]))
  | .pkh d a b => some (.word (codeOf 0x1800003F [(8, d.toNat), (14, a.toNat), (20, b.toNat)]))
  | .pkb d a b => some (.word (codeOf 0x1C00003F [(8, d.toNat), (14, a.toNat), (20, b.toNat)]))
  | .uphLo d a => some (.word (codeOf 0x2000003F [(8, d.toNat), (14, a.toNat)]))
  | .uphHi d a => some (.word (codeOf 0x2400003F [(8, d.toNat), (14, a.toNat)]))
  | .upbLo d a => some (.word (codeOf 0x2800003F [(8, d.toNat), (14, a.toNat)]))
  | .upbHi d a => some (.word (codeOf 0x2C00003F [(8, d.toNat), (14, a.toNat)]))
  | .f2f19 d a => some (.word (codeOf 0x3000003F [(8, d.toNat), (14, a.toNat)]))
  | .fpack d a f => some (.word (codeOf 0x41 [(8, d.toNat), (14, a.toNat), (29, f.toNat)]))
  | .fpackSr d a b f => some (.word (codeOf 0x4000041 [(8, d.toNat), (14, a.toNat), (20, b.toNat), (29, f.toNat)]))
  | .funpk d a k f => some (.word (codeOf 0x8000041 [(8, d.toNat), (14, a.toNat), (20, k.toNat), (29, f.toNat)]))
  | .dot4Ss d a b => some (.word (codeOf 0x43 [(8, d.toNat), (14, a.toNat), (20, b.toNat)]))
  | .dot4Uu d a b => some (.word (codeOf 0x4000043 [(8, d.toNat), (14, a.toNat), (20, b.toNat)]))
  | .dot4Su d a b => some (.word (codeOf 0x8000043 [(8, d.toNat), (14, a.toNat), (20, b.toNat)]))
  | .dot8Ss d a b => some (.word (codeOf 0xC000043 [(8, d.toNat), (14, a.toNat), (20, b.toNat)]))
  | .dot8Uu d a b => some (.word (codeOf 0x10000043 [(8, d.toNat), (14, a.toNat), (20, b.toNat)]))
  | .dot8Su d a b => some (.word (codeOf 0x14000043 [(8, d.toNat), (14, a.toNat), (20, b.toNat)]))
  | .dot16Ss d a b => some (.word (codeOf 0x18000043 [(8, d.toNat), (14, a.toNat), (20, b.toNat)]))
  | .dot2Ss d a b => some (.word (codeOf 0x1C000043 [(8, d.toNat), (14, a.toNat), (20, b.toNat)]))
  | .fdot d a b f => some (.word (codeOf 0x45 [(8, d.toNat), (14, a.toNat), (20, b.toNat), (29, f.toNat)]))
  | .shflIdx d a b => some (.word (codeOf 0x47 [(8, d.toNat), (14, a.toNat), (20, b.toNat)]))
  | .shflUp d a b => some (.word (codeOf 0x4000047 [(8, d.toNat), (14, a.toNat), (20, b.toNat)]))
  | .shflDn d a b => some (.word (codeOf 0x8000047 [(8, d.toNat), (14, a.toNat), (20, b.toNat)]))
  | .shflXor d a b => some (.word (codeOf 0xC000047 [(8, d.toNat), (14, a.toNat), (20, b.toNat)]))
  | .rdlane d a b => some (.word (codeOf 0x10000047 [(8, d.toNat), (14, a.toNat), (20, b.toNat)]))
  | .wrlane d a b => some (.word (codeOf 0x14000047 [(8, d.toNat), (14, a.toNat), (20, b.toNat)]))
  | .reduxAdd d a => some (.word (codeOf 0x18000047 [(8, d.toNat), (14, a.toNat)]))
  | .reduxMin d a => some (.word (codeOf 0x1C000047 [(8, d.toNat), (14, a.toNat)]))
  | .reduxMax d a => some (.word (codeOf 0x20000047 [(8, d.toNat), (14, a.toNat)]))
  | .reduxFadd d a => some (.word (codeOf 0x24000047 [(8, d.toNat), (14, a.toNat)]))
  | .scanxAdd d a => some (.word (codeOf 0x28000047 [(8, d.toNat), (14, a.toNat)]))
  | .ifP p g off => some (.word (codeOf 0x81 [(8, p.toNat), (11, g.toNat), (16, off.toNat)]))
  | .elseP off => some (.word (codeOf 0x83 [(12, off.toNat)]))
  | .endif => some (.word (codeOf 0x85 []))
  | .loop off => some (.word (codeOf 0x87 [(12, off.toNat)]))
  | .endloop off => some (.word (codeOf 0x89 [(12, off.toNat)]))
  | .brk p g n off => some (.word (codeOf 0x8B [(8, p.toNat), (11, g.toNat), (12, n.toNat), (16, off.toNat)]))
  | .bra p g off => some (.word (codeOf 0x8D [(8, p.toNat), (11, g.toNat), (16, off.toNat)]))
  | .jmp off => some (.word (codeOf 0x8F [(12, off.toNat)]))
  | .bsc s r off => some (.word (codeOf 0x91 [(8, s.toNat), (14, r.toNat), (16, off.toNat)]))
  | .call off => some (.word (codeOf 0x93 [(12, off.toNat)]))
  | .calli a => some (.word (codeOf 0x95 [(14, a.toNat)]))
  | .ret a => some (.word (codeOf 0x97 [(14, a.toNat)]))
  | .brx a => some (.word (codeOf 0x99 [(14, a.toNat)]))
  | .join => some (.word (codeOf 0x9B []))
  | .exit => some (.word (codeOf 0x9D []))
  | .exitc a => some (.word (codeOf 0x400009D [(14, a.toNat)]))
  | .safe n => some (.word (codeOf 0x9F [(12, n.toNat)]))
  | .pset k => some (.word (codeOf 0xA1 [(20, k.toNat)]))
  | .psel g p k => some (.word (codeOf 0x40000A1 [(8, g.toNat), (14, p.toNat), (20, k.toNat)]))
  | .pmov a => some (.word (codeOf 0x80000A1 [(14, a.toNat)]))
  | .pget d => some (.word (codeOf 0xC0000A1 [(8, d.toNat)]))
  | .xfer a => some (.word (codeOf 0xA3 [(14, a.toNat)]))
  | .xqry d => some (.word (codeOf 0x40000A3 [(8, d.toNat)]))
  | .xclr => some (.word (codeOf 0x80000A3 []))
  | .version d => some (.word (codeOf 0xC0000A3 [(8, d.toNat)]))
  | .nop => some (.word (codeOf 0xA7 []))
  | .yield => some (.word (codeOf 0x40000A7 []))
  | .sread d a b => some (.word (codeOf 0x80000A7 [(8, d.toNat), (14, a.toNat), (20, b.toNat)]))
  | .swrite d a b => some (.word (codeOf 0xC0000A7 [(8, d.toNat), (14, a.toNat), (20, b.toNat)]))
  | .trap a b => some (.word (codeOf 0x100000A7 [(14, a.toNat), (20, b.toNat)]))
  | .brkpt => some (.word (codeOf 0x140000A7 []))
  | .dbls => some (.word (codeOf 0x180000A7 []))
  | .stampOpen a => some (.word (codeOf 0x1C0000A7 [(14, a.toNat)]))
  | .stampClose => some (.word (codeOf 0x200000A7 []))
  | .dbgwait d a => some (.word (codeOf 0x240000A7 [(8, d.toNat), (14, a.toNat)]))
  | .dbgrd d a => some (.word (codeOf 0x280000A7 [(8, d.toNat), (14, a.toNat)]))
  | .dbgwr a b => some (.word (codeOf 0x2C0000A7 [(14, a.toNat), (20, b.toNat)]))
  | .dbgctlResume d a => some (.word (codeOf 0x300000A7 [(8, d.toNat), (14, a.toNat)]))
  | .dbgctlStep d a => some (.word (codeOf 0x300000A7 [(8, d.toNat), (14, a.toNat)]))
  | .dbgctlHalt d a => some (.word (codeOf 0x300000A7 [(8, d.toNat), (14, a.toNat)]))
  | .dbgctlResumeall d a => some (.word (codeOf 0x300000A7 [(8, d.toNat), (14, a.toNat)]))
  | .dbgctlBkset d a => some (.word (codeOf 0x300000A7 [(8, d.toNat), (14, a.toNat)]))
  | .dbgctlBkclr d a => some (.word (codeOf 0x300000A7 [(8, d.toNat), (14, a.toNat)]))
  | .dbgctlWset d a => some (.word (codeOf 0x300000A7 [(8, d.toNat), (14, a.toNat)]))
  | .dbgctlWclr d a => some (.word (codeOf 0x300000A7 [(8, d.toNat), (14, a.toNat)]))
  | .mboxw a b => some (.word (codeOf 0x340000A7 [(14, a.toNat), (20, b.toNat)]))

/-- The instruction the decoder reads for an instruction's own words: itself, but for the DBGCTL
commands, which one word stands for (R147). -/
noncomputable def canonical : Instr → Instr
  | .dbgctlStep d a => .dbgctlResume d a
  | .dbgctlHalt d a => .dbgctlResume d a
  | .dbgctlResumeall d a => .dbgctlResume d a
  | .dbgctlBkset d a => .dbgctlResume d a
  | .dbgctlBkclr d a => .dbgctlResume d a
  | .dbgctlWset d a => .dbgctlResume d a
  | .dbgctlWclr d a => .dbgctlResume d a
  | i => i

/-- The instruction whose bits are `w` as the opcode table numbers them: every bit above the table's
is 0. -/
noncomputable def decodeTableWord (nbits w : Nat) : Option Instr :=
  if nbits = 0 then none
  else
    match decode (bytesLE 4 w) with
    | .ok (i, _) => some i
    | .error _ => none

/-- Step 5 of R109 concerns these words: SWRITE and the debug operations. -/
def debugWord (w : Nat) : Bool :=
  w % 2 == 1 && w / 2 % 128 == 0x53 &&
    (w / 2 ^ 26 % 64 == 3 || (decide (9 ≤ w / 2 ^ 26 % 64) && decide (w / 2 ^ 26 % 64 ≤ 13)))

end Sys2Proof
end

