-- ==== Sys2Proof/Config.lean ====
section
/-! DEFINITION. What the implementation fixes, and the free values: constants with no body, so that
no proof can lean on what they are. Each is named in the assumption log. -/

namespace Sys2Proof

/-- R226: the slice hash is fixed at reset and not published: the slice of a 64-byte line within its home
die, of which the remainder by 48 counts. A free value (DESIGN CHOICE, log entry 8). -/
opaque Config.sliceOf : Nat → Nat

/-- R226, R353: the fabric port that reaches an offset of a node's exported window, of which the remainder by 18
counts. A free value (DESIGN CHOICE, log entry 8). -/
opaque Config.portOf : Nat → Nat → Nat

/-- A free bit, indexed by the free counter of State: whether the images verify at POWER_ON
(DESIGN CHOICE, log entry 11). -/
opaque Config.freeBit : Nat → Bool

/-- A fresh 64-bit free value, indexed by the free counter of State: a value the spec does not
state, such as the extra time that a home outside the module takes (DESIGN CHOICE, log entries 9 and 10). -/
opaque Config.freeWord : Nat → BitVec 64

/-- R155: the result of a correctly rounded function whose enclosure the model's precision bound has
not decided; indexed by the function's number and the operand. A free value (log entry 15). -/
opaque Config.undecided : Nat → Word → Word

/-- R88 for BIN1, which has no magnitude below 1: what SR_F gives where it takes the lower
neighbour. A free value, indexed by the random word (DESIGN CHOICE, log entry 14). -/
opaque Config.binLow : Word → Bool

/-- R351: whether an image at a flash offset, of so many bytes, carries two signatures that verify
(DESIGN CHOICE, log entry 11). -/
opaque Config.imageVerifies : Nat → Nat → Bool

/-- R348, R351: the image version and the security version that an image at a flash offset carries
(DESIGN CHOICE, log entry 11). -/
opaque Config.imageVersion : Nat → Word × Nat

/-- R352: a configuration record, as the module's flash holds it. -/
structure ConfigRecord where
  minSecurity : Nat
  minMicrocode : Nat
  firstActive : Bool
  spares : List (Nat × Nat)
  moduleNumber : BitVec 10
  powerLimit : Word
  deriving DecidableEq, Repr

/-- R351, R352: the newly signed configuration record that the flash holds at a POWER_ON, when there is one,
indexed by the free counter of State (DESIGN CHOICE, log entry 11). -/
opaque Config.newRecord : Nat → Option ConfigRecord

/-- R347: the layout version that an image gives a section of the state table, and the section's size in 8-byte
units (DESIGN CHOICE, log entry 53). -/
opaque Config.sectionLayout : Word → Nat → Nat × Nat

/-- R292: whether the bytes of an image's section past a size are zero (DESIGN CHOICE, log entry 53). -/
opaque Config.sectionTail : Word → Nat → Nat → Bool

/-- R228, R344: the frame of the host register page (DESIGN CHOICE, log entry 12). -/
opaque Config.registerPage : Nat

/-- R226, R357: the HBM stack and pseudo-channel that hold a 64-byte line, of which the stack's remainder by
16 counts; the map is not published (DESIGN CHOICE, log entries 8 and 13). -/
opaque Config.channelOf : Nat → Nat × Nat

/-- R344, R352: the module serial and the identity key, derived from the PUF identity (DESIGN CHOICE, log entry 12). -/
opaque Config.serial : DWord
/-- R344: the part's stepping, which the spec does not give (DESIGN CHOICE, log entry 12). -/
opaque Config.stepping : Byte
opaque Config.identityKey : Nat → Byte

end Sys2Proof
end

