-- ==== Sys2Proof/Machine/Number.lean ====
section
/-! DEFINITION. Numbers: every format of R73–R80, the exact values they stand for, the rounding and
saturation functions of R86–R89, slot words and scales (R81–R84), exact sums (R90–R92), and the
FP32 operations of R149–R157. -/

namespace Sys2Proof.Machine

/-- An exact value: NaN, an infinity, or (−1)^neg · m · 2^e; zero has a sign. -/
inductive Num where
  | nan
  | inf (neg : Bool)
  | fin (neg : Bool) (m : Nat) (e : Int)
  deriving DecidableEq, Repr, Inhabited

/-- A float layout: exponent bits, mantissa bits, bias; whether the top exponent holds infinities and
NaNs, or one NaN mantissa, or ordinary numbers only (R77). -/
inductive Specials where
  | ieee | oneNaN | none
  deriving DecidableEq, Repr

/-- A float element layout (R73, R77). -/
structure Layout where
  ebits : Nat
  mbits : Nat
  bias : Nat
  specials : Specials
  deriving DecidableEq, Repr

def layFP32 : Layout := ⟨8, 23, 127, .ieee⟩
def layFP19 : Layout := ⟨8, 10, 127, .ieee⟩
def layFP16 : Layout := ⟨5, 10, 15, .ieee⟩
def layBF16 : Layout := ⟨8, 7, 127, .ieee⟩
def layE5M2 : Layout := ⟨5, 2, 15, .ieee⟩
def layE4M3 : Layout := ⟨4, 3, 7, .oneNaN⟩
def layE3M4 : Layout := ⟨3, 4, 3, .oneNaN⟩
def layE3M2 : Layout := ⟨3, 2, 3, .none⟩
def layE2M3 : Layout := ⟨2, 3, 1, .none⟩
def layE2M1 : Layout := ⟨2, 1, 1, .none⟩
def layE1M2 : Layout := ⟨1, 2, 1, .none⟩

namespace Layout

/-- The exponent of the least subnormal. -/
def emin (f : Layout) : Int := 1 - (f.bias : Int) - f.mbits

/-- The value of a bit pattern (R73). -/
def value (f : Layout) (bits : Nat) : Num :=
  let m := bits % 2 ^ f.mbits
  let e := bits / 2 ^ f.mbits % 2 ^ f.ebits
  let neg := (bits / 2 ^ (f.mbits + f.ebits)) % 2 = 1
  let top := 2 ^ f.ebits - 1
  match f.specials with
  | .ieee =>
    if e = top then (if m = 0 then .inf neg else .nan)
    else if e = 0 then .fin neg m f.emin
    else .fin neg (2 ^ f.mbits + m) (f.emin + e - 1)
  | .oneNaN =>
    if e = top ∧ m = 2 ^ f.mbits - 1 then .nan
    else if e = 0 then .fin neg m f.emin
    else .fin neg (2 ^ f.mbits + m) (f.emin + e - 1)
  | .none =>
    if e = 0 then .fin neg m f.emin
    else .fin neg (2 ^ f.mbits + m) (f.emin + e - 1)

/-- Exponent field and mantissa field of the largest finite value. -/
def maxFields (f : Layout) : Nat × Nat :=
  match f.specials with
  | .ieee => (2 ^ f.ebits - 2, 2 ^ f.mbits - 1)
  | .oneNaN => (2 ^ f.ebits - 1, 2 ^ f.mbits - 2)
  | .none => (2 ^ f.ebits - 1, 2 ^ f.mbits - 1)

/-- The largest finite magnitude as mantissa and exponent. -/
def maxMag (f : Layout) : Nat × Int :=
  let x := f.maxFields
  (2 ^ f.mbits + x.2, f.emin + x.1 - 1)

def signBit (f : Layout) (neg : Bool) : Nat := if neg then 2 ^ (f.mbits + f.ebits) else 0
def infBits (f : Layout) (neg : Bool) : Nat := f.signBit neg + (2 ^ f.ebits - 1) * 2 ^ f.mbits
def maxBits (f : Layout) (neg : Bool) : Nat := f.signBit neg + f.maxFields.1 * 2 ^ f.mbits + f.maxFields.2
/-- The canonical NaN (R75); formats without a NaN give the all-zero encoding (R87). -/
def nanBits (f : Layout) : Nat :=
  match f.specials with
  | .ieee => (2 ^ f.ebits - 1) * 2 ^ f.mbits + 2 ^ (f.mbits - 1)
  | .oneNaN => 2 ^ (f.ebits + f.mbits) - 1
  | .none => 0

end Layout

/-- R86: the rounding directions. -/
inductive Rounding where
  | rne | rz | rd | ru
  deriving DecidableEq, Repr

/-- Compare m·2^e with m'·2^e'. -/
def magLe (m : Nat) (e : Int) (m' : Nat) (e' : Int) : Bool :=
  if e ≤ e' then decide (m ≤ m' * 2 ^ (e' - e).toNat) else decide (m * 2 ^ (e - e').toNat ≤ m')
def magLt (m : Nat) (e : Int) (m' : Nat) (e' : Int) : Bool := !magLe m' e' m e

/-- Shift a magnitude down by k bits, rounding: `up` says whether directed rounding goes away from 0. -/
def shiftRound (r : Rounding) (neg : Bool) (m k : Nat) : Nat :=
  let q := m / 2 ^ k
  let x := m % 2 ^ k
  let away : Bool :=
    match r with
    | .rz => false
    | .rd => neg && x != 0
    | .ru => !neg && x != 0
    | .rne => decide (2 ^ k < 2 * x) || (2 * x == 2 ^ k && q % 2 == 1)
  if k = 0 then m else if away then q + 1 else q

/-- The units of the spacing of a layout at m·2^e: exponent of the last place. -/
def Layout.place (f : Layout) (m : Nat) (e : Int) : Int :=
  max f.emin (e + (Nat.log2 m : Int) - f.mbits)

/-- Round a magnitude to a multiple of its last place: (units, exponent of the unit). -/
def Layout.roundUnits (f : Layout) (r : Rounding) (neg : Bool) (m : Nat) (e : Int) : Nat × Int :=
  let u := f.place m e
  if u ≤ e then (m * 2 ^ (e - u).toNat, u) else (shiftRound r neg m (u - e).toNat, u)

/-- Encode q units of 2^u, where q is at most 2^(mbits+1). -/
def Layout.encodeUnits (f : Layout) (neg : Bool) (q : Nat) (u : Int) : Nat :=
  if q < 2 ^ f.mbits then f.signBit neg + q
  else if q < 2 ^ (f.mbits + 1) then
    f.signBit neg + ((u - f.emin).toNat + 1) * 2 ^ f.mbits + (q - 2 ^ f.mbits)
  else f.signBit neg + ((u - f.emin).toNat + 2) * 2 ^ f.mbits

/-- R86: round an exact value to the layout and encode it; overflow goes as R86 states. -/
def Layout.round (f : Layout) (r : Rounding) (x : Num) : Nat :=
  match x with
  | .nan => f.nanBits
  | .inf neg => f.infBits neg
  | .fin neg m e =>
    if m = 0 then f.signBit neg else
    let (q, u) := f.roundUnits r neg m e
    if magLt f.maxMag.1 f.maxMag.2 q u then
      match r, neg with
      | .rne, _ => f.infBits neg
      | .rz, _ => f.maxBits neg
      | .rd, true => f.infBits true
      | .rd, false => f.maxBits false
      | .ru, true => f.maxBits true
      | .ru, false => f.infBits false
    else f.encodeUnits neg q u

/-- R87: CONV_F to a float layout. -/
def Layout.conv (f : Layout) (x : Num) : Nat :=
  match x with
  | .nan => f.nanBits
  | .inf neg => if f.specials = .ieee then f.infBits neg else f.maxBits neg
  | .fin neg m e =>
    if m = 0 then f.signBit neg else
    let (q, u) := f.roundUnits .rne neg m e
    if magLt f.maxMag.1 f.maxMag.2 q u then f.maxBits neg else f.encodeUnits neg q u

/-- R88: choose between the two neighbours of a magnitude of k discarded bits. -/
def stochasticUp (m k : Nat) (r : Word) : Bool :=
  decide (4294967296 ≤ (m % 2 ^ k) * 4294967296 / 2 ^ k + r.toNat)

/-- R88: SR_F in CONV_F, for a float layout. -/
def Layout.convSR (f : Layout) (r : Word) (x : Num) : Nat :=
  match x with
  | .fin neg m e =>
    if m = 0 then f.signBit neg else
    let u := f.place m e
    let q := if u ≤ e then m * 2 ^ (e - u).toNat
             else m / 2 ^ (u - e).toNat + (if stochasticUp m (u - e).toNat r then 1 else 0)
    if magLt f.maxMag.1 f.maxMag.2 q u then f.maxBits neg else f.encodeUnits neg q u
  | y => f.conv y

/-- The integer nearest an exact value in a direction (R89): units of 1. -/
def roundInt (r : Rounding) (neg : Bool) (m : Nat) (e : Int) : Int :=
  let q : Nat := if 0 ≤ e then m * 2 ^ e.toNat else shiftRound r neg m (-e).toNat
  if neg then -(q : Int) else q

/-- R81: the element formats by code. -/
inductive Elem where
  | float (f : Layout)
  | int (signed : Bool) (bits : Nat)
  | tern
  | bin
  deriving DecidableEq, Repr

/-- R77, R78: the untagged formats, codes 0–21. -/
def elemOf (code : Nat) : Elem :=
  match code with
  | 0 => .float layFP32 | 1 => .float layFP19 | 2 => .float layFP16 | 3 => .float layBF16
  | 4 => .float layE5M2 | 5 => .float layE4M3 | 6 => .float layE3M4 | 7 => .float layE3M2
  | 8 => .float layE2M3 | 9 => .float layE2M1 | 10 => .float layE1M2
  | 11 => .int true 16 | 12 => .int false 16 | 13 => .int true 8 | 14 => .int false 8
  | 15 => .int true 6 | 16 => .int true 4 | 17 => .int false 4 | 18 => .int true 2
  | 19 => .int false 2 | 20 => .tern | _ => .bin

/-- R79: what a tag makes of a tagged format; none for a zero block. -/
def elemTagged (code tag : Nat) : Option Elem :=
  let pick : Nat → Nat → Nat → Option Elem := fun a b c =>
    match tag with
    | 0 => some (elemOf a) | 1 => some (elemOf b) | 2 => some (elemOf c) | _ => none
  match code with
  | 22 => pick 5 4 13 | 23 => pick 5 6 14 | 24 => pick 7 8 15
  | 25 => pick 9 16 17 | 26 => pick 9 10 16 | 27 => pick 18 20 19
  | c => some (elemOf c)

/-- R77–R79: container widths, with 6-bit formats counted as 8. -/
def container (code : Nat) : Nat :=
  match code with
  | 0 | 1 => 32
  | 2 | 3 | 11 | 12 => 16
  | 4 | 5 | 6 | 7 | 8 | 13 | 14 | 15 | 22 | 23 | 24 => 8
  | 9 | 10 | 16 | 17 | 25 | 26 => 4
  | 18 | 19 | 20 | 27 => 2
  | _ => 1

/-- Bits of the encoding that a consumer reads, and how FP19 sits in its container (R76, R80). -/
def Elem.value (x : Elem) (bits : Nat) : Num :=
  let ofInt : Int → Num := fun i => .fin (decide (i < 0)) i.natAbs 0
  match x with
  | .float f => if f = layFP19 then f.value (bits / 8192) else f.value (bits % 2 ^ (1 + f.ebits + f.mbits))
  | .int s n =>
    let b := bits % 2 ^ n
    if s ∧ b.testBit (n - 1) then ofInt ((b : Int) - 2 ^ n) else ofInt b
  | .tern => if bits % 4 = 1 then ofInt 1 else if bits % 4 = 3 then ofInt (-1) else ofInt 0
  | .bin => if bits % 2 = 1 then ofInt 1 else ofInt (-1)

/-- The integer value of an integer element (R91). -/
def Num.int : Num → Int
  | .fin neg m e => if neg then -((m * 2 ^ e.toNat : Nat) : Int) else (m * 2 ^ e.toNat : Nat)
  | _ => 0

/-- Saturate and encode an integer into n bits (R87). -/
def encodeInt (signed : Bool) (n : Nat) (i : Int) : Nat :=
  let lo : Int := if signed then -(2 ^ (n - 1) : Nat) else 0
  let hi : Int := if signed then (2 ^ (n - 1) : Nat) - 1 else (2 ^ n : Nat) - 1
  let c := if i < lo then lo else if hi < i then hi else i
  (c % (2 ^ n : Nat)).toNat

/-- The encoding of −1, 0 or 1 in TERN2. -/
def encodeTern (i : Int) : Nat := if i < 0 then 3 else if 0 < i then 1 else 0

/-- CONV_F or SR_F for an integer element: `pick` rounds the magnitude. -/
def Elem.convWith (x : Elem) (floatConv : Layout → Num → Nat) (pick : Bool → Nat → Int → Int)
    (y : Num) : Nat :=
  match x with
  | .float f => if f = layFP19 then floatConv f y * 8192 else floatConv f y
  | .int s n =>
    match y with
    | .nan => 0
    | .inf neg => encodeInt s n (if neg then -(2 ^ 40 : Nat) else (2 ^ 40 : Nat))
    | .fin neg m e => encodeInt s n (pick neg m e)
  | .tern =>
    match y with
    | .nan => 0
    | .inf neg => encodeTern (if neg then -1 else 1)
    | .fin neg m e => encodeTern (pick neg m e)
  | .bin =>
    match y with
    | .nan => 1
    | .inf neg => if neg then 0 else 1
    | .fin neg m _ => if neg && m != 0 then 0 else 1

/-- R87: the encoding CONV_F gives. -/
def Elem.conv (x : Elem) (y : Num) : Nat := x.convWith (fun f => f.conv) (roundInt .rne) y

/-- R88 for BIN1: a magnitude of 1 or more saturates; a smaller one rounds up to ±1, and where SR_F
takes the lower neighbour, which BIN1 lacks, the value is free. A zero, which BIN1 cannot hold, becomes +1: R88
gives the zero itself, and R87 states +1 for the rounding to nearest only (DESIGN CHOICE, log entry 14). -/
def binSR (r : Word) (neg : Bool) (m : Nat) (e : Int) : Nat :=
  if magLe 1 0 m e then (if neg then 0 else 1)
  else if m = 0 then 1
  else if stochasticUp m (-e).toNat r then (if neg then 0 else 1)
  else if Config.binLow r then 0 else 1

/-- R88: the encoding SR_F in CONV_F gives, with random word r. -/
def Elem.convSR (x : Elem) (r : Word) (y : Num) : Nat :=
  let pick : Bool → Nat → Int → Int := fun neg m e =>
    let q : Nat := if 0 ≤ e then m * 2 ^ e.toNat
                   else m / 2 ^ (-e).toNat + (if stochasticUp m (-e).toNat r then 1 else 0)
    if neg then -(q : Int) else q
  match x, y with
  | .bin, .fin neg m e => binSR r neg m e
  | _, _ => x.convWith (fun f => f.convSR r) pick y

/-- R81: the fields of a slot word. -/
def slotCode (w : Word) : Nat := w.toNat % 32
def slotScale (w : Word) : Nat := w.toNat / 32 % 8
/-- R81: a valid slot word. -/
def slotOk (w : Word) : Bool := decide (w.toNat < 256 ∧ slotScale w ≤ 2 ∧ slotCode w ≤ 27)

/-- R82: the value of a block's scale byte. -/
def scaleValue (kind byte : Nat) : Num :=
  match kind with
  | 1 => if byte = 255 then .nan else .fin false 1 ((byte : Int) - 127)
  | 2 => if byte = 127 ∨ 128 ≤ byte then .nan else layE4M3.value byte
  | _ => .fin false 1 0

/-! ### Exact arithmetic -/

def Num.neg : Num → Num
  | .nan => .nan
  | .inf n => .inf (!n)
  | .fin n m e => .fin (!n) m e

def Num.isZero : Num → Bool
  | .fin _ 0 _ => true
  | _ => false

/-- The exact product; ∞ × 0 is NaN; the sign is the exclusive OR (R149, R90). -/
def Num.mul : Num → Num → Num
  | .nan, _ => .nan
  | _, .nan => .nan
  | .inf a, .inf b => .inf (a != b)
  | .inf a, .fin b m _ => if m = 0 then .nan else .inf (a != b)
  | .fin a m _, .inf b => if m = 0 then .nan else .inf (a != b)
  | .fin a m e, .fin b n k => .fin (a != b) (m * n) (e + k)

/-- (−1)^neg · m as an integer at exponent `lo`, which is at most e. -/
def scaled (neg : Bool) (m : Nat) (e lo : Int) : Int :=
  let q : Int := (m * 2 ^ (e - lo).toNat : Nat)
  if neg then -q else q

/-- The exact sum; a zero sum's sign follows R149: kept when both are zeros of one sign, otherwise +,
or − when rounding down. -/
def Num.add (down : Bool) : Num → Num → Num
  | .nan, _ => .nan
  | _, .nan => .nan
  | .inf a, .inf b => if a = b then .inf a else .nan
  | .inf a, .fin _ _ _ => .inf a
  | .fin _ _ _, .inf b => .inf b
  | .fin a m e, .fin b n k =>
    let lo := min e k
    let t := scaled a m e lo + scaled b n k lo
    if t = 0 then
      (if m = 0 ∧ n = 0 ∧ a = b then .fin a 0 0 else .fin down 0 0)
    else .fin (decide (t < 0)) t.natAbs lo

/-- R90: the sum of summands, formed exactly. A zero sum is −0 when every summand present is −0. -/
def exactSum (xs : List Num) : Num :=
  if xs.any (fun x => x == .nan) then .nan
  else if xs.any (fun x => x == .inf true) && xs.any (fun x => x == .inf false) then .nan
  else if xs.any (fun x => x == .inf true) then .inf true
  else if xs.any (fun x => x == .inf false) then .inf false
  else
    let lo : Int := xs.foldl (fun a x => match x with | .fin _ _ e => min a e | _ => a) 0
    let t : Int := xs.foldl (fun a x => match x with | .fin n m e => a + scaled n m e lo | _ => a) 0
    if t = 0 then
      .fin (!xs.isEmpty && xs.all (fun x => match x with | .fin n m _ => n && m == 0 | _ => false)) 0 0
    else .fin (decide (t < 0)) t.natAbs lo

/-- The order of two values: −∞ below finite below +∞, −0 below +0; NaN is not ordered. -/
def Num.lt : Num → Num → Bool
  | .inf true, .inf true => false
  | .inf true, .fin _ _ _ => true
  | .inf true, .inf false => true
  | .fin _ _ _, .inf false => true
  | .fin a m e, .fin b n k => decide (scaled a m e (min e k) < scaled b n k (min e k))
  | _, _ => false

/-! ### FP32 words -/

def f32 (w : Word) : Num := layFP32.value w.toNat
def toF32 (r : Rounding) (x : Num) : Word := BitVec.ofNat 32 (layFP32.round r x)
/-- The canonical NaN of FP32. -/
def nan32 : Word := 0x7FC00000
def isNaN32 (w : Word) : Bool := f32 w == .nan

/-- An addition or subtraction under a rounding, in any layout. -/
def fAddIn (f : Layout) (r : Rounding) (x y : Nat) : Nat :=
  f.round r (Num.add (r == .rd) (f.value x) (f.value y))
def fSubIn (f : Layout) (r : Rounding) (x y : Nat) : Nat :=
  f.round r (Num.add (r == .rd) (f.value x) (f.value y).neg)
def fMulIn (f : Layout) (r : Rounding) (x y : Nat) : Nat :=
  f.round r (Num.mul (f.value x) (f.value y))
/-- R152: one exact product and addend, rounded once. -/
def fFmaIn (f : Layout) (r : Rounding) (negProd negAdd : Bool) (a b c : Nat) : Nat :=
  let p := Num.mul (f.value a) (f.value b)
  let q := if negProd then p.neg else p
  let z := if negAdd then (f.value c).neg else f.value c
  f.round r (Num.add (r == .rd) q z)

def fAdd (r : Rounding) (x y : Word) : Word := BitVec.ofNat 32 (fAddIn layFP32 r x.toNat y.toNat)
def fSub (x y : Word) : Word := BitVec.ofNat 32 (fSubIn layFP32 .rne x.toNat y.toNat)
def fMul (r : Rounding) (x y : Word) : Word := BitVec.ofNat 32 (fMulIn layFP32 r x.toNat y.toNat)
def fFma (r : Rounding) (negProd negAdd : Bool) (a b c : Word) : Word :=
  BitVec.ofNat 32 (fFmaIn layFP32 r negProd negAdd a.toNat b.toNat c.toNat)

/-- −0 orders below +0 (R151). -/
def fLeIn (f : Layout) (x y : Nat) : Bool :=
  match f.value x, f.value y with
  | .fin a 0 _, .fin b 0 _ => a || !b
  | u, v => !Num.lt v u

/-- R151: minimum and maximum, any NaN giving the canonical NaN. -/
def fMinIn (f : Layout) (x y : Nat) : Nat :=
  if f.value x == .nan || f.value y == .nan then f.nanBits else if fLeIn f x y then x else y
def fMaxIn (f : Layout) (x y : Nat) : Nat :=
  if f.value x == .nan || f.value y == .nan then f.nanBits else if fLeIn f x y then y else x
def fMin (x y : Word) : Word := BitVec.ofNat 32 (fMinIn layFP32 x.toNat y.toNat)
def fMax (x y : Word) : Word := BitVec.ofNat 32 (fMaxIn layFP32 x.toNat y.toNat)
/-- minimumNumber, maximumNumber (R151). -/
def fMinNum (x y : Word) : Word :=
  if isNaN32 x then (if isNaN32 y then nan32 else y) else if isNaN32 y then x else fMin x y
def fMaxNum (x y : Word) : Word :=
  if isNaN32 x then (if isNaN32 y then nan32 else y) else if isNaN32 y then x else fMax x y

def fAbs (x _y : Word) : Word := if isNaN32 x then nan32 else x &&& 0x7FFFFFFF
def fNeg (x _y : Word) : Word := if isNaN32 x then nan32 else x ^^^ 0x80000000
/-- R150: FCOPYSIGN. Its row takes y's sign bit even when y is NaN; the rule's last sentence gives the canonical NaN
for a NaN y. The model follows the row (DEDUCED, log entry 74). -/
def fCopySign (x y : Word) : Word :=
  if isNaN32 x then nan32 else (x &&& 0x7FFFFFFF) ||| (y &&& 0x80000000)

/-- R150: x rounded to an integer value in a direction; a zero keeps the sign of x. -/
def fToIntegral (r : Rounding) (x _y : Word) : Word :=
  match f32 x with
  | .nan => nan32
  | .inf _ => x
  | .fin neg m e =>
    let i := roundInt r neg m e
    toF32 .rne (.fin neg i.natAbs 0)

/-- FCLAMP01 (R150). -/
def fClamp01 (x _y : Word) : Word :=
  if isNaN32 x then nan32
  else if !Num.lt (.fin false 0 0) (f32 x) then 0
  else if !Num.lt (f32 x) (.fin false 1 0) then 0x3F800000
  else x

/-! ### Halves (R153, R154) -/

def lowHalf (x : Word) : Nat := x.toNat % 65536
def highHalf (x : Word) : Nat := x.toNat / 65536
def halves (lo hi : Nat) : Word := BitVec.ofNat 32 (lo % 65536 + 65536 * (hi % 65536))
def half2 (op : Nat → Nat → Nat) (x y : Word) : Word :=
  halves (op (lowHalf x) (lowHalf y)) (op (highHalf x) (highHalf y))
def half3 (op : Nat → Nat → Nat → Nat) (a b c : Word) : Word :=
  halves (op (lowHalf a) (lowHalf b) (lowHalf c)) (op (highHalf a) (highHalf b) (highHalf c))

def hAdd2 : Word → Word → Word := half2 (fAddIn layFP16 .rne)
def hSub2 : Word → Word → Word := half2 (fSubIn layFP16 .rne)
def hMul2 : Word → Word → Word := half2 (fMulIn layFP16 .rne)
def hMin2 : Word → Word → Word := half2 (fMinIn layFP16)
def hMax2 : Word → Word → Word := half2 (fMaxIn layFP16)
def bAdd2 : Word → Word → Word := half2 (fAddIn layBF16 .rne)
def bSub2 : Word → Word → Word := half2 (fSubIn layBF16 .rne)
def bMul2 : Word → Word → Word := half2 (fMulIn layBF16 .rne)
def bMin2 : Word → Word → Word := half2 (fMinIn layBF16)
def bMax2 : Word → Word → Word := half2 (fMaxIn layBF16)
def hFma2 : Word → Word → Word → Word := half3 (fFmaIn layFP16 .rne false false)
def bFma2 : Word → Word → Word → Word := half3 (fFmaIn layBF16 .rne false false)

/-! ### The Corrum-1 classes (R309) -/

/-- A subnormal FP16 input is the zero of its sign. -/
def c1In (x : Nat) : Nat := if x / 1024 % 32 = 0 then x / 32768 * 32768 else x
/-- A result below 2^−14 after rounding is the zero of its sign. -/
def c1Out (x : Nat) : Nat := c1In x
def c1Half2 (op : Nat → Nat → Nat) (x y : Word) : Word := half2 (fun a b => c1Out (op (c1In a) (c1In b))) x y
def c1Add : Word → Word → Word := c1Half2 (fAddIn layFP16 .rne)
def c1Sub : Word → Word → Word := c1Half2 (fSubIn layFP16 .rne)
def c1Mul : Word → Word → Word := c1Half2 (fMulIn layFP16 .rne)
def c1Fma (a b d : Word) : Word :=
  half3 (fun x y z => c1Out (fFmaIn layFP16 .rne false false (c1In x) (c1In y) (c1In z))) a b d
/-- C1F2I (R308). -/
def c1F2I (x : Word) : Word :=
  match f32 x with
  | .fin neg m e =>
    let i := roundInt .rz neg m e
    if -2147483648 ≤ i ∧ i ≤ 2147483647 then BitVec.ofInt 32 i else 0x80000000
  | _ => 0x80000000

/-! ### Conversions (R157) -/

def intToF (x _y : Word) : Word := toF32 .rne (.fin (decide (x.toInt < 0)) x.toInt.natAbs 0)
def uintToF (x _y : Word) : Word := toF32 .rne (.fin false x.toNat 0)
/-- F2I, F2U, F2IN, F2UN: NaN gives 0, then saturation. -/
def fToInt (r : Rounding) (signed : Bool) (x _y : Word) : Word :=
  match f32 x with
  | .nan => 0
  | .inf neg => BitVec.ofNat 32 (encodeInt signed 32 (if neg then -(2 ^ 40 : Nat) else (2 ^ 40 : Nat)))
  | .fin neg m e => BitVec.ofNat 32 (encodeInt signed 32 (roundInt r neg m e))
def packHalf (f : Layout) (x y : Word) : Word := halves (f.round .rne (f32 x)) (f.round .rne (f32 y))
/-- The FP32 value of a half; a NaN becomes canonical. -/
def unpackHalf (f : Layout) (h : Nat) : Word := toF32 .rne (f.value h)
def pkh (x y : Word) : Word := packHalf layFP16 x y
def pkb (x y : Word) : Word := packHalf layBF16 x y
def uphLo (x _y : Word) : Word := unpackHalf layFP16 (lowHalf x)
def uphHi (x _y : Word) : Word := unpackHalf layFP16 (highHalf x)
def upbLo (x _y : Word) : Word := unpackHalf layBF16 (lowHalf x)
def upbHi (x _y : Word) : Word := unpackHalf layBF16 (highHalf x)
def f2f19 (x _y : Word) : Word := BitVec.ofNat 32 (layFP19.round .rne (f32 x) * 8192)

/-! ### Slot packing and dot products (R158–R163) -/

/-- Elements in one register for a container width. -/
def perWord (w : Nat) : Nat := 32 / w
/-- Element k of a packed word. -/
def elemBits (w : Nat) (x : Word) (k : Nat) : Nat := x.toNat / 2 ^ (k * w) % 2 ^ w
/-- FPACK: the encodings of n values, element k at bit k·w. -/
def packWord (w : Nat) (enc : Nat → Nat) : Word :=
  BitVec.ofNat 32 ((List.range (perWord w)).foldl (fun acc k => acc + (enc k % 2 ^ w) * 2 ^ (k * w)) 0)
def fpackWord (code : Nat) (src : Nat → Word) : Word :=
  packWord (container code) (fun k => (elemOf code).conv (f32 (src k)))
/-- The random word of element k (R160). -/
def srWord (r : Word) (k : Nat) : Word := r + BitVec.ofNat 32 k * 0x9E3779B9
def fpackSRWord (code : Nat) (r : Word) (src : Nat → Word) : Word :=
  packWord (container code) (fun k => (elemOf code).convSR (srWord r k) (f32 (src k)))
/-- FUNPK (R161). -/
def funpkWord (code : Nat) (x : Word) (k : Nat) : Word :=
  let b := elemBits (container code) x k
  match elemOf code with
  | .float f => toF32 .rne (Elem.value (.float f) b)
  | e => BitVec.ofInt 32 (e.value b).int
/-- FDOT (R163): base plus the products, exactly, rounded once. -/
def fdotWord (code : Nat) (d a b : Word) : Word :=
  let w := container code
  let e := elemOf code
  toF32 .rne (exactSum (f32 d :: (List.range (perWord w)).map
    (fun k => Num.mul (e.value (elemBits w a k)) (e.value (elemBits w b k)))))
/-- REDUX.FADD (R164): the exact sum of FP32 words, with no base. -/
def reduxFadd (xs : List Word) : Word := toF32 .rne (exactSum (xs.map f32))

/-! ### Compares on FP32 (R122) -/

inductive FOrder where
  | less | equal | greater | unordered
  deriving DecidableEq, Repr

def fCompare (x y : Word) : FOrder :=
  if isNaN32 x || isNaN32 y then .unordered
  else if Num.lt (f32 x) (f32 y) then .less
  else if Num.lt (f32 y) (f32 x) then .greater
  else .equal

end Sys2Proof.Machine
end

