-- ==== Sys2Proof/Machine/Check.lean ====
section
/-! DEFINITION. The decode checks of R109 that need the launch: the fetch limit (step 1), the debug
privilege (5), the FUNPK index (R161, step 6), the register count (8), the slot formats (9) and equal
lengths (11); and the reason codes of R110. -/

namespace Sys2Proof.Machine

/-- A word that fails a check: the step of R109, ILLOP or ILL, the reason code and bits 7:0 of the
detail field (R110). -/
structure BadWord where
  step : Nat
  illop : Bool
  reason : Byte
  low : Byte
  deriving DecidableEq, Repr

/-- A 6-bit field of a word. -/
def reg6 (w lo : Nat) : Nat := w / 2 ^ lo % 64

/-- R85: the registers that an operand of one code occupies beside an operand of another. -/
def fragmentRegs (own other : Nat) : Nat :=
  let wide := max (container own) (container other)
  max 1 (512 / wide * container own / 32)

/-- R107, R104: the vector registers a 32-bit word names, as (first, count). -/
def vectorRegs (slot : Nat → Word) (w : Nat) : List (Nat × Nat) :=
  let d := reg6 w 8
  let a := reg6 w 14
  let b := reg6 w 20
  let c := reg6 w 26
  let dl := reg6 w 12
  let al := reg6 w 18
  let bl := reg6 w 24
  let addr : Nat × Nat := if w.testBit 29 then (al, 2) else (al, 1)
  let code (lo : Nat) : Nat := slotCode (slot (w / 2 ^ lo % 8))
  match w / 2 % 128 with
  | 0x01 | 0x10 | 0x1C | 0x1F | 0x21 | 0x22 | 0x23 | 0x0F => [(d, 1), (a, 1), (b, 1)]
  | 0x02 | 0x11 => [(d, 1), (a, 1)]
  | 0x03 => match c with
    | 0 | 1 => [(d, 2), (a, 2), (b, 2)]
    | 5 | 6 => [(d, 2), (a, 1), (b, 1)]
    | _ => [(d, 2), (a, 2), (b, 1)]
  | 0x04 | 0x05 | 0x06 | 0x07 | 0x08 | 0x09 | 0x0A => [(d, 1), (a, 1)]
  | 0x0B | 0x0C => [(d, 1)]
  | 0x0D | 0x0E | 0x12 | 0x13 | 0x14 | 0x15 | 0x16 | 0x17 | 0x1D | 0x1E => [(d, 1), (a, 1), (b, 1), (c, 1)]
  | 0x18 => if c < 32 then [(a, 1), (b, 1)] else [(a, 2), (b, 2)]
  | 0x19 => if c < 32 then [(a, 1)] else [(a, 2)]
  | 0x1A => [(a, 1)]
  | 0x1B => if c = 8 then [(a, 1)] else if c = 9 then [(d, 1)] else []
  | 0x20 => if w / 2 ^ 26 % 8 = 2 then [(d, 1), (a, 1)] else [(d, 1), (a, 32 / container (code 29)), (b, 1)]
  | 0x24 | 0x25 | 0x26 => [(dl, 1), (al, 1), (bl, 1)]
  | 0x4A | 0x4C => [(a, 1)]
  | 0x50 => if c = 2 then [(a, 1)] else if c = 3 then [(d, 1)] else []
  | 0x52 => match w / 2 ^ 30 % 4 with
    | 0 => [(dl, 1), (al, 2)]
    | 1 => [(al, 1), (bl, 1)]
    | _ => [(dl, 1)]
  | 0x53 => match c with
    | 2 => if a * 64 + b ≤ 0x00A then [(d, 1)] else []
    | 10 => [(d, 1)]
    | 11 => [(b, 1)]
    | _ => []
  | 0x54 => if c = 5 then [(d, 1), (a, 2), (b, 2)] else [(d, 1), (a, 1), (b, 1)]
  | 0x60 | 0x61 | 0x62 | 0x63 | 0x64 | 0x67 | 0x68 | 0x69 | 0x6C | 0x6E | 0x72 => [(dl, 1), addr]
  | 0x65 | 0x6A | 0x6D | 0x6F => [(dl, 2), addr]
  | 0x66 | 0x6B => [(dl, 4), addr]
  | 0x73 => [addr]
  | 0x70 => match w / 2 ^ 29 % 8 with
    | 5 => [(dl, 2), (al, 1)]
    | 6 => [(dl, 4), (al, 1)]
    | _ => [(dl, 1), (al, 1)]
  | 0x71 => match w / 2 ^ 29 % 8 with
    | 3 => [(dl, 2), (al, 1)]
    | 4 => [(dl, 4), (al, 1)]
    | _ => [(dl, 1), (al, 1)]
  | 0x74 => match w / 2 ^ 24 % 16 with
    | 9 | 13 | 14 => [(dl, 2), (al, 2)]
    | 15 => [(dl, 4), (al, 2)]
    | _ => [(dl, 1), (al, 2)]
  | 0x75 => if w / 2 ^ 24 % 16 = 11 then [(dl, 2), (al, 2)] else [(dl, 1), (al, 2)]
  | 0x7A => match c with
    | 5 => [(b, 1)]
    | 6 | 7 => [(d, 1)]
    | _ => []
  | 0x7B => if c = 1 ∨ c = 5 then [(d, 1)] else []
  | 0x7C => [(16 * (w / 2 ^ 12 % 4), fragmentRegs (code 22) (code 25)),
      (16 * (w / 2 ^ 14 % 4), fragmentRegs (code 25) (code 22)), (4 * (w / 2 ^ 16 % 16), 4)]
  | 0x7D | 0x7E => [(16 * (w / 2 ^ 12 % 4), fragmentRegs (code 26) (code 29)), (4 * (w / 2 ^ 20 % 16), 4)]
  | 0x7F => if c = 4 ∨ c = 5 then [(d, 8)] else []
  | _ => []

/-- Step 9: the slots a word names hold formats that its consumer accepts (R84). -/
def slotsOk (slot : Nat → Word) (w : Nat) : Bool :=
  let at_ (lo : Nat) : Word := slot (w / 2 ^ lo % 8)
  match w / 2 % 128 with
  | 0x20 => decide (slotCode (at_ 29) ≤ 21)
  | 0x22 => decide (2 ≤ slotCode (at_ 29) ∧ slotCode (at_ 29) ≤ 20)
  | 0x7C =>
    if 2 ≤ w / 2 ^ 28 % 16 then
      [at_ 22, at_ 25].all (fun f => (decide (11 ≤ slotCode f ∧ slotCode f ≤ 21) || slotCode f == 27) && slotScale f == 0)
    else [at_ 22, at_ 25].all (fun f => decide (slotCode f ≤ 27))
  | 0x7D | 0x7E => [at_ 26, at_ 29].all (fun f => decide (slotCode f ≤ 27))
  | _ => true

/-- R161: the FUNPK index is below the number of elements. -/
def funpkOk (slot : Nat → Word) (w : Nat) : Bool :=
  if w / 2 % 128 = 0x20 ∧ w / 2 ^ 26 % 8 = 2 then
    decide (reg6 w 20 < 32 / container (slotCode (slot (w / 2 ^ 29 % 8))))
  else true

/-- Steps 2 to 10 of R109 on a fetched word; `count` is the launch's register count (R104, R109). A word that names a
register below it and at or above the register count of the version's code object (R58, R295) passes (DESIGN CHOICE,
log entry 90). -/
def wordCheck (debug : Bool) (count : Nat) (slot : Nat → Word) (w : Nat) (r : Except DecodeError Instr) :
    Option BadWord :=
  if w % 2 = 0 then
    let d := w / 32 % 64
    let v := w / 2048 % 32
    let op := w / 2 % 16
    if count ≤ d ∨ (op ≠ 15 ∧ count ≤ v) then some ⟨8, true, 3, BitVec.ofNat 8 (0x80 + op)⟩ else none
  else
    let low := BitVec.ofNat 8 (w / 2 % 128)
    match r with
    | .error .majorZero => some ⟨2, false, 2, low⟩
    | .error .major => some ⟨3, false, 0, low⟩
    | .error .code => some ⟨4, false, 1, low⟩
    | .error .truncated => some ⟨1, false, 3, 0xFF⟩
    | .error .zeroField => if debugWord w && !debug then some ⟨5, true, 5, low⟩ else some ⟨6, true, 1, low⟩
    | .error .alignment => if debugWord w && !debug then some ⟨5, true, 5, low⟩ else some ⟨7, true, 2, low⟩
    | .error .special => if debugWord w && !debug then some ⟨5, true, 5, low⟩ else some ⟨10, true, 0x0A, low⟩
    | .ok _ =>
      if debugWord w && !debug then some ⟨5, true, 5, low⟩
      else if !funpkOk slot w then some ⟨6, true, 1, low⟩
      else if (vectorRegs slot w).any (fun e => decide (count < e.1 + e.2)) then some ⟨8, true, 3, low⟩
      else if !slotsOk slot w then some ⟨9, true, 4, low⟩
      else none

/-- R36: of the words fetched at an offset, in plane order, the failure of the earliest step, in the
lowest plane that fails it; step 11 (equal lengths, R30) comes after every other. DEDUCED: when lengths
differ, every fetched word fails step 11, so the lowest fetched plane is named. -/
def offsetCheck (words : List (Nat × Nat × Option BadWord)) : Option (Nat × BadWord) :=
  let bad := words.filterMap (fun e => e.2.2.map (fun b => (e.1, b)))
  match bad with
  | b :: bs => some (bs.foldl (fun best x => if x.2.step < best.2.step then x else best) b)
  | [] =>
    match words with
    | [] => none
    | e :: es =>
      if es.any (fun x => decide (x.2.1 % 2 ≠ e.2.1 % 2)) then
        let low := if e.2.1 % 2 = 0 then 0x80 + e.2.1 / 2 % 16 else e.2.1 / 2 % 128
        some (e.1, ⟨11, true, 6, BitVec.ofNat 8 low⟩)
      else none

end Sys2Proof.Machine
end

