-- ==== Sys2Proof/Machine/Arith.lean ====
section
/-! DEFINITION. Integer operations on words and pairs: the tables of R115, R116, R118–R120, R122,
R123, R162, and the bit-field helpers they share. Pure functions of their operands. -/

namespace Sys2Proof.Machine

/-- The truth of a Boolean as a word. -/
def word01 (b : Bool) : Word := if b then 1 else 0

/-- R115: saturate an exact value to a range. -/
def clampInt (x lo hi : Int) : Int := if x < lo then lo else if hi < x then hi else x

/-- Shift and rotate counts are y bits 4:0 (R115). -/
def count5 (y : Word) : Nat := y.toNat % 32

def aluAdd (x y : Word) : Word := x + y
def aluSub (x y : Word) : Word := x - y
def aluMul (x y : Word) : Word := x * y
/-- Bits 63:32 of the signed product. -/
def aluMulHi (x y : Word) : Word := BitVec.ofInt 32 ((x.toInt * y.toInt) / 4294967296)
/-- Bits 63:32 of the unsigned product. -/
def aluUMulHi (x y : Word) : Word := BitVec.ofNat 32 ((x.toNat * y.toNat) / 4294967296)
def aluMin (x y : Word) : Word := if x.toInt ≤ y.toInt then x else y
def aluMax (x y : Word) : Word := if x.toInt ≤ y.toInt then y else x
def aluUMin (x y : Word) : Word := if x.toNat ≤ y.toNat then x else y
def aluUMax (x y : Word) : Word := if x.toNat ≤ y.toNat then y else x
def aluAnd (x y : Word) : Word := x &&& y
def aluOr (x y : Word) : Word := x ||| y
def aluXor (x y : Word) : Word := x ^^^ y
def aluAndN (x y : Word) : Word := x &&& ~~~y
def aluShl (x y : Word) : Word := x <<< count5 y
def aluShr (x y : Word) : Word := x >>> count5 y
def aluSar (x y : Word) : Word := x.sshiftRight (count5 y)
def aluRol (x y : Word) : Word := x.rotateLeft (count5 y)
def aluAbsD (x y : Word) : Word := BitVec.ofNat 32 (x.toInt - y.toInt).natAbs
def aluAddS (x y : Word) : Word := BitVec.ofInt 32 (clampInt (x.toInt + y.toInt) (-2147483648) 2147483647)
def aluSubS (x y : Word) : Word := BitVec.ofInt 32 (clampInt (x.toInt - y.toInt) (-2147483648) 2147483647)
def aluUAddS (x y : Word) : Word := BitVec.ofInt 32 (clampInt (x.toNat + y.toNat) 0 4294967295)
def aluUSubS (x y : Word) : Word := BitVec.ofInt 32 (clampInt ((x.toNat : Int) - y.toNat) 0 4294967295)
/-- The number of 1 bits. -/
def aluPopc (x _y : Word) : Word := BitVec.ofNat 32 (laneCount x)
/-- The number of leading 0 bits; 32 for 0. -/
def aluClz (x _y : Word) : Word :=
  BitVec.ofNat 32 (((List.range 32).takeWhile (fun i => !x.getLsbD (31 - i))).length)
/-- Bit i of the result is bit 31 − i of x. -/
def aluBrev (x _y : Word) : Word := maskOf (fun i => x.getLsbD (31 - i))

/-- R115: the length of a bit field, cut to the word. -/
def fieldLen (y : Word) : Nat := min (y.toNat / 32 % 64) (32 - count5 y)
/-- UBFE: the field, zero-extended. -/
def aluUBfe (x y : Word) : Word := BitVec.ofNat 32 ((x.toNat >>> count5 y) % 2 ^ fieldLen y)
/-- BFE: the field, sign-extended; 0 when its length is 0. -/
def aluBfe (x y : Word) : Word :=
  let n := fieldLen y
  let f := (x.toNat >>> count5 y) % 2 ^ n
  if n = 0 then 0 else if f.testBit (n - 1) then BitVec.ofInt 32 ((f : Int) - 2 ^ n) else BitVec.ofNat 32 f

def aluMov (_x y : Word) : Word := y
def aluSetLt (x y : Word) : Word := word01 (decide (x.toInt < y.toInt))
def aluSetLe (x y : Word) : Word := word01 (decide (x.toInt ≤ y.toInt))
def aluSetEq (x y : Word) : Word := word01 (decide (x = y))
def aluSetNe (x y : Word) : Word := word01 (decide (x ≠ y))
def aluUSetLt (x y : Word) : Word := word01 (decide (x.toNat < y.toNat))
def aluUSetLe (x y : Word) : Word := word01 (decide (x.toNat ≤ y.toNat))

/-- Sign-extended immediates (R97). -/
def sx12 (k : BitVec 12) : Word := k.signExtend 32
def sx18 (k : BitVec 18) : Word := k.signExtend 32
/-- MOVKH (R117): the immediate above bit 13, the low 14 bits of d kept. -/
def movkh (d : Word) (k : BitVec 18) : Word := (k.setWidth 32 <<< 14) ||| (d &&& 0x3FFF)

/-- 64-bit pair operations (R118). The shift count is y & 63. -/
def pairAdd (a b : DWord) : DWord := a + b
def pairSub (a b : DWord) : DWord := a - b
def pairShl (a : DWord) (y : Word) : DWord := a <<< (y.toNat % 64)
def pairShr (a : DWord) (y : Word) : DWord := a >>> (y.toNat % 64)
def pairSar (a : DWord) (y : Word) : DWord := a.sshiftRight (y.toNat % 64)
def wideMul (x y : Word) : DWord := BitVec.ofInt 64 (x.toInt * y.toInt)
def wideUMul (x y : Word) : DWord := BitVec.ofNat 64 (x.toNat * y.toNat)
def pairAddW (a : DWord) (y : Word) : DWord := a + y.signExtend 64
def pairUAddW (a : DWord) (y : Word) : DWord := a + y.setWidth 64

/-- IMAD (R119). -/
def mulAdd (a b c : Word) : Word := a * b + c
/-- BFI (R120): a field of b into a at the place c names. -/
def bitInsert (a b c : Word) : Word :=
  let m : Word := BitVec.ofNat 32 (2 ^ fieldLen c - 1) <<< count5 c
  (a &&& ~~~m) ||| ((b <<< count5 c) &&& m)

/-- The signed value of bits lo … lo+n−1 of a word. -/
def sfield (x : Word) (lo n : Nat) : Int :=
  let f := (x.toNat >>> lo) % 2 ^ n
  if f.testBit (n - 1) then (f : Int) - 2 ^ n else f
/-- The unsigned value of bits lo … lo+n−1 of a word. -/
def ufield (x : Word) (lo n : Nat) : Int := ((x.toNat >>> lo) % 2 ^ n : Nat)
/-- The value of one element of an integer dot product (R162). -/
def dotField (signed : Bool) (x : Word) (lo n : Nat) : Int := if signed then sfield x lo n else ufield x lo n
/-- IDOT (R162): d plus the exact sum of products of the elements of n bits, modulo 2^32. -/
def intDot (n : Nat) (sa sb : Bool) (d a b : Word) : Word :=
  BitVec.ofInt 32 (d.toInt + ((List.range (32 / n)).map
    (fun k => dotField sa a (n * k) n * dotField sb b (n * k) n)).sum)

end Sys2Proof.Machine
end

