-- ==== Sys2Proof/Machine/Functions.lean ====
section
/-! DEFINITION. The correctly rounded functions (R155, R156). Division and square root are exact to a
sticky bit. The others are enclosed between two multiples of 2^(−P) by series with stated remainders;
when both ends round alike, that is the result. -/

namespace Sys2Proof.Machine

/-- a / b of two finite non-zero magnitudes, with a last bit that is 1 when a remainder is left. -/
def divMag (m : Nat) (e : Int) (n : Nat) (k : Int) : Nat × Int :=
  let t := m * 2 ^ 80
  let q := t / n
  (2 * q + (if t % n = 0 then 0 else 1), e - k - 81)

def numDiv : Num → Num → Num
  | .nan, _ => .nan
  | _, .nan => .nan
  | .inf _, .inf _ => .nan
  | .inf a, .fin b _ _ => .inf (a != b)
  | .fin a _ _, .inf b => .fin (a != b) 0 0
  | .fin a m e, .fin b n k =>
    if n = 0 then (if m = 0 then .nan else .inf (a != b))
    else if m = 0 then .fin (a != b) 0 0
    else let (q, x) := divMag m e n k; .fin (a != b) q x

def fDiv (x y : Word) : Word := toF32 .rne (numDiv (f32 x) (f32 y))
def fRcp (x _y : Word) : Word := toF32 .rne (numDiv (.fin false 1 0) (f32 x))

/-- √(m·2^e) to a sticky bit; the exponent is made even. -/
def sqrtMag (m : Nat) (e : Int) : Nat × Int :=
  let (m1, e1) := if e % 2 = 0 then (m, e) else (2 * m, e - 1)
  let t := m1 * 2 ^ 80
  let q := Nat.sqrt t
  (2 * q + (if q * q = t then 0 else 1), e1 / 2 - 41)

def numSqrt : Num → Num
  | .nan => .nan
  | .inf neg => if neg then .nan else .inf false
  | .fin neg m e =>
    if m = 0 then .fin neg 0 0 else if neg then .nan
    else let (q, x) := sqrtMag m e; .fin false q x

def fSqrt (x _y : Word) : Word := toF32 .rne (numSqrt (f32 x))

/-- 1/√a: the square root of a quotient taken to enough bits; both sticky bits are kept. -/
def fRsq (x _y : Word) : Word :=
  match f32 x with
  | .nan => nan32
  | .inf neg => if neg then nan32 else 0
  | .fin neg m e =>
    if m = 0 then (if neg then 0xFF800000 else 0x7F800000)
    else if neg then nan32
    else
      let (m1, e1) := if e % 2 = 0 then (m, e) else (2 * m, e - 1)
      let t := 2 ^ 200 / m1
      let q := Nat.sqrt t
      let exact := q * q = t ∧ t * m1 = 2 ^ 200
      toF32 .rne (.fin false (2 * q + (if exact then 0 else 1)) (-(e1 / 2) - 101))

/-! ### Enclosures: lo and hi in units of 2^(−P) -/

/-- An enclosure of a real number. -/
structure Enc where
  lo : Int
  hi : Int
  deriving DecidableEq, Repr

namespace Enc

/-- Floor and ceiling of a / b for a positive b. -/
def cdiv (a b : Int) : Int := -((-a) / b)

def add (x y : Enc) : Enc := ⟨x.lo + y.lo, x.hi + y.hi⟩
def sub (x y : Enc) : Enc := ⟨x.lo - y.hi, x.hi - y.lo⟩
def neg (x : Enc) : Enc := ⟨-x.hi, -x.lo⟩
def mul (P : Nat) (x y : Enc) : Enc :=
  let a := x.lo * y.lo
  let b := x.lo * y.hi
  let c := x.hi * y.lo
  let d := x.hi * y.hi
  let s : Int := (2 ^ P : Nat)
  ⟨min (min a b) (min c d) / s, cdiv (max (max a b) (max c d)) s⟩
/-- Division by a positive integer. -/
def divNat (x : Enc) (n : Nat) : Enc := ⟨x.lo / (n : Int), cdiv x.hi n⟩
/-- x / y for a positive y. -/
def div (P : Nat) (x y : Enc) : Enc :=
  let s : Int := (2 ^ P : Nat)
  let a := x.lo * s
  let b := x.hi * s
  ⟨if 0 ≤ a then a / y.hi else a / y.lo, if 0 ≤ b then cdiv b y.lo else cdiv b y.hi⟩
/-- Widen by a bound on a remainder. -/
def widen (x : Enc) (r : Int) : Enc := ⟨x.lo - r, x.hi + r⟩
/-- The exact rational m·2^e, enclosed. -/
def ofDyadic (P : Nat) (neg : Bool) (m : Nat) (e : Int) : Enc :=
  let k := e + P
  let y : Enc := if 0 ≤ k then (let v : Int := (m * 2 ^ k.toNat : Nat); ⟨v, v⟩)
                 else (let d : Int := (2 ^ (-k).toNat : Nat); ⟨(m : Int) / d, cdiv m d⟩)
  if neg then y.neg else y
def one (P : Nat) : Enc := ⟨(2 ^ P : Nat), (2 ^ P : Nat)⟩

/-- Round both ends to FP32; some when they agree. `sh` scales by a power of two. -/
def decide32 (P : Nat) (sh : Int) (x : Enc) : Option Word :=
  let w : Int → Word := fun v => toF32 .rne (.fin (decide (v < 0)) v.natAbs (sh - P))
  if w x.lo = w x.hi then some (w x.lo) else none

end Enc

/-- Σ from k = 0 of t^k / k!, n terms; |t| ≤ 1, so the remainder is below twice the next term, which
the last term bounds. -/
def expSeries (P : Nat) (t : Enc) (n : Nat) : Enc :=
  let r := (List.range n).foldl (fun (st : Enc × Enc) k =>
    (st.1.add st.2, (Enc.mul P st.2 t).divNat (k + 1))) (⟨0, 0⟩, Enc.one P)
  r.1.widen (2 * (max r.2.lo.natAbs r.2.hi.natAbs : Nat) + 2)

/-- artanh(z) / z-series: Σ z^(2k+1)/(2k+1), n terms, for |z| ≤ 1/3. -/
def atanhSeries (P : Nat) (z : Enc) (n : Nat) : Enc :=
  let z2 := Enc.mul P z z
  let r := (List.range n).foldl (fun (st : Enc × Enc) k =>
    (st.1.add (st.2.divNat (2 * k + 1)), Enc.mul P st.2 z2)) (⟨0, 0⟩, z)
  r.1.widen (2 * (max r.2.lo.natAbs r.2.hi.natAbs : Nat) + 2)

/-- ln 2 = 2 artanh(1/3). -/
def ln2Enc (P : Nat) : Enc :=
  let y := atanhSeries P ((Enc.one P).divNat 3) P
  ⟨2 * y.lo, 2 * y.hi⟩

/-- arctan(1/q): alternating, so the remainder is below the next term. -/
def atanInv (P q n : Nat) : Enc :=
  let r := (List.range n).foldl (fun (st : Enc × Enc) k =>
    (if k % 2 = 0 then st.1.add (st.2.divNat (2 * k + 1)) else st.1.sub (st.2.divNat (2 * k + 1)),
     (st.2.divNat q).divNat q)) (⟨0, 0⟩, (Enc.one P).divNat q)
  r.1.widen ((max r.2.lo.natAbs r.2.hi.natAbs : Nat) + 1)

/-- π = 16 arctan(1/5) − 4 arctan(1/239). -/
def piEnc (P : Nat) : Enc :=
  let a := atanInv P 5 P
  let b := atanInv P 239 P
  (⟨16 * a.lo, 16 * a.hi⟩ : Enc).sub ⟨4 * b.lo, 4 * b.hi⟩

/-- e^t for an enclosed t: t = n·ln 2 + u with |u| ≤ 1; the result is the enclosure times 2^n. -/
def expEnc (P : Nat) (t : Enc) : Enc × Int :=
  let l := ln2Enc P
  let n := t.lo / l.hi
  let nl : Enc := if 0 ≤ n then ⟨n * l.lo, n * l.hi⟩ else ⟨n * l.hi, n * l.lo⟩
  (expSeries P (t.sub nl) P, n)

/-- sin and cos of an enclosed angle of at most 1, by series whose remainders the next terms bound. -/
def sinSeries (P : Nat) (t : Enc) (n : Nat) : Enc :=
  let t2 := Enc.mul P t t
  let r := (List.range n).foldl (fun (st : Enc × Enc) k =>
    (if k % 2 = 0 then st.1.add st.2 else st.1.sub st.2,
     ((Enc.mul P st.2 t2).divNat (2 * k + 2)).divNat (2 * k + 3))) (⟨0, 0⟩, t)
  r.1.widen (2 * (max r.2.lo.natAbs r.2.hi.natAbs : Nat) + 2)

def cosSeries (P : Nat) (t : Enc) (n : Nat) : Enc :=
  let t2 := Enc.mul P t t
  let r := (List.range n).foldl (fun (st : Enc × Enc) k =>
    (if k % 2 = 0 then st.1.add st.2 else st.1.sub st.2,
     ((Enc.mul P st.2 t2).divNat (2 * k + 1)).divNat (2 * k + 2))) (⟨0, 0⟩, Enc.one P)
  r.1.widen (2 * (max r.2.lo.natAbs r.2.hi.natAbs : Nat) + 2)

/-- Try rising precisions; where none decides, the value is free (R155). -/
def ziv (id : Nat) (x : Word) (f : Nat → Option Word) (tries : List Nat) : Word :=
  match tries with
  | [] => Config.undecided id x
  | P :: t => match f P with
    | some w => w
    | none => ziv id x f t

/-- The precisions tried, on top of the bits that the operand's magnitude asks for. -/
def precisions (extra : Nat) : List Nat := [96 + extra, 192 + extra, 384 + extra]

/-- How far below 1 a magnitude lies, in bits. -/
def smallBits (m : Nat) (e : Int) : Nat := (-(e + (Nat.log2 m : Int))).toNat

/-- FEXP2: an integer a is exact; otherwise 2^a = 2^⌊a⌋ · e^(frac · ln 2). -/
def fExp2 (x _y : Word) : Word :=
  match f32 x with
  | .nan => nan32
  | .inf neg => if neg then 0 else 0x7F800000
  | .fin neg m e =>
    if m = 0 then 0x3F800000
    else if magLe 256 0 m e then (if neg then 0 else 0x7F800000)
    else
      let fl := roundInt .rd neg m e
      if 0 ≤ e ∨ m % 2 ^ (-e).toNat = 0 then toF32 .rne (.fin false 1 fl)
      else ziv 0 x (fun P =>
        let a := Enc.ofDyadic P neg m e
        let s : Int := (2 ^ P : Nat)
        let fr : Enc := ⟨a.lo - fl * s, a.hi - fl * s⟩
        Enc.decide32 P fl (expSeries P (Enc.mul P fr (ln2Enc P)) P)) (precisions (smallBits m e))

/-- FLOG2: a = 2^n · z with 1 ≤ z < 2, log₂ z = 2 artanh((z − 1)/(z + 1)) / ln 2. -/
def fLog2 (x _y : Word) : Word :=
  match f32 x with
  | .nan => nan32
  | .inf neg => if neg then nan32 else 0x7F800000
  | .fin neg m e =>
    if m = 0 then 0xFF800000
    else if neg then nan32
    else
      let k := Nat.log2 m
      let n := e + k
      if m = 2 ^ k then toF32 .rne (.fin (decide (n < 0)) n.natAbs 0)
      else ziv 1 x (fun P =>
        let s : Int := (2 ^ P : Nat)
        let z := Enc.ofDyadic P false m (-(k : Int))
        let num : Enc := ⟨z.lo - s, z.hi - s⟩
        let den : Enc := ⟨z.lo + s, z.hi + s⟩
        let y := atanhSeries P (Enc.div P num den) P
        let l := Enc.div P ⟨2 * y.lo, 2 * y.hi⟩ (ln2Enc P)
        Enc.decide32 P 0 ⟨l.lo + n * s, l.hi + n * s⟩) (precisions 32)

/-- sin(2πr) for the fraction r of a turn, as q/4 + u with |u| ≤ 1/8 in units of 2^(−j). -/
def turnSin (id : Nat) (x : Word) (quarters : Nat) (neg : Bool) (num j : Nat) : Word :=
  let flip := quarters % 4 = 2 ∨ quarters % 4 = 3
  ziv id x (fun P =>
    let u := Enc.ofDyadic P neg num (-(j : Int))
    let p := piEnc P
    let t := Enc.mul P u ⟨2 * p.lo, 2 * p.hi⟩
    let y := if quarters % 2 = 0 then sinSeries P t P else cosSeries P t P
    Enc.decide32 P 0 (if flip then y.neg else y)) (precisions (j - Nat.log2 num))

/-- The nearest quarter turn to num / 2^j (j ≥ 2) and what is left, signed. -/
def quarterSplit (num j : Nat) : Nat × Bool × Nat :=
  let h := 2 ^ (j - 2)
  let q := (2 * num + h) / (2 * h)
  (q, decide (num < q * h), if num < q * h then q * h - num else num - q * h)

/-- sin(2π(a + shift/4)) for a finite non-zero a; `shift` is 0 for FSINT and 1 for FCOST. -/
def turns (id shift : Nat) (x : Word) (neg : Bool) (m : Nat) (e : Int) : Word :=
  -- |a| in units of 2^(−j), modulo a whole turn
  let j : Nat := max 2 (-e).toNat
  let frac := (m * 2 ^ (e + j).toNat) % 2 ^ j
  let full := (if neg then 2 ^ j - frac else frac) % 2 ^ j
  let (q, un, u) := quarterSplit full j
  let k := (q + shift) % 4
  if u = 0 then
    (if k = 0 ∨ k = 2 then (if shift = 0 ∧ neg then 0x80000000 else 0)
     else if k = 1 then 0x3F800000 else 0xBF800000)
  else turnSin id x k un u j

def fSinT (x _y : Word) : Word :=
  match f32 x with
  | .fin neg m e => if m = 0 then (if neg then 0x80000000 else 0) else turns 2 0 x neg m e
  | _ => nan32

def fCosT (x _y : Word) : Word :=
  match f32 x with
  | .fin neg m e => if m = 0 then 0x3F800000 else turns 3 1 x neg m e
  | _ => nan32

/-- FTANH: (1 − e^(−2|a|)) / (1 + e^(−2|a|)) with the sign of a; from 32 up the result rounds to 1. -/
def fTanh (x _y : Word) : Word :=
  match f32 x with
  | .nan => nan32
  | .inf neg => if neg then 0xBF800000 else 0x3F800000
  | .fin neg m e =>
    if m = 0 then (if neg then 0x80000000 else 0)
    else if magLe 32 0 m e then (if neg then 0xBF800000 else 0x3F800000)
    else ziv 4 x (fun P =>
      let (y, n) := expEnc P (Enc.ofDyadic P true m (e + 1))
      let d : Int := (2 ^ (-n).toNat : Nat)
      let ex : Enc := if 0 ≤ n then ⟨y.lo * 2 ^ n.toNat, y.hi * 2 ^ n.toNat⟩ else ⟨y.lo / d, Enc.cdiv y.hi d⟩
      let r := Enc.div P ((Enc.one P).sub ex) ((Enc.one P).add ex)
      Enc.decide32 P 0 (if neg then r.neg else r)) (precisions (2 * smallBits m e))

/-- FSIGM: 1 / (1 + e^(−a)); a large a rounds to 1, a very negative one to +0. -/
def fSigm (x _y : Word) : Word :=
  match f32 x with
  | .nan => nan32
  | .inf neg => if neg then 0 else 0x3F800000
  | .fin neg m e =>
    if m = 0 then 0x3F000000
    else if magLe 128 0 m e then (if neg then 0 else 0x3F800000)
    else ziv 5 x (fun P =>
      -- with z = e^(−|a|): 1/(1 + z) for a ≥ 0, z/(1 + z) for a < 0
      let (y, n) := expEnc P (Enc.ofDyadic P true m e)
      let d : Int := (2 ^ (-n).toNat : Nat)
      let z : Enc := if 0 ≤ n then ⟨y.lo * 2 ^ n.toNat, y.hi * 2 ^ n.toNat⟩ else ⟨y.lo / d, Enc.cdiv y.hi d⟩
      Enc.decide32 P 0 (Enc.div P (if neg then z else Enc.one P) ((Enc.one P).add z))) (precisions (256 + smallBits m e))

/-- Σ (−1)^k a^(2k+1) / (k! (2k+1)); past k = a² the terms fall, and the first left out bounds the
remainder. -/
def erfSeries (P : Nat) (a : Enc) (n : Nat) : Enc :=
  let a2 := Enc.mul P a a
  let r := (List.range n).foldl (fun (st : Enc × Enc) k =>
    (if k % 2 = 0 then st.1.add (st.2.divNat (2 * k + 1)) else st.1.sub (st.2.divNat (2 * k + 1)),
     (Enc.mul P st.2 a2).divNat (k + 1))) (⟨0, 0⟩, a)
  r.1.widen ((max r.2.lo.natAbs r.2.hi.natAbs : Nat) + 2)

/-- The square root of an enclosed non-negative number. -/
def Enc.sqrt (P : Nat) (x : Enc) : Enc :=
  ⟨Nat.sqrt (x.lo.toNat * 2 ^ P), Nat.sqrt (x.hi.toNat * 2 ^ P) + 1⟩

/-- FERF: 2/√π times the series; from 8 up the result rounds to 1. -/
def fErf (x _y : Word) : Word :=
  match f32 x with
  | .nan => nan32
  | .inf neg => if neg then 0xBF800000 else 0x3F800000
  | .fin neg m e =>
    if m = 0 then (if neg then 0x80000000 else 0)
    else if magLe 8 0 m e then (if neg then 0xBF800000 else 0x3F800000)
    else ziv 6 x (fun P =>
      let s := erfSeries P (Enc.ofDyadic P false m e) (P + 128)
      let r := Enc.div P ⟨2 * s.lo, 2 * s.hi⟩ (Enc.sqrt P (piEnc P))
      Enc.decide32 P 0 (if neg then r.neg else r)) (precisions (128 + 2 * smallBits m e))

end Sys2Proof.Machine
end

