-- ==== Sys2Proof/Machine/State.lean ====
section
/-! DEFINITION. The state of one T960 module: every piece of state the spec names, as plain data, and
the module as reset leaves it. Numbered pieces (groups, blocks, cores, dies, contexts, launches,
lines) are held in sparse stores; a piece that a store does not list is in its all-zero state, which
is what "free", "invalid" or "off" means for it. Numbers used as keys:
core = 32·die + logical core; quad = 4·core + quad; group = 16·quad + slot;
block = 64·core + block context. -/

namespace Sys2Proof.Machine

/-- Why the machine stops. No instruction of the spec stops the machine itself: every trap is taken,
and a context that stops leaves the rest of the module running. Both are for a `step` that has
nothing to run. -/
inductive Fault where
  /-- Raised by `step` when the module has no power (R340, R360) and no event is pending. Safe: the
  spec gives an unpowered module no step but POWER_ON. -/
  | noPower
  deriving DecidableEq, Repr

/-- Why a meaning is refused. -/
inductive Refusal where
  /-- Raised by the arms of `exec` for an instruction not modelled. Safe. -/
  | notModelled (mnemonic : String)
  deriving DecidableEq, Repr

/-- The trap causes of R342. -/
inductive Cause where
  | ill | illop | align | faultT | faultP | faultX | guard | brkpt | watch | trap | dstroke | ecc
  | waitBudget | frame | gongErr | diverge | step | preempt
  deriving DecidableEq, Repr, Inhabited

/-- R341: a trap record, field by field; its 64 bytes are laid out when it is written. -/
structure TrapRecord where
  launch : Word := 0
  core : Nat := 0
  die : Nat := 0
  ctx : Nat := 0
  block : Nat := 0
  spillPos : Nat := 0
  spilled : Bool := false
  version : Nat := 0
  plane : Nat := 0
  entry : Nat := 0
  group : Nat := 0
  offset : Word := 0
  detail : BitVec 16 := 0
  cause : Cause := .ill
  active : Mask := 0
  hit : Mask := 0
  address : DWord := 0
  time : DWord := 0
  retired : DWord := 0
  deriving DecidableEq, Repr, Inhabited

/-- What a split waits for, with what the end of the wait writes. R18 names the waits that make it blocked;
in the others (`commit`, `flush`, `fetch`, `copyRoom`, `gong`, `halt`) it stays runnable and issues nothing. -/
inductive Wait where
  /-- BAR.WAIT, BAR.SYNC: until barrier `bar`'s phase differs from `token` (R190). -/
  | barrier (bar : Nat) (token : Word)
  /-- QPUSH: the values still to append, in lane order (R191). -/
  | push (queue : Nat) (values : List Word) (src : Word × Nat)
  /-- QPOP: destination and lanes (R191). -/
  | pop (queue : Nat) (d : Reg) (mask : Mask) (src : Word × Nat)
  /-- SIGWAIT: the word, its physical address, the value awaited, the value last read (R192, R326). -/
  | signal (addr : DWord) (pa : Nat) (value last : Word) (src : Word × Nat)
  /-- MACQ (R200). -/
  | engine
  /-- MWAIT, and MREL when `release`, with the instructions still to complete (R200). -/
  | products (release : Bool) (left : Nat)
  /-- C1BAR: until the barrier's phase is no longer `token`; then the new phase goes to v[d] (R311). -/
  | c1bar (bar : Nat) (token : Word) (d : Reg) (mask : Mask)
  /-- A GCALL in the Gong's queue: the split issues nothing until its result is written (R218). -/
  | gong
  /-- A GCALL that found the Gong's queue full; it issues again when there is room (R218). -/
  | gongFull
  /-- CBCLOSE while 16 closed batches are incomplete (R185). -/
  | batchClose (d : Reg)
  /-- CWAIT (R185). -/
  | batch (number : Word)
  /-- TXBEGIN for a transaction slot (R268), with the lanes it opens and the plane and offset of its word. -/
  | txSlot (mask : Mask) (plane : Nat) (offset : Word)
  /-- TXEND while lanes still commit: destination, predicate, lanes left (R269). -/
  | commit (d : Reg) (p : BitVec 3) (left : Mask)
  /-- TXIRR (R197). -/
  | token
  /-- DBGWAIT: destination register, stash offset, and the name that the next operation had at its issue: the
  stash accesses before it come first (R145, R175). -/
  | debug (d : Reg) (offset : Word) (before : Nat)
  /-- SUNMAP, SFLUSH: until the completion times of the lines written back have passed (R176). -/
  | flush (until_ : Nat)
  /-- A demand fetch whose translation fault is being served (R329). -/
  | fetch (fault : Nat)
  /-- A CPY while 32 copies of its group are queued; it issues again when there is room (R181). -/
  | copyRoom
  /-- DBGCTL HALT: until the splits it caught in the middle of an offset have stopped (R144, R366). -/
  | halt
  deriving DecidableEq, Repr

/-- R18: what a split may do. -/
inductive Cond where
  | runnable
  | blocked (w : Wait)
  | parked
  deriving DecidableEq, Repr, Inhabited

/-- One outstanding long-latency instruction of a split and its remaining lookahead count (R98). -/
structure Ahead where
  op : Nat
  left : Nat
  deriving DecidableEq, Repr, Inhabited

/-- One pass of the offset being issued: plane, lanes, instruction. -/
structure Pass where
  plane : BitVec 2
  mask : Mask
  /-- its word and the instruction it decodes to, held until the offset has issued (R331) -/
  word : Nat := 0
  instr : Instr
  /-- double-stroke mode doubles the word (R46) -/
  doubled : Bool := false
  deriving DecidableEq, Repr, Inhabited

/-- R33: the offset a quad is in the middle of, with the passes still to issue. `goes` holds where lanes have been
sent, latest first; `lanes` is the union of the passes' masks. A split that stops between the passes keeps it
(R385). -/
structure Issue where
  grp : Nat := 0
  uid : Nat := 0
  length : Word := 0
  passes : List Pass := []
  lanes : Mask := 0
  same : Bool := false
  /-- what acts once for the whole offset has still to act (R33); no pass of it has issued yet -/
  first : Bool := false
  fresh : Bool := false
  goes : List (Mask × Word) := []
  /-- the check event's kind (R383) -/
  kind : Option Nat := none
  /-- double-stroke mode is on for this offset (R45); the names of its own operations begin here -/
  dstroke : Bool := false
  names : Nat := 0
  deriving DecidableEq, Repr, Inhabited

/-- R367, R382: a watchpoint hit of an offset: the watchpoint of its lowest hit lane, the hit lanes, the lanes of
the passes that hit, the address of the lowest hit lane, the offset after the instruction, and the plane of the
first pass that hit. -/
structure WatchHit where
  number : Nat := 0
  hit : Mask := 0
  lanes : Mask := 0
  addr : DWord := 0
  next : Word := 0
  plane : Nat := 0
  deriving DecidableEq, Repr, Inhabited

/-- R18: a split. `mask` is empty for a free entry. -/
structure Split where
  mask : Mask := 0
  offset : Word := 0
  version : Nat := 0
  cond : Cond := .runnable
  /-- what it waits for besides `cond`, latest first: the waits of the earlier passes of its offset, when
  several passes hold different words that wait (R170) -/
  also : List Wait := []
  /-- held by the debug stub (R368) -/
  stopped : Bool := false
  /-- the split's name, for the stub's selection (R145); no two splits have one -/
  uid : Nat := 0
  /-- outstanding long-latency instructions (R98), oldest first -/
  out : List Ahead := []
  /-- what is left of an offset that stopped between its passes: the passes still to issue, with all that the
  offset began with (R385) -/
  rest : Option Issue := none
  /-- the lanes that a JOIN of this offset parks (R133) -/
  joins : Mask := 0
  /-- the words of the offset that are fetched and decoded, by plane, held until the offset issues (R331) -/
  words : List (Nat × Nat) := []
  /-- the offset of its last stop, whose breakpoint is not tested on the next issue (R364) -/
  skipBreak : Option Word := none
  /-- a stop after the offset (R142): cause and detail -/
  stopAfter : Option (Cause × BitVec 16) := none
  /-- the plane of the pass that set `stopAfter` (R341) -/
  stopPlane : Nat := 0
  /-- R98 holds one of its instructions on an incomplete WLTAKE: it counts as blocked (R215) -/
  taking : Bool := false
  /-- a DBLS of this offset has toggled the mode (R139) -/
  toggled : Bool := false
  /-- released by STEP for one offset (R365) -/
  stepping : Bool := false
  /-- a HALT that came in the middle of its offset: it stops before the next one (R144, R147) -/
  halting : Bool := false
  /-- the check event at `offset` is not checked again (R384) -/
  skipCheck : Bool := false
  /-- latest completion time of the split's stores at die, device and system scope (R238) -/
  cDie : Nat := 0
  cDevice : Nat := 0
  cSystem : Nat := 0
  /-- latest settle time of the values its loads returned (R239) -/
  settle : Nat := 0
  /-- FENCE.SC: nothing issues before this instant (R188, R240) -/
  holdAll : Nat := 0
  /-- FENCE.REL, FENCE.AR: no store, ATOM or RED issues before this instant (R188) -/
  holdStores : Nat := 0
  /-- the LDAs not yet complete: no memory access issues (R172) -/
  acquiring : List Nat := []
  /-- its stores that a core still gathers: line, and the scope of a RED's update-only copy (R242) or none
  for the write-combining buffer (R241) -/
  gathered : List (Nat × Option Nat) := []
  /-- the record of a precise trap, written once the older instructions are complete (R102) -/
  trap : Option TrapRecord := none
  /-- the oldest outstanding instruction that met an uncorrectable error, and its record, written once the others
  are complete (R102, R332) -/
  spoil : Option (Nat × TrapRecord) := none
  /-- watchpoint hits not yet stopped for, one for each offset that hit (R367, R382) -/
  watch : List WatchHit := []
  /-- the check records of its events that are not complete: they are written when those are (R377, R383) -/
  owed : List (List Byte) := []
  /-- the instant a runnable spilled split began to wait with no entry free (R21) -/
  since : Nat := 0
  deriving DecidableEq, Repr, Inhabited

/-- R267: a read-log entry; `isLocal` for data of the lane's own write log. -/
structure ReadEntry where
  pa : Nat
  value : Word
  isLocal : Bool
  deriving DecidableEq, Repr, Inhabited

/-- R267: a write-log entry; the byte mask is bits 3:0 of `bytes`. -/
structure WriteEntry where
  pa : Nat
  data : Word
  bytes : BitVec 4
  cls : Nat
  /-- the stamp of its latest logged store: the holder's grant number at its issue, 0 for none (R274) -/
  stamp : Nat := 0
  deriving DecidableEq, Repr, Inhabited

/-- R193–R197, R261, R275: one lane's transaction. -/
structure TxLane where
  isOpen : Bool := false
  doom : Option Word := none
  /-- a doomed lane is parked until TXEND (R26, R195) -/
  parked : Bool := false
  reads : List ReadEntry := []
  writes : List WriteEntry := []
  threshold : Nat := 0
  /-- IF and LOOP levels entered since TXBEGIN and not yet left (R261) -/
  levels : Nat := 0
  /-- the offsets of the region that holds the TXBEGIN, and of its TXEND (R261) -/
  regionLo : Word := 0
  regionHi : Word := 0
  txEnd : Option Word := none
  deriving DecidableEq, Repr, Inhabited

/-- R181: one queued asynchronous copy, with its operands as taken at issue. -/
structure Copy where
  id : Nat := 0
  kind : BitVec 4 := 0
  /-- the number of the batch it belongs to -/
  batch : Word := 0
  global : DWord := 0
  dest : DWord := 0
  stash : Word := 0
  rows : Nat := 0
  rowBytes : Nat := 0
  gStride : Nat := 0
  sStride : Nat := 0
  /-- 4-byte words copied so far, in order (R334), and words beyond them copied early (R182) -/
  done : Nat := 0
  early : List Nat := []
  /-- the priority of its global lines (R169) -/
  pol : BitVec 2 := 0
  /-- the split and the offset of the CPY, for its trap record (R184) -/
  uid : Nat := 0
  offset : Word := 0
  version : Nat := 0
  active : Mask := 0
  /-- the grant number under which it was queued (R274) -/
  stamp : Nat := 0
  deriving DecidableEq, Repr, Inhabited

/-- R376: a stamp record; the five events in the order of the deltas, then retire. -/
structure Stamp where
  tag : Word := 0
  core : Nat := 0
  die : Nat := 0
  ctx : Nat := 0
  launch : Word := 0
  version : Nat := 0
  entry : Nat := 0
  group : Nat := 0
  openTime : DWord := 0
  copyIn : Option DWord := none
  copyBatch : Option Word := none
  copyInEnd : Option DWord := none
  compute : Option DWord := none
  computeEnd : Option DWord := none
  copyOut : Option DWord := none
  retired : DWord := 0
  moved : Bool := false
  deriving DecidableEq, Repr, Inhabited

/-- R103: a group: 32 lanes in lockstep, the unit that holds registers. -/
structure Group where
  live : Bool := false
  block : Nat := 0
  /-- group index in the block (R15) -/
  index : Nat := 0
  exist_ : Mask := 0
  exited : Mask := 0
  /-- v0–v63: register r of lane L at key 32·r + L -/
  v : Store Word := []
  /-- s0–s63 -/
  s : Store Word := []
  /-- p0–p7, each as the set of lanes that hold 1 -/
  p : Store Mask := []
  /-- depth counters (R26) -/
  depth : Store (BitVec 8) := []
  /-- planes (R29) -/
  plane : Store (BitVec 2) := []
  /-- split table, entries 0–3 (R18) -/
  ent : Store Split := []
  /-- split spill area, oldest first (R20) -/
  spill : List Split := []
  /-- rotation pointer (R21) -/
  rot : BitVec 2 := 0
  /-- version arm (R138) -/
  armed : Option Nat := none
  dstroke : Bool := false
  claveCapture : Option DWord := none
  cycleCapture : Option DWord := none
  /-- batches closed so far, as the number of the latest (R185) -/
  batchNo : Word := 0
  /-- closed batches not yet complete (R185) -/
  closed : List Word := []
  copies : List Copy := []
  nextCopy : Nat := 0
  /-- latest device-scope completion time of the bytes copied by each batch (R182) -/
  batchTimes : List (Word × Nat) := []
  retired : DWord := 0
  /-- check events issued (R383) -/
  checks : Nat := 0
  stamp : Option Stamp := none
  /-- a stub group (R363), and its selected split: group and split name (R145) -/
  stub : Bool := false
  selected : Option (Nat × Nat) := none
  /-- one transaction for each lane -/
  tx : Store TxLane := []
  /-- holds one of the core's transaction slots (R268) -/
  txSlot : Bool := false
  /-- a restored holder of the irrevocable token, which resumes at its next grant (R197) -/
  tokenHold : Bool := false
  /-- which frame of its context's save area is the group's (R20, R301) -/
  frame : Nat := 0
  deriving DecidableEq, Repr, Inhabited

/-- R189: a barrier. -/
structure Barrier where
  fixed : Option Nat := none
  arrived : Nat := 0
  phase : Word := 0
  deriving DecidableEq, Repr, Inhabited

/-- R191: a stash queue; capacity 0 when uninitialised. `pushes` and `pops` hold the blocked operations of
each kind in the order they arrived, as (group, split name). -/
structure Queue where
  base : Nat := 0
  capacity : Nat := 0
  head : Nat := 0
  count : Nat := 0
  pushes : List (Nat × Nat) := []
  pops : List (Nat × Nat) := []
  /-- lanes of the oldest blocked QPOP whose entries will hold an uncorrectable error (R332) -/
  bad : Mask := 0
  deriving DecidableEq, Repr, Inhabited

/-- R177: one stash map of a block. -/
structure StashMap where
  stash : Nat := 0
  length : Nat := 0
  global : DWord := 0
  deriving DecidableEq, Repr, Inhabited

/-- R177: what the stash holds of one mapped line (keyed by stash line number). -/
structure MapLine where
  owned : Bool := false
  dirty : Bool := false
  pa : Nat := 0
  /-- the class of its page -/
  cls : Nat := 2
  /-- an ownership fill under way since this instant, and whether it waits for the leases on `pa` (R243) -/
  filling : Option Nat := none
  claim : Bool := false
  /-- the settle time of the fill that gave the line (R239) -/
  settle : Nat := 0
  deriving DecidableEq, Repr, Inhabited

/-- R317: the fields of a launch record. -/
structure Record where
  kernel : DWord := 0
  argument : DWord := 0
  version : Nat := 0
  dieMask : BitVec 8 := 0
  debug : Bool := false
  dstroke : Bool := false
  coresident : Bool := false
  priority : Nat := 0
  regs : Nat := 0
  level : Nat := 0
  widths : List Nat := []
  extents : List Nat := []
  stash : Nat := 0
  slots : Store Word := []
  doneAddr : DWord := 0
  doneValue : Word := 0
  doneScope : BitVec 2 := 0
  deriving DecidableEq, Repr, Inhabited

/-- R295: a version entry of a kernel descriptor, as the T960 read it. -/
structure VersionEntry where
  codeBase : DWord := 0
  length : Word := 0
  stride : Nat := 0
  regs : Nat := 0
  planes : Nat := 0
  points : Nat := 0
  map : DWord := 0
  mapLength : Nat := 0
  deriving DecidableEq, Repr, Inhabited

/-- R14, R40: a block and its block context. -/
structure Block where
  live : Bool := false
  launch : Nat := 0
  /-- number in placement order (R341) -/
  number : Nat := 0
  /-- block identifier: fields b to 5 (R41) -/
  ident : Nat := 0
  ctx : Nat := 0
  core : Nat := 0
  /-- number of groups, and the group keys in index order -/
  groups : List Nat := []
  stash : Nat := 0
  stashSize : Nat := 0
  /-- SALLOC allocations: offset, size (R176) -/
  allocs : List (Nat × Nat) := []
  maps : List StashMap := []
  mapLines : Store MapLine := []
  /-- b0–b15 and q0–q7 -/
  bars : Store Barrier := []
  queues : Store Queue := []
  /-- the first guard touch not yet reported (R174) -/
  guard : Option Nat := none
  /-- the successor record's address (R135) -/
  successor : Option DWord := none
  /-- the successor's record and its initial version's entry, once they have been read and checked -/
  checked : Option (Record × VersionEntry) := none
  /-- the wait clock (R325): ns counted so far, and since when it has been running -/
  waited : Nat := 0
  waiting : Option Nat := none
  deriving DecidableEq, Repr, Inhabited

/-- R234: the state of an L1 line. -/
inductive LineState where
  | invalid
  | filling (sent : Nat)
  | leased (expiry : Nat)
  | priv
  | updateOnly (op : BitVec 4) (size : Nat)
  deriving DecidableEq, Repr, Inhabited

/-- An L1 line: state, the context that brought it, bytes (keys 0–63), the bytes touched by RED or dirtied on a private
page, and its settle time (R239). -/
structure L1Line where
  st : LineState := .invalid
  ctx : Nat := 0
  bytes : Store Byte := []
  touched : Store Bool := []
  settle : Nat := 0
  /-- the page's class, the launches whose RED updates an update-only line carries (R242, R278), and the contexts
  whose updates it or a private line carries (R229) -/
  cls : Nat := 2
  owners : List Nat := []
  ctxs : List Nat := []
  /-- the priority with which it is kept (R169): 0 normal, 1 stream, 2 keep -/
  pol : BitVec 2 := 0
  deriving DecidableEq, Repr, Inhabited

/-- R241: the write-combining buffer. -/
structure WcBuffer where
  held : Bool := false
  /-- the contexts whose stores it carries -/
  ctxs : List Nat := []
  line : Nat := 0
  bytes : Store Byte := []
  mask : Store Bool := []
  since : Nat := 0
  /-- the launches whose stores it carries -/
  owners : List Nat := []
  stamp : Nat := 0
  deriving DecidableEq, Repr, Inhabited

/-- An instruction accepted by the matrix engine (R201): the instruction (MZERO included), its lanes
and the stash offset an MMAS read at issue. -/
structure EngineOp where
  instr : Instr
  mask : Mask
  offset : Word
  grp : Nat
  /-- the operand elements and descriptors that the engine has read, each once (R49) -/
  seen : Store (Option Nat) := []
  /-- the elements, 32·row + column, that it has already written (R209) -/
  did : Store Bool := []
  /-- saved by a pre-emption before it started: it executes before any matrix instruction that its group
  issues after the restore (R205) -/
  saved : Bool := false
  deriving DecidableEq, Repr, Inhabited

/-- R44, R199–R209: a core's matrix engine. Element (acc, row, column) is at 1024·acc + 32·row + column. -/
structure Engine where
  owner : Option Nat := none
  queue : List Nat := []
  acc : Store Word := []
  pending : List EngineOp := []
  /-- instructions issued and not yet accepted, by operation (R201) -/
  waiting : List Nat := []
  /-- tiles and instructions that a restored owner brings back at its grant (R44, R205) -/
  restoring : List (Nat × Store Word × List EngineOp) := []
  deriving DecidableEq, Repr, Inhabited

/-- R328: a translation held by a TLB: context, first virtual 4 KiB page, first frame, the 4 KiB pages it
maps (R4's page sizes), class, permissions. -/
structure TlbEntry where
  ctx : Nat
  vpage : Nat
  frame : Nat
  pages : Nat := 1
  cls : BitVec 2
  r : Bool
  w : Bool
  x : Bool
  cow : Bool
  deriving DecidableEq, Repr, Inhabited

/-- R140: a YIELD: the yielding split, the splits waited for, the instant it ends. -/
structure Yield where
  split : Nat × Nat
  left : List (Nat × Nat)
  until_ : Nat
  deriving DecidableEq, Repr

/-- R38, R39: a quad: the split that issued last (4·slot + entry) and the offset in progress. -/
structure Quad where
  last : Nat := 0
  cur : Option Issue := none
  yields : List Yield := []
  deriving DecidableEq, Repr, Inhabited

/-- A core: stash, L1, write-combining buffer, engine, transaction slots, cycle counter. -/
structure Core where
  /-- removed with no spare left (R356) -/
  removed : Bool := false
  stash : Store Byte := []
  l1 : Store L1Line := []
  l1i : Store L1Line := []
  wc : WcBuffer := {}
  tlb : List TlbEntry := []
  /-- uncorrectable errors of its register files (R332, R356) -/
  regErrors : Nat := 0
  engine : Engine := {}
  /-- groups that wait for a transaction slot, in order (R268): group, split name -/
  txQueue : List (Nat × Nat) := []
  /-- the cycle counter less the die's reference counter (R380) -/
  cycleOffset : DWord := 0
  deriving DecidableEq, Repr, Inhabited

/-- R218: an entry of a Gong's queue. -/
structure GongEntry where
  grp : Nat
  uid : Nat
  instr : Instr
  mask : Mask
  /-- lanes whose memory access is still to be made -/
  left : Mask
  /-- the offset and plane of its word, and the split's version -/
  offset : Word := 0
  version : Nat := 0
  plane : BitVec 2 := 0
  /-- the grant number under which it was issued (R274), and the name that the next operation had then -/
  stamp : Nat := 0
  before : Nat := 0
  /-- a C1CAS whose checks have passed: its operands as read, each register once (R218): physical addresses and
  classes by lane, and the two data words of lane L at keys 2·L and 2·L + 1 -/
  read : Bool := false
  pa : Store Nat := []
  cls : Store Nat := []
  data : Store Word := []
  deriving DecidableEq, Repr, Inhabited

/-- A compute die. -/
structure Die where
  /-- the instant of the die's reset, from which it counts (R378, R380) -/
  origin : Nat := 0
  /-- Clave count of the die less that of CD0, the skew last measured, and the CD0 time of that measurement,
  none before the first since its clock started (R378, R379) -/
  skew : Int := 0
  measured : Int := 0
  measuredAt : Option Nat := none
  /-- CCLK in units of 0.1 GHz, the step's Clave time, its reference count, the relock's end (R380) -/
  freq : Nat := 0
  stepTime : Nat := 0
  stepCount : Nat := 0
  relock : Option Nat := none
  /-- placement pointer (R41) -/
  place : Nat := 0
  gong : List GongEntry := []
  tlb : List TlbEntry := []
  /-- page walks, oldest first: the first 64 run, the others wait for a free walker (R327): core, context, page -/
  walks : List (Nat × Nat × Nat) := []
  /-- the eviction expiry of each slice, and its eviction stamp (R236, R274) -/
  evExpiry : Store Nat := []
  evStamp : Store Nat := []
  /-- lines in the slices' error tables: physical line, source (R332) -/
  errors : List (Nat × Nat) := []
  /-- step down until below 100 °C (R360) -/
  hot : Bool := false
  off : Bool := false
  deriving DecidableEq, Repr, Inhabited

/-- What a home slice keeps of a line (R236–R239, R270, R274, R243). -/
structure HomeLine where
  /-- lease summaries: dies 0–7, and 8 for agents outside the module -/
  lease : Store Nat := []
  /-- latest completion time of a store to the line, at any scope, and at system scope -/
  settle : Nat := 0
  stamp : Nat := 0
  /-- the stash that owns the line: block, stash line (R177) -/
  owner : Option (Nat × Nat) := none
  /-- splits waiting for a write of the line (R192): group, split name -/
  watchers : List (Nat × Nat) := []
  /-- the priority with which the slice keeps it (R169) -/
  pol : BitVec 2 := 0
  deriving DecidableEq, Repr, Inhabited

/-- How far an issued long-latency instruction has come (R99, R102). -/
inductive OpStatus where
  /-- waits for translations -/
  | walking
  /-- translated and allowed; waits for an older access (R171, R231, R246) -/
  | held
  /-- faulted; its record is with Carillon or the driver -/
  | faulted
  /-- sent to memory -/
  | flying
  /-- its result or acceptance is here -/
  | accepted
  deriving DecidableEq, Repr, Inhabited

/-- The operand log's entry of an issued instruction (R102, R330). Per-lane data use key 4·lane + k. -/
structure Op where
  live : Bool := false
  instr : Instr := default
  grp : Nat := 0
  uid : Nat := 0
  mask : Mask := 0
  /-- the mask of its pass, which may hold more lanes than act -/
  pass : Mask := 0
  plane : Nat := 0
  offset : Word := 0
  version : Nat := 0
  status : OpStatus := .flying
  /-- virtual addresses by lane, and what they translated to: physical address, class -/
  addr : Store DWord := []
  pa : Store Nat := []
  cls : Store Nat := []
  data : Store Word := []
  /-- words a load hit has already given -/
  got : Store Word := []
  have_ : Mask := 0
  /-- the instants at which the lanes' fill requests left (R235) -/
  asked : Store Nat := []
  /-- the words that have reached their registers before the instruction is complete (R101) -/
  wrote : Store Bool := []
  /-- the operands that the engine has read of an instruction it has not accepted yet (R49) -/
  seen : Store (Option Nat) := []
  /-- its place in the order in which stores were accepted at their L1 (R246) -/
  taken : Nat := 0
  /-- the next element of an STGC, or the next lane of an ATOM (R179, R186) -/
  next : Nat := 0
  /-- write log of the op's stamps (R274): the holder's grant number, 0 for none -/
  stamp : Nat := 0
  /-- remaining durations of the completion times its stores were given (R238) -/
  tDie : Nat := 0
  tDevice : Nat := 0
  tSystem : Nat := 0
  deriving DecidableEq, Repr, Inhabited

/-- R213–R215: a work list: items taken and items appended so far, and the takes that wait. -/
structure WorkList where
  capacity : Nat := 0
  base : DWord := 0
  head : Nat := 0
  tail : Nat := 0
  takers : List Nat := []
  deriving DecidableEq, Repr, Inhabited

/-- R334: a block saved by pre-emption, with its groups, stash bytes and engine state. -/
structure Saved where
  block : Block := {}
  /-- its place among the blocks that wait, in one order with the acceptances (R323, R324) -/
  turn : Nat := 0
  groups : List (Nat × Group) := []
  stash : Store Byte := []
  /-- the group that owned the engine, its tiles and its pending instructions (R205) -/
  tiles : Option (Nat × Store Word × List EngineOp) := none
  /-- the groups that were queued for the engine, and that held or awaited the token (R44, R273) -/
  queued : List Nat := []
  token : List Nat := []
  ops : List (Nat × Op) := []
  /-- its entries in the Gong's queue (R218) -/
  gong : List GongEntry := []
  /-- the places that its groups had in the engine's and the transactions' queues: group, places counted from 1, 0 for
  none (R334) -/
  places : List (Nat × Nat × Nat) := []
  /-- which parts stand in the save area's bytes, where the driver may change them (R342): kind, group -/
  areas : List (Nat × Nat) := []
  deriving DecidableEq, Repr, Inhabited

/-- R312, R342: the run state of a context. -/
inductive CtxState where
  | none | running | held | stopped
  deriving DecidableEq, Repr, Inhabited

/-- R338: a page that a checkpoint has still to copy: its virtual page, its frame, and the addresses of
the table entries that hold its copy-on-write bit (none in the heap window). -/
structure CkptPage where
  vpage : Nat
  frame : Nat
  leaves : List Nat
  deriving DecidableEq, Repr, Inhabited

/-- R337–R340: a checkpoint in progress. -/
structure Ckpt where
  manifest : DWord := 0
  target : DWord := 0
  slotBytes : Nat := 0
  doneAddr : DWord := 0
  doneValue : Word := 0
  doneScope : BitVec 2 := 0
  /-- the queue whose packet started it, none for a notice -/
  queue : Option Nat := none
  /-- past its boundary -/
  begun : Bool := false
  /-- the ranges of its manifest: start, length -/
  ranges : List (DWord × Nat) := []
  /-- the slot written (0 or 1), the newest sequence, and the instant before which nothing but the
  cleared sequence is written (R339) -/
  slot : Nat := 0
  sequence : DWord := 0
  hold : Nat := 0
  /-- 4 KiB pages still to copy, and those copied and not yet written to the target -/
  pages : List CkptPage := []
  streamed : List (Nat × List Byte) := []
  /-- the instant at which the commit record's store is complete -/
  committed : Option Nat := none
  /-- a page could not be written to the target: no commit record follows (R339) -/
  failed : Bool := false
  deriving DecidableEq, Repr, Inhabited

/-- R312: a context and its record. -/
structure Context where
  st : CtxState := .none
  root : Nat := 0
  heapBase : DWord := 0
  heapLimit : DWord := 0
  heapOffset : DWord := 0
  heapAttr : BitVec 5 := 0
  lease : Nat := 0
  slice : Nat := 0
  budget : Nat := 0
  queueTable : DWord := 0
  queueCount : Nat := 0
  eventRing : DWord := 0
  eventLog : Nat := 0
  workTable : DWord := 0
  traceRing : DWord := 0
  traceBytes : Nat := 0
  /-- the records of the trace ring that are written and not counted yet: the instants at which their stores are
  complete (R377) -/
  traceOut : List Nat := []
  saveArea : DWord := 0
  /-- records were dropped since the last one written (R316) -/
  dropped : Bool := false
  sliceStart : Option Nat := none
  lists : Store WorkList := []
  saved : List Saved := []
  /-- the copy of the top-level table on every die (R328) -/
  top : Store DWord := []
  ckpts : List Ckpt := []
  deriving DecidableEq, Repr, Inhabited

/-- R313–R315: a hardware queue. -/
structure HQueue where
  live : Bool := false
  ctx : Nat := 0
  /-- index in the context's queue table, and its entry: ring, tail and head addresses, log2 of the slots -/
  index : Nat := 0
  ring : DWord := 0
  tailAddr : DWord := 0
  headAddr : DWord := 0
  slots : Nat := 0
  head : Word := 0
  stopped : Bool := false
  /-- the current packet's 64 bytes, when one has begun -/
  packet : Option (List Byte) := none
  /-- the current packet's work is done and it may complete, at the earliest at this instant -/
  done : Option Nat := none
  deriving DecidableEq, Repr, Inhabited

/-- Where a submitted record came from: it decides how a rejection is reported (R318). -/
inductive Origin where
  | node (run node : Nat)
  | child (op lane : Nat)
  deriving DecidableEq, Repr

/-- A record submitted and not yet accepted. -/
structure Submission where
  ctx : Nat
  addr : DWord
  origin : Origin
  /-- the priority of the creating launch, for a child (R211) -/
  floor : Nat
  deriving DecidableEq, Repr

/-- R147: a breakpoint: offset, version, plane mask. -/
structure Breakpoint where
  offset : Word
  version : Nat
  planes : BitVec 4
  deriving DecidableEq, Repr, Inhabited

/-- R147: a watchpoint: number, address, length, kind bits, and the number of a stash range's block. -/
structure Watchpoint where
  number : Nat
  addr : DWord
  length : Nat
  kind : BitVec 3
  block : Nat
  deriving DecidableEq, Repr, Inhabited

/-- A record on its way to the stub: the record, its group and its split (R144). -/
structure StubRecord where
  rec_ : TrapRecord
  grp : Nat
  uid : Nat
  /-- its group has ended (R147) -/
  gone : Bool := false
  deriving DecidableEq, Repr, Inhabited

/-- R319: an accepted launch, in one of the 256 launch slots. -/
structure Launch where
  live : Bool := false
  id : Word := 0
  ctx : Nat := 0
  addr : DWord := 0
  rec_ : Record := {}
  /-- the queue and packet, or the run and node, that started it (R347) -/
  queue : Option Nat := none
  packet : Word := 0
  node : Option (Nat × Nat) := none
  /-- its place in the order of acceptance, and of the blocks that wait again (R323, R324) -/
  order : Nat := 0
  /-- the version entries read so far, by version index (R296) -/
  entries : Store VersionEntry := []
  /-- the replay mode, table and entries of the trace ring at acceptance (R383) -/
  replayTable : DWord := 0
  replayEntries : Nat := 0
  /-- blocks placed and blocks ended -/
  placed : Nat := 0
  ended : Nat := 0
  lastDie : Option Nat := none
  /-- start version, and the version of the latest firmware request (R138) -/
  start : Nat := 0
  requested : Option Nat := none
  quiescent : Bool := false
  /-- a disagreement of the Knell replicas is open since this instant (R358) -/
  disagree : Option Nat := none
  errorPosted : Bool := false
  /-- the error of that disagreement is still to be posted, once a complex is active (R343) -/
  errorDue : Bool := false
  replay : BitVec 2 := 0
  /-- the stub queue and the records that wait outside it, in order; records of one STEP or HALT
  share a batch (R144) -/
  stubQ : List StubRecord := []
  stubWait : List (List StubRecord) := []
  breaks : List Breakpoint := []
  watches : List Watchpoint := []
  /-- the instant from which the completion store is complete at its scope (R319) -/
  settled : Nat := 0
  /-- created by a LAUNCH (R212) -/
  child : Bool := false
  /-- its launch slot is free while its context is held with WAITBUDGET (R326) -/
  slotFree : Bool := false
  deriving DecidableEq, Repr, Inhabited

/-- R320–R322: a graph run. Node states are kept by index. -/
structure GraphRun where
  live : Bool := false
  ctx : Nat := 0
  table : DWord := 0
  count : Nat := 0
  queue : Nat := 0
  /-- the nodes' initial counts as the run read them, and their counters -/
  initial : Store Nat := []
  counters : Store Nat := []
  /-- the 64 bytes of each started node, as the sequencer read them (R322) -/
  nodes : Store (List Byte) := []
  running : List Nat := []
  /-- nodes whose count has reached 0 and which have not started yet (R321, R338) -/
  ready : List Nat := []
  /-- the completion times of the stores of its SIGNAL nodes (R321) -/
  times : Store Nat := []
  /-- the nodes of a WHILE's body that have not completed since it last started (R321) -/
  bodies : List (Nat × List Nat) := []
  deriving DecidableEq, Repr, Inhabited

/-- R273: the irrevocable token. -/
structure Token where
  grants : Nat := 0
  holder : Option Nat := none
  /-- requesting groups in order: group, split name -/
  queue : List (Nat × Nat) := []
  deriving DecidableEq, Repr, Inhabited

/-- A data fault with Carillon or the driver (R330): what faulted and its record. -/
structure FaultRec where
  op : Option Nat
  copy : Option (Nat × Nat)
  fetch : Option (Nat × Nat)
  rec_ : TrapRecord
  vpage : Nat
  sent : Bool
  deriving DecidableEq, Repr

/-- R349: a journal entry: queue, packet, Clave time, complete. -/
structure JournalEntry where
  queue : Nat
  packet : Word
  time : Nat
  complete : Bool
  deriving DecidableEq, Repr, Inhabited

/-- R344: the update state. -/
inductive UpdateState where
  | none | staging | probation | rolledBack
  deriving DecidableEq, Repr, Inhabited

/-- R347: the mirrored sections of the state table. -/
structure Mirror where
  /-- the image whose section layouts the table has, which decide its sections' headers (R292, R293) -/
  layout : Word := 0
  /-- 1: the hardware queues: entry, head and current packet -/
  queues : Store HQueue := []
  /-- 2: the context records and their states -/
  ctxs : Store Context := []
  /-- 3: the graph runs -/
  runs : Store GraphRun := []
  /-- 4: the launch slots: identifier, context, queue and packet -/
  slots : Store (Word × Nat × Option Nat × Word) := []
  /-- 5: the ports: lanes in service, 0 for one removed from routing, and link credits -/
  routes : List (Nat × Nat × Nat) := []
  /-- 6: the notifications sent and not replied to -/
  faults : List Nat := []
  /-- 7: the last sequence, and the code of the command in progress -/
  mailbox : Word := 0
  command : Option Nat := none
  deriving DecidableEq, Repr, Inhabited

/-- Carillon and the register page (R343–R352, R360). -/
structure Firmware where
  ready : Bool := false
  /-- 0 for Carillon A, 1 for B; a complex is up while it runs an image -/
  active : Bool := false
  up : Bool := false
  standbyUp : Bool := false
  update : UpdateState := .none
  overrun : Bool := false
  activeImage : Word := 0
  standbyImage : Word := 0
  power : Word := 0
  /-- mailbox words by byte offset (0x080–0x0BF), the doorbell, the reply and the results -/
  words : Store Word := []
  doorbell : Word := 0
  replyCount : Word := 0
  replyStatus : Word := 0
  results : Store DWord := []
  /-- the command words copied at the doorbell (R345) -/
  taken : Store Word := []
  busy : Bool := false
  debugBox : Store Word := []
  mirror : Mirror := {}
  /-- the downgrade export of the image on probation, and its journal (R349) -/
  export_ : Mirror := {}
  journal : List JournalEntry := []
  probationStart : Nat := 0
  nextBeat : Nat := 0
  /-- when the standby was last sent the changed sections (R347) -/
  lastMirror : Nat := 0
  cap : Word := 0
  /-- an update whose image the standby has booted: the image's version (R348) -/
  staged : Option Word := none
  /-- the configuration record (R352): the minimum security versions of firmware and of microcode, the complex
  active at power-on, the spare-core map (the cores that run on a spare, by die and number), the module number
  and the power limit -/
  minSecurity : Nat := 0
  minMicrocode : Nat := 0
  spares : List (Nat × Nat) := []
  moduleNumber : BitVec 10 := 0
  firstActive : Bool := false
  powerLimit : Word := 0
  /-- a microcode replacement that waits for its controller's window: controller, flash offset (R350) -/
  microcode : Option (Nat × Nat) := none
  /-- the microcode each controller runs, by flash offset -/
  controllers : Store Nat := []
  deriving DecidableEq, Repr, Inhabited

/-- A fabric port (R353, R354): lanes in service, failed sends in a row of each lane, retrain end. -/
structure Port where
  lanesOut : BitVec 4 := 0
  fails : Store Nat := []
  retrain : Option Nat := none
  resent : Nat := 0
  /-- link credits (R347) -/
  credits : Nat := 0
  /-- the answer to the latest request from outside: status and bytes read (R228) -/
  answer : Option (Bool × List Byte) := none
  deriving DecidableEq, Repr, Inhabited

/-- A hub die's proxy: its eviction expiry and eviction stamp for lines homed outside the module (R236, R274). -/
structure Hub where
  evExpiry : Nat := 0
  evStamp : Nat := 0
  deriving DecidableEq, Repr, Inhabited

/-- HBM repair (R357): correctable errors and replaced rows by (controller, bank, row), pseudo-channels
replaced by stack, and failed stacks. -/
structure Hbm where
  errors : List (Nat × Nat × Nat) := []
  replaced : List (Nat × Nat × Nat) := []
  channels : List (Nat × Nat) := []
  /-- pseudo-channels that failed with the stack's spare in use -/
  failed : List (Nat × Nat) := []
  deriving DecidableEq, Repr, Inhabited

/-- What the pass in progress is about (R33): the model's own working field, set by `step` before it
calls a meaning and read back after it. -/
structure Focus where
  quad : Nat := 0
  grp : Nat := 0
  uid : Nat := 0
  /-- the split's resident entry -/
  entry : Nat := 0
  offset : Word := 0
  /-- the offset after the instruction -/
  next : Word := 0
  version : Nat := 0
  plane : BitVec 2 := 0
  /-- lanes of this pass, and of all passes of the offset -/
  mask : Mask := 0
  lanes : Mask := 0
  /-- every pass holds the same word; this is the first pass -/
  same : Bool := false
  first : Bool := false
  /-- where lanes have been sent by this pass: later entries win over the fall-through -/
  goes : List (Mask × Word) := []
  /-- the pass did not act, because it trapped, or because it must issue again -/
  trapped : Bool := false
  stalled : Bool := false
  deriving DecidableEq, Repr, Inhabited

/-- Which part of the machine moves next. -/
inductive Turn where
  /-- a pending event -/
  | event (index : Nat)
  /-- a quad issues a pass -/
  | issue (quad : Nat)
  /-- a quad issues a pass whose doubled results differ in the first lanes, and again in the second (R46) -/
  | struck (quad : Nat) (once twice : Mask)
  /-- one word of an operation's data reaches its register before the instruction is complete; a `last`
  write is not made again at completion (R101) -/
  | early (op key : Nat) (last : Bool)
  /-- the engine reads one element or descriptor of its n-th instruction (R49) -/
  | read (core index key : Nat)
  /-- the oldest instruction of an engine that has still to write an element writes it (R209) -/
  | element (core key : Nat)
  /-- code at an offset of a plane of a split's version is fetched ahead of its demand (R329) -/
  | ahead (grp uid plane : Nat) (offset : Word)
  /-- an internal error of a die's Gong ends its oldest entry (R218) -/
  | gongError (die : Nat)
  /-- a quad issues a pass that reads an uncorrectable error in its register file in some lanes (R332, R356) -/
  | registerError (quad : Nat) (hit : Mask)
  /-- an access finds an uncorrectable error in L1 or in the stash in some of its lanes (R332) -/
  | spoiled (op : Nat) (hit : Mask)
  /-- a quad issues a QPOP or QTRY that takes words with an uncorrectable error from the stash, in some lanes (R332) -/
  | queueError (quad : Nat) (hit : Mask)
  /-- the entries that the oldest QPOP blocked on a queue will take hold an uncorrectable error, in some lanes (R332) -/
  | popError (block queue : Nat) (hit : Mask)
  /-- a copy from the stash reads an uncorrectable error there (R332, R184) -/
  | copyError (grp copy : Nat)
  /-- a queued copy copies one of its words, in any order (R182) -/
  | copyWord (grp copy word : Nat)
  /-- the class of a page of a context is about to change (R232, R333) -/
  | classChange (ctx : Nat)
  /-- the active Carillon complex, or the standby, fails (R343, R349) -/
  | complexFail (standby : Bool)
  /-- a die's junction falls below 100 °C (R360) -/
  | cooled (die : Nat)
  /-- the two Knell replicas agree again about a launch (R358) -/
  | replicasAgree (launch : Nat)
  /-- a lane of a port sends a flit whose check succeeds (R353) -/
  | flitSent (port lane : Nat)
  /-- time alone -/
  | time (ns : Nat)
  deriving DecidableEq, Repr

/-- The module. -/
structure State where
  /-- the instant, in Clave ns of CD0 -/
  now : Nat
  powered : Bool
  /-- free-value counter: the model's own -/
  free : Nat
  /-- what moves next; the model's own. Empty: the default order of `step` -/
  turns : List Turn
  /-- events under way or arriving from outside, oldest first -/
  pending : List Instr
  focus : Focus
  /-- memory by physical address -/
  mem : Store Byte
  home : Store HomeLine
  dies : Store Die
  cores : Store Core
  quads : Store Quad
  blocks : Store Block
  groups : Store Group
  ops : Store Op
  /-- names given to operations and splits, in order -/
  nextOp : Nat
  ctxs : Store Context
  queues : Store HQueue
  launches : Store Launch
  nextLaunch : Nat
  nextOrder : Nat
  subs : List (Nat × Submission)
  nextSub : Nat
  runs : Store GraphRun
  faults : List (Nat × FaultRec)
  nextFault : Nat
  token : Token
  fw : Firmware
  ports : Store Port
  /-- the two hub dies -/
  hubs : Store Hub
  hbm : Hbm
  /-- quad that issued last: the model's own round over the quads -/
  lastQuad : Nat
  deriving DecidableEq, Repr

/-- R380, R360: a die at reset. -/
def Die.atReset : Die := { freq := 40 }

/-- The module right after power-on and boot (R359): no context, no launch, nothing placed; the ready
bit set and the complex that the configuration record names active. -/
def State.reset : State :=
  { now := 0, powered := true, free := 0, turns := [], pending := [], focus := {}
    mem := [], home := []
    dies := (List.range 8).map (fun d => (d, Die.atReset))
    cores := [], quads := [], blocks := [], groups := [], ops := [], nextOp := 0
    ctxs := [], queues := [], launches := [], nextLaunch := 0, nextOrder := 0
    subs := [], nextSub := 0, runs := [], faults := [], nextFault := 0
    token := {}
    fw := { ready := true, up := true, standbyUp := true, cap := 4000, powerLimit := 4000, nextBeat := 30000000 }
    ports := [], hubs := [], hbm := {}, lastQuad := 0 }

end Sys2Proof.Machine
end

