-- ==== Sys2Proof/Machine/Operands.lean ====
section
/-! DEFINITION. Operand forms: reading and writing the registers of the group in focus, lane-wise
execution over the pass (R112), group-uniform execution (R113), execution once at an offset (R33). -/

namespace Sys2Proof.Machine

/-- What a meaning answers. -/
abbrev Out := Host.Outcome State Fault Refusal

/-- Change one group. -/
def State.onGroup (s : State) (g : Nat) (f : Group → Group) : State :=
  { s with groups := s.groups.upd g f }
def State.onBlock (s : State) (b : Nat) (f : Block → Block) : State :=
  { s with blocks := s.blocks.upd b f }
def State.onCore (s : State) (c : Nat) (f : Core → Core) : State :=
  { s with cores := s.cores.upd c f }
def State.onQuad (s : State) (q : Nat) (f : Quad → Quad) : State :=
  { s with quads := s.quads.upd q f }
def State.onDie (s : State) (d : Nat) (f : Die → Die) : State :=
  { s with dies := s.dies.upd d f }
def State.onCtx (s : State) (x : Nat) (f : Context → Context) : State :=
  { s with ctxs := s.ctxs.upd x f }
def State.onLaunch (s : State) (l : Nat) (f : Launch → Launch) : State :=
  { s with launches := s.launches.upd l f }
def State.onQueue (s : State) (q : Nat) (f : HQueue → HQueue) : State :=
  { s with queues := s.queues.upd q f }
def State.onOp (s : State) (i : Nat) (f : Op → Op) : State :=
  { s with ops := s.ops.upd i f }
def State.onRun (s : State) (r : Nat) (f : GraphRun → GraphRun) : State :=
  { s with runs := s.runs.upd r f }
def State.onFocus (s : State) (f : Focus → Focus) : State := { s with focus := f s.focus }
def State.onFw (s : State) (f : Firmware → Firmware) : State := { s with fw := f s.fw }
/-- An event comes under way. -/
def State.post (s : State) (e : Instr) : State := { s with pending := s.pending ++ [e] }
/-- An event that cannot act yet stays under way, and time passes. -/
def State.later (s : State) (e : Instr) : State := { s with pending := s.pending ++ [e], now := s.now + 1 }

/-- Where keys stand (the numbering of `State`). -/
def quadOfGroup (g : Nat) : Nat := g / 16
def coreOfGroup (g : Nat) : Nat := g / 64
def coreOfQuad (q : Nat) : Nat := q / 4
def coreOfBlock (b : Nat) : Nat := b / 64
def dieOfCore (c : Nat) : Nat := c / 32
def dieOfGroup (g : Nat) : Nat := dieOfCore (coreOfGroup g)

def State.group (s : State) (g : Nat) : Group := s.groups.get g
/-- The group in focus. -/
def State.cur (s : State) : Group := s.groups.get s.focus.grp
def State.onCur (s : State) (f : Group → Group) : State := s.onGroup s.focus.grp f
def State.curCore (s : State) : Nat := coreOfGroup s.focus.grp
def State.blockOf (s : State) (g : Nat) : Block := s.blocks.get (s.group g).block
def State.curBlock (s : State) : Block := s.blockOf s.focus.grp
def State.launchOf (s : State) (g : Nat) : Launch := s.launches.get (s.blockOf g).launch
def State.ctxOf (s : State) (g : Nat) : Nat := (s.blockOf g).ctx
/-- The Clave count of a die (R378). -/
def State.claveOf (s : State) (d : Nat) : DWord :=
  BitVec.ofInt 64 ((s.now : Int) - (s.dies.get d).origin + (s.dies.get d).skew)

/-! ### Registers -/

/-- The key of a vector register in a lane. -/
def vKey (r L : Nat) : Nat := 32 * r + L

def Group.vAt (g : Group) (r L : Nat) : Word := g.v.get (vKey r L)
def Group.sAt (g : Group) (r : Nat) : Word := g.s.get r
def Group.pAt (g : Group) (p L : Nat) : Bool := inMask (g.p.get p) L
def Group.sPair (g : Group) (r : Nat) : DWord := pairOf (g.sAt r) (g.sAt (r + 1))
def Group.vPair (g : Group) (r L : Nat) : DWord := pairOf (g.vAt r L) (g.vAt (r + 1) L)

/-- Write f L to key 32·r + L for every lane of a mask. -/
def putLanes (v : Store Word) (r : Nat) (m : Mask) (f : Nat → Word) : Store Word :=
  (lanesOf m).foldl (fun acc L => acc.put (vKey r L) (f L)) v

def Group.setV (g : Group) (r : Nat) (m : Mask) (f : Nat → Word) : Group :=
  { g with v := putLanes g.v r m f }
def Group.setS (g : Group) (r : Nat) (w : Word) : Group := { g with s := g.s.put r w }
/-- Write a predicate in the lanes of a mask; the other lanes keep their bit. -/
def Group.setP (g : Group) (p : Nat) (m : Mask) (f : Nat → Bool) : Group :=
  { g with p := g.p.put p ((g.p.get p &&& ~~~m) ||| (m &&& maskOf f)) }

/-- v[r][L], s[r] and p[r][L] of the group in focus (R112). -/
def State.vR (s : State) (r : Reg) (L : Nat) : Word := s.cur.vAt r.toNat L
def State.sR (s : State) (r : Reg) : Word := s.cur.sAt r.toNat
def State.pR (s : State) (p : BitVec 3) (L : Nat) : Bool := s.cur.pAt p.toNat L
def State.vP (s : State) (r : Reg) (L : Nat) : DWord := s.cur.vPair r.toNat L
def State.sP (s : State) (r : Reg) : DWord := s.cur.sPair r.toNat

/-- Write a vector register in the lanes of a mask. -/
def State.setV (s : State) (d : Reg) (m : Mask) (f : Nat → Word) : State :=
  s.onCur (fun g => g.setV d.toNat m f)
/-- Write a pair in the lanes of a mask. -/
def State.setVP (s : State) (d : Reg) (m : Mask) (f : Nat → DWord) : State :=
  s.onCur (fun g => (g.setV d.toNat m (fun L => loWord (f L))).setV (d.toNat + 1) m (fun L => hiWord (f L)))
def State.setS (s : State) (d : Reg) (w : Word) : State := s.onCur (fun g => g.setS d.toNat w)
def State.setSP (s : State) (d : Reg) (x : DWord) : State :=
  s.onCur (fun g => (g.setS d.toNat (loWord x)).setS (d.toNat + 1) (hiWord x))
def State.setP (s : State) (p : BitVec 3) (m : Mask) (f : Nat → Bool) : State :=
  s.onCur (fun g => g.setP p.toNat m f)

/-! ### Execution forms -/

/-- R112: a lane-wise result in the lanes of the pass. -/
def lanewise (s : State) (d : Reg) (f : Nat → Word) : Out := .next (s.setV d s.focus.mask f)
def lanewisePair (s : State) (d : Reg) (f : Nat → DWord) : Out := .next (s.setVP d s.focus.mask f)
def lanewisePred (s : State) (p : BitVec 3) (f : Nat → Bool) : Out := .next (s.setP p s.focus.mask f)

/-- R33, R113, R170: the lanes for which an instruction that executes once acts in this pass: none
with an empty mask or in a later pass of the same word; the union of the masks in the first pass. -/
def State.onceMask (s : State) : Option Mask :=
  if s.focus.mask = 0 then none
  else if s.focus.same then (if s.focus.first then some s.focus.lanes else none)
  else some s.focus.mask

/-- R113: a group-uniform instruction. -/
def uniform (s : State) (f : Mask → State) : Out :=
  match s.onceMask with
  | none => .next s
  | some m => .next (f m)

/-- R113 for a scalar result. -/
def scalar (s : State) (d : Reg) (w : Word) : Out := uniform s (fun _ => s.setS d w)
def scalarPair (s : State) (d : Reg) (x : DWord) : Out := uniform s (fun _ => s.setSP d x)

/-- R114: the three operand forms of the IALU, FALU and their like. -/
def vvv (s : State) (op : Word → Word → Word) (d a b : Reg) : Out :=
  lanewise s d (fun L => op (s.vR a L) (s.vR b L))
def vvs (s : State) (op : Word → Word → Word) (d a b : Reg) : Out :=
  lanewise s d (fun L => op (s.vR a L) (s.sR b))
def sss (s : State) (op : Word → Word → Word) (d a b : Reg) : Out := scalar s d (op (s.sR a) (s.sR b))
/-- R116: an immediate operand. -/
def vvi (s : State) (op : Word → Word → Word) (d a : Reg) (k : Word) : Out :=
  lanewise s d (fun L => op (s.vR a L) k)
def ssi (s : State) (op : Word → Word → Word) (d a : Reg) (k : Word) : Out := scalar s d (op (s.sR a) k)
/-- R118: pairs. -/
def ppp (s : State) (op : DWord → DWord → DWord) (d a b : Reg) : Out :=
  lanewisePair s d (fun L => op (s.vP a L) (s.vP b L))
def ppw (s : State) (op : DWord → Word → DWord) (d a b : Reg) : Out :=
  lanewisePair s d (fun L => op (s.vP a L) (s.vR b L))
def pww (s : State) (op : Word → Word → DWord) (d a b : Reg) : Out :=
  lanewisePair s d (fun L => op (s.vR a L) (s.vR b L))
def pppS (s : State) (op : DWord → DWord → DWord) (d a b : Reg) : Out := scalarPair s d (op (s.sP a) (s.sP b))
def ppwS (s : State) (op : DWord → Word → DWord) (d a b : Reg) : Out := scalarPair s d (op (s.sP a) (s.sR b))
def pwwS (s : State) (op : Word → Word → DWord) (d a b : Reg) : Out := scalarPair s d (op (s.sR a) (s.sR b))
/-- Three sources (R119, R152, R154). -/
def vvvv (s : State) (op : Word → Word → Word → Word) (d a b c : Reg) : Out :=
  lanewise s d (fun L => op (s.vR a L) (s.vR b L) (s.vR c L))
def ssss (s : State) (op : Word → Word → Word → Word) (d a b c : Reg) : Out :=
  scalar s d (op (s.sR a) (s.sR b) (s.sR c))
/-- The 16-bit form (R95): destination and first source are one register. -/
def short (s : State) (op : Word → Word → Word) (d b : Reg) : Out := vvv s op d d b

/-- A 5-bit register field of the 16-bit form. -/
def reg5 (r : BitVec 5) : Reg := r.setWidth 6

end Sys2Proof.Machine
end

