-- ==== Sys2Proof/Machine/Home.lean ====
section
/-! DEFINITION. Memory: the home slices, L1 lines and leases, completion and settle times, update-only
lines, stash ownership, the write-combining buffer (R226–R245, R277–R281), and translation (R327, R328). -/

namespace Sys2Proof.Machine

/-! ### Splits by name, and the times they keep -/

/-- Change the split of a group that has a name, wherever it stands. -/
def Group.onSplit (g : Group) (uid : Nat) (f : Split → Split) : Group :=
  { g with
    ent := [0, 1, 2, 3].foldl (fun e k =>
      if (e.get k).mask ≠ 0 ∧ (e.get k).uid = uid then e.upd k f else e) g.ent
    spill := g.spill.map (fun x => if x.uid = uid then f x else x) }

/-- Every split of a group, resident ones first. -/
def Group.splits (g : Group) : List Split :=
  (([0, 1, 2, 3].map g.ent.get).filter (fun x => decide (x.mask ≠ 0))) ++ g.spill

def Group.findSplit (g : Group) (uid : Nat) : Option Split := g.splits.find? (fun x => x.uid = uid)

def State.onSplit (s : State) (g uid : Nat) (f : Split → Split) : State :=
  s.onGroup g (fun x => x.onSplit uid f)

def State.splitOf (s : State) (g uid : Nat) : Split := ((s.group g).findSplit uid).getD default

/-- The waits of a split, latest first: one for each pass of its offset that waits (R170). -/
def Split.waits (x : Split) : List Wait := (match x.cond with | .blocked w => [w] | _ => []) ++ x.also

/-- One wait ends; the split is runnable when none is left. -/
def Split.endWait (x : Split) (w : Wait) : Split :=
  match x.cond with
  | .blocked v =>
    if v = w then (match x.also with | [] => { x with cond := .runnable } | u :: us => { x with cond := .blocked u, also := us })
    else { x with also := x.also.erase w }
  | _ => { x with also := x.also.erase w }

/-- One wait becomes another. -/
def Split.setWait (x : Split) (old new : Wait) : Split :=
  if x.cond = .blocked old then { x with cond := .blocked new }
  else { x with also := x.also.replace old new }

/-- A further wait begins (R18): it stands before those of the earlier passes. -/
def Split.addWait (x : Split) (w : Wait) : Split :=
  { x with cond := .blocked w, also := (match x.cond with | .blocked v => [v] | _ => []) ++ x.also }

/-- Completion times at die, device and system scope, as instants. -/
structure Times where
  die : Nat := 0
  device : Nat := 0
  system : Nat := 0
  deriving DecidableEq, Repr, Inhabited

def Times.join (a b : Times) : Times := ⟨max a.die b.die, max a.device b.device, max a.system b.system⟩

/-- R188: the completion time that a scope code names; at core scope, acceptance. -/
def Times.at (t : Times) (scope : Nat) : Nat :=
  match scope with
  | 0 => 0 | 1 => t.die | 2 => t.device | _ => t.system

def Split.times (x : Split) : Times := ⟨x.cDie, x.cDevice, x.cSystem⟩
def Split.noteTimes (x : Split) (t : Times) : Split :=
  { x with cDie := max x.cDie t.die, cDevice := max x.cDevice t.device, cSystem := max x.cSystem t.system }
/-- R319: a launch is settled when the completion times of its stores, at its completion scope, have passed. -/
def State.raiseSettled (s : State) (l : Nat) (t : Times) : State :=
  let n := t.at (s.launches.get l).rec_.doneScope.toNat
  if n ≤ (s.launches.get l).settled then s else s.onLaunch l (fun x => { x with settled := n })
def State.noteTimes (s : State) (g uid : Nat) (t : Times) : State :=
  (s.onSplit g uid (fun x => x.noteTimes t)).raiseSettled (s.blockOf g).launch t
/-- An ATOM's or RED's completion time at its scope, kept for every later release (R277). -/
def scopeTimes (t : Times) (scope : Nat) : Times := let n := t.at scope; ⟨n, n, n⟩

/-- Gathered stores of a split to a line have been applied: it keeps their times, a RED's at its scope. -/
def Split.ungather (x : Split) (line : Nat) (red : Bool) (t : Times) : Split :=
  let mine (e : Nat × Option Nat) : Bool := e.1 == line && e.2.isSome == red
  let y := (x.gathered.filter mine).foldl (fun (y : Split) e =>
    y.noteTimes (match e.2 with | some c => scopeTimes t c | none => t)) x
  { y with gathered := x.gathered.filter (fun e => !mine e) }
/-- Change every split of a group. -/
def Group.mapSplits (k : Group) (f : Split → Split) : Group :=
  { k with
    ent := [0, 1, 2, 3].foldl (fun (e : Store Split) i => if (e.get i).mask ≠ 0 then e.upd i f else e) k.ent
    spill := k.spill.map f }
/-- Times of the stores to a line that a core gathered: those of its splits whose stores they were wait for
them (R241, R242). -/
def State.noteGathered (s : State) (core line : Nat) (red : Bool) (t : Times) : State :=
  ((s.groups.filter (fun e => coreOfGroup e.1 == core)).map Prod.fst).foldl (fun (st : State) g =>
    st.onGroup g (fun k => k.mapSplits (fun x => x.ungather line red t))) s
/-- The split in a group gathers a store to a line. -/
def Split.gather (x : Split) (e : Nat × Option Nat) : Split :=
  { x with gathered := if x.gathered.contains e then x.gathered else x.gathered ++ [e] }

/-! ### Homes -/

/-- R380: the clock of a die is relocking: nothing issues or crosses there. -/
def State.relocking (s : State) (die : Nat) : Bool :=
  match (s.dies.get die).relock with | some t => decide (s.now < t) | none => false

def lineOf (pa : Nat) : Nat := pa / 64
/-- A fabric address: homed outside the module (R353). -/
def outsidePa (pa : Nat) : Bool := pa.testBit 51
/-- R226: the stack, 0–15, and the pseudo-channel of an HBM line. -/
def channelOf (line : Nat) : Nat × Nat := ((Config.channelOf line).1 % 16, (Config.channelOf line).2)
/-- R226, R355: home die and slice: the die by address bits 14:12 for second-tier memory, otherwise the die
beside the line's stack, two stacks to a die. A local address that lies in neither HBM's 1 TiB nor the second
tier has no memory behind it in R4's table, and the spec does not say what an access to it does: it is served as
HBM (DESIGN CHOICE, log entry 29). -/
def homeOf (line : Nat) : Nat × Nat :=
  (if 2 ^ 38 ≤ line ∧ line < 2 ^ 39 then line / 64 % 8 else (channelOf line).1 / 2, Config.sliceOf line % 48)
/-- R353: the module or host that a fabric address names, and the offset in its exported window. -/
def fabricNode (pa : Nat) : Nat := pa / 2 ^ 41 % 1024
def fabricOffset (pa : Nat) : Nat := pa % 2 ^ 41
/-- The port whose proxy serves a line homed outside the module (R226). -/
def portOf (line : Nat) : Nat := Config.portOf (fabricNode (64 * line)) (fabricOffset (64 * line)) % 18

/-- The hub die of that port: nine ports on each (R353). -/
def hubOf (line : Nat) : Nat := portOf line / 9

/-- The key k is listed. -/
def listed {α : Type} (m : Store α) (k : Nat) : Bool := m.any (fun e => e.1 == k)

/-- R236: a line's summaries; a line that its slice, or its proxy, does not hold has the eviction values. -/
def State.homeLine (s : State) (line : Nat) : HomeLine :=
  if listed s.home line then s.home.get line
  else if outsidePa (64 * line) then
    if s.hubs = [] then {} else
    let h := s.hubs.get (hubOf line)
    { lease := (List.range 8).foldl (fun m k => m.put k h.evExpiry) [], stamp := h.evStamp }
  else if s.dies.all (fun e => decide (e.2.evExpiry = [] ∧ e.2.evStamp = [])) then {}
  else
    let h := homeOf line
    let ev := (s.dies.get h.1).evExpiry.get h.2
    { lease := (List.range 9).foldl (fun m k => m.put k ev) []
      stamp := (s.dies.get h.1).evStamp.get h.2 }

def State.onHome (s : State) (line : Nat) (f : HomeLine → HomeLine) : State :=
  { s with home := s.home.put line (f (s.homeLine line)) }

/-- The byte a home answers with: the owning stash's while a stash owns the line (R177, R243). -/
def State.byteAt (s : State) (pa : Nat) : Byte :=
  match (s.home.get (lineOf pa)).owner with
  | none => s.mem.get pa
  | some (b, sl) => (s.cores.get (coreOfBlock b)).stash.get (64 * sl + pa % 64)

/-- Little-endian values from bytes, and back (R171). -/
def joinBytes (bs : List Byte) : Nat := bs.foldr (fun b n => b.toNat + 256 * n) 0
def splitBytes (n w : Nat) : List Byte := (List.range w).map (fun i => BitVec.ofNat 8 (n / 256 ^ i))

def State.readPa (s : State) (pa n : Nat) : Nat := joinBytes ((List.range n).map (fun i => s.byteAt (pa + i)))

/-- The latest lease summary over the dies of a scope. -/
def HomeLine.leaseMax (h : HomeLine) (n : Nat) : Nat := (List.range n).foldl (fun m k => max m (h.lease.get k)) 0

/-- R238: completion times of a store applied now, for a storer's die and a page class. -/
def State.completion (s : State) (line cls die : Nat) : Times :=
  let h := s.homeLine line
  let dev := max (s.now + 60) (h.leaseMax 8)
  let extra := if outsidePa (64 * line) then (Config.freeWord s.free).toNat else 0
  { die := max (s.now + 20) (h.lease.get die)
    device := dev
    system := if cls = 1 then dev else max (s.now + 400) (h.leaseMax 9) + extra }

/-- Put bytes into memory. -/
def putBytes (m : Store Byte) (bs : List (Nat × Byte)) : Store Byte := bs.foldl (fun m e => m.put e.1 e.2) m

/-- R332: a line written whole leaves the error tables. -/
def State.clearError (s : State) (line : Nat) : State :=
  if s.dies.all (fun e => e.2.errors.all (fun x => x.1 != line)) then s else
  { s with dies := s.dies.map (fun e => (e.1, { e.2 with errors := e.2.errors.filter (fun x => x.1 != line) })) }

/-- R332, R357: the source of an error that a consumer of a line meets: a failed pseudo-channel, or an
entry of some slice's table. -/
def State.lineError (s : State) (line : Nat) : Option Nat :=
  if s.hbm.failed != [] && s.hbm.failed.contains (channelOf line) && decide (64 * line < 2 ^ 44) then some 0
  else s.dies.findSome? (fun e => (e.2.errors.find? (fun x => x.1 == line)).map Prod.snd)

/-- R169: the priority that a pol field gives a line: 3, wc, acts as stream where nothing gathers. A line that is
held keeps the higher of two priorities; one that comes takes its own (DESIGN CHOICE, log entry 61). -/
def polOf (p : BitVec 2) : BitVec 2 := if p = 3 then 1 else p
def raisePol (a b : BitVec 2) : BitVec 2 := if a = 2 ∨ b = 2 then 2 else if a = 0 ∨ b = 0 then 0 else 1
/-- An access of a priority has come to a line of a core's L1, and to its home. -/
def State.polL1 (s : State) (core line : Nat) (was : Bool) (p : BitVec 2) : State :=
  let l := (s.cores.get core).l1.get line
  let q := if was then raisePol l.pol (polOf p) else polOf p
  if l.st = .invalid ∨ l.pol = q then s else s.onCore core (fun k => { k with l1 := k.l1.put line { l with pol := q } })
def State.polHome (s : State) (line : Nat) (was : Bool) (p : BitVec 2) : State :=
  let h := s.home.get line
  let q := if was then raisePol h.pol (polOf p) else polOf p
  if !listed s.home line || h.pol = q then s else { s with home := s.home.put line { h with pol := q } }

/-- Apply bytes of one line at its home: memory, the settle time (R239), the stamp (R274). -/
def State.applyAt (s : State) (line cls die stamp : Nat) (bs : List (Nat × Byte)) : State × Times :=
  let t := s.completion line cls die
  let s0 := if bs.length = 64 then s.clearError line else s
  let s1 := { s0 with mem := putBytes s.mem bs, free := s.free + 1 }
  (s1.onHome line (fun h => { h with settle := max h.settle (max t.device t.system), stamp := max h.stamp stamp }), t)

/-! ### Waking signal waits (R192) -/

/-- A line is written: the splits that wait for it test their words. One whose word has reached its value waits for
nothing more, value 0, and goes on when the step has ended (`State.pollSignals`), which finds an uncorrectable error
of the line too (R332). -/
def State.wakeSignals (s : State) (line : Nat) : State :=
  ((s.home.get line).watchers).foldl (fun st (w : Nat × Nat) =>
    (st.splitOf w.1 w.2).waits.foldl (fun (st : State) v =>
      match v with
      | .signal a pa n _ src =>
        if lineOf pa ≠ line ∨ (st.lineError line).isSome then st else
        let word : Word := BitVec.ofNat 32 (st.readPa pa 4)
        st.onSplit w.1 w.2 (fun x => x.setWait v (.signal a pa (if n.toNat ≤ word.toNat then 0 else n) word src))
      | _ => st) st) s

/-! ### Translation (R327, R328) -/

inductive Access where
  | read | write | both | fetch
  deriving DecidableEq, Repr

/-- What a lookup gives. -/
inductive Look where
  | hit (e : TlbEntry)
  | miss
  | fault (c : Cause) (detail : Nat)
  deriving DecidableEq, Repr

/-- R167: bits 63:57 equal bit 56. -/
def canonical57 (a : DWord) : Bool := decide (a.toNat < 2 ^ 56 ∨ 2 ^ 64 - 2 ^ 56 ≤ a.toNat)

/-- R327: the heap window's translation. -/
def windowEntry (x : Context) (ctx vpage : Nat) : TlbEntry :=
  let pa := (4096 * vpage + x.heapOffset.toNat) % 2 ^ 52
  { ctx := ctx, vpage := vpage, frame := pa / 4096, cls := x.heapAttr.extractLsb' 0 2,
    r := x.heapAttr.getLsbD 2, w := x.heapAttr.getLsbD 3, x := x.heapAttr.getLsbD 4, cow := false }

def inWindow (x : Context) (a : DWord) : Bool :=
  decide (x.heapBase.toNat ≤ a.toNat ∧ a.toNat < x.heapLimit.toNat)

/-- A valid table entry below the top level: what the walk does with it (R328). -/
inductive WalkStep where
  | next (table : Nat)
  | leaf (e : Nat)
  | bad
  | notValid
  deriving DecidableEq, Repr

/-- Decode one entry at a level, 1–5. -/
def walkEntry (level e : Nat) : WalkStep :=
  let bits (hi lo : Nat) : Nat := e / 2 ^ lo % 2 ^ (hi - lo + 1)
  if e % 2 = 0 then .notValid
  else if !e.testBit 1 then
    (if level = 5 ∨ bits 63 52 ≠ 0 ∨ bits 11 2 ≠ 0 then .bad else .next (bits 51 12 * 4096))
  else if level ≤ 2 then .bad
  else if bits 63 61 ≠ 0 ∨ bits 56 52 ≠ 0 ∨ bits 11 6 ≠ 0 ∨ bits 2 2 ≠ 0 then .bad
  else if level ≠ 5 ∧ e.testBit 57 then .bad
  else if level = 3 ∧ bits 29 12 ≠ 0 then .bad
  else if level = 4 ∧ bits 20 12 ≠ 0 then .bad
  else .leaf e

/-- A contiguous group: 16 entries alike but for the frame's bits 15:12. -/
def contigOk (read : Nat → Nat) (tableAddr idx e : Nat) : Bool :=
  if !e.testBit 57 then true else
  (List.range 16).all (fun i =>
    let f := read (tableAddr + 8 * (idx / 16 * 16 + i))
    f % 4096 == e % 4096 && f / 65536 == e / 65536)

/-- The translation a leaf gives: of its 1 GiB, 2 MiB, 64 KiB or 4 KiB. -/
def leafEntry (ctx vpage level e : Nat) : TlbEntry :=
  let size := if level = 3 then 2 ^ 18 else if level = 4 then 2 ^ 9 else if e.testBit 57 then 16 else 1
  let frame := e / 4096 % 2 ^ 40
  { ctx := ctx, vpage := vpage / size * size, frame := frame / size * size, pages := size
    cls := BitVec.ofNat 2 (e / 2 ^ 58), r := e.testBit 3, w := e.testBit 4, x := e.testBit 5, cow := e.testBit 60 }

/-- Levels `level` to 5, reading entries from memory. -/
def walkFrom (read : Nat → Nat) (ctx vpage : Nat) (fuel level table : Nat) : Look :=
  match fuel with
  | 0 => .fault .faultT (0x10 + level)
  | f + 1 =>
    let idx := vpage / 2 ^ (9 * (5 - level)) % 512
    let e := read (table + 8 * idx)
    match walkEntry level e with
    | .notValid => .fault .faultT level
    | .bad => .fault .faultT (0x10 + level)
    | .next t => walkFrom read ctx vpage f (level + 1) t
    | .leaf e => if contigOk read table idx e then .hit (leafEntry ctx vpage level e) else .fault .faultT (0x10 + level)

/-- R328: the walk; the top level comes from the die's copy. It reads its table entries from their homes. -/
def State.walk (s : State) (ctx vpage : Nat) : Look :=
  let top := ((s.ctxs.get ctx).top.get (vpage / 2 ^ 36 % 512)).toNat
  match walkEntry 1 top with
  | .notValid => .fault .faultT 1
  | .bad => .fault .faultT 0x11
  | .leaf _ => .fault .faultT 0x11
  | .next t => walkFrom (fun a => s.readPa a 8) ctx vpage 4 2 t

/-- R4, R327: the 64 walkers of a die are busy. -/
def State.walkersBusy (s : State) (die : Nat) : Bool := decide (64 ≤ (s.dies.get die).walks.length)

/-- The addresses of the table entries that a walk reads below the top level. -/
def walkReads (read : Nat → Nat) (vpage fuel level table : Nat) : List Nat :=
  match fuel with
  | 0 => []
  | f + 1 =>
    let idx := vpage / 2 ^ (9 * (5 - level)) % 512
    let a := table + 8 * idx
    match walkEntry level (read a) with
    | .next t => a :: walkReads read vpage f (level + 1) t
    | .leaf e => if e.testBit 57 then a :: (List.range 16).map (fun i => table + 8 * (idx / 16 * 16 + i)) else [a]
    | _ => [a]

/-- R327: window, then the core's TLB, then the die's. -/
def State.lookup (s : State) (core ctx : Nat) (a : DWord) : Look :=
  let x := s.ctxs.get ctx
  let vpage := a.toNat % 2 ^ 57 / 4096
  if inWindow x a then .hit (windowEntry x ctx (a.toNat / 4096))
  else
    let find (t : List TlbEntry) := t.find? (fun e => e.ctx = ctx ∧ e.vpage = vpage / e.pages * e.pages)
    match find (s.cores.get core).tlb with
    | some e => .hit e
    | none => match find (s.dies.get (dieOfCore core)).tlb with
      | some e => .hit e
      | none => .miss

/-- Enter a walked translation in the core's and the die's TLB (R327). The spec gives their sizes and no
order of replacement: the oldest entry leaves a full one (DESIGN CHOICE, log entry 61). -/
def State.tlbFill (s : State) (core : Nat) (e : TlbEntry) : State :=
  (s.onCore core (fun k => { k with tlb := (e :: k.tlb).take 64 })).onDie (dieOfCore core)
    (fun k => { k with tlb := (e :: k.tlb).take 16384 })

/-- R327, R328: the leaf that maps a page, with the addresses of the table entries that carry its bits together (a
contiguous group has sixteen). -/
def leafPlace (read : Nat → Nat) (vpage fuel level table : Nat) : Option (List Nat × TlbEntry) :=
  match fuel with
  | 0 => none
  | f + 1 =>
    let idx := vpage / 2 ^ (9 * (5 - level)) % 512
    let e := read (table + 8 * idx)
    match walkEntry level e with
    | .next t => leafPlace read vpage f (level + 1) t
    | .leaf x =>
      let group := if x.testBit 57 then (List.range 16).map (fun i => table + 8 * (idx / 16 * 16 + i)) else [table + 8 * idx]
      some (group, leafEntry 0 vpage level x)
    | _ => none

/-- The leaf of a context's page, from its top-level table. -/
def State.leafOf (s : State) (ctx vpage : Nat) : Option (List Nat × TlbEntry) :=
  match walkEntry 1 ((s.ctxs.get ctx).top.get (vpage / 2 ^ 36 % 512)).toNat with
  | .next t => leafPlace (fun p => s.readPa p 8) vpage 4 2 t
  | _ => none

/-- The first leaf below a table that maps a frame. -/
def leafOfFrame (read : Nat → Nat) (frame fuel level table : Nat) : Option TlbEntry :=
  match fuel with
  | 0 => none
  | f + 1 => (List.range 512).findSome? (fun i =>
    match walkEntry level (read (table + 8 * i)) with
    | .next t => leafOfFrame read frame f (level + 1) t
    | .leaf x =>
      let e := leafEntry 0 0 level x
      if e.frame ≤ frame ∧ frame < e.frame + e.pages then some e else none
    | _ => none)

/-- The class under which a context maps a frame: by its heap window, or by its page tables. -/
def State.mapsFrame (s : State) (ctx frame : Nat) : Option Nat :=
  let x := s.ctxs.get ctx
  let off := (4096 * frame + 2 ^ 64 - x.heapOffset.toNat) % 2 ^ 52
  let lo := x.heapBase.toNat % 2 ^ 52
  if x.st = .none then none
  else if lo ≤ off ∧ off < lo + (x.heapLimit.toNat - x.heapBase.toNat) then some (x.heapAttr.extractLsb' 0 2).toNat
  else x.top.findSome? (fun e => match walkEntry 1 e.2.toNat with
    | .next t => (leafOfFrame (fun p => s.readPa p 8) frame 4 2 t).map (fun l => l.cls.toNat)
    | _ => none)

def TlbEntry.pa (e : TlbEntry) (a : DWord) : Nat := (4096 * e.frame + a.toNat % (4096 * e.pages)) % 2 ^ 52

/-- The frame of one of the pages that an entry maps; the pages and the frames that it maps. -/
def TlbEntry.frameAt (e : TlbEntry) (vpage : Nat) : Nat := e.frame + vpage % e.pages
def TlbEntry.covers (e : TlbEntry) (vpage : Nat) : Bool := decide (e.vpage ≤ vpage ∧ vpage < e.vpage + e.pages)
def TlbEntry.maps (e : TlbEntry) (frame : Nat) : Bool := decide (e.frame ≤ frame ∧ frame < e.frame + e.pages)

/-- R328: permission of an access; `classes` are those the access accepts (R168). The detail has bit 0
for a write, bit 1 for a class failure, bit 2 for a copy-on-write page. -/
def permit (e : TlbEntry) (k : Access) (classes : List Nat) : Option (Cause × Nat) :=
  match k with
  | .fetch => if e.x && e.cls != 3 then none else some (.faultX, 0)
  | _ =>
    let wr : Bool := k = .write || k = .both
    let cl := !classes.contains e.cls.toNat
    if cl || (wr && !e.w) || ((k = .read || k = .both) && !e.r) then
      some (.faultP, (if wr then 1 else 0) + (if cl then 2 else 0))
    else if wr && e.cow then some (.faultP, 4)
    else none

/-! ### Copy-on-write (R338) -/

/-- The bytes of a frame as memory holds them. -/
def State.pageBytes (s : State) (frame : Nat) : List Byte := (List.range 4096).map (fun i => s.mem.get (4096 * frame + i))

/-- The copy-on-write bit of a table entry. -/
def clearCow (m : Store Byte) (entry : Nat) : Store Byte := m.upd (entry + 7) (fun b => b &&& 0xEF#8)

/-- A context's checkpoint takes the pages a test picks, with all that share their leaves; their bits are cleared. -/
def State.takePages (s : State) (ctx : Nat) (p : CkptPage → Bool) : State :=
  match (s.ctxs.get ctx).ckpts with
  | [] => s
  | k :: ks =>
    let hit := k.pages.filter p
    if !k.begun || hit == [] then s else
    let mine (x : CkptPage) : Bool := hit.any (fun h => h == x || (h.leaves != [] && h.leaves == x.leaves))
    let gone := k.pages.filter mine
    let k1 : Ckpt := { k with
      pages := k.pages.filter (fun x => !mine x), streamed := k.streamed ++ gone.map (fun x => (x.vpage, s.pageBytes x.frame)) }
    let keep (t : List TlbEntry) : List TlbEntry := t.filter (fun e => !(e.ctx == ctx && e.cow))
    { s with
      mem := (gone.flatMap (fun x => x.leaves)).foldl clearCow s.mem
      ctxs := s.ctxs.upd ctx (fun c => { c with ckpts := k1 :: ks })
      cores := s.cores.map (fun e => (e.1, { e.2 with tlb := keep e.2.tlb }))
      dies := s.dies.map (fun e => (e.1, { e.2 with tlb := keep e.2.tlb })) }

/-- The pages of a checkpoint that share the leaf of a page, in a range or not, are copied and the leaf's bit
cleared; the page itself, when its leaf carries no bit. -/
def State.takeLeaf (s : State) (ctx vpage : Nat) : State :=
  let group := ((s.leafOf ctx vpage).map Prod.fst).getD []
  s.takePages ctx (fun p => p.vpage % 2 ^ 45 == vpage || (p.leaves != [] && p.leaves == group))

/-- A frame that some checkpoint has still to copy. -/
def State.cowFrame (s : State) (frame : Nat) : Bool :=
  s.ctxs.any (fun e => match e.2.ckpts with | k :: _ => k.begun && k.pages.any (fun x => x.frame == frame) | [] => false)

/-- A commit or a write-back reaches a frame: Carillon copies it first. -/
def State.cowFirst (s : State) (frame : Nat) : State :=
  if s.cowFrame frame then s.ctxs.foldl (fun (st : State) e => st.takePages e.1 (fun x => x.frame == frame)) s else s

/-! ### Stash ownership -/

/-- Write one owned line back to its home; the stash keeps its bytes and, unless `drop`, the line. -/
def State.writeBackLine (s : State) (b sl : Nat) (drop : Bool) : State × Times :=
  let ml := (s.blocks.get b).mapLines.get sl
  if !ml.owned then (s, {}) else
  let line := lineOf ml.pa
  let core := s.cores.get (coreOfBlock b)
  let bs := (List.range 64).map (fun i => (64 * line + i, core.stash.get (64 * sl + i)))
  let r := if ml.dirty then ((s.cowFirst (ml.pa / 4096)).onHome line (fun h => { h with owner := none })).applyAt line ml.cls (dieOfCore (coreOfBlock b)) 0 bs
           else (s, {})
  let s1 := r.1.onHome line (fun h => { h with owner := if drop then none else some (b, sl) })
  let s2 := s1.onBlock b (fun k => { k with mapLines := k.mapLines.put sl (if drop then {} else { ml with dirty := false }) })
  ((s2.wakeSignals line).raiseSettled (s.blocks.get b).launch r.2, r.2)

/-- R243: recall a line from the stash that owns it. -/
def State.recall (s : State) (line : Nat) : State :=
  match (s.home.get line).owner with
  | none => s
  | some (b, sl) => (s.writeBackLine b sl true).1

/-! ### Update-only lines -/

/-- R278: the identity of a RED operation, by its code and size. -/
def redIdentity (op : Nat) : Nat :=
  match op with
  | 1 | 6 => 0xFFFFFFFF | 4 => 0x7FFFFFFF | 5 => 0x80000000 | 8 => 0x80000000
  | 9 => 0x7F800000 | 10 => 0xFF800000 | _ => 0

/-- R186, R187: one RED fold on values of the operation's size. -/
def redFold (op : Nat) (old v : Nat) : Nat :=
  let o : Word := BitVec.ofNat 32 old
  let x : Word := BitVec.ofNat 32 v
  match op with
  | 0 => (o + x).toNat | 1 => (o &&& x).toNat | 2 => (o ||| x).toNat | 3 => (o ^^^ x).toNat
  | 4 => (aluMin o x).toNat | 5 => (aluMax o x).toNat | 6 => (aluUMin o x).toNat | 7 => (aluUMax o x).toNat
  | 8 => (fAdd .rne o x).toNat | 9 => (fMin o x).toNat | 10 => (fMax o x).toNat
  | _ => (old + v) % 2 ^ 64

/-- The element of a line's byte store. -/
def lineElem (b : Store Byte) (off n : Nat) : Nat := joinBytes ((List.range n).map (fun i => b.get (off + i)))
def setLineElem (b : Store Byte) (off n v : Nat) : Store Byte :=
  putBytes b ((splitBytes v n).zipIdx.map (fun e => (off + e.2, e.1)))

/-- The offsets of the elements that a copy has touched. -/
def touchedElems (l : L1Line) (n : Nat) : List Nat :=
  ((List.range (64 / n)).map (fun i => n * i)).filter (fun o => l.touched.get o)

/-- Fold one copy into a partial line (R280, first level). -/
def foldCopy (op n : Nat) (acc : L1Line) (c : L1Line) : L1Line :=
  (touchedElems c n).foldl (fun (a : L1Line) o =>
    let old := if a.touched.get o then lineElem a.bytes o n else redIdentity op
    { a with bytes := setLineElem a.bytes o n (redFold op old (lineElem c.bytes o n))
             touched := a.touched.put o true }) acc

/-- The operation and size of an update-only line. -/
def updateOp (l : L1Line) : Option (Nat × Nat) :=
  match l.st with
  | .updateOnly op size => some (op.toNat, size)
  | _ => none

/-- Merge a partial line into memory at the home, as a store (R280, second level). -/
def State.mergePartial (s : State) (line die op n : Nat) (a : L1Line) : State × Times :=
  s.applyAt line a.cls die 0 ((touchedElems a n).flatMap (fun o =>
    (splitBytes (redFold op (s.readPa (64 * line + o) n) (lineElem a.bytes o n)) n).zipIdx.map
      (fun e => (64 * line + o + e.2, e.1))))

/-- What some copies of one operation have folded to: operation and size, the cores they came from, the
partial line with its class and launches. -/
structure Partial where
  op : Nat × Nat
  cores : List Nat
  line : L1Line

/-- One more copy: it folds into the latest partial line when that is of the same operation. R280 speaks of one
operation: copies of several operations or sizes fold in runs of one, in core order, and the runs merge in turn
(DESIGN CHOICE, log entry 77). -/
def addCopy (ps : List Partial) (o : Nat × Nat) (cores : List Nat) (copy : L1Line) : List Partial :=
  let fresh : Partial := { op := o, cores := cores, line := { foldCopy o.1 o.2 {} copy with cls := copy.cls, owners := copy.owners } }
  match ps.getLast? with
  | some p =>
    if p.op = o then ps.dropLast ++ [{ op := o, cores := p.cores ++ cores
                                       line := { foldCopy o.1 o.2 p.line copy with
                                         cls := max p.line.cls copy.cls, owners := p.line.owners ++ copy.owners } }]
    else ps ++ [fresh]
  | none => [fresh]

/-- The copies of a line on one die fold together in ascending core order (R280, first level). -/
def State.diePartials (s : State) (line d : Nat) (cores : List Nat) : List Partial :=
  (cores.filter (fun c => dieOfCore c = d)).foldl (fun ps c =>
    let copy := (s.cores.get c).l1.get line
    match updateOp copy with
    | none => ps
    | some o => addCopy ps o [c] copy) []

/-- A partial line goes to the home as a store (R280): an owning stash is recalled first (R243), and the
splits and launches whose updates it carries learn the completion times. -/
def State.mergeDie (s0 : State) (line : Nat) (p : Partial) : State × Times :=
  let s := s0.recall line
  let m := s.mergePartial line (dieOfCore (p.cores.headD 0)) p.op.1 p.op.2 p.line
  let s1 := p.cores.foldl (fun (st : State) c =>
    st.noteGathered c line true (s.completion line p.line.cls (dieOfCore c))) m.1
  ((p.line.owners.foldl (fun (st : State) l => st.raiseSettled l m.2) s1).wakeSignals line, m.2)

/-- R279, R280: collect the update-only copies that the given cores hold of a line. The dies' results merge
in ascending order; for a line homed outside the module, the proxy folds them into the one update that it
forwards. -/
def State.collectFrom (s : State) (line : Nat) (cores : List Nat) : State × Times :=
  let ps := (List.range 8).flatMap (fun d => s.diePartials line d cores)
  let qs := if outsidePa (64 * line) then ps.foldl (fun acc p => addCopy acc p.op p.cores p.line) [] else ps
  let s1 := cores.foldl (fun (st : State) c =>
    if (updateOp ((st.cores.get c).l1.get line)).isSome then st.onCore c (fun k => { k with l1 := k.l1.put line {} }) else st) s
  qs.foldl (fun (st : State × Times) p => let m := st.1.mergeDie line p; (m.1, st.2.join m.2)) (s1, {})

/-- The cores that hold an update-only copy of a line. -/
def State.copyHolders (s : State) (line : Nat) : List Nat :=
  (s.cores.filter (fun e => (updateOp (e.2.l1.get line)).isSome)).map Prod.fst

/-- Collect every copy of a line, module-wide (R279). -/
def State.collect (s : State) (line : Nat) : State :=
  if s.copyHolders line = [] then s else (s.collectFrom line (s.copyHolders line)).1

/-! ### Reads that are requests at the home (R279) -/

/-- No core holds an update-only copy. -/
def State.noCopies (s : State) : Bool := s.cores.all (fun e => e.2.l1.all (fun l => (updateOp l.2).isNone))

/-- The copies of the line of every address of a list are collected, as the list grows with what is read. -/
def State.collectAll (s : State) (reads : State → List Nat) (fuel : Nat) : State :=
  match fuel with
  | 0 => s
  | f + 1 => if s.noCopies then s else ((reads s).foldl (fun (st : State) a => st.collect (lineOf a)) s).collectAll reads f

/-- The table entries that a walk reads. -/
def State.walkLines (s : State) (ctx vpage : Nat) : List Nat :=
  match walkEntry 1 ((s.ctxs.get ctx).top.get (vpage / 2 ^ 36 % 512)).toNat with
  | .next t => walkReads (fun a => s.readPa a 8) vpage 4 2 t
  | _ => []
/-- A walk's reads collect the update-only copies of its table lines; no walk reads more than four levels. -/
def State.walkCollect (s : State) (ctx vpage : Nat) : State := s.collectAll (fun st => st.walkLines ctx vpage) 4

/-- Look up, walking at once on a miss: for accesses whose walk no other step waits for. -/
def State.lookupWalked (s : State) (core ctx : Nat) (a : DWord) : Look × State :=
  match s.lookup core ctx a with
  | .miss =>
    let t := s.walkCollect ctx (a.toNat % 2 ^ 57 / 4096)
    match t.walk ctx (a.toNat % 2 ^ 57 / 4096) with
    | .hit e => (.hit e, t.tlbFill core e)
    | l => (l, t)
  | l => (l, s)
/-- The same for an access that has no walk yet: with the 64 walkers of the die busy it waits for a free one, and
looks up again (R4, R327). A walk that starts when one is free is over in the same step, so that it holds none
(DESIGN CHOICE, log entry 76). -/
def State.lookupNow (s : State) (core ctx : Nat) (a : DWord) : Look × State :=
  if s.walkersBusy (dieOfCore core) && s.lookup core ctx a = .miss then (.miss, s) else s.lookupWalked core ctx a

/-- One owned line is written back (R177, R238). Its store collects the update-only copies of the line
(R279), and a merge takes the line from the stash (R243): no update is lost (R252). -/
def State.writeBack (s : State) (b sl : Nat) (drop : Bool) : State × Times :=
  let ml := (s.blocks.get b).mapLines.get sl
  let r := s.writeBackLine b sl drop
  (if ml.owned && ml.dirty then r.1.collect (lineOf ml.pa) else r.1, r.2)

/-- Collect all update-only lines of one core (R242, R279). -/
def State.collectCore (s : State) (core : Nat) (keep : Nat → Bool) : State × Times :=
  let lines := ((s.cores.get core).l1.filter (fun e => (updateOp e.2).isSome && e.2.ctxs.any keep)).map Prod.fst
  lines.foldl (fun st l => let r := st.1.collectFrom l [core]; (r.1, st.2.join r.2)) (s, {})

/-- R237, R243, R279: a store reaches its home: the line is recalled and collected first. -/
def State.homeWrite (s : State) (line cls die stamp : Nat) (bs : List (Nat × Byte)) : State × Times :=
  let r := ((s.recall line).collect line).applyAt line cls die stamp bs
  (r.1.wakeSignals line, r.2)

/-! ### L1 -/

/-- A copy that a load hits (R234): leased and not expired, or private. -/
def State.l1Valid (s : State) (l : L1Line) : Bool :=
  match l.st with
  | .leased e => decide (s.now < e)
  | .priv => true
  | _ => false

/-- Update the bytes of a core's own copy (R237). -/
def State.l1Update (s : State) (core line : Nat) (bs : List (Nat × Byte)) : State :=
  let l := (s.cores.get core).l1.get line
  if s.l1Valid l then
    s.onCore core (fun k => { k with l1 := k.l1.put line { l with
      bytes := putBytes l.bytes (bs.map (fun e => (e.1 % 64, e.2)))
      touched := if l.st = .priv then bs.foldl (fun m e => m.put (e.1 % 64) true) l.touched else l.touched } })
  else s

/-- A class 0 line comes into the core's L1 without a lease (R229); the line knows the contexts that use it there. -/
def State.fillPrivate (s : State) (core ctx line : Nat) : State :=
  let l := (s.cores.get core).l1.get line
  if l.st = .priv then
    (if l.ctxs.contains ctx then s
     else s.onCore core (fun k => { k with l1 := k.l1.put line { l with ctxs := l.ctxs ++ [ctx] } }))
  else
  let fresh : L1Line :=
    { st := .priv, ctx := ctx, ctxs := [ctx], bytes := putBytes [] ((List.range 64).map (fun i => (i, s.mem.get (64 * line + i)))) }
  s.onCore core (fun k => { k with l1 := k.l1.put line fresh })

/-- Write a dirty private line back and drop it (R229); one written whole leaves the error tables (R332). -/
def State.evictPrivate (s : State) (core line : Nat) : State :=
  let l := (s.cores.get core).l1.get line
  let bs := ((List.range 64).filter (fun i => l.touched.get i)).map (fun i => (64 * line + i, l.bytes.get i))
  let s0 := if bs.length = 64 then s.clearError line else s
  ({ s0 with mem := putBytes s.mem bs } : State).onCore core (fun k => { k with l1 := k.l1.put line {} })

/-- A core's leased copy of a line goes: a load of its has had the line from its home (R246). -/
def State.dropLeased (s : State) (core line : Nat) : State :=
  match ((s.cores.get core).l1.get line).st with
  | .leased _ => s.onCore core (fun k => { k with l1 := k.l1.put line {} })
  | _ => s

/-- Invalidate a core's copy of a line. -/
def State.l1Drop (s : State) (core line : Nat) : State :=
  s.onCore core (fun k => { k with l1 := k.l1.put line {} })

/-! ### The write-combining buffer (R241) -/

def State.flushWc (s : State) (core : Nat) : State :=
  let w := (s.cores.get core).wc
  if !w.held then s else
  let bs := ((List.range 64).filter (fun i => w.mask.get i)).map (fun i => (64 * w.line + i, w.bytes.get i))
  let r := s.homeWrite w.line 2 (dieOfCore core) w.stamp bs
  let s1 := (r.1.onCore core (fun k => { k with wc := {} })).noteGathered core w.line false r.2
  w.owners.foldl (fun (st : State) l => st.raiseSettled l r.2) s1

/-- Any access of the core to the held line, other than a wc store, flushes first. -/
def State.flushWcFor (s : State) (core line : Nat) : State :=
  let w := (s.cores.get core).wc
  if w.held && w.line == line then s.flushWc core else s

/-! ### Registers (class 3) -/

/-- R231: an uncached read or write at the target; the target's bytes are memory's. -/
def State.regWrite (s : State) (bs : List (Nat × Byte)) : State := { s with mem := putBytes s.mem bs }

end Sys2Proof.Machine
end

