-- ==== Sys2Proof/Machine/Agents.lean ====
section
/-! DEFINITION. What the hub dies read and write in a context's memory: accesses by virtual address,
descriptor headers (R292), the event ring (R316), the trace ring (R377), and the byte layouts of
records (R316, R341, R376, R379, R380, R383). -/

namespace Sys2Proof.Machine

/-- A lookup by the hub: the heap window, or a walk. -/
def State.agentLook (s : State) (ctx : Nat) (a : DWord) : Look :=
  let x := s.ctxs.get ctx
  if !canonical57 a then .fault .faultT 0x20
  else if inWindow x a then .hit (windowEntry x ctx (a.toNat / 4096))
  else s.walk ctx (a.toNat % 2 ^ 57 / 4096)

/-- The physical address of a virtual byte, or the trap cause that its check would raise. -/
def State.agentPa (s : State) (ctx : Nat) (a : DWord) (k : Access) (classes : List Nat) :
    Except (Cause × Nat) (Nat × Nat) :=
  match s.agentLook ctx a with
  | .hit e => match permit e k classes with
    | none => .ok (e.pa a, e.cls.toNat)
    | some f => .error f
  | .fault c d => .error (c, d)
  | .miss => .error (.faultT, 0)

/-- A byte as the hub reads it, with the update-only copies of its line combined (R279); `State.hubCollect` says
what the read does to them. -/
def State.hubByte (s : State) (pa : Nat) : Byte := (s.collect (lineOf pa)).byteAt pa

/-- Read n bytes at an address that lies in one page, or byte by byte across pages. -/
def State.agentRead (s : State) (ctx : Nat) (a : DWord) (n : Nat) (classes : List Nat) :
    Except (Cause × Nat) (List Byte) :=
  (List.range n).foldlM (fun (acc : List Byte × Option (Nat × Nat)) i => do
    let x := a + BitVec.ofNat 64 i
    match acc.2 with
    | some (pg, pa) =>
      if x.toNat / 4096 = pg then pure (acc.1 ++ [s.hubByte (pa + x.toNat % 4096)], acc.2)
      else
        let r ← s.agentPa ctx x .read classes
        pure (acc.1 ++ [s.hubByte r.1], some (x.toNat / 4096, r.1 - x.toNat % 4096))
    | none =>
      let r ← s.agentPa ctx x .read classes
      pure (acc.1 ++ [s.hubByte r.1], some (x.toNat / 4096, r.1 - x.toNat % 4096))) ([], none)
  |>.map Prod.fst

/-- R279: the walks of the hub for the pages of some bytes collect the update-only copies of their table lines. -/
def State.hubWalk (s : State) (ctx : Nat) (a : DWord) (n : Nat) : State :=
  s.collectAll (fun st => (List.range ((a.toNat % 4096 + n + 4095) / 4096)).flatMap (fun i =>
    let x : DWord := if i = 0 then a else BitVec.ofNat 64 (a.toNat / 4096 * 4096 + 4096 * i)
    if inWindow (st.ctxs.get ctx) x then [] else st.walkLines ctx (x.toNat % 2 ^ 57 / 4096))) 4

/-- R279: a read of the hub is a request at the home: it collects the update-only copies of its lines, and of the
table lines of its walks. -/
def State.hubCollect (s : State) (ctx : Nat) (a : DWord) (n : Nat) : State :=
  (s.hubWalk ctx a n).collectAll (fun st => (List.range (n / 64 + 2)).filterMap (fun i =>
    let x : DWord := BitVec.ofNat 64 (a.toNat / 64 * 64 + 64 * i)
    if a.toNat + n ≤ x.toNat then none else
    match st.agentPa ctx x .read [0, 1, 2] with
    | .ok (pa, _) => some pa
    | .error _ => none)) 1
/-- The same at physical addresses. -/
def State.hubCollectPa (s : State) (pa n : Nat) : State :=
  s.collectAll (fun _ => (List.range ((pa % 64 + n + 63) / 64)).map (fun i => pa + 64 * i)) 1

def State.agentWord (s : State) (ctx : Nat) (a : DWord) (n : Nat) : Except (Cause × Nat) Nat :=
  (s.agentRead ctx a n [0, 1, 2, 3]).map joinBytes

/-- R338: a page that a checkpoint has still to copy is copied before the hub writes it. -/
def State.agentCow (s : State) (ctx : Nat) (a : DWord) : State :=
  match s.agentLook ctx a with
  | .hit e => if e.cow then (s.cowFirst (e.pa a / 4096)).takeLeaf ctx (a.toNat % 2 ^ 57 / 4096) else s
  | _ => s

/-- A store made by the hub at an address, line by line; its latest completion times. -/
def State.agentWrite (s0 : State) (ctx : Nat) (a : DWord) (bs : List Byte) (classes : List Nat) :
    Except (Cause × Nat) (State × Times) := do
  let s1 := (s0.hubWalk ctx a bs.length).agentCow ctx a
  let _ ← s1.agentPa ctx a .write classes
  let s := s1.agentCow ctx (a + BitVec.ofNat 64 (bs.length - 1))
  let cells ← (bs.zipIdx).mapM (fun e => do
    let r ← s.agentPa ctx (a + BitVec.ofNat 64 e.2) .write classes
    pure (r.1, r.2, e.1))
  let lines := (cells.map (fun c => lineOf c.1)).dedup
  pure (lines.foldl (fun st l =>
    let mine := cells.filter (fun c => lineOf c.1 = l)
    let cls := (mine.headD (0, 2, 0)).2.1
    let r := if cls = 3 then (st.1.regWrite (mine.map (fun c => (c.1, c.2.2))), ({} : Times))
             else st.1.homeWrite l cls 0 0 (mine.map (fun c => (c.1, c.2.2)))
    (r.1, st.2.join r.2)) (s, {}))

/-- R319: a completion or SIGNAL store, with the checks of an STL.W: the cause that it would raise, or its
completion times. -/
def State.hubStore (s : State) (ctx : Nat) (a : DWord) (value : Word) : State × Option Cause × Times :=
  if !canonical57 a then (s, some .faultT, {})
  else if a.toNat % 4 ≠ 0 then (s, some .align, {})
  else match s.agentWrite ctx a (splitBytes value.toNat 4) [1, 2, 3] with
    | .ok (t, c) => (t, none, c)
    | .error f => (s, some f.1, {})

/-! ### Byte layouts -/

/-- n bytes built from (offset, size, value) fields; the rest are zero. -/
def layBytes (n : Nat) (fs : List (Nat × Nat × Nat)) : List Byte :=
  let m : Store Byte := fs.foldl (fun m f =>
    putBytes m ((splitBytes f.2.2 f.2.1).zipIdx.map (fun e => (f.1 + e.2, e.1)))) []
  (List.range n).map m.get

/-- The value of a field of a byte list. -/
def fieldAt (bs : List Byte) (off n : Nat) : Nat := joinBytes ((bs.drop off).take n)
def zeroAt (bs : List Byte) (off n : Nat) : Bool := ((bs.drop off).take n).all (fun b => b == 0)

/-- R292: a header of a kind with a size in 8-byte units. -/
def header (kind size : Nat) : Nat := kind + 256 + size * 65536

/-- R342: the cause codes. -/
def causeCode (c : Cause) : Nat :=
  match c with
  | .ill => 1 | .illop => 2 | .align => 3 | .faultT => 4 | .faultP => 5 | .faultX => 6 | .guard => 7
  | .brkpt => 8 | .watch => 9 | .trap => 10 | .dstroke => 11 | .ecc => 12 | .waitBudget => 13
  | .frame => 14 | .gongErr => 15 | .diverge => 16 | .step => 17 | .preempt => 18

/-- R341: the 64 bytes of a trap record. -/
def trapBytes (r : TrapRecord) : List Byte :=
  layBytes 64 [(0, 8, header 0x30 8), (8, 4, r.launch.toNat),
    (12, 4, r.ctx % 256 + r.die % 256 * 256 + r.core % 256 * 65536), (16, 4, r.block),
    (20, 4, r.group % 65536 + r.entry % 4 * 65536 + r.plane % 4 * 262144 + r.version % 16 * 1048576
      + (if r.spilled then 16777216 else 0) + r.spillPos % 32 * 33554432),
    (24, 4, r.offset.toNat), (28, 4, causeCode r.cause + r.detail.toNat * 65536),
    (32, 4, r.active.toNat), (36, 4, r.hit.toNat), (40, 8, r.address.toNat), (48, 8, r.time.toNat),
    (56, 8, r.retired.toNat)]

/-- R316: an error record. -/
structure ErrorRec where
  code : Nat
  queue : Word := 0xFFFFFFFF
  packet : Word := 0xFFFFFFFF
  launch : Word := 0xFFFFFFFF
  address : DWord := 0
  detail : Nat := 0
  deriving DecidableEq, Repr

def errorBytes (e : ErrorRec) (dropped : Bool) (time : DWord) : List Byte :=
  layBytes 64 [(0, 8, header 0x31 8), (8, 4, e.code + (if dropped then 65536 else 0)),
    (12, 4, e.queue.toNat), (16, 4, e.packet.toNat), (20, 4, e.launch.toNat), (24, 8, e.address.toNat),
    (32, 4, e.detail), (48, 8, time.toNat)]

/-! ### The event ring (R316) -/

/-- Write one 64-byte record; a full ring drops the newest, and a ring that cannot be reached too. -/
def State.ringWrite (s0 : State) (ctx : Nat) (mk : Bool → List Byte) (clears : Bool) : State :=
  let x := s0.ctxs.get ctx
  let n := 2 ^ x.eventLog
  let cnt := x.eventRing + BitVec.ofNat 64 (64 * n)
  let s := s0.hubCollect ctx cnt 8
  match s.agentWord ctx cnt 4, s.agentWord ctx (cnt + 4) 4 with
  | .ok w, .ok r =>
    if n ≤ (w + 2 ^ 32 - r) % 2 ^ 32 then s.onCtx ctx (fun k => { k with dropped := true })
    else
      match s.agentWrite ctx (x.eventRing + BitVec.ofNat 64 (64 * (w % n))) (mk x.dropped) [1, 2] with
      | .ok (s1, _) => match s1.agentWrite ctx cnt (splitBytes ((w + 1) % 2 ^ 32) 4) [1, 2] with
        | .ok (s2, _) => if clears then s2.onCtx ctx (fun k => { k with dropped := false }) else s2
        | .error _ => s1
      | .error _ => s
  | _, _ => s

def State.postTrap (s : State) (ctx : Nat) (r : TrapRecord) : State :=
  s.ringWrite ctx (fun _ => trapBytes r) false

def State.postError (s : State) (ctx : Nat) (e : ErrorRec) : State :=
  s.ringWrite ctx (fun d => errorBytes e d (s.claveOf 0)) true

/-- The hardware queue and packet that a launch's errors name (R316). -/
def State.errorFor (s : State) (l : Nat) (e : ErrorRec) : ErrorRec :=
  let x := s.launches.get l
  { e with
    queue := match x.queue with | some q => BitVec.ofNat 32 q | none => 0xFFFFFFFF
    packet := match x.queue with | some _ => x.packet | none => 0xFFFFFFFF
    launch := x.id }

/-! ### The trace ring (R377) -/

/-- The records whose release is complete are counted, in order: the write count advances (R377). -/
def State.countTraces (s0 : State) (ctx : Nat) : State :=
  let x := s0.ctxs.get ctx
  let n := (x.traceOut.takeWhile (fun t => decide (t ≤ s0.now))).length
  if n = 0 then s0 else
  let s := (s0.hubCollect ctx x.traceRing 4).onCtx ctx (fun c => { c with traceOut := c.traceOut.drop n })
  match s.agentWord ctx x.traceRing 4 with
  | .ok w => match s.agentWrite ctx x.traceRing (splitBytes ((w + n) % 2 ^ 32) 4) [1, 2] with
    | .ok (t, _) => t
    | .error _ => s
  | .error _ => s
/-- A record is written whole; the write count follows it by a release at system scope, once its completion times
there have passed. -/
def State.traceWrite (s0 : State) (ctx : Nat) (bs : List Byte) : State :=
  let x := s0.ctxs.get ctx
  let cap := x.traceBytes / 64 - 1
  if x.traceRing = 0 ∨ cap = 0 then s0 else
  let s := s0.hubCollect ctx x.traceRing 12
  match s.agentWord ctx x.traceRing 4, s.agentWord ctx (x.traceRing + 4) 4 with
  | .ok w0, .ok r =>
    let w := (w0 + x.traceOut.length) % 2 ^ 32
    if cap ≤ (w + 2 ^ 32 - r) % 2 ^ 32 then
      match s.agentWord ctx (x.traceRing + 8) 4 with
      | .ok d => match s.agentWrite ctx (x.traceRing + 8) (splitBytes (min (d + 1) (2 ^ 32 - 1)) 4) [1, 2] with
        | .ok (s1, _) => s1
        | .error _ => s
      | .error _ => s
    else
      match s.agentWrite ctx (x.traceRing + BitVec.ofNat 64 (64 + 64 * (w % cap))) bs [1, 2] with
      | .ok (s1, c) => s1.onCtx ctx (fun k => { k with traceOut := k.traceOut ++ [c.system] })
      | .error _ => s
  | _, _ => s

/-- Write a record to the trace ring of every context (R379, R380). -/
def State.traceAll (s : State) (bs : List Byte) : State :=
  s.ctxs.foldl (fun st e => if e.2.st = .none then st else st.traceWrite e.1 bs) s

/-- R376. -/
def stampBytes (p : Stamp) (closed : Bool) (retire : DWord) (retired : DWord) : List Byte :=
  let sat (n : Nat) : Nat := min n (2 ^ 32 - 1)
  let delta (o : Option DWord) : Nat := match o with | some t => (t - p.openTime).toNat | none => 0
  let ev := [p.copyIn, p.copyInEnd, p.compute, p.computeEnd, p.copyOut]
  let fill : Nat := (ev.zipIdx.map (fun e => if e.1.isSome then 2 ^ e.2 else 0)).sum
  let rt := if closed then (retire - p.openTime).toNat else 0
  let n := if closed then (retired - p.retired).toNat else 0
  let wide := ev.any (fun o => decide (2 ^ 32 ≤ delta o)) || decide (2 ^ 32 ≤ rt) || decide (2 ^ 32 ≤ n)
  layBytes 64 ([(0, 8, header 0x32 8), (8, 4, p.tag.toNat), (12, 4, p.ctx + p.die * 256 + p.core * 65536),
    (16, 4, p.launch.toNat), (20, 4, p.group % 65536 + p.entry * 65536 + p.version * 1048576),
    (24, 8, p.openTime.toNat), (52, 4, sat rt), (56, 4, sat n),
    (60, 4, fill + (if closed then 32 else 0) + (if wide then 64 else 0) + (if p.moved then 128 else 0))]
    ++ ev.zipIdx.map (fun e => (32 + 4 * e.2, 4, sat (delta e.1))))

/-- R379. -/
def State.skewBytes (s : State) : List Byte :=
  layBytes 64 ([(0, 8, header 0x34 8), (8, 8, (s.dies.foldl (fun m e => max m (e.2.measuredAt.getD 0)) 0))] ++
    (List.range 8).map (fun d => (16 + 4 * d, 4, (BitVec.ofInt 32 (s.dies.get d).measured).toNat)))

/-- R380: the reference cycle count of a die: the count at the last step plus the cycles since. -/
def State.refCount (s : State) (d : Nat) : Nat :=
  let x := s.dies.get d
  x.stepCount + ((s.claveOf d).toNat - x.stepTime) * x.freq / 10

def State.stepBytes (s : State) (d old : Nat) : List Byte :=
  let x := s.dies.get d
  layBytes 64 [(0, 8, header 0x33 8), (8, 4, d + old * 256 + x.freq * 65536), (16, 8, x.stepTime),
    (24, 8, x.stepCount), (32, 8, x.stepTime + 1200)]

/-- R383: a check record. -/
def State.checkBytes (s : State) (g kind index : Nat) (retired : DWord) : List Byte :=
  let b := s.blockOf g
  layBytes 64 [(0, 8, header 0x35 8), (8, 4, (s.launchOf g).id.toNat),
    (12, 4, (s.group g).index % 65536 + kind * 65536), (16, 8, b.ident), (24, 4, index), (32, 8, retired.toNat)]

/-! ### Descriptors (R292, R293) -/

/-- R292: a header of a kind whose size the consumer knows: the version is not 0, the zero bits are 0, and
the descriptor is at least as long. -/
def headerOk (h kind size : Nat) : Bool :=
  decide (h % 256 = kind ∧ h / 256 % 256 ≠ 0 ∧ h / 2 ^ 24 = 0 ∧ size ≤ h / 65536 % 256)

/-- Read the first `need` bytes of a descriptor whose kind has the size K in 8-byte units, and check its header
and the bytes past K (R292). -/
def State.descriptorPart (s : State) (ctx : Nat) (a : DWord) (kind size need : Nat) : Except ErrorRec (List Byte) :=
  match s.agentRead ctx a need [1, 2] with
  | .error f => .error { code := 9, address := a, detail := causeCode f.1 }
  | .ok bs =>
    let h := fieldAt bs 0 8
    let n := h / 65536 % 256
    let bad : ErrorRec := { code := 1, address := a, detail := h % 256 }
    if !headerOk h kind size then .error bad
    else if n = size then .ok bs
    else match s.agentRead ctx (a + BitVec.ofNat 64 (8 * size)) (8 * (n - size)) [1, 2] with
      | .error f => .error { code := 9, address := a, detail := causeCode f.1 }
      | .ok rest => if rest.all (fun b => b == 0) then .ok bs else .error bad

/-- A whole descriptor. -/
def State.descriptor (s : State) (ctx : Nat) (a : DWord) (kind size : Nat) : Except ErrorRec (List Byte) :=
  s.descriptorPart ctx a kind size (8 * size)

/-- R279: the lines of a descriptor whose consumer reads the first `need` bytes, and the tail that its header adds. -/
def State.collectDescriptor (s : State) (ctx : Nat) (a : DWord) (need : Nat) : State :=
  let t := s.hubCollect ctx a need
  match t.agentWord ctx a 8 with
  | .ok h => t.hubCollect ctx a (8 * (h / 65536 % 256))
  | .error _ => t

end Sys2Proof.Machine
end

