-- ==== Sys2Proof/Machine/Launching.lean ====
section
/-! DEFINITION. Launch records and version entries (R294–R296, R317, R318), the start of a group
(R17), stash placement (R386) and the placing of blocks (R38–R42). -/

namespace Sys2Proof.Machine

/-! ### Reading records -/

def bitsAt (n hi lo : Nat) : Nat := n / 2 ^ lo % 2 ^ (hi - lo + 1)

/-- The fields of a launch record (R317). -/
def parseRecord (bs : List Byte) : Record :=
  let w := fieldAt bs 0x18 8
  { kernel := BitVec.ofNat 64 (fieldAt bs 8 8), argument := BitVec.ofNat 64 (fieldAt bs 0x10 8)
    version := bitsAt w 59 56, dieMask := BitVec.ofNat 8 (bitsAt w 55 48)
    debug := w.testBit 46, dstroke := w.testBit 45, coresident := w.testBit 44
    priority := bitsAt w 43 42, regs := 16 * (bitsAt w 41 40 + 1), level := bitsAt w 38 36
    widths := (List.range 6).map (fun k => bitsAt w (6 * k + 5) (6 * k))
    extents := (List.range 6).map (fun k => fieldAt bs (0x20 + 4 * k) 4 + 1)
    stash := fieldAt bs 0x38 4
    slots := (List.range 8).foldl (fun m n => m.put n (BitVec.ofNat 32 (fieldAt bs (0x40 + 4 * n) 4))) []
    doneAddr := BitVec.ofNat 64 (fieldAt bs 0x60 8), doneValue := BitVec.ofNat 32 (fieldAt bs 0x68 4)
    doneScope := BitVec.ofNat 2 (fieldAt bs 0x6C 4) }

/-- Lanes of a block (R14), blocks of a launch, groups of a block (R15). -/
def Record.lanes (r : Record) : Nat := (r.extents.take r.level).foldl (· * ·) 1
def Record.blocks (r : Record) : Nat := (r.extents.drop r.level).foldl (· * ·) 1
def Record.groups (r : Record) : Nat := (r.lanes + 31) / 32

/-- R318, check 2: the offsets of the fields that fail. -/
def badFields (bs : List Byte) (r : Record) : List Nat :=
  let w := fieldAt bs 0x18 8
  let at18 := bitsAt w 63 60 ≠ 0 ∨ w.testBit 47 ∨ w.testBit 39 ∨ 6 < r.level ∨ r.dieMask = 0
    ∨ r.widths.any (fun x => decide (32 < x)) ∨ 64 < r.widths.sum ∨ 1024 < r.lanes
  (if at18 then [0x18] else [])
  ++ ((List.range 6).filter (fun k => decide (2 ^ (r.widths.getD k 0) < r.extents.getD k 1))).map (fun k => 0x20 + 4 * k)
  ++ (if 523776 < r.stash then [0x38] else [])
  ++ (if zeroAt bs 0x3C 4 then [] else [0x3C])
  ++ ((List.range 8).filter (fun n => !slotOk (r.slots.get n))).map (fun n => 0x40 + 4 * n)
  ++ (if r.doneAddr.toNat % 4 = 0 then [] else [0x60])
  ++ (if fieldAt bs 0x6C 4 < 4 then [] else [0x6C])
  ++ (if zeroAt bs 0x70 16 then [] else [0x70])

/-- R295: a version entry's fields. -/
def parseEntry (bs : List Byte) : VersionEntry :=
  { codeBase := BitVec.ofNat 64 (fieldAt bs 8 8), length := BitVec.ofNat 32 (fieldAt bs 0x10 4)
    stride := fieldAt bs 0x14 4, regs := fieldAt bs 0x19 1, planes := fieldAt bs 0x18 1
    points := fieldAt bs 0x1C 4, map := BitVec.ofNat 64 (fieldAt bs 0x20 8), mapLength := fieldAt bs 0x28 4 }

/-- R295, R296: the ranges of an entry, and a register count within the launch's. -/
def entryOk (bs : List Byte) (e : VersionEntry) (regs : Nat) : Bool :=
  let isPow := (List.range 16).any (fun k => e.stride == 64 * 2 ^ k)
  decide (e.codeBase.toNat % 64 = 0 ∧ e.length.toNat % 2 = 0 ∧ 2 ≤ e.length.toNat ∧ e.length.toNat ≤ 1048576
    ∧ e.length.toNat ≤ e.stride ∧ (e.regs = 16 ∨ e.regs = 32 ∨ e.regs = 48 ∨ e.regs = 64) ∧ e.regs ≤ regs
    ∧ 1 ≤ e.planes ∧ e.planes ≤ 4 ∧ e.points ≤ 4096 ∧ e.map.toNat % 8 = 0)
  && isPow && fieldAt bs 0x1A 1 == 3 && fieldAt bs 0x1B 1 == 0 && zeroAt bs 0x2C 20
  && (e.points == 0 || (e.map != 0 && decide (16 + 16 * e.points ≤ e.mapLength)))

/-- Read and check version entry v of a kernel descriptor (R296); the address is the entry's. -/
def State.readEntry (s : State) (ctx : Nat) (kernel : DWord) (v regs : Nat) : Except DWord VersionEntry :=
  let a := kernel + BitVec.ofNat 64 (0x40 + 64 * v)
  match s.descriptor ctx a 3 8 with
  | .error _ => .error a
  | .ok bs => if entryOk bs (parseEntry bs) regs then .ok (parseEntry bs) else .error a

/-- R294: the kernel descriptor's head and version count; entries at or above the count are not read. -/
def State.readKernel (s : State) (ctx : Nat) (kernel : DWord) : Option Nat :=
  match s.descriptorPart ctx kernel 2 136 64 with
  | .error _ => none
  | .ok bs =>
    if kernel.toNat % 64 = 0 ∧ zeroAt bs 0xC 4 ∧ fieldAt bs 0x10 8 % 8 = 0 ∧ zeroAt bs 0x18 40 then
      some (fieldAt bs 8 4)
    else none

/-- R279: the lines that reads of a kernel descriptor and of one of its version entries collect, and those of a
record's checks. -/
def State.collectVersion (s : State) (ctx : Nat) (kernel : DWord) (v : Nat) : State :=
  (s.collectDescriptor ctx kernel 64).collectDescriptor ctx (kernel + BitVec.ofNat 64 (0x40 + 64 * v)) 64
def State.collectRecord (s : State) (ctx : Nat) (a : DWord) : State :=
  let t := s.collectDescriptor ctx a 128
  match t.agentRead ctx a 128 [1, 2] with
  | .ok bs => t.collectVersion ctx (parseRecord bs).kernel (parseRecord bs).version
  | .error _ => t

/-! ### Room (R40, R386) -/

/-- A stash size rounded up to a granule. -/
def granules (n : Nat) : Nat := (n + 255) / 256 * 256

/-- R386: an allocation of so many bytes may begin at an offset, among the allocations of a core. -/
def stashFits (allocs : List (Nat × Nat)) (size o : Nat) : Bool :=
  let n := granules size
  let held (o : Nat) : Bool := allocs.any (fun a => decide (a.1 ≤ o ∧ o < a.1 + granules a.2))
  let guardOf (o : Nat) : Bool := allocs.any (fun a => a.1 == o + 256 || a.1 + granules a.2 == o)
  decide (o + n + 256 ≤ 524288)
    && (List.range (n / 256)).all (fun i => !held (o + 256 * i) && !guardOf (o + 256 * i))
    && !held (o - 256) && !held (o + n)

/-- R386: the lowest such offset. -/
def stashPlace (allocs : List (Nat × Nat)) (size : Nat) : Option Nat :=
  ((List.range 2047).map (fun i => 256 + 256 * i)).find? (stashFits allocs size)

/-- The allocations of every live block of a core. -/
def State.coreAllocs (s : State) (core : Nat) : List (Nat × Nat) :=
  (s.blocks.filter (fun e => e.2.live && e.2.core == core)).flatMap (fun e => (e.2.stash, e.2.stashSize) :: e.2.allocs)

def State.freeSlots (s : State) (core : Nat) : Nat :=
  ((List.range 64).filter (fun i => !(s.group (64 * core + i)).live)).length

def State.freeContextBlock (s : State) (core : Nat) : Option Nat :=
  ((List.range 64).map (fun i => 64 * core + i)).find? (fun b => !(s.blocks.get b).live)

/-- R135: an ended block of the core keeps its place for its successor, which is placed there before any other. -/
def State.succession (s : State) (core : Nat) : Bool :=
  s.blocks.any (fun e => e.2.live && e.2.core == core && e.2.groups == [] && e.2.successor.isSome)

/-- R40: a core has room for a block of so many groups and stash bytes: the block context and the stash offset. A
request of 192 bytes takes 256 (R361). -/
def State.room (s : State) (core groups stash : Nat) : Option (Nat × Nat) :=
  if (s.cores.get core).removed || (s.dies.get (dieOfCore core)).off || s.succession core
    || decide (s.freeSlots core < groups) then none
  else match s.freeContextBlock core, stashPlace (s.coreAllocs core) stash with
    | some b, some o => some (b, o)
    | _, _ => none

/-! ### Groups (R17, R38) -/

/-- Resident groups of a quad. -/
def State.quadLoad (s : State) (q : Nat) : Nat :=
  ((List.range 16).filter (fun i => (s.group (16 * q + i)).live)).length

/-- The slot for the next group: the quad with the fewest groups, the lowest on a tie (R38). Which free slot of the
quad it takes R38 does not say: the lowest, at a restore too (DESIGN CHOICE, log entry 86). -/
def State.pickSlot (s : State) (core : Nat) : Nat :=
  let q := (List.range 4).foldl (fun best q =>
    if s.quadLoad (4 * core + q) < s.quadLoad (4 * core + best) then q else best) 0
  let base := 16 * (4 * core + q)
  (((List.range 16).map (fun i => base + i)).find? (fun g => !(s.group g).live)).getD base

/-- The lanes of group i of a block of so many lanes: of a block of 64, groups 0 and 1 have 32 each (R361). -/
def existing (lanes i : Nat) : Mask := maskOf (fun L => decide (32 * i + L < lanes))

/-- R17: the state a group starts with. R17 and R21 do not give its rotation pointer: it starts at 0 (DESIGN CHOICE,
log entry 87). -/
def startGroup (uid b i lanes : Nat) (r : Record) (addr : DWord) (stash : Nat) (start : Nat) (arm : Option Nat) : Group :=
  let m := existing lanes i
  let s0 : Store Word := [(0, loWord r.argument), (1, hiWord r.argument), (2, BitVec.ofNat 32 stash),
    (3, BitVec.ofNat 32 i), (4, loWord addr), (5, hiWord addr)].foldl (fun st e => st.put e.1 e.2) []
  { live := true, block := b, index := i, exist_ := m
    v := putLanes [] 0 m (fun L => BitVec.ofNat 32 (32 * i + L))
    s := s0, ent := [(0, { mask := m, version := start, uid := uid })]
    armed := arm, dstroke := r.dstroke }

/-- The n lowest frames of a context's save area that no group of the context has, resident or saved (DESIGN
CHOICE, log entry 43). -/
def State.freeFrames (s : State) (ctx n : Nat) : List Nat :=
  let used := ((s.groups.filter (fun e => e.2.live && (s.blocks.get e.2.block).ctx == ctx)).map (fun e => e.2.frame))
    ++ (s.ctxs.get ctx).saved.flatMap (fun v => v.groups.map (fun e => e.2.frame))
  ((List.range (used.length + n)).filter (fun f => !used.contains f)).take n

/-- Place a block in a block context at a stash offset and start its groups. -/
def State.startBlock (s : State) (l b stash : Nat) (ident : Nat) : State :=
  let x := s.launches.get l
  let r := x.rec_
  let core := coreOfBlock b
  let n := r.groups
  let frames := s.freeFrames x.ctx n
  let place := (List.range n).foldl (fun (st : State × List Nat) i =>
    let g := st.1.pickSlot core
    (({ st.1 with nextOp := st.1.nextOp + 1 } : State).onGroup g
      (fun _ => { startGroup st.1.nextOp b i r.lanes r x.addr stash x.start x.requested with frame := frames.getD i 0 }),
      st.2 ++ [g])) (s, [])
  let fresh : Block :=
    { live := true, launch := l, number := x.placed, ident := ident, ctx := x.ctx, core := core
      groups := place.2, stash := stash, stashSize := r.stash }
  let s1 := place.1.onBlock b (fun _ => fresh)
  let s2 := s1.onLaunch l (fun k => { k with placed := k.placed + 1 })
  s2.onCtx x.ctx (fun c => { c with sliceStart := some (c.sliceStart.getD s.now) })

/-- R41: the number of the n-th block in ascending identifier order: fields b to 5, field b least. -/
def blockIdent (widths extents : List Nat) (n : Nat) : Nat :=
  (List.zip widths extents).foldl (fun (st : Nat × Nat × Nat) e =>
    (st.1 + (st.2.1 % e.2) * 2 ^ st.2.2, st.2.1 / e.2, st.2.2 + e.1)) (0, n, 0) |>.1

/-- R15: a lane's field values: block-local fields from its index, the others from the block. -/
def laneFields (r : Record) (ident index : Nat) : List Nat :=
  let lo := (r.extents.take r.level).foldl (fun (st : List Nat × Nat) e => (st.1 ++ [st.2 % e], st.2 / e)) ([], index)
  let hi := (r.widths.drop r.level).foldl (fun (st : List Nat × Nat) w => (st.1 ++ [st.2 % 2 ^ w], st.2 / 2 ^ w)) ([], ident)
  lo.1 ++ hi.1

/-- R12: the work identifier. -/
def workId (r : Record) (fields : List Nat) : Nat :=
  (List.zip r.widths fields).foldl (fun (st : Nat × Nat) e => (st.1 + e.2 * 2 ^ st.2, st.2 + e.1)) (0, 0) |>.1

/-- R41, R42: the core that takes the launch's next block: die by die after the last, core by core from
the die's placement pointer; no die that is held back. -/
def State.findPlace (s : State) (l : Nat) (ban : BitVec 8) : Option (Nat × Nat × Nat) :=
  let x := s.launches.get l
  let r := x.rec_
  let start := match x.lastDie with | none => 0 | some d => d + 1
  let dies := ((List.range 8).map (fun i => (start + i) % 8)).filter (fun d => r.dieMask.getLsbD d && !ban.getLsbD d)
  dies.findSome? (fun d =>
    ((List.range 32).map (fun i => ((s.dies.get d).place + i) % 32)).findSome? (fun c =>
      (s.room (32 * d + c) r.groups r.stash).map (fun p => (32 * d + c, p.1, p.2))))

/-- Place the next block of a launch, when some core has room. -/
def State.placeNext (s : State) (l : Nat) (ban : BitVec 8) : Option State :=
  (s.findPlace l ban).map (fun p =>
    let x := s.launches.get l
    let r := x.rec_
    let id := blockIdent (r.widths.drop r.level) (r.extents.drop r.level) x.placed
    let d := dieOfCore p.1
    ((s.startBlock l p.2.1 p.2.2 id).onDie d (fun k => { k with place := (p.1 % 32 + 1) % 32 })).onLaunch l
      (fun k => { k with lastDie := some d }))

/-- Place every remaining block at once, or none (R42). -/
def State.placeAll (s : State) (l : Nat) (ban : BitVec 8) (n : Nat) : Option State :=
  match n with
  | 0 => some s
  | k + 1 => match s.placeNext l ban with
    | some t => t.placeAll l ban k
    | none => none

/-- R42: how many blocks fit on the remaining cores of the mask when they are empty. -/
def State.capacity (s : State) (r : Record) : Nat :=
  let perCore := min (min 64 (64 / max 1 r.groups)) ((524288 - 256) / (granules r.stash + 256))
  ((List.range 256).filter (fun c => r.dieMask.getLsbD (dieOfCore c) && !(s.cores.get c).removed)).length * perCore

/-! ### Acceptance (R318, R319) -/

/-- R318: check a record: the parsed record and its initial version's entry, or the error. A record is
128-byte aligned (R317); one that is not is rejected like one with a field out of range, with the detail 0
(DESIGN CHOICE, log entry 60: the spec names no code for it). A version count out of range rejects the launch as a
failed initial version does (R296), with that version's index. -/
def State.checkRecord (s : State) (ctx : Nat) (a : DWord) : Except ErrorRec (Record × VersionEntry) :=
  if a.toNat % 128 ≠ 0 then .error { code := 2, address := a, detail := 0 } else
  match s.descriptor ctx a 1 16 with
  | .error e => .error e
  | .ok bs =>
    let r := parseRecord bs
    match badFields bs r with
    | o :: os => .error { code := 2, address := a, detail := (o :: os).foldl min o }
    | [] => match s.readKernel ctx r.kernel with
      | none => .error { code := 5, address := r.kernel, detail := 0xFFFFFFFF }
      | some n =>
        if n = 0 ∨ 16 < n then .error { code := 5, address := r.kernel, detail := r.version }
        else if n ≤ r.version then .error { code := 5, address := r.kernel + BitVec.ofNat 64 (0x40 + 64 * r.version), detail := r.version }
        else match s.readEntry ctx r.kernel r.version r.regs with
          | .error b => .error { code := 5, address := b, detail := r.version }
          | .ok e =>
            let cap := s.capacity r
            if cap = 0 ∨ (r.coresident ∧ cap < r.blocks) then .error { code := 4, address := a, detail := r.blocks % 2 ^ 32 }
            else .ok (r, e)

/-- R319: the next identifier not in use. -/
def State.freeIdent (s : State) (start : Nat) : Nat :=
  let used (i : Nat) : Bool := s.launches.any (fun e => e.2.live && e.2.id.toNat == i)
  (((List.range (s.launches.length + 1)).map (fun k => (start + k) % 2 ^ 31)).find? (fun i => !used i)).getD start

/-- A launch slot, when fewer than 256 are held: the lowest number no launch has. -/
def State.freeLaunch (s : State) : Option Nat :=
  if 256 ≤ (s.launches.filter (fun e => e.2.live && !e.2.slotFree)).length then none
  else (List.range (s.launches.length + 1)).find? (fun l => !(s.launches.get l).live)

/-- An accepted launch takes a slot and an identifier, and its blocks wait for placement. -/
def State.acceptLaunch (s0 : State) (l ctx : Nat) (a : DWord) (r : Record) (e : VersionEntry)
    (queue : Option Nat) (packet : Word) (node : Option (Nat × Nat)) : State :=
  let ring := (s0.ctxs.get ctx).traceRing
  let s := if ring = 0 then s0 else s0.hubCollect ctx ring 32
  let id := s.freeIdent s.nextLaunch
  let mode := match s.agentWord ctx (ring + 12) 4 with
    | .ok n => if ring = 0 then 0 else n % 4
    | .error _ => 0
  let tab := match s.agentWord ctx (ring + 16) 8 with | .ok n => n | .error _ => 0
  let num := match s.agentWord ctx (ring + 24) 4 with | .ok n => n | .error _ => 0
  let x : Launch :=
    { live := true, id := BitVec.ofNat 32 id, ctx := ctx, addr := a, rec_ := r, entries := [(r.version, e)],
      replayTable := BitVec.ofNat 64 tab, replayEntries := num, queue := queue, packet := packet, node := node,
      order := s.nextOrder, start := r.version, replay := BitVec.ofNat 2 mode }
  ({ s.onLaunch l (fun _ => x) with nextLaunch := (id + 1) % 2 ^ 31, nextOrder := s.nextOrder + 1 } : State).post .blockPlacement

end Sys2Proof.Machine
end

