-- ==== Sys2Proof/Machine/Splits.lean ====
section
/-! DEFINITION. The split table (R18–R23), barriers (R189), what the end of lanes, groups and blocks
does (R25, R134, R135), ownership of the matrix engine (R44), the irrevocable token (R273) and the
transaction slots (R268). -/

namespace Sys2Proof.Machine

/-! ### The split table -/

/-- R18: the waits that make a split blocked. -/
def Wait.isBlock (w : Wait) : Bool :=
  match w with
  | .commit _ _ _ | .flush _ | .fetch _ | .copyRoom | .gong | .halt => false
  | _ => true

/-- R18: a runnable split: neither blocked nor parked nor stopped. -/
def Split.isRunnable (x : Split) : Bool :=
  decide (x.mask ≠ 0) && !x.stopped && !x.taking &&
    (match x.cond with | .parked => false | _ => x.waits.all (fun w => !w.isBlock))

/-- A runnable split with no instruction that waits. -/
def Split.canRun (x : Split) : Bool := decide (x.mask ≠ 0 ∧ x.cond = .runnable) && !x.stopped

def Group.freeEntry (g : Group) : Option Nat := [0, 1, 2, 3].find? (fun k => decide ((g.ent.get k).mask = 0))

/-- R19: the lowest free entry, otherwise the tail of the spill area. -/
def Group.addSplit (g : Group) (x : Split) : Group :=
  match g.freeEntry with
  | some k => { g with ent := g.ent.put k x }
  | none => { g with spill := g.spill ++ [x] }

def Group.removeSplit (g : Group) (uid : Nat) : Group :=
  { g with
    ent := [0, 1, 2, 3].foldl (fun e k => if (e.get k).mask ≠ 0 ∧ (e.get k).uid = uid then e.put k {} else e) g.ent
    spill := g.spill.filter (fun x => decide (x.uid ≠ uid)) }

/-- The entry a split holds. -/
def Group.entryOf (g : Group) (uid : Nat) : Option Nat :=
  [0, 1, 2, 3].find? (fun k => decide ((g.ent.get k).mask ≠ 0 ∧ (g.ent.get k).uid = uid))

/-- R21: a free entry takes the oldest runnable spilled split. -/
def Group.refillOne (g : Group) : Group :=
  match g.freeEntry, g.spill.find? Split.isRunnable with
  | some k, some x => { g with ent := g.ent.put k x, spill := g.spill.filter (fun y => decide (y.uid ≠ x.uid)) }
  | _, _ => g
def Group.refill (g : Group) : Group := g.refillOne.refillOne.refillOne.refillOne

/-- R21: when no resident split is runnable, the highest-numbered entry's split goes to the tail. -/
def Group.swapIn (g : Group) : Group :=
  if [0, 1, 2, 3].any (fun k => (g.ent.get k).isRunnable) then g else
  match g.spill.find? Split.isRunnable with
  | none => g
  | some x => { g with ent := g.ent.put 3 x, spill := g.spill.filter (fun y => decide (y.uid ≠ x.uid)) ++ [g.ent.get 3] }

/-- Merge several splits into the first; the others' entries become free. A step, a check already made (R384) and
a breakpoint already met (R364) of any of them are the merged split's. -/
def Group.mergeAll (g : Group) (base : Split) (others : List Split) (f : Split → Split) : Group :=
  let m := others.foldl (fun m x => m ||| x.mask) base.mask
  let g1 := others.foldl (fun g x => g.removeSplit x.uid) g
  g1.onSplit base.uid (fun x => f ((others.foldl (fun y o => y.noteTimes o.times) x) |> fun y =>
    { y with mask := m, out := others.foldl (fun l o => l ++ o.out) x.out
             settle := others.foldl (fun n o => max n o.settle) x.settle
             holdAll := others.foldl (fun n o => max n o.holdAll) x.holdAll
             holdStores := others.foldl (fun n o => max n o.holdStores) x.holdStores
             stepping := x.stepping || others.any (fun o => o.stepping)
             skipCheck := x.skipCheck || others.any (fun o => o.skipCheck)
             skipBreak := x.skipBreak <|> others.findSome? (fun o => o.skipBreak)
             spoil := x.spoil <|> others.findSome? (fun o => o.spoil)
             acquiring := others.foldl (fun a o => a ++ o.acquiring) x.acquiring
             owed := others.foldl (fun a o => a ++ o.owed) x.owed
             gathered := (others.foldl (fun a o => a ++ o.gathered) x.gathered).dedup }))

/-- A split stops after the offset that it has just issued (R142, R367): its record is still to be made. -/
def Split.stopping (x : Split) : Bool := x.trap.isSome || x.watch != [] || x.stopAfter.isSome

/-- R23: with no runnable split, the parked splits at the lowest JOIN merge, version by version, and
those of the lowest version resume. -/
def Group.joinParked (g : Group) : Group :=
  if g.splits.any Split.isRunnable then g else
  let parked := g.splits.filter (fun x => decide (x.cond = .parked) && !x.stopped && !x.stopping)
  match parked with
  | [] => g
  | p :: ps =>
    let o := (p :: ps).foldl (fun o x => if x.offset.toNat < o.toNat then x.offset else o) p.offset
    let here := (p :: ps).filter (fun x => decide (x.offset = o))
    let v := here.foldl (fun v x => min v x.version) 16
    (List.range 16).foldl (fun g k =>
      match here.filter (fun x => decide (x.version = k)) with
      | [] => g
      | b :: bs => g.mergeAll b bs (fun x => if k = v then { x with cond := .runnable, offset := o + 4 } else x)) g

/-- R21, R23 after any change of a group's splits. -/
def Group.settle (g : Group) : Group := (g.refill.swapIn.joinParked).refill.swapIn

/-- R33: a split of the group is in the middle of the passes of its offset. -/
def State.midOffset (s : State) (g : Nat) : Bool :=
  match (s.quads.get (quadOfGroup g)).cur with
  | some c => c.grp == g
  | none => false

/-- The group's splits change places (R21) and resume at a JOIN (R23), but for a group that is in the
middle of the passes of an offset (R33). -/
def State.settleGroup (s : State) (g : Nat) : State :=
  if (s.group g).live && !s.midOffset g then s.onGroup g Group.settle else s

/-- R325: the block's wait clock returns to 0. -/
def State.resetClock (s : State) (b : Nat) : State := s.onBlock b (fun y => { y with waited := 0, waiting := none })

/-- The wait of a split ends. -/
def State.wake (s : State) (g uid : Nat) : State :=
  ((s.onSplit g uid (fun x => { x with cond := .runnable, since := s.now })).settleGroup g).resetClock (s.group g).block

/-- One wait of a split ends. -/
def State.endWait (s : State) (g uid : Nat) (w : Wait) : State :=
  ((s.onSplit g uid (fun x => { x.endWait w with since := s.now })).settleGroup g).resetClock (s.group g).block

/-- The splits of a group that wait as a test says. -/
def Group.waiting (g : Group) (p : Wait → Bool) : List Split := g.splits.filter (fun x => x.waits.any p)

/-- Act on every wait of every split of a group, the oldest wait of a split first; one that has ended meanwhile is
passed over. -/
def State.overWaits (s : State) (g : Nat) (f : State → Split → Wait → State) : State :=
  (s.group g).splits.foldl (fun (st : State) x => x.waits.reverse.foldl (fun (st : State) w =>
    if (st.group g).splits.any (fun y => y.uid == x.uid && y.waits.contains w) then f st x w else st) st) s

/-! ### Stamps (R375) -/

/-- Record an event of the open stamp, once. -/
def State.stampEvent (s : State) (g : Nat) (f : Stamp → DWord → Stamp) : State :=
  match (s.group g).stamp with
  | none => s
  | some p => s.onGroup g (fun k => { k with stamp := some (f p (s.claveOf (dieOfGroup g))) })

def once (o : Option DWord) (t : DWord) : Option DWord := o <|> some t

/-! ### Barriers (R189) -/

/-- The non-exited lanes of a block. -/
def State.liveLanes (s : State) (b : Nat) : Nat :=
  ((s.blocks.get b).groups.map (fun g => laneCount ((s.group g).exist_ &&& ~~~(s.group g).exited))).sum

def State.expected (s : State) (b bar : Nat) : Nat :=
  match ((s.blocks.get b).bars.get bar).fixed with
  | some n => n
  | none => s.liveLanes b

/-- Release the splits of a block that wait for a phase other than their token. -/
def State.releaseBarrier (s : State) (b bar : Nat) (phase : Word) : State :=
  (s.blocks.get b).groups.foldl (fun st g => st.overWaits g (fun st x w =>
    match w with
    | .barrier k t => if k = bar ∧ t ≠ phase then st.endWait g x.uid w else st
    | .c1bar k t d m =>
      if k = bar ∧ t ≠ phase then (st.onGroup g (fun y => y.setV d.toNat m (fun _ => phase))).endWait g x.uid w else st
    | _ => st)) s

/-- The test made whenever either count changes. -/
def State.testBarrier (s : State) (b bar : Nat) : State :=
  let k := (s.blocks.get b).bars.get bar
  if k.arrived ≠ 0 ∧ s.expected b bar ≤ k.arrived then
    (s.onBlock b (fun y => { y with bars := y.bars.put bar { k with arrived := 0, phase := k.phase + 1 } })).releaseBarrier
      b bar (k.phase + 1)
  else s

def State.arrive (s : State) (b bar n : Nat) : State :=
  (s.onBlock b (fun y => { y with bars := y.bars.upd bar (fun k => { k with arrived := k.arrived + n }) })).testBarrier b bar

/-- An exit lowers the expected count of the barriers in counting mode. -/
def State.exitBarriers (s : State) (b : Nat) : State :=
  (List.range 16).foldl (fun st k => if ((st.blocks.get b).bars.get k).fixed.isNone then st.testBarrier b k else st) s

/-! ### The matrix engine (R44) -/

def State.onEngine (s : State) (core : Nat) (f : Engine → Engine) : State :=
  s.onCore core (fun k => { k with engine := f k.engine })

/-- The instructions that the engine accepts (R201). -/
def isProduct (i : Instr) : Bool :=
  match i with
  | .mma .. | .mmaz .. | .mmai .. | .mmaiz .. | .mmas .. | .mmasz .. => true
  | _ => false

/-- The instructions that wait in issue order for the engine: the products, and an MZERO behind them (R200). -/
def entersEngine (i : Instr) : Bool := isProduct i || (match i with | .mzero .. => true | _ => false)

/-- A free engine goes to the head of its queue: the tiles are zeroed, or a restored owner's return. -/
def State.grantEngine (s : State) (core : Nat) : State :=
  let e := (s.cores.get core).engine
  match e.owner, e.queue with
  | none, g :: rest =>
    let back := e.restoring.find? (fun x => x.1 = g)
    let s1 := s.onEngine core (fun e => { e with
      owner := some g, queue := rest
      acc := match back with | some x => x.2.1 | none => []
      pending := match back with | some x => x.2.2 | none => []
      waiting := (s.ops.filter (fun x => x.2.live && x.2.grp == g && entersEngine x.2.instr)).map Prod.fst
      restoring := e.restoring.filter (fun x => decide (x.1 ≠ g)) })
    let s2 := match back with
      | some x => x.2.2.foldl (fun (st : State) _ => st.post (.mmaComplete core)) (s1.post (.mmaComplete core))
      | none => s1
    ((s2.group g).waiting (fun w => decide (w = Wait.engine))).foldl (fun (st : State) (x : Split) => st.endWait g x.uid .engine) s2
  | _, _ => s

def State.releaseEngine (s : State) (core : Nat) : State :=
  (s.onEngine core (fun e => { e with owner := none, acc := [], pending := [], waiting := [] })).grantEngine core

/-! ### The irrevocable token (R273) -/

def State.grantToken (s : State) : State :=
  match s.token.holder, s.token.queue with
  | none, (g, _) :: rest =>
    let s1 : State := { s with token :=
      { grants := s.token.grants + 1, holder := some g, queue := rest.filter (fun e => decide (e.1 ≠ g)) } }
    let s2 := s1.onGroup g (fun k => { k with tokenHold := false })
    -- a TXIRR of a group that holds the token is granted at once (R197)
    s2.overWaits g (fun st x w => if w = .token then st.endWait g x.uid w else st)
  | _, _ => s

def State.releaseToken (s : State) (g : Nat) : State :=
  if s.token.holder = some g then ({ s with token := { s.token with holder := none } } : State).grantToken else s

/-- R274: the stamp of a write the group makes now; 0 when it does not hold the token. -/
def State.stampFor (s : State) (g : Nat) : Nat := if s.token.holder = some g then s.token.grants else 0

/-! ### Transactions: slots and lanes -/

/-- Lanes with an open transaction, and those of them that are doomed. -/
def Group.txOpen (g : Group) : Mask := maskOf (fun L => (g.tx.get L).isOpen)
def Group.txDoomed (g : Group) : Mask := maskOf (fun L => (g.tx.get L).doom.isSome)
/-- R26: a lane is active when its counter is 0, it is not parked and has not exited. -/
def Group.active (g : Group) (m : Mask) : Mask :=
  m &&& ~~~g.exited &&& maskOf (fun L => decide (g.depth.get L = 0) && !(g.tx.get L).parked)

/-- R195: doom lanes with a code; a doomed lane keeps its first code, its logs go, and it is parked. -/
def Group.doomLanes (g : Group) (m : Mask) (code : Word) : Group :=
  { g with tx := (lanesOf (m &&& g.txOpen &&& ~~~g.txDoomed)).foldl (fun t L =>
      t.upd L (fun x => { x with doom := some code, parked := true, reads := [], writes := [] })) g.tx }

def State.doom (s : State) (m : Mask) (code : Word) : State := s.onCur (fun g => g.doomLanes m code)

/-- The threshold of R275. -/
def State.threshold (s : State) : Nat := if s.token.holder.isSome then s.token.grants else s.token.grants + 1

def isIfOrLoop (w : Nat) : Bool := w % 2 == 1 && (w / 2 % 128 == 0x40 || w / 2 % 128 == 0x43)
def isEndOf (w : Nat) : Bool := w % 2 == 1 && (w / 2 % 128 == 0x42 || w / 2 % 128 == 0x44)
def isTxEnd (w : Nat) : Bool := w % 2 == 1 && w / 2 % 128 == 0x7B && w / 2 ^ 26 == 1

/-- R261: the innermost IF or LOOP region of a plane that holds an offset, and the first TXEND after it in the
same region, at the level of that offset (log entry 36). The words are those of the plane, from offset 0. -/
def txRegion (units : List Nat) (here : Nat) (pos fuel : Nat) (stack : List Nat)
    (found : Option (List Nat)) (txEnd : Option Nat) : Nat × Nat × Option Nat :=
  match fuel with
  | 0 => (0, 2 ^ 32 - 1, txEnd)
  | f + 1 =>
    match units with
    | [] => ((match found with | some (p :: _) => p | _ => 0), 2 ^ 32 - 1, txEnd)
    | lo :: rest =>
      let long := lo % 2 = 1
      let w := lo + 65536 * (if long then rest.headD 0 else 0)
      let rest' := if long then rest.drop 1 else rest
      let next := pos + (if long then 4 else 2)
      let found := if pos = here then some stack else found
      let txEnd := if txEnd.isNone ∧ found = some stack ∧ isTxEnd w then some pos else txEnd
      if isIfOrLoop w then txRegion rest' here next f (pos :: stack) found txEnd
      else if isEndOf w then
        match found, stack with
        | some (p :: _), q :: qs =>
          if p = q then (p, pos, txEnd) else txRegion rest' here next f qs found txEnd
        | _, _ => txRegion rest' here next f (stack.drop 1) found txEnd
      else txRegion rest' here next f stack found txEnd

/-- The 16-bit units of a plane of a version that a fetch may read. A unit that none can counts as no word of the
structure (log entry 36). -/
def State.planeUnits (s : State) (g v plane : Nat) : List Nat :=
  let e := (s.launchOf g).entries.get v
  (List.range (e.length.toNat / 2)).map (fun i =>
    let a := e.codeBase + BitVec.ofNat 64 (plane * e.stride + 2 * i)
    match s.agentPa (s.ctxOf g) a .fetch [] with
    | .ok (pa, _) => joinBytes [s.hubByte pa, s.hubByte (pa + 1)]
    | .error _ => 0)

/-- R194: open a transaction in lanes; a lane that has one is doomed with code 5. -/
def State.openTx (s : State) (g : Nat) (m : Mask) (offset : Word) (version plane : Nat) : State :=
  let u := s.planeUnits g version plane
  let r := txRegion u offset.toNat 0 (u.length + 1) [] none none
  let th := s.threshold
  s.onGroup g (fun k =>
    let fresh := m &&& ~~~k.txOpen
    let k1 := k.doomLanes (m &&& k.txOpen) 5
    { k1 with
      txSlot := true
      tx := (lanesOf fresh).foldl (fun t L => t.put L
        { isOpen := true, threshold := th, regionLo := BitVec.ofNat 32 r.1, regionHi := BitVec.ofNat 32 r.2.1,
          txEnd := r.2.2.map (fun n => BitVec.ofNat 32 n) }) k1.tx })

/-- The groups of a core that hold a slot. -/
def State.txHolders (s : State) (core : Nat) : Nat :=
  ((List.range 64).filter (fun i => (s.group (64 * core + i)).txSlot)).length

/-- A freed slot goes to the group that has waited longest (R268); every TXBEGIN of that group goes on. -/
def State.grantTxSlot (s : State) (core : Nat) : State :=
  match (s.cores.get core).txQueue with
  | [] => s
  | (g, _) :: rest =>
    if 8 ≤ s.txHolders core then s else
    let s1 := s.onCore core (fun k => { k with txQueue := rest.filter (fun e => decide (e.1 ≠ g)) })
    s1.overWaits g (fun st x w =>
      match w with
      | .txSlot m p o => (st.openTx g m o x.version p).endWait g x.uid w
      | _ => st)

/-- Close the transactions of lanes; the slot goes on when none is left. -/
def State.closeTx (s : State) (g : Nat) (m : Mask) : State :=
  let s1 := s.onGroup g (fun k => { k with tx := (lanesOf m).foldl (fun t L => t.put L {}) k.tx })
  if (s1.group g).txSlot ∧ (s1.group g).txOpen = 0 then
    (s1.onGroup g (fun k => { k with txSlot := false })).grantTxSlot (coreOfGroup g)
  else s1

/-! ### Ends -/

/-- A core gives up what it holds for a context that has no block left on it (R229, R241, R279). -/
def State.leaveCore (s : State) (core ctx : Nat) : State :=
  let s1 := if (s.cores.get core).wc.held && (s.cores.get core).wc.ctxs.contains ctx then s.flushWc core else s
  let s2 := (s1.collectCore core (fun x => x == ctx)).1
  (((s2.cores.get core).l1.filter (fun e => decide (e.2.st = .priv) && e.2.ctxs.contains ctx)).map Prod.fst).foldl
    (fun st l => st.evictPrivate core l) s2

def State.lastOnCore (s : State) (core ctx : Nat) : Bool :=
  !(s.blocks.any (fun e => e.2.live && e.2.core == core && e.2.ctx == ctx))

/-- Write back and give up every owned line of a block (R177). -/
def State.dropMaps (s : State) (b : Nat) : State :=
  ((s.blocks.get b).mapLines.map Prod.fst).foldl (fun st sl => (st.writeBack b sl true).1) s

/-- Blocks that wait get their chance. -/
def State.postWaiting (s : State) : State :=
  s.ctxs.foldl (fun st e => if e.2.saved = [] ∨ e.2.st ≠ .running then st else st.post (.blockRestore e.1))
    (if s.launches.any (fun e => e.2.live && decide (e.2.placed < e.2.rec_.blocks)) then s.post .blockPlacement else s)

/-- The block's place is free; its launch counts it as ended (R25). -/
def State.freeBlock (s : State) (b : Nat) : State :=
  let k := s.blocks.get b
  let s1 := (s.onBlock b (fun _ => {})).onLaunch k.launch (fun x => { x with ended := x.ended + 1 })
  let s2 := if s1.lastOnCore k.core k.ctx then s1.leaveCore k.core k.ctx else s1
  let x := s2.launches.get k.launch
  let s3 := if x.ended = x.rec_.blocks then s2.post (.launchComplete k.launch) else s2
  let s4 := if s3.blocks.any (fun e => e.2.live && e.2.ctx == k.ctx) then s3
            else s3.onCtx k.ctx (fun c => { c with sliceStart := none })
  s4.postWaiting

/-- R25, R135: the last group of a block has ended. Its successor's record is read and checked once; the successor
takes the block's place, and while no launch slot is free, or the core has fewer free group slots than the
successor has groups, the place waits, and no other block is placed on the core (`State.room`). The spec gives error 0x07 to a rejected successor
and no detail for one that is well formed but has several blocks or too large a stash request: the model's
detail is 2, as for a field out of range (DESIGN CHOICE, log entry 60). -/
def State.endBlock (s0 : State) (b : Nat) : State :=
  let k := s0.blocks.get b
  match k.successor with
  | none => (s0.dropMaps b).freeBlock b
  | some a =>
    let s := if k.checked.isSome then s0 else s0.collectRecord k.ctx a
    match (match k.checked with | some x => .ok x | none => s.checkRecord k.ctx a : Except ErrorRec (Record × VersionEntry)) with
    | .error e =>
      (((s.dropMaps b).freeBlock b)).postError k.ctx (s.errorFor k.launch { code := 7, address := a, detail := e.code })
    | .ok (r, e) =>
      if r.blocks ≠ 1 ∨ granules k.stashSize < r.stash then
        ((s.dropMaps b).freeBlock b).postError k.ctx (s.errorFor k.launch { code := 7, address := a, detail := 2 })
      else
        let waits := s.onBlock b (fun y => { y with checked := some (r, e) })
        match s.freeLaunch with
        | none => waits
        | some l =>
          if s.freeSlots k.core < r.groups then waits else
          let q := s.launches.get k.launch
          let s1 := ((s.dropMaps b).acceptLaunch l k.ctx a r e q.queue q.packet none).onLaunch k.launch
            (fun x => { x with ended := x.ended + 1 })
          let s2 := s1.startBlock l b k.stash 0
          let s3 := s2.onBlock b (fun y => { y with stashSize := k.stashSize })
          if (s3.launches.get k.launch).ended = q.rec_.blocks then s3.post (.launchComplete k.launch) else s3

/-- R147: no group has a split of an ended group selected, and a record of it still in the stub's queue selects none. -/
def State.forgetSelected (s : State) (g : Nat) : State :=
  let mine (r : StubRecord) : Bool := !r.gone && r.grp == g
  let end_ (r : StubRecord) : StubRecord := if mine r then { r with gone := true } else r
  let s1 : State := if s.groups.any (fun e => e.2.selected.any (fun x => x.1 == g)) then
      { s with groups := s.groups.map (fun e => (e.1, if e.2.selected.any (fun x => x.1 == g) then { e.2 with selected := none } else e.2)) }
    else s
  if s1.launches.any (fun e => e.2.stubQ.any mine || e.2.stubWait.any (fun b => b.any mine)) then
    { s1 with launches := s1.launches.map (fun e => (e.1, { e.2 with
        stubQ := e.2.stubQ.map end_, stubWait := e.2.stubWait.map (fun b => b.map end_) })) }
  else s1

/-- R25, R134, R143, R44, R197: a group ends. -/
def State.endGroup (s : State) (g : Nat) : State :=
  let core := coreOfGroup g
  let k := s.group g
  let s1 := match k.stamp with
    | some p => s.traceWrite (s.ctxOf g) (stampBytes p false 0 0)
    | none => s
  let s2 := s1.releaseToken g
  let s3 : State := { s2 with token := { s2.token with queue := s2.token.queue.filter (fun e => decide (e.1 ≠ g)) } }
  let s4 := s3.onEngine core (fun e => { e with
    queue := e.queue.filter (fun x => decide (x ≠ g)), restoring := e.restoring.filter (fun x => decide (x.1 ≠ g)) })
  let s5 := if (s4.cores.get core).engine.owner = some g then s4.releaseEngine core else s4
  let s6 := ((s5.onGroup g (fun _ => {})).grantTxSlot core).forgetSelected g
  let b := k.block
  let s7 := s6.onBlock b (fun y => { y with groups := y.groups.filter (fun x => decide (x ≠ g)) })
  if (s7.blocks.get b).groups = [] then s7.endBlock b else s7

/-- A group ends once all its lanes have exited and its batches, closed and open, are complete: their words
copied and their completion times passed (R25, R134, R182). While times lie ahead it is looked at again. -/
def State.tryEndGroup (s : State) (g : Nat) : State :=
  let k := s.group g
  if k.live ∧ k.exited = k.exist_ ∧ k.copies = [] ∧ k.closed = [] then
    (if k.batchTimes.all (fun e => decide (e.2 ≤ s.now)) then s.endGroup g else s.later (.batchComplete g))
  else s

/-- R25, R134: lanes of a split exit for good; open transactions are discarded; the last lane of an
engine owner passes the engine on. -/
def State.exitLanes (s : State) (g uid : Nat) (m : Mask) : State :=
  if m = 0 then s else
  let s1 := (s.onGroup g (fun k => { k with exited := k.exited ||| m })).closeTx g m
  let left := (s1.splitOf g uid).mask &&& ~~~m
  let s2 := if left = 0 then s1.onGroup g (fun k => k.removeSplit uid)
            else s1.onSplit g uid (fun x => { x with mask := left })
  let s3 := (s2.exitBarriers (s.group g).block).settleGroup g
  let core := coreOfGroup g
  let s4 := if (s3.group g).exited = (s3.group g).exist_ ∧ (s3.cores.get core).engine.owner = some g
            then s3.releaseEngine core else s3
  s4.tryEndGroup g

/-- One outcome of an offset (R19): where its lanes go, and whether a JOIN parks them there. -/
structure Outcome where
  target : Word
  joined : Bool
  mask : Mask
  deriving DecidableEq, Repr

/-- R19, R34: where the lanes of a split go: the latest entry that names a lane wins, otherwise the
next offset. Outcomes in order of their lowest lanes. Lanes that a JOIN parks and lanes that a branch of
another pass sends to the same offset are two outcomes (DEDUCED, log entry 22). -/
def outcomes (m joins : Mask) (goes : List (Mask × Word)) (next : Word) : List Outcome :=
  (lanesOf m).foldl (fun acc L =>
    let t := match goes.find? (fun e => inMask e.1 L) with | some e => e.2 | none => next
    let j := inMask joins L
    let me := maskOf (fun K => K == L)
    if acc.any (fun e => e.target == t && e.joined == j) then
      acc.map (fun e => if e.target = t ∧ e.joined = j then { e with mask := e.mask ||| me } else e)
    else acc ++ [⟨t, j, me⟩]) []

/-- The place, among the outcomes, of the one that something of the old split follows: the first that
passes a test, or else the first. -/
def follows (os : List Outcome) (p : Outcome → Bool) : Nat := let n := os.findIdx p; if n < os.length then n else 0

/-- R19: the split moves on, dividing when its lanes go to more than one offset. The first outcome keeps the
entry. The waits and the outstanding instructions of its passes, and with them its name, follow the first
outcome that falls through; a stop after the offset (R142) or a watchpoint hit (R367) follows the first
outcome that falls through and holds a lane of the plane that raised it (DEDUCED, log entry 18). The names of the resulting splits are answered in
the order of the outcomes. -/
def State.moveSplit (s : State) (g uid : Nat) (goes : List (Mask × Word)) (next : Word) : State × List Nat :=
  let x := s.splitOf g uid
  let os := outcomes x.mask x.joins goes next
  let ofPlane (p : Nat) (e : Outcome) : Bool :=
    e.target == next && (lanesOf e.mask).any (fun L => ((s.group g).plane.get L).toNat == p)
  let keeps := if x.waits = [] ∧ x.out = [] then 0 else follows os (fun e => !e.joined && e.target == next)
  let stops := follows os (ofPlane x.stopPlane)
  let watches := follows os (ofPlane ((x.watch.getLast?.map (fun h => h.plane)).getD 0))
  let part (n i : Nat) (e : Outcome) : Split :=
    let y : Split := { x with
      mask := e.mask, offset := e.target, joins := 0, since := s.now, uid := if i = keeps then uid else n
      stopAfter := if i = stops then x.stopAfter else none, watch := if i = watches then x.watch else [] }
    let z : Split := if i = keeps then y else { y with cond := .runnable, also := [], out := [], spoil := none, acquiring := [], owed := [] }
    if e.joined then { z with cond := .parked, also := [] } else z
  (os.zipIdx).foldl (fun (st : State × List Nat) e =>
    let n := st.1.nextOp
    let y := part n e.2 e.1
    let s1 : State := if e.2 = keeps then st.1 else { st.1 with nextOp := n + 1 }
    (if e.2 = 0 then s1.onSplit g uid (fun _ => y) else s1.onGroup g (fun k => k.addSplit y), st.2 ++ [y.uid])) (s, [])

end Sys2Proof.Machine
end

