-- ==== Sys2Proof/Machine/Accesses.lean ====
section
/-! DEFINITION. Long-latency memory operations: capture at issue (R101), the checks of R167 and R168,
translation and its walks, fills and leases, stores on their way home, ATOM and RED, logged accesses of
transactions (R195, R267), watchpoints (R382) and faults handed to Carillon (R330). -/

namespace Sys2Proof.Machine

/-- How a memory instruction moves data. -/
inductive Move where
  | load | store | atom | red | compress | prefetch
  deriving DecidableEq, Repr

/-- What a memory instruction is: its move, bytes a lane, data register, registers a lane, sign extension. -/
structure Shape where
  move : Move
  bytes : Nat
  d : Nat := 0
  regs : Nat := 1
  signed : Bool := false
  deriving DecidableEq, Repr

def sh (m : Move) (n : Nat) (d : Reg) (regs : Nat := 1) (sg : Bool := false) : Option Shape :=
  some ⟨m, n, d.toNat, regs, sg⟩

/-- R171, R172, R178, R180, R186, R187. -/
def shapeOf (i : Instr) : Option Shape :=
  match i with
  | .ldgSb _ d _ _ _ _ => sh .load 1 d 1 true
  | .ldgZb _ d _ _ _ _ => sh .load 1 d
  | .ldgSh _ d _ _ _ _ => sh .load 2 d 1 true
  | .ldgZh _ d _ _ _ _ => sh .load 2 d
  | .ldgW _ d _ _ _ _ => sh .load 4 d
  | .ldgD _ d _ _ _ _ => sh .load 8 d 2
  | .ldgQ _ d _ _ _ _ => sh .load 16 d 4
  | .stgB _ d _ _ _ _ => sh .store 1 d
  | .stgH _ d _ _ _ _ => sh .store 2 d
  | .stgW _ d _ _ _ _ => sh .store 4 d
  | .stgD _ d _ _ _ _ => sh .store 8 d 2
  | .stgQ _ d _ _ _ _ => sh .store 16 d 4
  | .ldaW _ d _ _ _ _ => sh .load 4 d
  | .ldaD _ d _ _ _ _ => sh .load 8 d 2
  | .stlW _ d _ _ _ _ => sh .store 4 d
  | .stlD _ d _ _ _ _ => sh .store 8 d 2
  | .stgc _ d _ _ _ _ => sh .compress 4 d
  | .pfg _ _ _ _ _ => sh .prefetch 1 0
  | .atomAdd _ d _ _ | .atomAnd _ d _ _ | .atomOr _ d _ _ | .atomXor _ d _ _ | .atomMin _ d _ _
  | .atomMax _ d _ _ | .atomUmin _ d _ _ | .atomUmax _ d _ _ | .atomXchg _ d _ _ | .atomFadd _ d _ _
  | .atomFmin _ d _ _ | .atomFmax _ d _ _ => sh .atom 4 d
  | .atomCas _ d _ _ => sh .atom 4 d 2
  | .atomAddD _ d _ _ | .atomXchgD _ d _ _ => sh .atom 8 d 2
  | .atomCasD _ d _ _ => sh .atom 8 d 4
  | .redAdd _ d _ _ | .redAnd _ d _ _ | .redOr _ d _ _ | .redXor _ d _ _ | .redMin _ d _ _
  | .redMax _ d _ _ | .redUmin _ d _ _ | .redUmax _ d _ _ | .redFadd _ d _ _ | .redFmin _ d _ _
  | .redFmax _ d _ _ => sh .red 4 d
  | .redAddD _ d _ _ => sh .red 8 d 2
  | _ => none

/-- The scope field of the instructions that carry one. -/
def scopeOf (i : Instr) : Nat :=
  match i with
  | .ldaW _ _ _ _ _ c | .ldaD _ _ _ _ _ c | .stlW _ _ _ _ _ c | .stlD _ _ _ _ _ c => c.toNat
  | .atomAdd _ _ _ c | .atomAnd _ _ _ c | .atomOr _ _ _ c | .atomXor _ _ _ c | .atomMin _ _ _ c
  | .atomMax _ _ _ c | .atomUmin _ _ _ c | .atomUmax _ _ _ c | .atomXchg _ _ _ c | .atomCas _ _ _ c
  | .atomFadd _ _ _ c | .atomFmin _ _ _ c | .atomFmax _ _ _ c | .atomAddD _ _ _ c
  | .atomXchgD _ _ _ c | .atomCasD _ _ _ c => c.toNat
  | .redAdd _ _ _ c | .redAnd _ _ _ c | .redOr _ _ _ c | .redXor _ _ _ c | .redMin _ _ _ c
  | .redMax _ _ _ c | .redUmin _ _ _ c | .redUmax _ _ _ c | .redFadd _ _ _ c | .redFmin _ _ _ c
  | .redFmax _ _ _ c | .redAddD _ _ _ c => c.toNat
  | _ => 0

def isStl (i : Instr) : Bool := match i with | .stlW .. | .stlD .. => true | _ => false
def isLda (i : Instr) : Bool := match i with | .ldaW .. | .ldaD .. => true | _ => false

/-- R169: pol 3 on a plain store. -/
def isWc (i : Instr) : Bool :=
  match i with
  | .stgB _ _ _ _ _ p | .stgH _ _ _ _ _ p | .stgW _ _ _ _ _ p | .stgD _ _ _ _ _ p | .stgQ _ _ _ _ _ p
  | .stgc _ _ _ _ _ p => p == 3
  | _ => false

/-- R169: the pol field of the accesses that carry one. -/
def polField (i : Instr) : BitVec 2 :=
  match i with
  | .ldgSb _ _ _ _ _ p | .ldgZb _ _ _ _ _ p | .ldgSh _ _ _ _ _ p | .ldgZh _ _ _ _ _ p | .ldgW _ _ _ _ _ p
  | .ldgD _ _ _ _ _ p | .ldgQ _ _ _ _ _ p | .stgB _ _ _ _ _ p | .stgH _ _ _ _ _ p | .stgW _ _ _ _ _ p
  | .stgD _ _ _ _ _ p | .stgQ _ _ _ _ _ p | .stgc _ _ _ _ _ p | .pfg _ _ _ _ p => p
  | _ => 0

/-- R168: the classes an access executes on. -/
def classesFor (m : Move) (bytes : Nat) : List Nat :=
  match m with
  | .load | .store => if bytes = 16 then [0, 1, 2] else [0, 1, 2, 3]
  | _ => [0, 1, 2]

def accessFor (m : Move) : Access :=
  match m with
  | .load | .prefetch => .read
  | .store | .compress => .write
  | .atom | .red => .both

/-- R186: the new value of an ATOM; w is the operand, n the second operand of CAS. -/
def atomNew (i : Instr) (old w n : Nat) : Nat :=
  match i with
  | .atomAdd .. => redFold 0 old w | .atomAnd .. => redFold 1 old w | .atomOr .. => redFold 2 old w
  | .atomXor .. => redFold 3 old w | .atomMin .. => redFold 4 old w | .atomMax .. => redFold 5 old w
  | .atomUmin .. => redFold 6 old w | .atomUmax .. => redFold 7 old w
  | .atomXchg .. | .atomXchgD .. => w
  | .atomCas .. | .atomCasD .. => if old = w then n else old
  | .atomFadd .. => redFold 8 old w | .atomFmin .. => redFold 9 old w | .atomFmax .. => redFold 10 old w
  | .atomAddD .. => (old + w) % 2 ^ 64
  | _ => old

/-- R187: the operation code of a RED. -/
def redCode (i : Instr) : Nat :=
  match i with
  | .redAdd .. => 0 | .redAnd .. => 1 | .redOr .. => 2 | .redXor .. => 3 | .redMin .. => 4 | .redMax .. => 5
  | .redUmin .. => 6 | .redUmax .. => 7 | .redFadd .. => 8 | .redFmin .. => 9 | .redFmax .. => 10 | _ => 11

/-! ### Addresses and records -/

/-- R167: the address of format M in a lane. -/
def State.addrM (s : State) (sp : BitVec 5) (am : Bool) (a : Reg) (L : Nat) : DWord :=
  if am then s.vP a L else s.cur.sPair (2 * sp.toNat) + (s.vR a L).setWidth 64

/-- R341: a trap record for a split of a group of a block, on the core that holds it or held it last. -/
def State.recordIn (s : State) (k : Group) (b : Block) (core uid : Nat) (c : Cause) (detail : Nat) (hit : Mask)
    (addr : DWord) (offset : Word) (active : Mask) (plane : Nat) : TrapRecord :=
  let x := (k.findSplit uid).getD default
  let pos := k.spill.findIdx (fun y => y.uid == uid)
  { launch := (s.launches.get b.launch).id, core := core % 32, die := dieOfCore core, ctx := b.ctx, block := b.number
    spillPos := if (k.entryOf uid).isSome then 0 else pos, spilled := (k.entryOf uid).isNone
    version := x.version, plane := plane, entry := (k.entryOf uid).getD 0, group := k.index
    offset := offset, detail := BitVec.ofNat 16 detail, cause := c, active := active, hit := hit
    address := addr, time := s.claveOf (dieOfCore core), retired := k.retired }

/-- R341: a trap record for a split as it stands. -/
def State.record (s : State) (g uid : Nat) (c : Cause) (detail : Nat) (hit : Mask) (addr : DWord)
    (offset : Word) (active : Mask) (plane : Nat) : TrapRecord :=
  s.recordIn (s.group g) (s.blockOf g) (coreOfGroup g) uid c detail hit addr offset active plane

/-- The active lanes of a split (R26). -/
def State.activeLanes (s : State) (g uid : Nat) : Mask := (s.group g).active (s.splitOf g uid).mask

/-! ### Operations -/

def State.op (s : State) (i : Nat) : Op := s.ops.get i

/-- A long-latency instruction becomes outstanding (R98); its offset's own issue takes one from the count. -/
def State.newOp (s : State) (o : Op) (la : Nat) : State × Nat :=
  let i := s.nextOp
  let s1 : State := { s with ops := s.ops.put i { o with live := true }, nextOp := i + 1 }
  (s1.onSplit o.grp o.uid (fun x => { x with out := x.out ++ [{ op := i, left := la + 1 }] }), i)

/-- An instruction is complete (R99): it leaves the outstanding set. -/
def State.completeOp (s : State) (i : Nat) : State :=
  let o := s.op i
  ({ s with ops := s.ops.erase i } : State).onSplit o.grp o.uid (fun x => { x with
    out := x.out.filter (fun e => decide (e.op ≠ i))
    acquiring := x.acquiring.filter (fun n => decide (n ≠ i)) })

/-- The operations of a core, oldest first. -/
def State.coreOps (s : State) (core : Nat) : List (Nat × Op) :=
  s.ops.filter (fun e => e.2.live && coreOfGroup e.2.grp == core)

/-- The lines of the lanes of an operation that is under way to memory. -/
def Op.lines (o : Op) : List Nat :=
  ((lanesOf o.mask).filter (fun L => decide (o.cls.get L ≠ 3))).map (fun L => lineOf (o.pa.get L))

/-- The lines that a store, an STL or an ATOM under way writes and its home has not applied yet. -/
def Op.storeLines (o : Op) : List Nat :=
  match shapeOf o.instr with
  | some h => if (h.move = .store ∨ h.move = .atom) ∧ o.status = .flying then o.lines else []
  | none => []

/-- A plain store, which its L1 has accepted. -/
def Op.isPlain (o : Op) : Bool :=
  match shapeOf o.instr with
  | some h => decide (h.move = .store) && !isStl o.instr
  | none => false

/-- A store takes its place in the order of acceptance at the L1s of its core (R246). -/
def State.takePlace (s : State) (i : Nat) : State :=
  let n := (s.coreOps (coreOfGroup (s.op i).grp)).foldl (fun n e => max n e.2.taken) 0
  s.onOp i (fun x => { x with taken := n + 1 })

/-- A core has a store of a line on its way home that it accepted earlier: R237's home applies the stores of a core
in the order of their acceptance, in which the core's own copy took them (R246). -/
def State.storeBefore (s : State) (core i line : Nat) : Bool :=
  let mine := (s.op i).taken
  (s.coreOps core).any (fun e => decide (e.1 ≠ i ∧ (mine = 0 ∨ e.2.taken < mine)) && e.2.isPlain && e.2.storeLines.contains line)

/-- An older store, ATOM or RED of the same split has not been translated yet, or is an STGC that has
not committed every element. -/
def State.unsettledStore (s : State) (i : Nat) : Bool :=
  let o := s.op i
  s.ops.any (fun e => decide (e.1 < i) && e.2.live && e.2.grp == o.grp && e.2.uid == o.uid
    && (match shapeOf e.2.instr with
      | some h => decide (h.move = .compress ∧ e.2.status ≠ .accepted)
          || decide (h.move ≠ .load ∧ h.move ≠ .prefetch ∧ (e.2.status = .walking ∨ e.2.status = .held ∨ e.2.status = .faulted))
      | none => false))

/-- R171: an access waits for an older access of the core to one of its lines: an ATOM or RED for every
store and ATOM, a load or store for an STL or ATOM, which has not reached its L1. -/
def State.lineHeld (s : State) (i : Nat) (m : Move) : Bool :=
  let o := s.op i
  (s.coreOps (coreOfGroup o.grp)).any (fun e => (decide (e.1 < i) || (e.2.isPlain && decide (e.1 ≠ i)))
    && (match m with | .atom | .red => true | .load | .store => !e.2.isPlain | _ => false)
    && e.2.storeLines.any (fun l => o.lines.contains l))

/-- R241: a store that enters the write-combining buffer lets the core's older accepted stores of its lines
reach their homes first, so that a flush passes none of them. -/
def State.wcHeld (s : State) (i : Nat) : Bool :=
  let o := s.op i
  isWc o.instr && o.lines.any (fun l => s.storeBefore (coreOfGroup o.grp) i l)

/-- R231: an older register access of the split has not been answered, or an older load or store of it,
which may be one, has not been translated. -/
def State.registerBefore (s : State) (i : Nat) : Bool :=
  let o := s.op i
  s.ops.any (fun e => decide (e.1 < i) && e.2.live && e.2.grp == o.grp && e.2.uid == o.uid
    && ((lanesOf e.2.mask).any (fun L => e.2.cls.get L == 3)
      || (decide (e.2.status = .walking ∨ e.2.status = .held ∨ e.2.status = .faulted) && (match shapeOf e.2.instr with
        | some h => decide ((h.move = .load ∨ h.move = .store) ∧ h.bytes ≠ 16)
        | none => false))))

/-- R246: an older load of the split has not been translated and may be of a line of this load's: the bits
of an address below its page number are those of the physical one. -/
def State.loadBefore (s : State) (i : Nat) : Bool :=
  let o := s.op i
  let slots (o : Op) : List Nat := (lanesOf (o.mask &&& ~~~o.have_)).map (fun L => (o.addr.get L).toNat / 64 % 64)
  s.ops.any (fun e => decide (e.1 < i) && e.2.live && e.2.grp == o.grp && e.2.uid == o.uid
    && decide (e.2.status = .walking ∨ e.2.status = .held ∨ e.2.status = .faulted)
    && (match shapeOf e.2.instr with | some h => decide (h.move = .load) | none => false)
    && (slots e.2).any (fun l => (slots o).contains l))

/-- The value of a lane's data registers, as held in the log. -/
def Op.lane (o : Op) (regs L : Nat) : Nat :=
  ((List.range regs).map (fun k => (o.data.get (4 * L + k)).toNat * 2 ^ (32 * k))).sum

/-! ### Watchpoints (R382) -/

/-- The watchpoint that some lane's bytes meet, with the lanes that meet it. -/
def watchMatch (ws : List Watchpoint) (stash : Bool) (block : Nat) (load store : Bool) (n : Nat)
    (lanes : List (Nat × Nat)) : Option (Nat × Mask × DWord) :=
  let hits (w : Watchpoint) (L : Nat × Nat) : Bool :=
    decide (w.addr.toNat < L.2 + n ∧ L.2 < w.addr.toNat + w.length)
  let live := ws.filter (fun w => w.kind.getLsbD 0 == stash && (!stash || w.block == block)
    && ((load && w.kind.getLsbD 1) || (store && w.kind.getLsbD 2)))
  match lanes.find? (fun L => live.any (fun w => hits w L)) with
  | none => none
  | some L0 =>
    (live.find? (fun w => hits w L0)).map (fun w =>
      (w.number, maskOf (fun L => lanes.any (fun e => e.1 == L && live.any (fun w => hits w e))), BitVec.ofNat 64 L0.2))

/-- A further hit: passes of one offset make one, whose watchpoint and address are those of the lowest hit lane. -/
def addHit (hs : List WatchHit) (h : WatchHit) : List WatchHit :=
  if hs.any (fun o => o.next == h.next) then
    hs.map (fun o => if o.next ≠ h.next then o else
      let low := if lowLane h.hit < lowLane o.hit then h else o
      { o with number := low.number, addr := low.addr, hit := o.hit ||| h.hit, lanes := o.lanes ||| h.lanes })
  else hs ++ [h]

/-- Note a hit on the split; it stops after the offset. -/
def State.watch (s : State) (g uid : Nat) (mask : Mask) (next : Word) (plane : Nat) (stash load store : Bool) (n : Nat)
    (lanes : List (Nat × Nat)) : State :=
  match watchMatch (s.launchOf g).watches stash (s.blockOf g).number load store n lanes with
  | none => s
  | some (k, m, a) => s.onSplit g uid (fun x => { x with
      watch := addHit x.watch { number := k, hit := m, lanes := mask, addr := a, next := next, plane := plane } })

/-! ### Faults (R330) -/

/-- A record goes to Carillon. -/
def State.sendFault (s : State) (f : FaultRec) : State :=
  ({ s with faults := s.faults ++ [(s.nextFault, f)], nextFault := s.nextFault + 1 } : State).post
    (.carillonFaultService s.nextFault)

/-- An operation faults: its instruction stays logged, its record goes to Carillon. -/
def State.faultOp (s : State) (i : Nat) (c : Cause) (detail : Nat) (hit : Mask) (a : DWord) : State :=
  let o := s.op i
  let r := { s.record o.grp o.uid c detail hit a o.offset (s.activeLanes o.grp o.uid ||| o.mask) o.plane with version := o.version }
  (s.onOp i (fun x => { x with status := .faulted })).sendFault
    { op := some i, copy := none, fetch := none, rec_ := r, vpage := a.toNat % 2 ^ 57 / 4096, sent := false }

/-- A walk starts for a page, once, or waits for a free walker (R327, R328). -/
def State.startWalk (s : State) (core ctx vpage : Nat) : State :=
  let d := dieOfCore core
  if (s.dies.get d).walks.contains (core, ctx, vpage) then s else
  (s.onDie d (fun k => { k with walks := k.walks ++ [(core, ctx, vpage)] })).post (.pageWalkComplete core ctx vpage)

/-! ### Loads -/

/-- Take a lane's data for a load from a line's bytes. -/
def takeLane (o : Op) (n L : Nat) (bytes : Nat → Byte) : Op :=
  let w := (n + 3) / 4
  { o with
    have_ := o.have_ ||| maskOf (fun K => K == L)
    got := (List.range w).foldl (fun m k => m.put (4 * L + k)
      (BitVec.ofNat 32 (joinBytes ((List.range (min 4 n)).map (fun i => bytes (4 * k + i)))))) o.got }

def noteSettle (s : State) (g uid t : Nat) : State :=
  s.onSplit g uid (fun x => { x with settle := max x.settle (max t s.now) })

/-- Give every load of the core that waits for a line its data, from the line's bytes now. -/
def State.feedLine (s : State) (core line settle : Nat) (byte : Nat → Byte) : State :=
  (s.coreOps core).foldl (fun st e =>
    match shapeOf e.2.instr with
    | some h =>
      if h.move = .load ∧ e.2.status = .flying then
        (lanesOf (e.2.mask &&& ~~~(st.op e.1).have_)).foldl (fun st L =>
          if lineOf (e.2.pa.get L) = line ∧ (e.2.cls.get L = 1 ∨ e.2.cls.get L = 2) then
            noteSettle (st.onOp e.1 (fun o => takeLane o h.bytes L (fun i => byte (e.2.pa.get L % 64 + i)))) e.2.grp e.2.uid settle
          else st) st
      else st
    | none => st) s

/-- Some load of the core waits for a line. -/
def State.lineWanted (s : State) (core line : Nat) : Bool :=
  (s.coreOps core).any (fun e => match shapeOf e.2.instr with
    | some h => decide (h.move = .load ∧ e.2.status = .flying) &&
        (lanesOf (e.2.mask &&& ~~~e.2.have_)).any (fun L => lineOf (e.2.pa.get L) == line)
    | none => false)

/-- A core's load looks at its L1: a hit is taken, a miss starts or joins a fill (R234). -/
def State.loadLane (s : State) (i n L : Nat) : State :=
  let o := s.op i
  let core := coreOfGroup o.grp
  let pa := o.pa.get L
  let line := lineOf pa
  let s0 := s.flushWcFor core line
  let ask (st : State) : State := st.onOp i (fun x => { x with asked := x.asked.put L s.now })
  let was := decide (((s.cores.get core).l1.get line).st ≠ .invalid)
  let kept (st : State) : State := st.polL1 core line was (polField o.instr)
  if o.cls.get L = 3 then s0
  else if o.cls.get L = 0 then
    let s1 := kept (s0.fillPrivate core (s.ctxOf o.grp) line)
    let l := (s1.cores.get core).l1.get line
    noteSettle (s1.onOp i (fun o => takeLane o n L (fun k => l.bytes.get (pa % 64 + k)))) o.grp o.uid 0
  else
    let l := (s0.cores.get core).l1.get line
    if s0.l1Valid l then
      noteSettle ((kept s0).onOp i (fun o => takeLane o n L (fun k => l.bytes.get (pa % 64 + k)))) o.grp o.uid l.settle
    else match l.st with
      | .filling _ => ask (kept s0)
      | .updateOnly _ _ => (ask (kept s0)).post (.fillGrant core line)
      | _ => (kept ((ask s0).onCore core (fun k => { k with
          l1 := k.l1.put line { st := .filling s.now, ctx := s.ctxOf o.grp } }))).post (.fillGrant core line)

/-- The oldest load of a core that waits for a line: when its request left, and its context. -/
def State.firstAsker (s : State) (core line : Nat) : Option (Nat × Nat) :=
  (s.coreOps core).findSome? (fun e => match shapeOf e.2.instr with
    | some h => if h.move = .load ∧ e.2.status = .flying then
        ((lanesOf (e.2.mask &&& ~~~e.2.have_)).find? (fun L => lineOf (e.2.pa.get L) == line)).map
          (fun L => (e.2.asked.get L, s.ctxOf e.2.grp)) else none
    | none => none)

/-- R243: a stash's fill of a line waits for its leases; the home grants no more of them. -/
def State.claimed (s : State) (line : Nat) : Bool :=
  s.blocks.any (fun e => e.2.live && e.2.mapLines.any (fun m => m.2.claim && m.2.pa == 64 * line))

/-- R235: the home grants a fill to a core's waiting line. Its update-only copies are collected first (R279).
The answer is the request's: when it left, and for which context, a logged load's own for one. A line that a stash
owns, or waits to own, is served without a lease (R243). The grant and the reply's arrival are one instant (log entry 63). -/
def State.grantFill (s0 : State) (core line : Nat) (logged : Option Nat := none) : State :=
  let l := (s0.cores.get core).l1.get line
  let asker := (s0.firstAsker core line).getD (s0.now, logged.getD l.ctx)
  let req := match l.st with | .filling t => (t, l.ctx) | _ => asker
  let d := dieOfCore core
  let s := s0.collect line
  let h := s.homeLine line
  let settle := if s.now < h.settle then h.settle else 0
  if ((s.home.get line).owner).isSome || s.claimed line then
    (s.l1Drop core line).feedLine core line settle (fun k => s.byteAt (64 * line + k))
  else
    let len := (s.ctxs.get req.2).lease
    let cut := if outsidePa (64 * line) then (len + 1023) / 1024 else 0
    let fresh : L1Line :=
      { st := .leased (req.1 + len - cut), ctx := req.2, settle := settle, pol := l.pol
        bytes := putBytes [] ((List.range 64).map (fun i => (i, s.mem.get (64 * line + i)))) }
    let s2 := (s.onHome line (fun h => { h with lease := h.lease.upd d (fun e => max e (s.now + len)) })).onCore core
      (fun k => { k with l1 := k.l1.put line fresh })
    (s2.polHome line (listed s.home line) l.pol).feedLine core line settle (fun k => s.mem.get (64 * line + k))

/-- What the registers receive: bytes extended as the shape says. -/
def extendLoad (h : Shape) (w : Word) : Word :=
  match h.bytes, h.signed with
  | 1, true => (w.setWidth 8).signExtend 32
  | 2, true => (w.setWidth 16).signExtend 32
  | _, _ => w

/-- Write the data of a completed operation to its registers (R99, R171, R186), but for the words whose last
write came before (R101). -/
def State.writeDest (s : State) (i d regs : Nat) (f : Word → Word) : State :=
  let o := s.op i
  (List.range regs).foldl (fun st k => st.onGroup o.grp (fun g =>
    g.setV (d + k) (o.mask &&& ~~~(maskOf (fun L => o.wrote.get (4 * L + k)))) (fun L => f (o.got.get (4 * L + k))))) s

/-! ### Stores -/

/-- The bytes that a lane of a store writes. -/
def Op.laneBytes (o : Op) (h : Shape) (L : Nat) : List (Nat × Byte) :=
  (splitBytes (o.lane h.regs L) h.bytes).zipIdx.map (fun e => (o.pa.get L + e.2, e.1))

/-- A wc store enters the buffer; a full buffer flushes at once (R241). -/
def State.wcStore (s : State) (core ctx stamp grp uid launch : Nat) (line : Nat) (bs : List (Nat × Byte)) : State :=
  let s1 := (if (s.cores.get core).wc.held && (s.cores.get core).wc.line != line then s.flushWc core else s).onSplit grp uid
    (fun x => x.gather (line, none))
  let s2 := s1.onCore core (fun k => { k with wc := { k.wc with
    held := true, line := line, ctxs := if k.wc.ctxs.contains ctx then k.wc.ctxs else k.wc.ctxs ++ [ctx]
    since := if k.wc.held then k.wc.since else s.now
    bytes := putBytes k.wc.bytes (bs.map (fun e => (e.1 % 64, e.2)))
    mask := bs.foldl (fun m e => m.put (e.1 % 64) true) k.wc.mask
    owners := if k.wc.owners.contains launch then k.wc.owners else k.wc.owners ++ [launch]
    stamp := max k.wc.stamp stamp } })
  if (s2.cores.get core).wc.mask.length = 64 then s2.flushWc core else s2

/-- The acceptance of a store at its L1: private lines and the buffer take it whole; otherwise the
core's copy is updated and the store goes home (R237). Answers whether the home is still to be reached. -/
def State.acceptStore (s : State) (i : Nat) (h : Shape) : State × Bool :=
  let o := s.op i
  let core := coreOfGroup o.grp
  let ctx := s.ctxOf o.grp
  (lanesOf o.mask).foldl (fun (st : State × Bool) L =>
    let line := lineOf (o.pa.get L)
    let bs := o.laneBytes h L
    let kept (t : State) : State :=
      t.polL1 core line (decide (((st.1.cores.get core).l1.get line).st ≠ .invalid)) (polField o.instr)
    match o.cls.get L with
    | 0 => (kept (((st.1.flushWcFor core line).fillPrivate core ctx line).l1Update core line bs), st.2)
    | 3 => (st.1, true)
    | c =>
      if isWc o.instr ∧ c = 2 then
        ((st.1.l1Update core line bs).wcStore core ctx o.stamp o.grp o.uid (s.blockOf o.grp).launch line bs, st.2)
      else (kept ((st.1.flushWcFor core line).l1Update core line bs), true)) (s.takePlace i, false)

/-- R238: the durations that a home returns with a store's completion times; the reply takes them to the split. -/
def State.noteReply (s : State) (i : Nat) (t : Times) : State :=
  s.onOp i (fun x => { x with
    tDie := max x.tDie (t.die - s.now), tDevice := max x.tDevice (t.device - s.now), tSystem := max x.tSystem (t.system - s.now) })

/-- Apply a store at the homes of its lines, lane by lane in ascending order (R171, R237). -/
def State.applyStore (s : State) (i : Nat) (h : Shape) : State :=
  let o := s.op i
  let core := coreOfGroup o.grp
  (lanesOf o.mask).foldl (fun st L =>
    let bs := o.laneBytes h L
    match o.cls.get L with
    | 0 => st
    | 3 => st.regWrite bs
    | c =>
      if isWc o.instr ∧ c = 2 then st else
      let line := lineOf (o.pa.get L)
      let r := st.homeWrite line c (dieOfCore core) o.stamp bs
      (r.1.polHome line (listed st.home line) (polField o.instr)).noteReply i r.2) s

/-- R172, R242: a release at a scope: the buffer flushes, the core's update-only lines are collected,
and the split waits for their completion times like those of its own stores. -/
def State.releaseAt (s : State) (g uid scope : Nat) : State :=
  if scope = 0 then s else
  let core := coreOfGroup g
  let r := (s.flushWc core).collectCore core (fun _ => true)
  r.1.noteTimes g uid r.2

/-- R172, R188: what a FENCE.ACQ at a scope does, and an LDA that is complete: at die scope or wider the core's
update-only lines are collected; at system scope the buffer is drained, and later stores wait for the completion
times there (DEDUCED, log entry 70). -/
def State.acquireAt (s : State) (g uid scope : Nat) : State :=
  if scope = 0 then s
  else if scope = 3 then
    let t := s.releaseAt g uid 3
    t.onSplit g uid (fun x => { x with holdStores := max x.holdStores x.cSystem })
  else let r := s.collectCore (coreOfGroup g) (fun _ => true); r.1.noteTimes g uid r.2

/-- R172: an STL may be presented: earlier accesses of the split are complete and their times passed. -/
def State.stlReady (s : State) (i : Nat) : Bool :=
  let o := s.op i
  let x := s.splitOf o.grp o.uid
  x.out.all (fun e => decide (i ≤ e.op)) && decide (x.times.at (scopeOf o.instr) ≤ s.now)

/-! ### ATOM and RED -/

/-- One lane's read-modify-write (R186, R277). -/
def State.atomLane (s : State) (i : Nat) (h : Shape) (L : Nat) : State :=
  let o := s.op i
  let core := coreOfGroup o.grp
  let pa := o.pa.get L
  let line := lineOf pa
  let n := h.bytes
  let half := if h.regs * 4 = 2 * n then true else false
  let w := o.lane (n / 4) L
  let w2 := if half then (((List.range (n / 4)).map (fun k => (o.data.get (4 * L + n / 4 + k)).toNat * 2 ^ (32 * k))).sum) else 0
  if o.cls.get L = 0 then
    let s1 := (s.flushWcFor core line).fillPrivate core (s.ctxOf o.grp) line
    let l := (s1.cores.get core).l1.get line
    let old := lineElem l.bytes (pa % 64) n
    (s1.l1Update core line ((splitBytes (atomNew o.instr old w w2) n).zipIdx.map (fun e => (pa + e.2, e.1)))).onOp i
      (fun x => takeLane x n L (fun k => l.bytes.get (pa % 64 + k)))
  else
    let s1 := ((s.flushWcFor core line).recall line).collect line
    let bs := (List.range n).map (fun k => s1.byteAt (pa + k))
    let new := (splitBytes (atomNew o.instr (joinBytes bs) w w2) n).zipIdx.map (fun e => (pa + e.2, e.1))
    let r := s1.homeWrite line (o.cls.get L) (dieOfCore core) o.stamp new
    ((r.1.l1Update core line new).onOp i (fun x => takeLane x n L (fun k => bs.getD k 0))).noteReply i r.2

/-- R278: one RED lane folds into the core's L1. -/
def State.redLane (s : State) (i : Nat) (h : Shape) (L : Nat) : State :=
  let o := s.op i
  let core := coreOfGroup o.grp
  let ctx := s.ctxOf o.grp
  let pa := o.pa.get L
  let line := lineOf pa
  let n := h.bytes
  let code := redCode o.instr
  let v := o.lane h.regs L
  let s0 := s.flushWcFor core line
  if o.cls.get L = 0 then
    let s1 := s0.fillPrivate core ctx line
    let l := (s1.cores.get core).l1.get line
    s1.l1Update core line ((splitBytes (redFold code (lineElem l.bytes (pa % 64) n) v) n).zipIdx.map (fun e => (pa + e.2, e.1)))
  else
    let l0 := (s0.cores.get core).l1.get line
    let s1 := match updateOp l0 with
      | some x => if x = (code, n) then s0 else (s0.collectFrom line [core]).1
      | none => s0
    let own := (s.blockOf o.grp).launch
    let l := (s1.cores.get core).l1.get line
    let base : L1Line := if updateOp l = some (code, n) then l else { st := .updateOnly (BitVec.ofNat 4 code) n, ctx := ctx }
    let old := if base.touched.get (pa % 64) then lineElem base.bytes (pa % 64) n else redIdentity code
    (s1.onCore core (fun k => { k with l1 := k.l1.put line { base with
      bytes := setLineElem base.bytes (pa % 64) n (redFold code old v)
      touched := base.touched.put (pa % 64) true
      cls := if updateOp l = some (code, n) then max l.cls (o.cls.get L) else o.cls.get L
      owners := if base.owners.contains own then base.owners else base.owners ++ [own]
      ctxs := if base.ctxs.contains ctx then base.ctxs else base.ctxs ++ [ctx] } })).onSplit o.grp o.uid
        (fun x => x.gather (line, some (scopeOf o.instr)))

/-! ### Transactions: logged accesses (R195, R267) -/

/-- Operations in the order of their acceptance. -/
def byPlace : List (Nat × Op) → List (Nat × Op) → List (Nat × Op)
  | acc, [] => acc
  | acc, e :: es => byPlace (acc.takeWhile (fun x => decide (x.2.taken ≤ e.2.taken)) ++ e :: acc.dropWhile (fun x => decide (x.2.taken ≤ e.2.taken))) es

/-- The core's accepted stores that reach a line, and those before them, arrive at their homes (R171, R246). -/
def State.landStores (s : State) (core line : Nat) : State :=
  let all := byPlace [] ((s.coreOps core).filter (fun e => e.2.isPlain && e.2.storeLines != []))
  match (all.filter (fun e => e.2.storeLines.contains line)).getLast? with
  | none => s
  | some (_, last) => all.foldl (fun (st : State) e =>
      match shapeOf e.2.instr with
      | some h => if e.2.taken ≤ last.taken then
          ((st.applyStore e.1 h).onOp e.1 (fun x => { x with status := .accepted })).post (.storeAcceptReply e.1) else st
      | none => st) s

/-- The line of a logged load comes to the core as for any load (R234, R235): a hit, or a fill, which the home
grants at once, after the core's accepted stores; the split takes the settle time (R239). -/
def State.logLine (s : State) (g uid line : Nat) (p : BitVec 2) : State :=
  let core := coreOfGroup g
  let s0 := s.flushWcFor core line
  let l := (s0.cores.get core).l1.get line
  let was := decide (l.st ≠ .invalid)
  if s0.l1Valid l then noteSettle (s0.polL1 core line was p) g uid l.settle else
  let s1 := s0.landStores core line
  let s2 := match l.st with
    | .filling _ => s1
    | .updateOnly _ _ => s1
    | _ => s1.onCore core (fun k => { k with l1 := k.l1.put line { st := .filling s.now, ctx := s.ctxOf g } })
  let s3 := (s2.polL1 core line was p).grantFill core line (some (s.ctxOf g))
  let h := s3.homeLine line
  noteSettle s3 g uid (if s3.now < h.settle then h.settle else 0)

/-- The current value of a word as the core sees it, its line having come. -/
def State.coreWord (s : State) (core pa : Nat) : Word :=
  let l := (s.cores.get core).l1.get (lineOf pa)
  BitVec.ofNat 32 (if s.l1Valid l then lineElem l.bytes (pa % 64) 4 else s.readPa pa 4)

/-- The words a lane's access touches. -/
def wordsOf (pa n : Nat) : List Nat := (List.range ((n + 3) / 4)).map (fun k => pa / 4 * 4 + 4 * k)

/-- A write-log entry's bytes laid over a word. -/
def overlay (w : Word) (e : WriteEntry) : Word :=
  let m : Word := maskOf (fun i => e.bytes.getLsbD (i / 8))
  (w &&& ~~~m) ||| (e.data &&& m)

/-- A logged load of one word: its value, and the lane's log afterwards. A word that is partly in the write log
keeps, for the rest, the value that its first load saw: a lane never sees two values of one word (R267). -/
def TxLane.loadWord (t : TxLane) (pa : Nat) (mem : Word) : Word × TxLane :=
  match t.reads.find? (fun r => r.pa == pa && !r.isLocal), t.writes.find? (fun w => w.pa == pa) with
  | some r, none => (r.value, t)
  | some r, some w => (overlay r.value w, t)
  | none, some w =>
    match t.reads.find? (fun r => r.pa == pa) with
    | some r => (overlay r.value w, t)
    | none => (overlay mem w, { t with reads := t.reads ++ [⟨pa, overlay mem w, true⟩] })
  | none, none => (mem, { t with reads := t.reads ++ [⟨pa, mem, false⟩] })

/-- A logged store of some bytes of one word. -/
def TxLane.storeWord (t : TxLane) (pa : Nat) (data : Word) (bytes : BitVec 4) (cls : Nat) (stamp : Nat := 0) : TxLane :=
  match t.writes.find? (fun w => w.pa == pa) with
  | some w =>
    let m : Word := maskOf (fun i => bytes.getLsbD (i / 8))
    { t with writes := t.writes.map (fun x => if x.pa = pa then
        { x with data := (w.data &&& ~~~m) ||| (data &&& m), bytes := w.bytes ||| bytes, stamp := max w.stamp stamp } else x) }
  | none => { t with writes := t.writes ++ [⟨pa, data, bytes, cls, stamp⟩] }

/-- What a logged access meets: a doom code, or the physical address. -/
def State.txAddress (s : State) (g : Nat) (a : DWord) (n : Nat) (k : Access) : Except Word (Nat × Nat) × State :=
  if !canonical57 a then (.error 8, s)
  else if a.toNat % n ≠ 0 then (.error 8, s)
  else
    let r := s.lookupNow (coreOfGroup g) (s.ctxOf g) a
    match r.1 with
    | .hit e =>
      if e.cls = 0 ∨ e.cls = 3 then (.error 5, r.2)
      else if (permit e k [1, 2]).any (fun f => f != (Cause.faultP, 4)) then (.error 8, r.2)
      else (.ok (e.pa a, e.cls.toNat), r.2)
    | _ => (.error 8, r.2)

def isLogged (t : TxLane) (pa : Nat) (write : Bool) : Bool :=
  if write then t.writes.any (fun w => w.pa == pa) else t.reads.any (fun r => r.pa == pa)

/-- R267: a load of the word reads memory: it is in neither log, or only some of its bytes are stored there. -/
def TxLane.needsMemory (t : TxLane) (pa : Nat) : Bool :=
  !(t.reads.any (fun r => r.pa == pa)) && !(t.writes.any (fun w => w.pa == pa && w.bytes == 15))

/-- One lane of a logged load: the lane's words, or a doomed lane. -/
def State.txLoad (s : State) (i : Instr) (g uid L : Nat) (a : DWord) (n : Nat) : State × Option (List Word) :=
  let r := s.txAddress g a n .read
  match r.1 with
  | .error c => (r.2.onGroup g (fun k => k.doomLanes (maskOf (fun K => K == L)) c), none)
  | .ok (pa, _) =>
    let t := (r.2.group g).tx.get L
    let ws := wordsOf pa n
    if 16 < t.reads.length + (ws.filter (fun w => !isLogged t w false)).length then
      (r.2.onGroup g (fun k => k.doomLanes (maskOf (fun K => K == L)) 2), none)
    else
      let s1 := if ws.any t.needsMemory then r.2.logLine g uid (lineOf pa) (polField i) else r.2
      let out := ws.foldl (fun (st : TxLane × List Word) w =>
        let x := st.1.loadWord w (s1.coreWord (coreOfGroup g) w)
        (x.2, st.2 ++ [x.1])) (t, [])
      let vals : List Word := if n < 4 then
          out.2.map (fun (w : Word) => (w >>> (8 * (pa % 4))) &&& BitVec.ofNat 32 (2 ^ (8 * n) - 1)) else out.2
      (s1.onGroup g (fun k => { k with tx := k.tx.put L out.1 }), some vals)

/-- One lane of a logged store. -/
def State.txStore (s : State) (g L : Nat) (a : DWord) (n v : Nat) : State × Bool :=
  let r := s.txAddress g a n .write
  match r.1 with
  | .error c => (r.2.onGroup g (fun k => k.doomLanes (maskOf (fun K => K == L)) c), false)
  | .ok (pa, cls) =>
    let t := (r.2.group g).tx.get L
    let ws := wordsOf pa n
    if 8 < t.writes.length + (ws.filter (fun w => !isLogged t w true)).length then
      (r.2.onGroup g (fun k => k.doomLanes (maskOf (fun K => K == L)) 3), false)
    else
      let out := ws.zipIdx.foldl (fun (t : TxLane) w =>
        if n < 4 then t.storeWord w.1 (BitVec.ofNat 32 (v * 2 ^ (8 * (pa % 4)))) (BitVec.ofNat 4 ((2 ^ n - 1) * 2 ^ (pa % 4))) cls (s.stampFor g)
        else t.storeWord w.1 (BitVec.ofNat 32 (v / 2 ^ (32 * w.2))) 15 cls (s.stampFor g)) t
      (r.2.onGroup g (fun k => { k with tx := k.tx.put L out }), true)

/-! ### Starting an operation -/

/-- Every lane's access is translated and allowed: the operation acts. -/
def State.launchOp (s : State) (i : Nat) (h : Shape) : State :=
  let o := s.op i
  let lanes := lanesOf (o.mask &&& ~~~o.have_)
  let vl := lanes.map (fun L => (L, (o.addr.get L).toNat))
  match h.move with
  | .load =>
    let s1 := (lanes.foldl (fun st L => st.loadLane i h.bytes L) (s.onOp i (fun x => { x with status := .flying })))
    (s1.watch o.grp o.uid o.pass (o.offset + 4) o.plane false true false h.bytes vl).post (.loadDataReturn i)
  | .store =>
    -- R172: an STL is not presented to its L1 yet
    let r := if isStl o.instr then (s.onOp i (fun x => { x with status := .flying }), true)
             else (s.onOp i (fun x => { x with status := .flying })).acceptStore i h
    let s1 := r.1.watch o.grp o.uid o.pass (o.offset + 4) o.plane false false true h.bytes vl
    if r.2 then s1.post (.storeApply i) else s1.completeOp i
  | .atom =>
    ((s.onOp i (fun x => { x with status := .flying })).watch o.grp o.uid o.pass (o.offset + 4) o.plane false true true h.bytes vl).post (.atomAtHome i)
  | .red =>
    (((lanes.foldl (fun st L => st.redLane i h L) s).watch o.grp o.uid o.pass (o.offset + 4) o.plane false false true h.bytes vl).completeOp i)
  | .compress => (s.onOp i (fun x => { x with status := .flying })).post (.storeApply i)
  | .prefetch => s.completeOp i

/-- The lowest lane that fails translation, walking every page now (R167, step 3). -/
def State.firstUntranslated (s : State) (core ctx : Nat) (lanes : List (Nat × DWord)) : Option (Nat × DWord × Cause × Nat) :=
  lanes.findSome? (fun e => match (s.lookupWalked core ctx e.2).1 with
    | .fault c d => some (e.1, e.2, c, d)
    | _ => none)

/-- An operation that must wait for an older one of its core tries again. -/
def State.holdOp (s : State) (i : Nat) (m : Move) : State :=
  (s.onOp i (fun x => { x with status := .held })).post (if m = .load then .loadDataReturn i else .storeApply i)

/-- The checks of R167 from step 1 or 3 on, for an operation whose addresses are aligned. -/
def State.startOp (s : State) (i : Nat) : State :=
  let o := s.op i
  match shapeOf o.instr with
  | none => s
  | some h =>
    let core := coreOfGroup o.grp
    let ctx := s.ctxOf o.grp
    let lanes := (lanesOf (o.mask &&& ~~~o.have_)).map (fun L => (L, o.addr.get L))
    match lanes.find? (fun e => !canonical57 e.2) with
    | some e => s.faultOp i .faultT 0x20 (maskOf (fun L => lanes.any (fun x => x.1 == L && !canonical57 x.2))) e.2
    | none =>
      let looks := lanes.map (fun e => (e.1, e.2, s.lookup core ctx e.2))
      let missing := (looks.filter (fun e => decide (e.2.2 = .miss))).map (fun e => e.2.1.toNat % 2 ^ 57 / 4096)
      if missing ≠ [] then
        missing.dedup.foldl (fun st p => st.startWalk core ctx p) (s.onOp i (fun x => { x with status := .walking }))
      else
        let entries := looks.filterMap (fun e => match e.2.2 with | .hit t => some (e.1, e.2.1, t) | _ => none)
        let fails := entries.filterMap (fun e => (permit e.2.2 (accessFor h.move) (classesFor h.move h.bytes)).map (fun f => (e.1, e.2.1, f)))
        match fails with
        | f :: _ => s.faultOp i f.2.2.1 f.2.2.2 (maskOf (fun L => fails.any (fun x => x.1 == L))) f.2.1
        | [] =>
          let s1 := s.onOp i (fun x => { x with
            pa := entries.foldl (fun m e => m.put e.1 (e.2.2.pa e.2.1)) x.pa
            cls := entries.foldl (fun m e => m.put e.1 e.2.2.cls.toNat) x.cls })
          if s.unsettledStore i || (h.move = .load && s.loadBefore i) || s1.lineHeld i h.move || s1.wcHeld i then
            s1.holdOp i h.move
          else s1.launchOp i h

/-- A compress-store commits its elements from `next` on until one fails (R179). The element
addresses are at keys 0, 1, … of `addr`. -/
def State.compressFrom (s : State) (i fuel : Nat) : State :=
  match fuel with
  | 0 => s
  | f + 1 =>
    let o := s.op i
    let k := o.next
    if laneCount o.mask ≤ k then (s.onOp i (fun x => { x with status := .accepted })).post (.storeAcceptReply i) else
    let core := coreOfGroup o.grp
    let ctx := s.ctxOf o.grp
    let a := o.addr.get k
    let L := (lanesOf o.mask).getD k 0
    let hit := maskOf (fun K => K == L)
    if !canonical57 a then s.faultOp i .faultT 0x20 hit a else
    match s.lookup core ctx a with
    | .miss => (s.onOp i (fun x => { x with status := .walking })).startWalk core ctx (a.toNat % 2 ^ 57 / 4096)
    | .fault c d => s.faultOp i c d hit a
    | .hit e =>
      match permit e .write [0, 1, 2] with
      | some p => s.faultOp i p.1 p.2 hit a
      | none =>
        let pa := e.pa a
        let line := lineOf pa
        let bs := (splitBytes (o.data.get k).toNat 4).zipIdx.map (fun b => (pa + b.2, b.1))
        let step (st : State) : State := st.onOp i (fun x => { x with next := k + 1 })
        if (s.coreOps core).any (fun x => (decide (x.1 < i) || x.2.isPlain) && x.2.storeLines.contains line) then
          (s.onOp i (fun x => { x with status := .flying })).later (.storeApply i)
        else
        let s0 := s.watch o.grp o.uid o.pass (o.offset + 4) o.plane false false true 4 [(L, a.toNat)]
        if e.cls = 0 then
          (step ((((s0.flushWcFor core line).fillPrivate core ctx line).l1Update core line bs).polL1 core line
            (decide (((s0.cores.get core).l1.get line).st ≠ .invalid)) (polField o.instr))).compressFrom i f
        else if isWc o.instr ∧ e.cls = 2 then
          (step ((s0.l1Update core line bs).wcStore core ctx o.stamp o.grp o.uid (s.blockOf o.grp).launch line bs)).compressFrom i f
        else
          let r := (s0.flushWcFor core line).homeWrite line e.cls.toNat (dieOfCore core) o.stamp bs
          ((step ((r.1.polHome line (listed s0.home line) (polField o.instr)).l1Update core line bs)).noteReply i r.2).compressFrom i f

end Sys2Proof.Machine
end

