-- ==== Sys2Proof/Machine/Stash.lean ====
section
/-! DEFINITION. The stash: where an access may go (R174), the order in which it takes effect (R175), maps
and the fills that give a stash ownership of a line (R177, R243). -/

namespace Sys2Proof.Machine

/-- What a stash access is: store, bytes a lane, data register, registers a lane, sign extension. -/
structure StashShape where
  store : Bool
  bytes : Nat
  d : Nat
  regs : Nat
  signed : Bool
  deriving DecidableEq, Repr

/-- R173. -/
def stashShape (i : Instr) : Option StashShape :=
  match i with
  | .ldsSb _ d _ _ => some ⟨false, 1, d.toNat, 1, true⟩
  | .ldsZb _ d _ _ => some ⟨false, 1, d.toNat, 1, false⟩
  | .ldsSh _ d _ _ => some ⟨false, 2, d.toNat, 1, true⟩
  | .ldsZh _ d _ _ => some ⟨false, 2, d.toNat, 1, false⟩
  | .ldsW _ d _ _ => some ⟨false, 4, d.toNat, 1, false⟩
  | .ldsD _ d _ _ => some ⟨false, 8, d.toNat, 2, false⟩
  | .ldsQ _ d _ _ => some ⟨false, 16, d.toNat, 4, false⟩
  | .stsB _ d _ _ => some ⟨true, 1, d.toNat, 1, false⟩
  | .stsH _ d _ _ => some ⟨true, 2, d.toNat, 1, false⟩
  | .stsW _ d _ _ => some ⟨true, 4, d.toNat, 1, false⟩
  | .stsD _ d _ _ => some ⟨true, 8, d.toNat, 2, false⟩
  | .stsQ _ d _ _ => some ⟨true, 16, d.toNat, 4, false⟩
  | _ => none

/-- The same access as a memory shape, for what it writes to registers. -/
def StashShape.toShape (h : StashShape) : Shape :=
  ⟨if h.store then .store else .load, h.bytes, h.d, h.regs, h.signed⟩

/-! ### Placement (R174) -/

inductive Place where
  | inside | inGuard | outside
  deriving DecidableEq, Repr

/-- The allocations of a block: the launch's and SALLOC's, each rounded up to a granule. -/
def Block.regions (b : Block) : List (Nat × Nat) :=
  ((b.stash, b.stashSize) :: b.allocs).map (fun a => (a.1, granules a.2))

/-- Bytes off … off + n − 1 lie wholly in one allocation. -/
def Block.holds (b : Block) (off n : Nat) : Bool :=
  b.regions.any (fun a => decide (a.1 ≤ off ∧ off + n ≤ a.1 + a.2))

def Block.place (b : Block) (off n : Nat) : Place :=
  if b.holds off n then .inside
  else if b.regions.any (fun a => decide ((a.1 ≤ off + 256 ∧ off < a.1) ∨ (a.1 + a.2 ≤ off ∧ off < a.1 + a.2 + 256)))
  then .inGuard else .outside

/-! ### Stash bytes -/

def State.stashByte (s : State) (core off : Nat) : Byte := (s.cores.get core).stash.get off
def State.putStash (s : State) (core : Nat) (bs : List (Nat × Byte)) : State :=
  s.onCore core (fun k => { k with stash := putBytes k.stash bs })
def State.stashValue (s : State) (core off n : Nat) : Nat :=
  joinBytes ((List.range n).map (fun i => s.stashByte core (off + i)))

/-! ### Maps (R177) -/

/-- The map that holds a stash offset. -/
def Block.mapAt (b : Block) (off : Nat) : Option StashMap :=
  b.maps.find? (fun m => decide (m.stash ≤ off ∧ off < m.stash + m.length))

/-- The stash lines, inside maps, that bytes off … off + n − 1 touch. -/
def Block.linesOf (b : Block) (off n : Nat) : List Nat :=
  ((List.range ((off + n + 63) / 64 - off / 64)).map (fun i => off / 64 + i)).filter (fun l => (b.mapAt (64 * l)).isSome)

def Block.owns (b : Block) (sl : Nat) : Bool := (b.mapLines.get sl).owned

/-- Stash bytes written by the block's own accesses: mapped lines become dirty, and are seen at once by
every agent that waits for them (R192, R243). -/
def State.stashWrite (s : State) (b : Nat) (bs : List (Nat × Byte)) : State :=
  let k := s.blocks.get b
  let lines := ((bs.map (fun e => e.1 / 64)).dedup).filter k.owns
  let s1 := (s.putStash (coreOfBlock b) bs).onBlock b (fun y => { y with
    mapLines := lines.foldl (fun m l => m.upd l (fun x => { x with dirty := true })) y.mapLines })
  lines.foldl (fun (st : State) l => st.wakeSignals (lineOf (k.mapLines.get l).pa)) s1

/-- What an attempt to own a line gives. -/
inductive Own where
  | owned
  | wait
  | fault (c : Cause) (detail : Nat) (a : DWord)
  deriving DecidableEq, Repr

/-- R177, R243: the stash of a block takes ownership of a line: the page is checked, live leases are
waited for, another owner is recalled, update-only copies are collected, and the line's bytes come
in unless the whole line is about to be written (R183). -/
def State.tryOwn (s : State) (b sl : Nat) (k : Access) (fill : Bool) : State × Own :=
  let y := s.blocks.get b
  match y.mapAt (64 * sl) with
  | none => (s, .owned)
  | some m =>
    if y.owns sl then (s, .owned) else
    let core := coreOfBlock b
    let a := m.global + BitVec.ofNat 64 (64 * sl - m.stash)
    if !canonical57 a then (s, .fault .faultT 0x20 a) else
    let r := s.lookupNow core y.ctx a
    match r.1 with
    | .fault c d => (r.2, .fault c d a)
    | .miss => (r.2, .wait)
    | .hit e =>
      match permit e k [1, 2] with
      | some f => (r.2, .fault f.1 f.2 a)
      | none =>
        let pa := e.pa a
        let line := lineOf pa
        if s.now < (r.2.homeLine line).leaseMax 9 then
          -- until they end the home grants no lease on it
          (r.2.onBlock b (fun z => { z with mapLines := z.mapLines.upd sl (fun x => { x with claim := true, pa := 64 * line }) }), .wait)
        else
        -- the core's accepted stores come first: at core scope they are complete (R251)
        let s1 := (((r.2.flushWcFor core line).landStores core line).recall line).collect line
        let s2 := if fill then s1.putStash core ((List.range 64).map (fun i => (64 * sl + i, s1.mem.get (64 * line + i)))) else s1
        let t := (s2.homeLine line).settle
        let s3 := s2.onHome line (fun h => { h with owner := some (b, sl) })
        (s3.onBlock b (fun z => { z with mapLines := z.mapLines.put sl {
            owned := true, pa := 64 * line, cls := e.cls.toNat, settle := if fill && s2.now < t then t else 0 } }), .owned)

/-- R332: a line that came with an uncorrectable error does not stay in the stash. -/
def State.giveUp (s : State) (b sl : Nat) : State :=
  let ml := (s.blocks.get b).mapLines.get sl
  (s.onHome (lineOf ml.pa) (fun h => { h with owner := none })).onBlock b (fun y => { y with mapLines := y.mapLines.erase sl })

/-- What an access that owns its mapped lines itself came to. -/
inductive Piece where
  | done
  | wait
  | fault (c : Cause) (detail : Nat) (a : DWord)
  deriving DecidableEq, Repr

/-- R183, R241: the stash owns a line, or comes to own it, before a copy or a queue touches it; the write-combining
buffer that holds the line is flushed first. A line filled with an uncorrectable error does not stay. -/
def State.ownLine (s0 : State) (b sl : Nat) (k : Access) (fill : Bool) : State × Piece :=
  let s := if (s0.blocks.get b).owns sl then s0.flushWcFor (coreOfBlock b) (lineOf ((s0.blocks.get b).mapLines.get sl).pa) else s0
  match s.tryOwn b sl k fill with
  | (t, .owned) =>
    let y := t.blocks.get b
    match (if fill && !(s.blocks.get b).owns sl && y.owns sl then t.lineError (lineOf (y.mapLines.get sl).pa) else none), y.mapAt (64 * sl) with
    | some n, some m => (t.giveUp b sl, .fault .ecc n (m.global + BitVec.ofNat 64 (64 * sl - m.stash)))
    | _, _ => (t, .done)
  | (t, .wait) => (t, .wait)
  | (t, .fault c d a) => (t, .fault c d a)

/-- The same for several lines: the first that must wait or fails stops it. -/
def State.ownLines (s : State) (b : Nat) (ls : List Nat) (k : Access) (fill : Bool) : State × Piece :=
  ls.foldl (fun (r : State × Piece) l => match r.2 with | .done => r.1.ownLine b l k fill | _ => r) (s, .done)

/-- A fill comes under way, once. -/
def State.wantLine (s : State) (b sl : Nat) : State :=
  if ((s.blocks.get b).mapLines.get sl).filling.isSome then s else
  (s.onBlock b (fun y => { y with mapLines := y.mapLines.upd sl (fun x => { x with filling := some s.now }) })).post
    (.stashOwnershipFill b sl)

/-! ### LDS and STS -/

/-- The stash offset of a lane (R173). -/
def State.stashAddr (s : State) (sp : BitVec 5) (a : Reg) (L : Nat) : Nat := (s.cur.sAt sp.toNat + s.vR a L).toNat

/-- The stash accesses of a block that the stash has not performed, oldest first. -/
def State.stashQueue (s : State) (b : Nat) : List (Nat × Op) :=
  s.ops.filter (fun e => e.2.live && (s.group e.2.grp).block == b && coreOfGroup e.2.grp == coreOfBlock b
    && (stashShape e.2.instr).isSome && decide (e.2.status ≠ .accepted))

/-- The mapped lines an access touches that the stash does not own. -/
def State.stashMissing (s : State) (b : Nat) (o : Op) (n : Nat) : List Nat :=
  let k := s.blocks.get b
  ((lanesOf o.mask).flatMap (fun L => (k.linesOf (o.addr.get L).toNat n).filter (fun l => !k.owns l))).dedup

/-- R241: an access to an owned line flushes the core's write-combining buffer when that holds the line; the store
takes the line from the stash (R243), and the access waits for it again. -/
def State.stashFlush (s : State) (b : Nat) (o : Op) (n : Nat) : State :=
  let k := s.blocks.get b
  let owned := ((lanesOf o.mask).flatMap (fun L => (k.linesOf (o.addr.get L).toNat n).filter k.owns)).dedup
  owned.foldl (fun (st : State) l => st.flushWcFor (coreOfBlock b) (lineOf (k.mapLines.get l).pa)) s

/-- R174, R175: the stash performs an access: loads take their bytes (0 from a guard granule), stores
are written lane by lane (dropped in a guard granule), and the block keeps its first guard touch. -/
def State.performStash (s : State) (b i : Nat) (h : StashShape) : State :=
  let o := s.op i
  let k := s.blocks.get b
  let core := coreOfBlock b
  let lanes := (lanesOf o.mask).map (fun L => (L, (o.addr.get L).toNat))
  let inG (e : Nat × Nat) : Bool := decide (k.place e.2 h.bytes = .inGuard)
  let s0 := match lanes.find? inG with
    | some e => s.onBlock b (fun y => { y with guard := y.guard <|> some e.2 })
    | none => s
  let s1 := s0.watch o.grp o.uid o.pass (o.offset + 4) o.plane true (!h.store) h.store h.bytes (lanes.filter (fun e => !inG e))
  -- the settle times of the fills that its values came by (R239)
  let t := lanes.foldl (fun n e => (k.linesOf e.2 h.bytes).foldl (fun n l => max n (k.mapLines.get l).settle) n) 0
  if h.store then
    (lanes.foldl (fun (st : State) e => if inG e then st else
      st.stashWrite b ((splitBytes (o.lane h.regs e.1) h.bytes).zipIdx.map (fun x => (e.2 + x.2, x.1)))) s1).completeOp i
  else
    (lanes.foldl (fun (st : State) e =>
      st.onOp i (fun x => takeLane x h.bytes e.1 (fun j => if inG e then 0 else s1.stashByte core (e.2 + j))))
        (if t ≤ s.now then s1 else noteSettle s1 o.grp o.uid t)).onOp i
        (fun x => { x with status := .accepted }) |>.post (.loadDataReturn i)

/-- Perform the block's waiting accesses in order, until one needs a line that is not owned. -/
def State.stashRun (s : State) (b fuel : Nat) : State :=
  match fuel with
  | 0 => s
  | f + 1 =>
    match s.stashQueue b with
    | [] => s
    | (i, o) :: _ =>
      match stashShape o.instr with
      | none => s
      | some h =>
        if o.status ≠ .flying then s else
        let s0 := s.stashFlush b o h.bytes
        match s0.stashMissing b o h.bytes with
        | [] => (s0.performStash b i h).stashRun b f
        | ls => ls.foldl (fun (st : State) l => st.wantLine b l) s0

end Sys2Proof.Machine
end

