-- ==== Sys2Proof/Machine/Engine.lean ====
section
/-! DEFINITION. The matrix engine: what a product writes (R48, R79, R82, R90, R91, R203, R207), what
the engine accepts (R201), and the waits that its completions end (R200). -/

namespace Sys2Proof.Machine

/-- A product's operands: integer form, base dropped, B and its descriptors in the stash, tile, slots,
fragment bases, descriptor quad. -/
structure Product where
  int_ : Bool
  fresh : Bool
  fromStash : Bool
  acc : Nat
  slotA : Nat
  slotB : Nat
  baseA : Nat
  baseB : Nat
  quad : Nat
  deriving DecidableEq, Repr

def productOf (i : Instr) : Option Product :=
  match i with
  | .mma _ x y q c a b => some ⟨false, false, false, c.toNat, a.toNat, b.toNat, 16 * x.toNat, 16 * y.toNat, q.toNat⟩
  | .mmaz _ x y q c a b => some ⟨false, true, false, c.toNat, a.toNat, b.toNat, 16 * x.toNat, 16 * y.toNat, q.toNat⟩
  | .mmai _ x y q c a b => some ⟨true, false, false, c.toNat, a.toNat, b.toNat, 16 * x.toNat, 16 * y.toNat, q.toNat⟩
  | .mmaiz _ x y q c a b => some ⟨true, true, false, c.toNat, a.toNat, b.toNat, 16 * x.toNat, 16 * y.toNat, q.toNat⟩
  | .mmas _ x _ q c a b => some ⟨false, false, true, c.toNat, a.toNat, b.toNat, 16 * x.toNat, 0, q.toNat⟩
  | .mmasz _ x _ q c a b => some ⟨false, true, true, c.toNat, a.toNat, b.toNat, 16 * x.toNat, 0, q.toNat⟩
  | _ => none

/-- The key of an accumulator element. -/
def accKey (acc row col : Nat) : Nat := 1024 * acc + 32 * row + col

/-- R48: the bits of element k of width w, from a fragment's words. -/
def fragElem (word : Nat → Word) (w k : Nat) : Nat := (word (k * w / 32)).toNat / 2 ^ (k * w % 32) % 2 ^ w

/-- R83: descriptor n from the two words of a pair. -/
def descOf (word : Nat → Word) (n : Nat) : Nat := (word (n / 2)).toNat / 2 ^ (16 * (n % 2)) % 65536

/-- R90: the factor an element brings to its terms; none in a zero block. -/
def factor (slot : Word) (desc bits : Nat) : Option Num :=
  (elemTagged (slotCode slot) (desc / 256 % 4)).map (fun e =>
    Num.mul (scaleValue (slotScale slot) (desc % 256)) (e.value bits))

/-- R85: elements of one operand. -/
def productK (slotA slotB : Word) : Nat := 512 / max (container (slotCode slotA)) (container (slotCode slotB))

/-- The factors of one row or column: K of them, block by block. -/
def factors (slot : Word) (k : Nat) (word desc : Nat → Word) : List (Option Num) :=
  let w := container (slotCode slot)
  (List.range k).map (fun n => factor slot (descOf desc (n / (k / 4))) (fragElem word w n))

/-- An exact integer from a value. -/
def Num.toInt (x : Num) : Int :=
  match x with
  | .fin n m e => (if n then -1 else 1) * (m : Int) * 2 ^ e.toNat
  | _ => 0

/-- R90, R91: one accumulator element. -/
def productElem (int_ fresh : Bool) (base : Word) (xs ys : List (Option Num)) : Word :=
  let terms := (List.zip xs ys).filterMap (fun e => match e.1, e.2 with
    | some x, some y => some (Num.mul x y)
    | _, _ => none)
  if int_ then
    BitVec.ofInt 32 ((if fresh then 0 else base.toInt) + (terms.map Num.toInt).sum)
  else
    toF32 .rne (exactSum ((if fresh then [] else [f32 base]) ++ terms))

/-- R207: bytes of one column of a stash operand. -/
def stashColumn (k w : Nat) : Nat := max 4 (k * w / 8)

/-- A stash word, by offset. -/
def State.stashWord (s : State) (core off : Nat) : Word := BitVec.ofNat 32 (s.stashValue core off 4)

/-! ### Operands (R49) -/

/-- The key of an operand element of a product: B's side or A's, lane or column, element. A block descriptor
stands at 512 + its number. -/
def operandKey (b : Bool) (i k : Nat) : Nat := (if b then 32768 else 0) + 1024 * i + k

/-- The slots of a group's launch that a product names, A's and B's. -/
def State.productSlots (s : State) (g : Nat) (p : Product) : Word × Word :=
  let slots := (s.launchOf g).rec_.slots
  (slots.get p.slotA, slots.get p.slotB)

/-- An operand element or descriptor as the registers and the stash hold it now. -/
def State.operandNow (s : State) (core g : Nat) (offset : Word) (p : Product) (key : Nat) : Nat :=
  let k := s.group g
  let sl := s.productSlots g p
  let i := key % 32768 / 1024
  let n := key % 1024
  let c := stashColumn (productK sl.1 sl.2) (container (slotCode sl.2))
  let x := offset.toNat
  let word (r : Nat) : Word :=
    if key < 32768 then k.vAt (p.baseA + r) i
    else if p.fromStash then s.stashWord core (x + i * c + 4 * r) else k.vAt (p.baseB + r) i
  let desc (r : Nat) : Word :=
    if key < 32768 then k.vAt (4 * p.quad + r) i
    else if p.fromStash then s.stashWord core (x + 32 * c + 8 * i + 4 * r) else k.vAt (4 * p.quad + 2 + r) i
  if n < 512 then fragElem word (container (slotCode (if key < 32768 then sl.1 else sl.2))) n else descOf desc (n - 512)

/-- Each element and each descriptor is read once: one that the engine has read keeps that value. -/
def State.operandOf (s : State) (core : Nat) (e : EngineOp) (p : Product) (key : Nat) : Nat :=
  (e.seen.get key).getD (s.operandNow core e.grp e.offset p key)

/-- The factors of a row of A or a column of B, block by block. -/
def State.operandFactors (s : State) (core : Nat) (e : EngineOp) (p : Product) (b : Bool) (i : Nat) : List (Option Num) :=
  let sl := s.productSlots e.grp p
  let k := productK sl.1 sl.2
  (List.range k).map (fun n => factor (if b then sl.2 else sl.1)
    (s.operandOf core e p (operandKey b i (512 + n / (k / 4)))) (s.operandOf core e p (operandKey b i n)))

/-- The engine reads one element or descriptor of an instruction; it keeps the first value it read. -/
def seeOperand (seen : Store (Option Nat)) (key value : Nat) : Store (Option Nat) :=
  if (seen.get key).isSome then seen else seen.put key (some value)

/-- The keys of what a lane holds of one operand. -/
def sideKeys (k : Nat) (b : Bool) (i : Nat) : List Nat :=
  ((List.range k) ++ (List.range 4).map (fun n => 512 + n)).map (operandKey b i)

/-- The register that holds an element or a descriptor; none when the stash does. -/
def operandReg (sl : Word × Word) (p : Product) (key : Nat) : Option Nat :=
  let n := key % 1024
  let b := decide (32768 ≤ key)
  if b && p.fromStash then none
  else if n < 512 then some ((if b then p.baseB else p.baseA) + n * container (slotCode (if b then sl.2 else sl.1)) / 32)
  else some (4 * p.quad + (if b then 2 else 0) + (n - 512) / 2)

/-- R104: a register that several of the fragments and descriptors share is read once for all of them: what is read
together with an element or a descriptor. -/
def sharedKeys (sl : Word × Word) (p : Product) (key : Nat) : List Nat :=
  match operandReg sl p key with
  | none => [key]
  | some r =>
    let i := key % 32768 / 1024
    let k := productK sl.1 sl.2
    let same := (sideKeys k false i ++ sideKeys k true i).filter (fun x => operandReg sl p x == some r)
    let role (x : Nat) : Nat := 2 * (x / 32768) + x % 1024 / 512
    if same.all (fun x => role x == role key) then [key] else key :: same

/-- The engine reads elements and descriptors, each with those that share its register. -/
def State.seeKeys (s : State) (core g : Nat) (offset : Word) (p : Product) (keys : List Nat) (seen : Store (Option Nat)) : Store (Option Nat) :=
  (keys.flatMap (sharedKeys (s.productSlots g p) p)).foldl (fun m x => seeOperand m x (s.operandNow core g offset p x)) seen

/-- Everything that one row of A or one column of B still needs is read. -/
def State.seeAll (s : State) (core : Nat) (e : EngineOp) (p : Product) (b : Bool) (i : Nat) : EngineOp :=
  let sl := s.productSlots e.grp p
  { e with seen := s.seeKeys core e.grp e.offset p (sideKeys (productK sl.1 sl.2) b i) e.seen }

/-- A column that has terms: of the stash, or of a lane that exists. -/
def State.hasColumn (s : State) (g : Nat) (p : Product) (j : Nat) : Bool := p.fromStash || inMask (s.group g).exist_ j

/-! ### Execution -/

/-- R203: the engine executes what is left of a product: the elements that it has not written yet. -/
def State.execProduct (s : State) (core : Nat) (e : EngineOp) (p : Product) : State :=
  let rows := (lanesOf e.mask).map (fun i => (i, s.operandFactors core e p false i))
  let cols := (List.range 32).map (fun j => (j, if s.hasColumn e.grp p j then s.operandFactors core e p true j else []))
  s.onEngine core (fun n => { n with acc := rows.foldl (fun acc row =>
    cols.foldl (fun (acc : Store Word) col =>
      if e.did.get (32 * row.1 + col.1) then acc
      else acc.upd (accKey p.acc row.1 col.1) (fun base => productElem p.int_ p.fresh base row.2 col.2)) acc) n.acc })

/-- What a pending instruction does when the engine executes it, but for the elements it has written. -/
def State.execPending (s : State) (core : Nat) (e : EngineOp) : State :=
  match e.instr with
  | .mzero c => s.onEngine core (fun n => { n with acc := (List.range 1024).foldl (fun acc i =>
      if e.did.get i then acc else acc.put (1024 * c.toNat + i) 0) n.acc })
  | i => match productOf i with
    | some p => s.execProduct core e p
    | none => s

/-- The pending instruction writes an element: 32·row + column of a tile. -/
def EngineOp.writes (e : EngineOp) (acc i : Nat) : Bool :=
  !e.did.get i && (match e.instr with
    | .mzero c => c.toNat == acc
    | j => match productOf j with | some p => p.acc == acc && inMask e.mask (i / 32) | none => false)

/-- R209: one element takes the update of the oldest pending instruction that has still to write it. -/
def State.engineElement (s : State) (core key : Nat) : State :=
  let n := (s.cores.get core).engine
  let i := key % 1024
  match n.pending.findIdx? (fun e => e.writes (key / 1024) i) with
  | none => s
  | some k =>
    let e := n.pending.getD k default
    let set (e1 : EngineOp) (f : Word → Word) : State := s.onEngine core (fun n => { n with
      pending := n.pending.set k { e1 with did := e1.did.put i true }, acc := n.acc.upd key f })
    match productOf e.instr with
    | none => set e (fun _ => 0)
    | some p =>
      let e1 := s.seeAll core e p false (i / 32)
      let e2 := if s.hasColumn e.grp p (i % 32) then s.seeAll core e1 p true (i % 32) else e1
      set e2 (fun base => productElem p.int_ p.fresh base (s.operandFactors core e2 p false (i / 32))
        (if s.hasColumn e.grp p (i % 32) then s.operandFactors core e2 p true (i % 32) else []))

/-- The mapped stash lines of an MMAS operand. -/
def State.operandLines (s : State) (g off : Nat) (p : Product) : List Nat :=
  if !p.fromStash then [] else
  let slots := (s.launchOf g).rec_.slots
  let k := productK (slots.get p.slotA) (slots.get p.slotB)
  let n := 32 * stashColumn k (container (slotCode (slots.get p.slotB))) + 256
  (s.blockOf g).linesOf off n

/-- Those that the stash does not own. -/
def State.operandMissing (s : State) (g off : Nat) (p : Product) : List Nat :=
  (s.operandLines g off p).filter (fun l => !(s.blockOf g).owns l)

/-- R241: the engine's reads of owned lines flush the core's write-combining buffer when that holds one of them. -/
def State.operandFlush (s : State) (g off : Nat) (p : Product) : State :=
  ((s.operandLines g off p).filter (s.blockOf g).owns).foldl (fun (st : State) l =>
    st.flushWcFor (coreOfGroup g) (lineOf ((s.blockOf g).mapLines.get l).pa)) s

/-- R201, R207: the engine accepts waiting instructions in order, while fewer than four are pending. -/
def State.acceptEngine (s : State) (core fuel : Nat) : State :=
  match fuel with
  | 0 => s
  | f + 1 =>
    let n := (s.cores.get core).engine
    match n.waiting with
    | [] => s
    | i :: rest =>
      if 4 ≤ n.pending.length then s else
      let o := s.op i
      let take (s : State) (off : Word) : State :=
        let e : EngineOp := { instr := o.instr, mask := o.mask, offset := off, grp := o.grp, seen := o.seen }
        ((s.onEngine core (fun n => { n with waiting := rest, pending := n.pending ++ [e] })).completeOp i).post (.mmaComplete core)
      match productOf o.instr with
      | none =>
        if entersEngine o.instr && o.live then (take s 0).acceptEngine core f
        else (s.onEngine core (fun n => { n with waiting := rest })).acceptEngine core f
      | some p =>
        if o.status ≠ .flying then s else
        let off := (o.addr.get 0).toNat
        let t := s.operandFlush o.grp off p
        match t.operandMissing o.grp off p with
        | [] => (take t (BitVec.ofNat 32 off)).acceptEngine core f
        | ls => ls.foldl (fun (st : State) l => st.wantLine (s.group o.grp).block l) t

/-- R375: the first MWAIT that returns, or MREL whose wait ends, after compute start. -/
def State.computeEnd (s : State) (g : Nat) : State :=
  s.stampEvent g (fun p t => if p.compute.isSome then { p with computeEnd := once p.computeEnd t } else p)

/-- R200: one pending instruction of a group is complete: MWAIT and MREL count it. An MREL passes the engine
on once nothing of its group is pending: the spec does not say whether it waits for what other splits of the
group issue after it, and the model's MREL does (DESIGN CHOICE, log entry 64). -/
def State.productDone (s : State) (core g : Nat) : State :=
  s.overWaits g (fun st x w =>
    match w with
    | .products rel n =>
      let e := (st.cores.get core).engine
      if n ≤ 1 ∧ (rel = false ∨ e.owner ≠ some g ∨ (e.pending = [] ∧ e.waiting = [])) then
        let st1 := st.computeEnd g
        (if rel = true ∧ e.owner = some g then st1.releaseEngine core else st1).endWait g x.uid w
      else st.onSplit g x.uid (fun y => y.setWait w (.products rel (n - 1)))
    | _ => st)

/-- R49: the engine reads an element or a descriptor of an instruction of its owner, at any time from its issue:
the n-th of those pending and those not accepted yet. -/
def State.engineRead (s : State) (core n key : Nat) : State :=
  let e := (s.cores.get core).engine
  if n < e.pending.length then
    let x := e.pending.getD n default
    match productOf x.instr with
    | some p =>
      let y : EngineOp := { x with seen := s.seeKeys core x.grp x.offset p [key] x.seen }
      s.onEngine core (fun m => { m with pending := m.pending.set n y })
    | none => s
  else match e.waiting[n - e.pending.length]? with
    | none => s
    | some i =>
      let o := s.op i
      let off : Word := (o.addr.get 0).setWidth 32
      match productOf o.instr with
      | some p =>
        let t := s.operandFlush o.grp off.toNat p
        if !o.live || decide (o.status ≠ .flying) || !(t.operandMissing o.grp off.toNat p).isEmpty then s
        else t.onOp i (fun x => { x with seen := t.seeKeys core o.grp off p [key] x.seen })
      | none => s

/-- The group's instructions that the engine has not completed (R200). -/
def State.pendingProducts (s : State) (g : Nat) : Nat :=
  let e := (s.cores.get (coreOfGroup g)).engine
  (e.pending.filter (fun x => x.grp == g)).length + (e.waiting.filter (fun i => (s.op i).grp == g)).length

/-- The engine completes the instruction it is executing. -/
def State.engineComplete (s : State) (core : Nat) : State :=
  match (s.cores.get core).engine.pending with
  | [] => s.acceptEngine core 8
  | e :: rest =>
    let s1 := (s.execPending core e).onEngine core (fun n => { n with pending := rest })
    (s1.acceptEngine core 8).productDone core e.grp

end Sys2Proof.Machine
end

