-- ==== Sys2Proof/Machine/Commit.lean ====
section
/-! DEFINITION. The commit of a transaction's lanes at the homes (R196, R269–R272, R275). -/

namespace Sys2Proof.Machine

/-- The lines of a lane's logs: those read, local entries excluded, and those written. -/
def TxLane.lines (t : TxLane) : List Nat :=
  (((t.reads.filter (fun r => !r.isLocal)).map (fun r => lineOf r.pa)) ++ t.writes.map (fun w => lineOf w.pa)).dedup

/-- R270: the key by which lines are locked. -/
def lockKey (line : Nat) : Nat :=
  if outsidePa (64 * line) then 2 ^ 70 + line else ((homeOf line).1 * 64 + (homeOf line).2) * 2 ^ 60 + line

/-- The lines of a lane in locking order. -/
def TxLane.locked (t : TxLane) : List Nat := t.lines.mergeSort (fun a b => decide (lockKey a ≤ lockKey b))

/-- At a home: every value logged for the line still stands, and the line's stamp is below the threshold. -/
def State.linePasses (s : State) (t : TxLane) (line : Nat) : Bool :=
  t.reads.all (fun r => r.isLocal || lineOf r.pa != line || (BitVec.ofNat 32 (s.readPa r.pa 4) : Word) == r.value)
  && decide ((s.homeLine line).stamp < t.threshold)

/-- The bytes of a write entry. -/
def WriteEntry.cells (w : WriteEntry) : List (Nat × Byte) :=
  ((splitBytes w.data.toNat 4).zipIdx.filter (fun e => w.bytes.getLsbD e.2)).map (fun e => (w.pa + e.2, e.1))

/-- R269: one lane's commit: the state and the lane's status. What an STG logged while its group held the token is
stamped (R274). -/
def State.commitLane (s : State) (g uid L : Nat) : State × Word :=
  let t := (s.group g).tx.get L
  if !t.isOpen then (s, 4) else
  match t.doom with
  | some c => (s, c)
  | none =>
    let core := coreOfGroup g
    let lines := t.locked
    let s1 := lines.foldl (fun (st : State) l => ((st.flushWcFor core l).recall l).collect l) s
    let failed := lines.filter (fun l => !s1.linePasses t l)
    if failed = [] then
      (t.writes.foldl (fun (st : State) w =>
        let r := (st.cowFirst (w.pa / 4096)).homeWrite (lineOf w.pa) w.cls (dieOfCore core) w.stamp w.cells
        (r.1.l1Update core (lineOf w.pa) w.cells).noteTimes g uid r.2) s1, 0)
    else (failed.foldl (fun (st : State) l => st.l1Drop core l) s1, 1)

/-- Write a lane's TXEND results and close its transaction. -/
def State.txResult (s : State) (g L : Nat) (d : Reg) (p : BitVec 3) (st : Word) : State :=
  let m : Mask := maskOf (fun K => K == L)
  (s.onGroup g (fun k => (k.setV d.toNat m (fun _ => st)).setP p.toNat m (fun _ => st == 0))).closeTx g m

/-- The next lane of a TXEND; the split goes on after the last (R269). -/
def State.commitNext (s : State) (g uid : Nat) (d : Reg) (p : BitVec 3) (left : Mask) : State :=
  let L := lowLane left
  let r := s.commitLane g uid L
  let rest := left &&& ~~~(maskOf (fun K => K == L))
  let s1 := r.1.txResult g L d p r.2
  if rest = 0 then s1.endWait g uid (.commit d p left)
  else (s1.onSplit g uid (fun x => x.setWait (.commit d p left) (.commit d p rest))).post (.txLaneCommit g)

/-- R272: a pre-emption during a TXEND: every later lane is doomed with code 7 and applies nothing. -/
def State.commitAbandon (s : State) (g uid : Nat) (d : Reg) (p : BitVec 3) (left : Mask) : State :=
  ((lanesOf left).foldl (fun (st : State) L =>
    let t := (st.group g).tx.get L
    st.txResult g L d p (if !t.isOpen then 4 else t.doom.getD 7)) s).endWait g uid (.commit d p left)

end Sys2Proof.Machine
end

