-- ==== Sys2Proof/Machine/Saving.lean ====
section
/-! DEFINITION. Completion of issued operations (R99, R238), pre-emption (R333, R334), and restoring
(R335). A saved block is kept as plain data, and the parts of it that programs and drivers know by their bytes
also stand in the save area (R20, R334, R342). -/

namespace Sys2Proof.Machine

/-! ### Completion -/

/-- The destination of a FLONG instruction (R155), and of LAUNCH and WLTAKE (R211, R215). -/
def flongDest (i : Instr) : Option Reg :=
  match i with
  | .fdiv _ d _ _ | .fsqrt _ d _ | .frcp _ d _ | .frsq _ d _ | .fexp2 _ d _ | .flog2 _ d _ | .fsint _ d _
  | .fcost _ d _ | .ftanh _ d _ | .fsigm _ d _ | .ferf _ d _ => some d
  | .launch _ d _ => some d
  | .wltake _ d _ _ => some d
  | _ => none

/-- The scalar that counts a take (R215); its word stands at key 128. -/
def countDest (i : Instr) : Option Reg := match i with | .wltake _ _ _ b => some b | _ => none

/-- R99: the registers that a completed instruction writes: first, count, and what each word becomes. -/
def destOf (i : Instr) : Option (Nat × Nat × (Word → Word)) :=
  match shapeOf i, stashShape i, flongDest i with
  | some h, _, _ => if h.move = .load then some (h.d, h.regs, extendLoad h)
                    else if h.move = .atom then some (h.d, h.bytes / 4, id) else none
  | none, some h, _ => if h.store then none else some (h.d, h.regs, extendLoad h.toShape)
  | none, none, some d => some (d.toNat, 1, id)
  | none, none, none => none

/-- The count of a take reaches its scalar. -/
def State.writeCount (s : State) (i : Nat) : State :=
  let o := s.op i
  match countDest o.instr with
  | some b => if o.wrote.get 128 then s else s.onGroup o.grp (fun g => g.setS b.toNat (o.got.get 128))
  | none => s

/-- R101: one word of an operation's data, word k of lane L at key 4·L + k, reaches its register before the
instruction is complete; after a `last` write it is not written again. A word that an uncorrectable error
reaches does not. The count of a take has key 128. -/
def State.earlyWrite (s : State) (i key : Nat) (last : Bool) : State :=
  let o := s.op i
  let L := key / 4
  if key = 128 then
    (if o.live && decide (o.status = .accepted) then (s.writeCount i).onOp i (fun x => { x with wrote := if last then x.wrote.put 128 true else x.wrote })
     else s)
  else
  match destOf o.instr with
  | none => s
  | some (d, n, f) =>
    if !o.live || !inMask (o.mask &&& o.have_) L || decide (n ≤ key % 4) || o.wrote.get key
      || ((shapeOf o.instr).isSome && decide (o.cls.get L ≠ 3) && (s.lineError (lineOf (o.pa.get L))).isSome) then s else
    (s.onGroup o.grp (fun g => g.setV (d + key % 4) (maskOf (fun K => K == L)) (fun _ => f (o.got.get key)))).onOp i
      (fun x => { x with wrote := if last then x.wrote.put key true else x.wrote })

/-- R172, R215, R238: what the reply to an LDA, a take or an ATOM brings besides its data: the fence of an acquiring
load, a take's at device scope, and the completion times, at its scope, of what an ATOM wrote. -/
def State.noteDone (s : State) (i : Nat) : State :=
  let o := s.op i
  if isLda o.instr then s.acquireAt o.grp o.uid (scopeOf o.instr)
  else if (countDest o.instr).isSome then s.acquireAt o.grp o.uid 2
  else if ((shapeOf o.instr).map (fun h => h.move)) = some .atom ∧ o.tDie ≠ 0 then
    s.noteTimes o.grp o.uid (scopeTimes ⟨s.now + o.tDie, s.now + o.tDevice, s.now + o.tSystem⟩ (scopeOf o.instr))
  else s

/-- Write an operation's results and complete it. -/
def State.finishOp (s : State) (i : Nat) : State :=
  match destOf (s.op i).instr with
  | some (d, n, f) => (((s.writeDest i d n f).writeCount i).noteDone i).completeOp i
  | none => s.completeOp i

/-- R238: the home's reply gives the split the completion times, and the store is complete. -/
def State.acceptReply (s : State) (i : Nat) : State :=
  let o := s.op i
  (s.noteTimes o.grp o.uid ⟨s.now + o.tDie, s.now + o.tDevice, s.now + o.tSystem⟩).completeOp i

/-- What a load lane takes from memory with no lease (R231, R243). -/
def State.takeDirect (s : State) (i n L : Nat) : State :=
  let o := s.op i
  let pa := o.pa.get L
  let s1 := if o.cls.get L = 3 then s else s.collect (lineOf pa)
  noteSettle (s1.onOp i (fun x => takeLane x n L (fun k => s1.byteAt (pa + k)))) o.grp o.uid
    (if o.cls.get L = 3 then 0 else (s1.homeLine (lineOf pa)).settle)

/-- R334: an issued operation runs to its end. -/
def State.drainOp (s : State) (i : Nat) : State :=
  let o := s.op i
  match shapeOf o.instr with
  | some h =>
    -- a register access waits behind the older ones of its split that replay (R231)
    if o.status = .accepted ∧ h.move = .load then s.finishOp i
    else if o.status ≠ .flying ∨ ((lanesOf o.mask).any (fun L => o.cls.get L == 3) && s.registerBefore i) then s else
    match h.move with
    | .load => ((lanesOf (o.mask &&& ~~~o.have_)).foldl (fun (st : State) L => st.takeDirect i h.bytes L) s).finishOp i
    | .store => if isStl o.instr then s else (s.applyStore i h).acceptReply i
    | .atom => ((lanesOf (o.mask &&& ~~~o.have_)).foldl (fun (st : State) L => st.atomLane i h L) s).finishOp i
    | .compress =>
      let s1 := s.compressFrom i 33
      if laneCount o.mask ≤ (s1.op i).next then s1.acceptReply i else s1
    | _ => s
  | none => if o.status = .accepted then s.finishOp i else s

/-! ### Names of groups that are saved -/

/-- The key of a group of a saved block, which no resident group has. -/
def savedKey (turn g : Nat) : Nat := 2 ^ 20 * (turn + 1) + g

/-- New keys for old ones. -/
def renamed (m : List (Nat × Nat)) (g : Nat) : Nat := match m.find? (fun e => e.1 == g) with | some e => e.2 | none => g

/-- The stub's records and selections follow a group that is saved or restored (R145, R147). -/
def State.renameRefs (s : State) (m : List (Nat × Nat)) : State :=
  let f (e : Nat × Nat) : Nat × Nat := (renamed m e.1, e.2)
  let r (x : StubRecord) : StubRecord := { x with grp := renamed m x.grp }
  { s with
    launches := s.launches.map (fun e => (e.1, { e.2 with stubQ := e.2.stubQ.map r, stubWait := e.2.stubWait.map (fun l => l.map r) }))
    groups := s.groups.map (fun e => (e.1, { e.2 with selected := e.2.selected.map f }))
    ctxs := s.ctxs.map (fun e => (e.1, { e.2 with saved := e.2.saved.map (fun v =>
      { v with groups := v.groups.map (fun g => (g.1, { g.2 with selected := g.2.selected.map f })) }) })) }

/-- The saved block that a key belongs to, with its context. -/
def State.savedOf (s : State) (key : Nat) : Option (Nat × Saved) :=
  s.ctxs.findSome? (fun e => (e.2.saved.find? (fun v => v.turn + 1 == key / 2 ^ 20 && v.groups.any (fun g => g.1 == key % 2 ^ 20))).map
    (fun v => (e.1, v)))

/-! ### Pre-emption (R334) -/

def State.groupOps (s : State) (g : Nat) : List Nat := (s.ops.filter (fun e => e.2.live && e.2.grp == g)).map Prod.fst

/-- Issue stops: the split keeps what is left of an offset in the middle of its passes (R385). -/
def State.stopIssue (s : State) (g : Nat) : State :=
  let q := quadOfGroup g
  match (s.quads.get q).cur with
  | none => s
  | some c =>
    if c.grp ≠ g then s else
    let s1 := s.onQuad q (fun k => { k with cur := none })
    if c.fresh then s1 else s1.onSplit g c.uid (fun x => { x with rest := some c })

/-- The word of an instruction. -/
def wordOf (i : Instr) : Nat := match encode i with | some c => joinBytes c.bytes | none => 0

/-- A split goes back to a pass that has issued (R385): after the offset, or before the passes of it that have
still to issue. A word that acts once for all of them has none left but this one. The offset is not retired. -/
def State.goBack (s : State) (g uid : Nat) (offset : Word) (plane : BitVec 2) (m : Mask) (i : Instr) : State :=
  let mid := (s.quads.get (quadOfGroup g)).cur.any (fun c => c.grp == g && c.uid == uid)
  let s1 := if mid then s.stopIssue g else s.onGroup g (fun k => { k with retired := k.retired - 1 })
  let p : Pass := { plane := plane, mask := m, word := wordOf i, instr := i }
  let whole : Issue := { grp := g, uid := uid, length := 4, lanes := (s.group g).active (s.splitOf g uid).mask, names := s.nextOp }
  s1.onSplit g uid (fun x =>
    let c := x.rest.getD whole
    { x with offset := offset
             rest := some { c with passes := p :: (if c.same then [] else c.passes), same := false, first := true } })

/-- One group stops: its TXEND ends, its transactions are doomed, its operations run to their end. -/
def State.quiesceGroup (s : State) (g : Nat) : State :=
  let s1 := s.stopIssue g
  let s2 := s1.overWaits g (fun st x w =>
    match w with
    | .commit d p left => st.commitAbandon g x.uid d p left
    | _ => st)
  -- an instruction that met an uncorrectable error meets it again when it replays (R332)
  let s3 := s2.onGroup g (fun k => ({ k.doomLanes k.txOpen 7 with txSlot := false } : Group).mapSplits (fun x => { x with spoil := none }))
  (s3.groupOps g).foldl (fun (st : State) i => st.drainOp i) s3

/-- R218: the Gong goes on with its queue, and the splits of the die that found it full try again. -/
def State.wakeGong (s : State) (die : Nat) : State :=
  let q := (s.dies.get die).gong
  let s1 := if q = [] then s else s.post (.gongEntryExecute die)
  if 64 ≤ q.length then s1 else
  s1.groups.foldl (fun (st : State) e =>
    if dieOfGroup e.1 ≠ die then st else
    ((st.group e.1).waiting (fun w => decide (w = Wait.gongFull))).foldl (fun (st : State) (x : Split) => st.endWait e.1 x.uid .gongFull) st) s1

/-- What a group leaves behind: its entries in the queues of its core, its die and the module. -/
def State.forgetGroup (s : State) (g : Nat) : State :=
  let core := coreOfGroup g
  let s1 := s.onCore core (fun k => { k with txQueue := k.txQueue.filter (fun e => decide (e.1 ≠ g)) })
  let s2 := s1.onEngine core (fun n => { n with
    queue := n.queue.filter (fun x => decide (x ≠ g)), restoring := n.restoring.filter (fun x => decide (x.1 ≠ g))
    waiting := if n.owner = some g then [] else n.waiting })
  let s3 := (s2.onDie (dieOfGroup g) (fun d => { d with gong := d.gong.filter (fun e => decide (e.grp ≠ g)) })).wakeGong (dieOfGroup g)
  let ids := s3.groupOps g
  let s4 : State := { s3 with
    token := { s3.token with queue := s3.token.queue.filter (fun e => decide (e.1 ≠ g)) }
    faults := s3.faults.filter (fun f =>
      !((match f.2.op with | some i => ids.contains i | none => false)
        || (match f.2.copy with | some c => c.1 == g | none => false)
        || (match f.2.fetch with | some c => c.1 == g | none => false)))
    ops := s3.ops.filter (fun e => !ids.contains e.1)
    groups := s3.groups.erase g }
  let s5 := s4.releaseToken g
  let s6 := if (s5.cores.get core).engine.owner = some g then s5.releaseEngine core else s5
  s6.grantTxSlot core

/-- R205: the engine finishes what it is executing: its oldest instruction, and any that has written an element. -/
def State.engineFinish (s : State) (core : Nat) : State :=
  let p := (s.cores.get core).engine.pending
  let n := (p.length - (p.reverse.findIdx (fun e => !e.did.isEmpty)))
  (List.range (max n (min 1 p.length))).foldl (fun (st : State) _ => st.engineComplete core) s

/-! ### The save area (R20, R334, R342) -/

/-- The address of a group's frame: 1 MiB for each group from the save area's start (DESIGN CHOICE, log
entry 43). -/
def State.frameAddr (s : State) (ctx : Nat) (k : Group) : DWord :=
  (s.ctxs.get ctx).saveArea + BitVec.ofNat 64 (2 ^ 20 * k.frame)

/-- R20: the state code of a split's 16-byte entry, and the entry. -/
def Split.stateCode (x : Split) : Nat :=
  if x.mask = 0 then 0 else if x.stopped then 4 else if x.cond = .parked then 3 else if x.isRunnable then 1 else 2
/-- A split parked at a JOIN has the JOIN's own offset in its entry, where it resumes (R23): the offset that the table
names is that of its next instruction (DESIGN CHOICE, log entry 88). -/
def Split.entryBytes (x : Split) : List Byte :=
  if x.mask = 0 then splitBytes 0 16 else
  splitBytes x.offset.toNat 4 ++ splitBytes x.mask.toNat 4 ++ splitBytes (x.version % 16 + 256 * x.stateCode) 8

/-- The stub or the driver gives a split an offset (R146, R342): what it holds of another one goes. -/
def Split.moved (x : Split) (o : Word) : Split :=
  if o = x.offset then x else { x with offset := o, rest := none, words := [], joins := 0, toggled := false, skipCheck := false }

/-- R20: an entry read back: the split as it was, or as the driver left it; none when bits named zero are not, or
the state is none of the five. -/
def Split.ofEntry (x : Split) (bs : List Byte) : Option Split :=
  if bs = x.entryBytes then some x else
  let st := fieldAt bs 9 1
  if 4 < st ∨ 16 ≤ fieldAt bs 8 1 ∨ !zeroAt bs 10 6 then none
  else if st = 0 then some {}
  else
    let y : Split := if st = x.stateCode then x else { x with
      cond := if st = 3 then .parked else if st = 1 then .runnable else x.cond
      also := if st = 1 ∨ st = 3 then [] else x.also, taking := false, stopped := decide (st = 4) }
    some { y.moved (BitVec.ofNat 32 (fieldAt bs 0 4)) with mask := BitVec.ofNat 32 (fieldAt bs 4 4), version := fieldAt bs 8 1 }

/-- The frame of a group: its scalar registers, its predicates, depth counters, planes, split table, arm,
double-stroke state and batch number, and its spill area, in the order of R334 (DESIGN CHOICE, log entry 43). -/
def Group.frameBytes (k : Group) : List Byte :=
  (List.range 64).flatMap (fun r => splitBytes (k.sAt r).toNat 4)
  ++ (List.range 8).flatMap (fun r => splitBytes (k.p.get r).toNat 4)
  ++ (List.range 32).map k.depth.get ++ (List.range 32).map (fun L => (k.plane.get L).setWidth 8)
  ++ [0, 1, 2, 3].flatMap (fun i => (k.ent.get i).entryBytes)
  ++ splitBytes (match k.armed with | some a => a | none => 2 ^ 32 - 1) 4
  ++ splitBytes (if k.dstroke then 1 else 0) 4 ++ splitBytes k.batchNo.toNat 4 ++ splitBytes 0 340
  ++ (List.range 32).flatMap (fun i => (k.spill.getD i {}).entryBytes)

/-- The group that a frame's bytes give, unchanged where they are. -/
def Group.ofFrame (k : Group) (bs : List Byte) : Option Group :=
  if bs = k.frameBytes then some k else
  let entry (x : Split) (a : Nat) : Option Split := x.ofEntry ((bs.drop a).take 16)
  match [0, 1, 2, 3].mapM (fun i => entry (k.ent.get i) (352 + 16 * i)),
    (List.range 32).mapM (fun i => entry (k.spill.getD i {}) (768 + 16 * i)) with
  | some es, some sp => some { k with
      s := (List.range 64).foldl (fun m r => m.put r (BitVec.ofNat 32 (fieldAt bs (4 * r) 4))) k.s
      p := (List.range 8).foldl (fun m r => m.put r (BitVec.ofNat 32 (fieldAt bs (256 + 4 * r) 4))) k.p
      depth := (List.range 32).foldl (fun m L => m.put L (bs.getD (288 + L) 0)) k.depth
      plane := (List.range 32).foldl (fun m L => m.put L ((bs.getD (320 + L) 0).setWidth 2)) k.plane
      ent := es.zipIdx.foldl (fun m e => m.put e.2 e.1) k.ent
      armed := if fieldAt bs 416 4 < 16 then some (fieldAt bs 416 4) else none
      dstroke := decide (fieldAt bs 420 4 ≠ 0), batchNo := BitVec.ofNat 32 (fieldAt bs 424 4)
      spill := sp.filter (fun x => decide (x.mask ≠ 0)) }
  | _, _ => none

/-- The operand log of an instruction, 48 bytes for each lane: its address, its operands, the words it has been
given, and whether the lane acts and has them (R334; DESIGN CHOICE, log entry 43). -/
def Op.logBytes (o : Op) : List Byte :=
  (List.range 32).flatMap (fun L =>
    splitBytes (o.addr.get L).toNat 8 ++ (List.range 4).flatMap (fun j => splitBytes (o.data.get (4 * L + j)).toNat 4)
    ++ (List.range 4).flatMap (fun j => splitBytes (o.got.get (4 * L + j)).toNat 4)
    ++ splitBytes ((if inMask o.mask L then 1 else 0) + (if inMask o.have_ L then 2 else 0)) 8)

/-- An instruction with the operands that a log gives. -/
def Op.ofLog (o : Op) (bs : List Byte) : Op :=
  let words (m : Store Word) (a : Nat) : Store Word := (List.range 128).foldl (fun m k =>
    m.put k (BitVec.ofNat 32 (fieldAt bs (48 * (k / 4) + a + 4 * (k % 4)) 4))) m
  { o with
    addr := (List.range 32).foldl (fun m L => m.put L (BitVec.ofNat 64 (fieldAt bs (48 * L) 8))) o.addr
    data := words o.data 8, got := words o.got 24 }

/-- A queued or partial copy, with the words that remain of it (R334). -/
def Copy.extentBytes (c : Copy) : List Byte :=
  layBytes 64 [(0, 8, c.global.toNat), (8, 8, c.dest.toNat), (16, 4, c.stash.toNat), (20, 4, c.rows), (24, 4, c.rowBytes),
    (28, 4, c.gStride), (32, 4, c.sStride), (36, 4, c.done), (40, 4, c.rows * c.rowBytes / 4 - c.done), (44, 4, c.batch.toNat),
    (48, 4, c.id), (52, 4, c.kind.toNat)]
def Copy.ofExtent (c : Copy) (bs : List Byte) : Copy :=
  if bs = c.extentBytes then c else { c with
    global := BitVec.ofNat 64 (fieldAt bs 0 8), dest := BitVec.ofNat 64 (fieldAt bs 8 8), stash := BitVec.ofNat 32 (fieldAt bs 16 4)
    rows := fieldAt bs 20 4, rowBytes := fieldAt bs 24 4, gStride := fieldAt bs 28 4, sStride := fieldAt bs 32 4
    done := fieldAt bs 36 4 }

/-- The barriers and queues of a block: mode (all ones when it counts), counts and phases; ring states. -/
def Block.syncBytes (b : Block) : List Byte :=
  (List.range 16).flatMap (fun n => let k := b.bars.get n
    splitBytes (k.fixed.getD (2 ^ 32 - 1)) 4 ++ splitBytes k.arrived 4 ++ splitBytes k.phase.toNat 4 ++ splitBytes 0 4)
  ++ (List.range 8).flatMap (fun n => let q := b.queues.get n
    splitBytes q.base 4 ++ splitBytes q.capacity 4 ++ splitBytes q.head 4 ++ splitBytes q.count 4)
def Block.ofSync (b : Block) (bs : List Byte) : Block :=
  let w (k : Nat) : Nat := fieldAt bs (4 * k) 4
  { b with
    bars := (List.range 16).foldl (fun m n => m.put n
      { fixed := if w (4 * n) = 2 ^ 32 - 1 then none else some (w (4 * n)), arrived := w (4 * n + 1), phase := BitVec.ofNat 32 (w (4 * n + 2)) }) b.bars
    queues := (List.range 8).foldl (fun m n => m.upd n (fun q =>
      { q with base := w (64 + 4 * n), capacity := w (65 + 4 * n), head := w (66 + 4 * n), count := w (67 + 4 * n) })) b.queues }

/-- The instructions of a group of a saved block that are logged. -/
def Saved.logs (v : Saved) (g : Nat) : List (Nat × Op) := v.ops.filter (fun e => e.2.grp == g)

/-- The parts of a saved block that stand in the save area: 0 a group's frame, 1 its vector registers, 2 the
accumulator tiles of the engine's owner, 3 the block's stash, 4 a group's operand logs, 5 the block's barriers and
queues, 6 a group's copies, 7 its places in the queues. -/
def Saved.parts (v : Saved) : List (Nat × Nat) :=
  v.groups.flatMap (fun e => [(0, e.1), (1, e.1)] ++ (if v.logs e.1 = [] then [] else [(4, e.1)])
    ++ (if e.2.copies = [] then [] else [(6, e.1)]) ++ [(7, e.1)])
  ++ (match v.tiles with | some t => [(2, t.1)] | none => []) ++ [(3, (v.groups.headD (0, {})).1), (5, (v.groups.headD (0, {})).1)]

/-- A group of a saved block. -/
def Saved.grp (v : Saved) (g : Nat) : Group := ((v.groups.find? (fun e => e.1 == g)).map Prod.snd).getD {}

/-- Where a part stands. -/
def State.partAddr (s : State) (v : Saved) (p : Nat × Nat) : DWord :=
  let a := s.frameAddr v.block.ctx (v.grp p.2)
  let b := (s.ctxs.get v.block.ctx).saveArea + BitVec.ofNat 64 (2 ^ 40 + 2 ^ 20 * (v.grp p.2).frame)
  match p.1 with
  | 0 => a
  | 1 => a + 4096
  | 2 => a + 16384
  | 4 => a + 32768
  | 5 => b + 524288
  | 6 => a + 12288
  | 7 => a + 14336
  | _ => b

/-- The bytes of a part. -/
def Saved.partBytes (v : Saved) (regs : Nat) (p : Nat × Nat) : List Byte :=
  match p.1 with
  | 0 => (v.grp p.2).frameBytes
  | 1 => (List.range (32 * regs)).flatMap (fun k => splitBytes ((v.grp p.2).v.get k).toNat 4)
  | 2 => (List.range 4096).flatMap (fun k => splitBytes (match v.tiles with | some t => (t.2.1.get k).toNat | none => 0) 4)
  | 4 => (v.logs p.2).flatMap (fun e => e.2.logBytes)
  | 5 => v.block.syncBytes
  | 6 => (v.grp p.2).copies.flatMap Copy.extentBytes
  | 7 => match v.places.find? (fun e => e.1 == p.2) with
    | some e => splitBytes e.2.1 4 ++ splitBytes e.2.2 4
    | none => splitBytes 0 8
  | _ => v.block.regions.flatMap (fun r => (List.range r.2).map (fun i => v.stash.get (r.1 + i)))

/-- A saved block with a part as its bytes give it; none for a frame that R20 rejects. -/
def Saved.takePart (v : Saved) (regs : Nat) (p : Nat × Nat) (bs : List Byte) : Option Saved :=
  if bs = v.partBytes regs p then some v else
  let onGrp (f : Group → Group) : Saved := { v with groups := v.groups.map (fun e => if e.1 = p.2 then (e.1, f e.2) else e) }
  let words (n : Nat) (m : Store Word) : Store Word :=
    (List.range n).foldl (fun m i => m.put i (BitVec.ofNat 32 (fieldAt bs (4 * i) 4))) m
  let region (st : Store Byte × Nat) (r : Nat × Nat) : Store Byte × Nat :=
    ((List.range r.2).foldl (fun m i => m.put (r.1 + i) (bs.getD (st.2 + i) 0)) st.1, st.2 + r.2)
  match p.1 with
  | 0 => ((v.grp p.2).ofFrame bs).map (fun k => onGrp (fun _ => k))
  | 1 => some (onGrp (fun k => { k with v := words (32 * regs) k.v }))
  | 2 => some { v with tiles := v.tiles.map (fun t => (t.1, words 4096 t.2.1, t.2.2)) }
  | 4 =>
    let mine := (v.logs p.2).map Prod.fst
    some { v with ops := v.ops.map (fun e =>
      if e.2.grp = p.2 then (e.1, e.2.ofLog ((bs.drop (1536 * mine.findIdx (fun i => i == e.1))).take 1536)) else e) }
  | 5 => some { v with block := v.block.ofSync bs }
  | 6 => some (onGrp (fun k => { k with copies := k.copies.zipIdx.map (fun c => c.1.ofExtent ((bs.drop (64 * c.2)).take 64)) }))
  -- a restored group goes to the tails of the queues (R335)
  | 7 => some v
  | _ => some { v with stash := (v.block.regions.foldl region (v.stash, 0)).1 }

/-- R334: the parts are written to the save area, a class 1 page; one that cannot be written is kept as data
only. -/
def State.writeAreas (s : State) (v : Saved) (regs : Nat) : State × List (Nat × Nat) :=
  v.parts.foldl (fun (st : State × List (Nat × Nat)) p =>
    match st.1.agentWrite v.block.ctx (st.1.partAddr v p) (v.partBytes regs p) [1] with
    | .ok (t, _) => (t, st.2 ++ [p])
    | .error _ => st) (s, [])

/-- R342: a saved block as the save area holds it now: the driver may have written there. -/
def State.readAreas (s : State) (v : Saved) : Option Saved :=
  let regs := (s.launches.get v.block.launch).rec_.regs
  v.areas.foldlM (fun (w : Saved) p =>
    match s.agentRead v.block.ctx (s.partAddr v p) (v.partBytes regs p).length [1] with
    | .ok bs => w.takePart regs p bs
    | .error _ => some w) v

/-- R279: the lines that the reads of a saved block's parts collect. -/
def State.collectAreas (s : State) (v : Saved) : State :=
  let regs := (s.launches.get v.block.launch).rec_.regs
  v.areas.foldl (fun (st : State) p => st.hubCollect v.block.ctx (st.partAddr v p) (v.partBytes regs p).length) s

/-- R21: a group of a saved block, by its key, as the save area holds it now; with its block and context. -/
def State.savedGroup (s : State) (key : Nat) : Option (Nat × Saved × Group) :=
  (s.savedOf key).map (fun e => let v := (s.readAreas e.2).getD e.2; (e.1, v, v.grp (key % 2 ^ 20)))

/-- A saved block changes, and the parts of it that stand in the save area with it, which are read there first
(R279). -/
def State.onSaved (s0 : State) (ctx : Nat) (v : Saved) (f : Saved → Saved) : State :=
  let s := s0.collectAreas v
  let w := f ((s.readAreas v).getD v)
  let regs := (s.launches.get v.block.launch).rec_.regs
  (w.areas.foldl (fun (st : State) p =>
    match st.agentWrite ctx (st.partAddr w p) (w.partBytes regs p) [1] with
    | .ok (t, _) => t
    | .error _ => st) s).onCtx ctx (fun x => { x with saved := x.saved.map (fun u => if u.turn = v.turn then w else u) })

/-- Change every group of a saved block. -/
def Saved.onGroups (v : Saved) (f : Nat → Group → Group) : Saved := { v with groups := v.groups.map (fun e => (e.1, f e.1 e.2)) }

/-- The saved blocks of a context that a test picks change. -/
def State.onSavedBlocks (s : State) (ctx : Nat) (p : Saved → Bool) (f : Saved → Saved) : State :=
  ((s.ctxs.get ctx).saved.filter p).foldl (fun (st : State) v => st.onSaved ctx v f) s

/-- A group by its key, resident or saved, and its block. -/
def State.anyGroup (s : State) (key : Nat) : Group :=
  if key < 2 ^ 20 then s.group key else match s.savedGroup key with | some (_, _, k) => k | none => default
def State.anyBlock (s : State) (key : Nat) : Block :=
  if key < 2 ^ 20 then s.blockOf key else match s.savedOf key with | some (_, v) => v.block | none => default

/-- R279: the lines that reading a group by its key collects. -/
def State.collectSaved (s : State) (key : Nat) : State :=
  match s.savedOf key with | some (_, v) => s.collectAreas v | none => s

/-- Change a group by its key, resident or saved. -/
def State.onAnyGroup (s : State) (key : Nat) (f : Group → Group) : State :=
  if key < 2 ^ 20 then s.onGroup key f
  else match s.savedOf key with
    | some (c, v) => s.onSaved c v (fun u => u.onGroups (fun g k => if g = key % 2 ^ 20 then f k else k))
    | none => s

/-- The place of a group in a queue, counted from 1; 0 when it is not there. -/
def place1 (g : Nat) (q : List Nat) : Nat := if q.contains g then q.findIdx (fun x => x == g) + 1 else 0

/-- R380: what a pre-emption drains and writes back crosses between the clocks of a die once their relock has ended. -/
def State.afterRelock (s : State) (die : Nat) : State :=
  if s.relocking die then { s with now := ((s.dies.get die).relock).getD s.now } else s

/-- Save a block to the context's save area and free what it held. -/
def State.preemptBlock (s00 : State) (b : Nat) : State :=
  let k := s00.blocks.get b
  if !k.live then s00 else
  let core := k.core
  let s := s00.afterRelock (dieOfCore core)
  -- no group of the block takes a transaction slot that another one gives up here (R268)
  let s0 := s.onCore core (fun c => { c with txQueue := c.txQueue.filter (fun e => !k.groups.contains e.1) })
  let s1 := k.groups.foldl (fun (st : State) g => st.quiesceGroup g) s0
  let mine (g : Nat) : Bool := k.groups.contains g
  let own := (s1.cores.get core).engine.owner
  -- the engine finishes the instruction it is executing (R205)
  let s2 := match own with
    | some g => if mine g then s1.engineFinish core else s1
    | none => s1
  let s3 := (s2.dropMaps b).leaveCore core k.ctx
  let y := { s3.blocks.get b with mapLines := [], waiting := none, waited := 0 }
  let n := (s3.cores.get core).engine
  let sv : Saved :=
    { block := y
      turn := s3.nextOrder
      groups := k.groups.map (fun g => (g, s3.group g))
      stash := (s3.cores.get core).stash.filter (fun e => y.regions.any (fun a => decide (a.1 ≤ e.1 ∧ e.1 < a.1 + a.2)))
      tiles := match n.owner with
        | some g => if mine g then some (g, n.acc, n.pending.map (fun e => { e with saved := true })) else n.restoring.find? (fun x => mine x.1)
        | none => n.restoring.find? (fun x => mine x.1)
      queued := n.queue.filter (fun g => mine g && !(n.restoring.any (fun x => x.1 == g)))
      token := (match s3.token.holder with | some g => if mine g then [g] else [] | none => [])
        ++ (s3.token.queue.map Prod.fst).filter mine
      ops := s3.ops.filter (fun e => e.2.live && mine e.2.grp)
      gong := (s3.dies.get (dieOfCore core)).gong.filter (fun e => mine e.grp)
      places := k.groups.map (fun g => (g, place1 g (s.cores.get core).engine.queue, place1 g ((s.cores.get core).txQueue.map Prod.fst))) }
  let w := s3.writeAreas sv (s3.launches.get k.launch).rec_.regs
  let s4 := w.1.onCtx k.ctx (fun c => { c with saved := c.saved ++ [{ sv with areas := w.2 }] })
  let s5 := (k.groups.foldl (fun (st : State) g => st.forgetGroup g) s4).renameRefs
    (k.groups.map (fun g => (g, savedKey sv.turn g)))
  let s6 := s5.onBlock b (fun _ => {})
  { s6 with nextOrder := s6.nextOrder + 1 }

/-- The live blocks of a context on the dies that a test names. -/
def State.blocksOf (s : State) (ctx : Nat) (die : Nat → Bool) : List Nat :=
  (s.blocks.filter (fun e => e.2.live && e.2.ctx == ctx && die (dieOfCore e.2.core))).map Prod.fst

/-- The PREEMPT record of a launch (R333). DESIGN CHOICE (log entry 84): its core, die and block are 0, and its time is
that of die 0. -/
def State.preemptRecord (s : State) (l reason : Nat) : TrapRecord :=
  let x := s.launches.get l
  { launch := x.id, ctx := x.ctx, detail := BitVec.ofNat 16 reason, cause := .preempt, time := s.claveOf 0 }

/-- Pre-empt blocks; one PREEMPT record for each launch, when a reason of R333 asks for one. -/
def State.preemptBlocks (s : State) (bs : List Nat) (reason : Option Nat) : State :=
  let launches := (bs.map (fun b => (s.blocks.get b).launch)).dedup
  let s1 := bs.foldl (fun (st : State) b => st.preemptBlock b) s
  let s2 := match reason with
    | none => s1
    | some r => launches.foldl (fun (st : State) l => st.postTrap (st.launches.get l).ctx (st.preemptRecord l r)) s1
  s2.ctxs.foldl (fun (st : State) e =>
    if st.blocks.any (fun x => x.2.live && x.2.ctx == e.1) then st else st.onCtx e.1 (fun c => { c with sliceStart := none })) s2

/-- R342: the context stops: every launch is pre-empted, and it is held until the driver acts. -/
def State.stopContext (s : State) (ctx : Nat) (st : CtxState) : State :=
  ((s.preemptBlocks (s.blocksOf ctx (fun _ => true)) none).onCtx ctx (fun c => { c with st := st })).postWaiting

/-! ### Restoring (R335) -/

/-- The saved block's stash ranges are free on a core at their offsets. -/
def State.stashFree (s : State) (core : Nat) (rs : List (Nat × Nat)) : Bool :=
  (rs.foldl (fun (acc : Bool × List (Nat × Nat)) r => (acc.1 && stashFits acc.2 r.2 r.1, acc.2 ++ [r])) (true, s.coreAllocs core)).1

/-- A core that can take a saved block, and the block context: the old core first. -/
def State.restorePlace (s : State) (sv : Saved) : Option (Nat × Nat) :=
  let r := (s.launches.get sv.block.launch).rec_
  let cores := sv.block.core :: ((List.range 256).filter (fun c => r.dieMask.getLsbD (dieOfCore c)))
  cores.findSome? (fun c =>
    if (s.cores.get c).removed || (s.dies.get (dieOfCore c)).off || s.succession c
      || decide (s.freeSlots c < sv.groups.length) then none
    else if !s.stashFree c ((sv.block.stash, sv.block.stashSize) :: sv.block.allocs) then none
    else (s.freeContextBlock c).map (fun b => (c, b)))

/-- A restored split's wait is set up again. -/
def State.rearmWait (s : State) (g : Nat) (x : Split) (w : Wait) : State :=
  match w with
  | .signal a pa v _ src =>
    let s := s.collect (lineOf pa)
    let n : Word := BitVec.ofNat 32 (s.readPa pa 4)
    -- an uncorrectable error is met by the next test (R332)
    if v.toNat ≤ n.toNat ∧ (s.lineError (lineOf pa)).isNone then ((noteSettle s g x.uid (s.homeLine (lineOf pa)).settle).acquireAt g x.uid 3).endWait g x.uid w
    else (s.onSplit g x.uid (fun y => y.setWait w (.signal a pa v n src))).onHome (lineOf pa)
      (fun h => { h with watchers := h.watchers ++ [(g, x.uid)] })
  | .flush t => s.post (.completionTimePassed t)
  | .gongFull | .copyRoom | .fetch _ => s.endWait g x.uid w
  | .txSlot _ _ _ =>
    (s.onCore (coreOfGroup g) (fun k => { k with txQueue := k.txQueue ++ [(g, x.uid)] })).grantTxSlot (coreOfGroup g)
  | .token => ({ s with token := { s.token with queue := s.token.queue ++ [(g, x.uid)] } } : State).grantToken
  | _ => s

/-- The stash ranges of a restored block hold what they held, zeros too. -/
def State.putRegions (s : State) (core : Nat) (rs : List (Nat × Nat)) (bs : List (Nat × Byte)) : State :=
  (s.onCore core (fun k => { k with
    stash := k.stash.filter (fun e => !(rs.any (fun a => decide (a.1 ≤ e.1 ∧ e.1 < a.1 + a.2)))) })).putStash core bs

/-- Place a saved block on a core: groups, stash, operations and queue places return. A spilled split that was
runnable before keeps the instant from which R21 counts its 4,096 cycles: R21 and R335 do not say whether the time
it was saved counts, and it does (DESIGN CHOICE, log entry 87). -/
def State.restoreBlock (s : State) (sv : Saved) (core b : Nat) : State :=
  let placed := sv.groups.foldl (fun (st : State × List (Nat × Nat)) e =>
    let g := st.1.pickSlot core
    (st.1.onGroup g (fun _ => { e.2 with block := b, stamp := e.2.stamp.map (fun p => ({ p with moved := true } : Stamp)) }),
      st.2 ++ [(e.1, g)])) (s, [])
  let m := placed.2
  let s1 := placed.1.onBlock b (fun _ => { sv.block with
    core := core, groups := sv.block.groups.map (renamed m)
    queues := sv.block.queues.map (fun e => (e.1, { e.2 with pushes := e.2.pushes.map (fun x => (renamed m x.1, x.2)), pops := e.2.pops.map (fun x => (renamed m x.1, x.2)) })) })
  let s2 := (s1.putRegions core sv.block.regions sv.stash).renameRefs (m.map (fun e => (savedKey sv.turn e.1, e.2)))
  let s3 : State := { s2 with ops := sv.ops.foldl (fun o e => o.put e.1 { e.2 with grp := renamed m e.2.grp }) s2.ops }
  let s4 := match sv.tiles with
    | none => s3
    | some (g, acc, pend) => s3.onEngine core (fun n => { n with
        queue := n.queue ++ [renamed m g]
        restoring := n.restoring ++ [(renamed m g, acc, pend.map (fun (e : EngineOp) => ({ e with grp := renamed m e.grp } : EngineOp)))] })
  let s5 := s4.onEngine core (fun n => { n with queue := n.queue ++ sv.queued.map (renamed m) })
  -- a holder of the token, whose splits do not wait for it, asks again before it resumes (R197)
  let s6 := (sv.token.filter (fun g => (((placed.1.group (renamed m g)).waiting (fun w => decide (w = Wait.token)))).isEmpty)).foldl
    (fun (st : State) g =>
      let st1 := st.onGroup (renamed m g) (fun k => { k with tokenHold := true })
      ({ st1 with token := { st1.token with queue := st1.token.queue ++ [(renamed m g, 0)] } } : State).grantToken) s5
  let s7 := sv.gong.foldl (fun (st : State) e =>
    (st.onDie (dieOfCore core) (fun d => { d with gong := d.gong ++ [{ e with grp := renamed m e.grp }] })).post
      (.gongEntryExecute (dieOfCore core))) s6
  let s8 := m.foldl (fun (st : State) e =>
    let k := st.group e.2
    let s1 := st.overWaits e.2 (fun st x w => st.rearmWait e.2 x w)
    let s2 := k.copies.foldl (fun (st : State) c => st.post (.copyComplete e.2 c.id)) s1
    (if k.closed = [] ∧ k.batchTimes = [] then s2 else s2.post (.batchComplete e.2)).settleGroup e.2) s7
  -- no copy that the core had before is older than what a load of the block has read elsewhere (R246)
  (((s8.onCore core (fun k => { k with l1 := k.l1.filter (fun e => match e.2.st with | .leased _ => false | _ => true) })).grantEngine core)).onCtx sv.block.ctx (fun c => { c with sliceStart := some (c.sliceStart.getD s.now) })

end Sys2Proof.Machine
end

