-- ==== Sys2Proof/Machine/Ops.lean ====
section
/-! DEFINITION. The named operations of the meanings: taking a trap (R36, R102, R341, R342, R385) and
going on after one, stops for the debug stub (R144, R145, R363–R368), execution once and the lanes that
a transaction takes out (R170, R195), and making a long-latency instruction outstanding. -/

namespace Sys2Proof.Machine

/-! ### Stops for the stub -/

/-- R144: the causes that stop a split for the stub, and R342 for a group. -/
def stubCause (c : Cause) : Bool :=
  match c with
  | .brkpt | .watch | .trap | .step | .diverge => true
  | _ => false

/-- A split stops for the stub, at its offset (R364, R368): a parked one at its JOIN (DEDUCED, log entry 85). -/
def Split.stop (x : Split) : Split := { x with stopped := true, stepping := false, halting := false, skipBreak := some x.offset }

/-- Records that wait outside the stub queue enter it as room appears. -/
def Launch.refillStub (x : Launch) (fuel : Nat) : Launch :=
  match fuel with
  | 0 => x
  | f + 1 =>
    match x.stubWait with
    | [] => x
    | b :: bs => if x.stubQ.length + b.length ≤ 64 then
        ({ x with stubQ := x.stubQ ++ b, stubWait := bs } : Launch).refillStub f else x

/-- The groups of a launch's live blocks. -/
def State.launchGroups (s : State) (l : Nat) : List Nat :=
  (s.blocks.filter (fun e => e.2.live && e.2.launch == l)).flatMap (fun e => e.2.groups)

/-- R145: a DBGWAIT takes the oldest record, once the stash has performed the accesses issued before it (R175): the
record's bytes go to the stash, its split becomes the group's selected split, if its group has not ended (R147), and the
number still queued goes to the destination. Of a mapped line, which the record fills, the stash becomes the owner
without a fill (R183), as soon as the leases on it have ended; the write always succeeds, on a page that does not permit
it too (R145; DESIGN CHOICE, log entry 94). The number is that before a record that
waits outside enters the freed place: R145 does not say which (DESIGN CHOICE, log entry 67). -/
def State.takeRecord (s : State) (l g uid : Nat) (d : Reg) (off : Word) (before : Nat) : State :=
  let line := ((s.blockOf g).mapAt off.toNat).isSome
  if (s.stashQueue (s.group g).block).any (fun e => decide (e.1 < before)) || (line && !(s.blockOf g).owns (off.toNat / 64) && s.relocking (dieOfGroup g)) then s else
  match (s.launches.get l).stubQ with
  | [] => s
  | r :: rest =>
    match s.ownLines (s.group g).block (if line then [off.toNat / 64] else []) .write false with
    | (t, .wait) => t
    | (s, _) =>
    let s1 := s.onLaunch l (fun x => ({ x with stubQ := rest } : Launch).refillStub 64)
    let s2 := s1.stashWrite (s.group g).block ((trapBytes r.rec_).zipIdx.map (fun e => (off.toNat + e.2, e.1)))
    ((s2.onGroup g (fun k => { k.setS d.toNat (BitVec.ofNat 32 rest.length) with selected := if r.gone then none else some (r.grp, r.uid) }))).endWait g uid (.debug d off before)

/-- Serve the DBGWAITs of a launch while records are queued. Of several that are blocked, R145 does not say which takes
the next record: they take them in the order of their blocks and groups (DESIGN CHOICE, log entry 92). -/
def State.serveStub (s : State) (l : Nat) : State :=
  (s.launchGroups l).foldl (fun (st : State) g => st.overWaits g (fun st x w =>
    match w with
    | .debug d off before => st.takeRecord l g x.uid d off before
    | _ => st)) s

/-- Queue the records of one stop. -/
def State.queueStub (s : State) (l : Nat) (batch : List StubRecord) : State :=
  (s.onLaunch l (fun x => ({ x with stubWait := x.stubWait ++ [batch] } : Launch).refillStub 64)).serveStub l

/-- A stub takes this stop of a group's split (R144, R363). -/
def State.hasStub (s : State) (g : Nat) (c : Cause) : Bool :=
  (s.launchOf g).rec_.debug && !(s.group g).stub && stubCause c

/-! ### Taking a trap -/

/-- R342: deliver a record: the stub takes it, or it goes to the event ring and the context stops. A
split that stops keeps its wait (R368); DIVERGE stops the whole group. -/
def State.deliver (s : State) (g uid : Nat) (r : TrapRecord) : State :=
  let s0 := s.onSplit g uid (fun x => { x with trap := none })
  if s0.hasStub g r.cause then
    let s1 := if r.cause = .diverge then s0.onGroup g (fun k => k.mapSplits (fun x => if x.stopped then x else x.stop))
      else s0.onSplit g uid Split.stop
    (s1.settleGroup g).queueStub (s.blockOf g).launch [{ rec_ := r, grp := g, uid := uid }]
  else (s0.postTrap (s.ctxOf g) r).stopContext (s.ctxOf g) .stopped

/-- R102: the record is written once the older long-latency instructions are complete. -/
def State.trapSplit (s : State) (g uid : Nat) (r : TrapRecord) : State :=
  if (s.splitOf g uid).out = [] then s.deliver g uid r
  else s.onSplit g uid (fun x => { x with trap := some r })

/-- The fetch address of an offset (R110). -/
def VersionEntry.codeAddr (e : VersionEntry) (plane : Nat) (offset : Word) : DWord :=
  e.codeBase + BitVec.ofNat 64 (plane * e.stride) + offset.setWidth 64
def State.fetchAddr (s : State) (g version plane : Nat) (offset : Word) : DWord :=
  ((s.launchOf g).entries.get version).codeAddr plane offset

/-- The pass in focus traps with a record: it has no effect, and the passes after it do not issue (R385). -/
def State.trapHere (s : State) (r : TrapRecord) : State :=
  let f := s.focus
  ((s.stopIssue f.grp).onFocus (fun f => { f with trapped := true })).trapSplit f.grp f.uid r

/-- TAKING A TRAP at the pass in focus, precisely: its record is that of R341, and R342 says what follows. -/
def State.takeTrap (s : State) (c : Cause) (detail : Nat) (hit : Mask) (addr : DWord) : State :=
  let f := s.focus
  s.trapHere (s.record f.grp f.uid c detail hit addr f.offset f.lanes f.plane.toNat)

/-- The same where the spec states no detail for the cause: a free value. -/
def State.takeOpenTrap (s : State) (c : Cause) (hit : Mask) (addr : DWord) : State :=
  ({ s with free := s.free + 1 } : State).takeTrap c ((Config.freeWord s.free).toNat % 65536) hit addr

/-- An execution-time ILLOP: reason code and major (R109, R110). -/
def State.illop (s : State) (reason major : Nat) : State :=
  s.takeTrap .illop (reason * 256 + major) 0 (s.fetchAddr s.focus.grp s.focus.version s.focus.plane.toNat s.focus.offset)

/-- GOING ON AFTER A TRAP: a stopped split resumes where it stood (R147, R342, R368). -/
def Split.resumed (x : Split) (step : Bool) (now : Nat) : Split :=
  { x with stopped := false, stepping := step, halting := false, since := now }
def State.resumeSplit (s : State) (g uid : Nat) (step : Bool) : State :=
  (s.onSplit g uid (fun x => x.resumed step s.now)).settleGroup g

/-! ### Execution once, and transactions -/

/-- R170: once over the union when every pass holds the same word, otherwise pass by pass. -/
def once170 (s : State) (f : Mask → Out) : Out :=
  match s.onceMask with
  | none => .next s
  | some m => f m

/-- R195: an instruction that dooms with code 5 does not act in lanes with an open transaction. -/
def State.doom5 (s : State) (m : Mask) : State × Mask := (s.doom m 5, m &&& ~~~s.cur.txOpen)

/-- R195 for an instruction of every pass: the lanes left, or none. -/
def plainLanes (s : State) (m : Mask) (f : State → Mask → Out) : Out :=
  let r := s.doom5 m
  if r.2 = 0 then .next r.1 else f r.1 r.2

/-- The same under R170. -/
def onceLanes (s : State) (f : State → Mask → Out) : Out := once170 s (fun m => plainLanes s m f)

/-! ### Blocking -/

/-- The split in focus blocks after its offset (R18); a wait of an earlier pass stays (R170). -/
def State.block (s : State) (w : Wait) : State := s.onSplit s.focus.grp s.focus.uid (fun x => x.addWait w)

/-- The pass cannot issue yet; the split issues the offset again (R181, R218). -/
def State.stall (s : State) : State := s.onFocus (fun f => { f with stalled := true })

/-- A fault met at issue is served, and the pass issues again (R192, R329, R385). -/
def State.faultHere (s : State) (c : Cause) (detail : Nat) (hit : Mask) (a : DWord) : State :=
  let f := s.focus
  let r := s.record f.grp f.uid c detail hit a f.offset f.lanes f.plane.toNat
  ((s.block (.fetch s.nextFault)).sendFault
    { op := none, copy := none, fetch := some (f.grp, f.uid), rec_ := r, vpage := a.toNat % 2 ^ 57 / 4096, sent := false }).stall

/-! ### Making an instruction outstanding -/

/-- An operation of the pass in focus, for the lanes given. -/
def State.opHere (s : State) (i : Instr) (m : Mask) : Op :=
  { instr := i, grp := s.focus.grp, uid := s.focus.uid, mask := m, pass := s.focus.mask, plane := s.focus.plane.toNat
    offset := s.focus.offset, version := s.focus.version, stamp := s.stampFor s.focus.grp }

/-- R101: a lane's data registers, taken at issue: word k of lane L at key 4·L + k. -/
def State.takeData (s : State) (m : Mask) (d : Reg) (n : Nat) : Store Word :=
  (lanesOf m).foldl (fun acc L => (List.range n).foldl (fun (a : Store Word) k => a.put (4 * L + k) (s.cur.vAt (d.toNat + k) L)) acc) []

/-- Addresses by lane. -/
def laneStore (m : Mask) (f : Nat → DWord) : Store DWord := (lanesOf m).foldl (fun a L => a.put L (f L)) []

/-- R155: a FLONG result, computed from the operands at issue and written when it returns. -/
def longOp (s : State) (i : Instr) (la : BitVec 4) (f : Nat → Word) : Out :=
  let m := s.focus.mask
  if m = 0 then .next s else
  let got : Store Word := (lanesOf m).foldl (fun a L => a.put (4 * L) (f L)) []
  let r := s.newOp { s.opHere i m with status := .accepted, got := got, have_ := m } la.toNat
  .next (r.1.post (.loadDataReturn r.2))

/-- R375: copy-out starts with a store issued after compute end. -/
def State.stampStore (s : State) : State :=
  s.stampEvent s.focus.grp (fun p t => if p.computeEnd.isSome then { p with copyOut := once p.copyOut t } else p)

end Sys2Proof.Machine
end

