-- ==== Sys2Proof/Machine/Fetch.lean ====
section
/-! DEFINITION. Fetching an offset (R29, R35, R94, R245, R329), decoding it (R36, R109), the passes it
issues in (R31, R33, R385), and which splits are ready (R39). -/

namespace Sys2Proof.Machine

/-! ### Fetch -/

/-- What the fetch of one word gives. -/
inductive Fetched where
  | word (w : Nat)
  /-- at or beyond the plane's length (R94) -/
  | beyond
  /-- a translation waits for a free walker (R327) -/
  | later
  | fault (c : Cause) (detail : Nat) (a : DWord)
  deriving DecidableEq, Repr

/-- A 2-byte unit of code at a physical address, through the core's L1 instruction lines; of class 0, as the core's
own data line has it (R230). It is an access of its core: the buffer that holds its line is flushed first (R241). -/
def State.codeUnit (s0 : State) (core ctx cls pa : Nat) : State × Nat :=
  let line := lineOf pa
  let s := s0.flushWcFor core line
  let l := (s.cores.get core).l1i.get line
  let live := match l.st with | .leased e => decide (s.now < e) | _ => false
  let own := (s.cores.get core).l1.get line
  if live then (s, lineElem l.bytes (pa % 64) 2)
  else if cls = 0 then (s, if own.st = .priv then lineElem own.bytes (pa % 64) 2 else s.readPa pa 2)
  else
    let s1 := s.collect line
    if ((s1.home.get line).owner).isSome || s1.claimed line then (s1, s1.readPa pa 2) else
    let len := (s1.ctxs.get ctx).lease
    let cut := if outsidePa pa then (len + 1023) / 1024 else 0
    let fresh : L1Line :=
      { st := .leased (s1.now + len - cut), ctx := ctx
        bytes := putBytes [] ((List.range 64).map (fun i => (i, s1.mem.get (64 * line + i)))) }
    let s2 := (s1.onHome line (fun h => { h with lease := h.lease.upd (dieOfCore core) (fun e => max e (s1.now + len)) })).onCore core
      (fun k => { k with l1i := k.l1i.put line fresh })
    (s2, joinBytes ((List.range 2).map (fun i => s1.mem.get (pa + i))))

/-- One unit by virtual address, with the checks of a fetch; an uncorrectable error is found here (R332). An error of
none is a wait for a free walker (R327). -/
def State.fetchUnit (s : State) (core ctx : Nat) (a : DWord) : State × Except (Option (Cause × Nat)) Nat :=
  if !canonical57 a then (s, .error (some (.faultT, 0x20))) else
  let r := s.lookupNow core ctx a
  match r.1 with
  | .fault c d => (r.2, .error (some (c, d)))
  | .miss => (r.2, .error none)
  | .hit e =>
    match permit e .fetch [] with
    | some f => (r.2, .error (some f))
    | none =>
      match r.2.lineError (lineOf (e.pa a)) with
      | some n => (r.2, .error (some (.ecc, n)))
      | none =>
        let u := r.2.codeUnit core ctx e.cls.toNat (e.pa a)
        (u.1, .ok u.2)

/-- R94: the word of a plane at an offset. -/
def State.fetchWord (s : State) (g version plane : Nat) (offset : Word) : State × Fetched :=
  let e := (s.launchOf g).entries.get version
  let core := coreOfGroup g
  let ctx := s.ctxOf g
  let a := s.fetchAddr g version plane offset
  if e.length.toNat ≤ offset.toNat then (s, .beyond) else
  let lo := s.fetchUnit core ctx a
  match lo.2 with
  | .error (some f) => (lo.1, .fault f.1 f.2 a)
  | .error none => (lo.1, .later)
  | .ok w =>
    if w % 2 = 0 then (lo.1, .word w)
    else if e.length.toNat ≤ offset.toNat + 2 then (lo.1, .beyond)
    else
      let hi := lo.1.fetchUnit core ctx (a + 2)
      match hi.2 with
      | .error (some f) => (hi.1, .fault f.1 f.2 (a + 2))
      | .error none => (hi.1, .later)
      | .ok v => (hi.1, .word (w + 65536 * v))

/-- R35: the planes that hold a non-exited lane of the split. -/
def Group.planesOf (g : Group) (m : Mask) : List Nat :=
  [0, 1, 2, 3].filter (fun p => (lanesOf (m &&& ~~~g.exited)).any (fun L => (g.plane.get L).toNat == p))

/-- The lanes of a mask in a plane. -/
def Group.inPlane (g : Group) (m : Mask) (p : Nat) : Mask := m &&& maskOf (fun L => (g.plane.get L).toNat == p)

/-- Fetch the words of an offset, plane by plane. A word that the split holds is not fetched again (R331). -/
def State.fetchAll (s : State) (g version : Nat) (offset : Word) (planes : List Nat) (held : List (Nat × Nat)) :
    State × List (Nat × Fetched) :=
  planes.foldl (fun (st : State × List (Nat × Fetched)) p =>
    match held.find? (fun e => e.1 == p) with
    | some e => (st.1, st.2 ++ [(p, .word e.2)])
    | none =>
      let r := st.1.fetchWord g version p offset
      (r.1, st.2 ++ [(p, r.2)])) (s, [])

/-- R329: sequential prefetch of a plane, up to its length and to a page of class 3 or one that permits no fetch; a
fetch that fails or would wait is dropped, and none crosses a relocking clock (R380). -/
def State.fetchAhead (s : State) (g uid plane : Nat) (offset : Word) : State :=
  let x := s.splitOf g uid
  let e := (s.launchOf g).entries.get x.version
  let at_ (o : Word) : Nat := (s.fetchAddr g x.version plane o).toNat
  let first := at_ x.offset / 4096
  let limit (p : Nat) : Bool := match (s.lookupNow (coreOfGroup g) (s.ctxOf g) (BitVec.ofNat 64 (4096 * p))).1 with
    | .hit t => (permit t .fetch []).isSome || t.cls.toNat == 3
    | _ => false
  if x.mask = 0 ∨ offset.toNat < x.offset.toNat ∨ e.planes ≤ plane ∨ s.relocking (dieOfGroup g) = true
      ∨ (List.range (at_ offset / 4096 - first + 1)).any (fun i => limit (first + i)) then s
  else (s.fetchWord g x.version plane offset).1

/-! ### Decode -/

/-- The decoder on a fetched word. -/
noncomputable def decodeFetched (w : Nat) : Except DecodeError Instr :=
  match decode (bytesLE (if w % 2 = 0 then 2 else 4) w) with
  | .ok (i, _) => .ok i
  | .error e => .error e

/-- R147: the eight commands of DBGCTL share one word; s[a] tells them apart. A command above 7 keeps
the word's own constructor, which reports status 2. -/
noncomputable def refineCommand (i : Instr) (command : Reg → Word) : Instr :=
  match i with
  | .dbgctlResume d a =>
    match (command a).toNat with
    | 1 => .dbgctlStep d a | 2 => .dbgctlHalt d a | 3 => .dbgctlResumeall d a | 4 => .dbgctlBkset d a
    | 5 => .dbgctlBkclr d a | 6 => .dbgctlWset d a | 7 => .dbgctlWclr d a | _ => .dbgctlResume d a
  | i => i

def majorOf (w : Nat) : Nat := if w % 2 = 0 then 0x100 else w / 2 % 128

/-- R31: the words issued once for the whole split. -/
def structured (w : Nat) : Bool :=
  let m := majorOf w
  m == 0x40 || m == 0x41 || m == 0x42 || m == 0x43 || m == 0x44 || m == 0x45 || m == 0x4F

/-- R100. -/
def drainWord (w : Nat) : Bool :=
  let m := majorOf w
  (decide (0x40 ≤ m) && decide (m ≤ 0x4F)) || m == 0x51 || m == 0x53 || m == 0x77 || m == 0x79 || m == 0x7A || m == 0x7B || m == 0x7F

/-- R172: the instructions that access memory. -/
def memoryWord (w : Nat) : Bool :=
  let m := majorOf w
  m == 0x52 || m == 0x54 || (decide (0x60 ≤ m) && decide (m ≤ 0x78)) || m == 0x7D || m == 0x7E

/-- R188: the stores, ATOM and RED that FENCE.REL holds back. -/
def storeWord (w : Nat) : Bool :=
  let m := majorOf w
  (decide (0x67 ≤ m) && decide (m ≤ 0x6B)) || m == 0x6E || m == 0x6F || m == 0x71 || m == 0x72 || m == 0x74 || m == 0x75
    || (m == 0x54 && w / 2 ^ 26 % 64 == 5) || (m == 0x7B && w / 2 ^ 26 % 64 == 1)

def txEndWord (w : Nat) : Bool := majorOf w == 0x7B && w / 2 ^ 26 % 64 == 1

/-- R196: before TXEND forms its passes, the doomed lanes of the split whose counter is 0 are un-parked. -/
def Group.unpark (g : Group) (m : Mask) : Group :=
  { g with tx := (lanesOf m).foldl (fun (t : Store TxLane) L =>
      if g.depth.get L = 0 ∧ (t.get L).parked = true then t.upd L (fun x => { x with parked := false }) else t) g.tx }

/-- What a split is about to do at its offset. -/
inductive Plan where
  /-- the fetch of a plane's word fails; the words of the other planes that are fetched and held -/
  | fault (c : Cause) (detail : Nat) (a : DWord) (plane : Nat) (held : List (Nat × Nat))
  | bad (plane : Nat) (b : BadWord)
  /-- the fetch of a plane's word waits for a free walker (R327) -/
  | later
  /-- the passes with their words -/
  | passes (ps : List (Nat × Mask × Nat × Instr)) (length : Nat)
  deriving Repr

/-- The words that the passes of a plan issue. -/
def Plan.words (p : Plan) : List Nat := match p with | .passes ps _ => ps.map (fun e => e.2.2.1) | _ => []

/-- R31, R33, R35: the passes of an offset, from the fetched words. When the planes' words differ and one of
them is structured, the lowest fetched plane's word issues once, whatever it is; R31 does not say in which
lanes, and it acts in the active lanes of every plane (DESIGN CHOICE, log entry 66). -/
def passesOf (g : Group) (x : Split) (words : List (Nat × Nat × Instr)) : List (Nat × Mask × Nat × Instr) :=
  let active := g.active x.mask
  match words with
  | [] => []
  | e :: es =>
    if (e :: es).any (fun w => structured w.2.1) then [(e.1, active, e.2.1, e.2.2)]
    else if active = 0 then
      let p := (g.plane.get (lowLane (x.mask &&& ~~~g.exited))).toNat
      ((e :: es).filter (fun w => w.1 == p)).map (fun w => (w.1, 0, w.2.1, w.2.2))
    else (e :: es).filterMap (fun w =>
      let m := g.inPlane active w.1
      if m = 0 then none else some (w.1, m, w.2.1, w.2.2))

/-- Fetch, decode and check the next offset of a split. Of an offset that has begun, only the passes left issue,
with the words that the split holds (R331, R385). When one plane's word cannot be fetched and another's fails a check, the fetch fault comes
first: R36, R109 and R329 give no order between them (DESIGN CHOICE, log entry 65). -/
noncomputable def State.plan (s : State) (g : Nat) (x : Split) : State × Plan :=
  match x.rest with
  | some c => (s, .passes (c.passes.map (fun p => (p.plane.toNat, p.mask, p.word, p.instr))) c.length.toNat)
  | none =>
  let k := s.group g
  let r := s.launchOf g
  let f := s.fetchAll g x.version x.offset (k.planesOf x.mask) x.words
  match f.2.findSome? (fun e => match e.2 with | .fault c d a => some (e.1, c, d, a) | _ => none) with
  | some (p, c, d, a) => (f.1, .fault c d a p (f.2.filterMap (fun e => match e.2 with | .word w => some (e.1, w) | _ => none)))
  | none =>
    if f.2.any (fun e => e.2 == .later) then (f.1, .later) else
    let slot (n : Nat) : Word := r.rec_.slots.get n
    let seen := f.2.map (fun e => match e.2 with
      | .word w => (e.1, w, decodeFetched w)
      | _ => (e.1, 1, .error .truncated))
    match offsetCheck (seen.map (fun e => (e.1, e.2.1, wordCheck r.rec_.debug r.rec_.regs slot e.2.1 e.2.2))) with
    | some (p, b) => (f.1, .bad p b)
    | none =>
      let words := seen.filterMap (fun e => match e.2.2 with | .ok i => some (e.1, e.2.1, i) | .error _ => none)
      let len := match words with | e :: _ => if e.2.1 % 2 = 0 then 2 else 4 | [] => 4
      let k1 := if words.any (fun w => txEndWord w.2.1) then k.unpark x.mask else k
      (f.1, .passes (passesOf k1 x words) len)

/-! ### Readiness (R39) -/

/-- CCLK cycles of a die in Clave ns, rounded up. -/
def State.cycles (s : State) (die n : Nat) : Nat := (10 * n + (s.dies.get die).freq - 1) / max 1 (s.dies.get die).freq

/-- The holds of R39 that do not depend on the word. -/
def State.mayIssue (s : State) (g : Nat) (x : Split) : Bool :=
  let k := s.group g
  k.live && x.canRun && x.trap.isNone && x.spoil.isNone && (x.watch == [] || x.rest.isSome) && !k.tokenHold
  && decide ((s.ctxs.get (s.ctxOf g)).st = .running)
  && decide (x.holdAll ≤ s.now) && !s.relocking (dieOfGroup g)
  && (x.rest.isNone || x.out == []) && x.out.all (fun e => decide (e.left ≠ 0))

/-- R140: the quad does not choose a split that its own YIELD still holds. -/
def State.yielding (s : State) (g : Nat) (x : Split) : Bool :=
  (s.quads.get (quadOfGroup g)).yields.any (fun y => y.split == (g, x.uid) && y.left != [] && decide (s.now < y.until_))

/-- R205: matrix instructions of the group that a pre-emption saved have still to execute: it issues nothing. -/
def Engine.holds (e : Engine) (g : Nat) : Bool :=
  e.restoring.any (fun y => y.1 == g && y.2.2 != []) || (e.owner == some g && e.pending.any (fun x => x.saved))

/-- The split has an access that is not translated, an STL that is not presented, or an STGC with elements to
commit: a logged load would pass it (R171, R246). -/
def State.storeAhead (s : State) (g : Nat) (x : Split) : Bool :=
  x.out.any (fun e => let o := s.op e.op
    o.grp == g && (match shapeOf o.instr with
      | some h => decide (o.status = .walking ∨ o.status = .held ∨ o.status = .faulted)
          || (decide (o.status = .flying) && (isStl o.instr || decide (h.move = .compress)))
      | none => false))

/-- The holds of the words about to issue (R98, R100, R171, R172, R188, R205). -/
def State.wordsMayIssue (s : State) (g : Nat) (x : Split) (p : Plan) : Bool :=
  let e := (s.cores.get (coreOfGroup g)).engine
  !e.holds g && (match p with
  | .fault _ _ _ _ _ => true
  | .bad _ _ => x.acquiring == []
  | .later => false
  | .passes ps _ => (ps.map (fun e => e.2.2.1)).all (fun w =>
      (!drainWord w || x.out == []) && (!memoryWord w || (x.acquiring == [] && !((s.group g).txOpen != 0 && s.storeAhead g x)))
      && (!storeWord w || decide (x.holdStores ≤ s.now))
      && !(decide (0x7C ≤ majorOf w) && decide (majorOf w ≤ 0x7F) && e.restoring.any (fun y => y.1 == g))))

/-- R39: a split is ready; a hold by its own YIELD does not count (R140). -/
noncomputable def State.ready (s : State) (g : Nat) (x : Split) : Bool :=
  s.mayIssue g x && s.wordsMayIssue g x (s.plan g x).2

/-- The rotation of a quad: its splits by slot and entry, starting after the one that issued last. -/
def State.rotation (s : State) (q : Nat) : List (Nat × Nat) :=
  let last := (s.quads.get q).last
  let all := (List.range 64).map (fun i => (last + 1 + i) % 64)
  let live := (List.range 16).filter (fun i => (s.group (16 * q + i)).live)
  (all.filter (fun p => live.contains (p / 4))).filterMap (fun p =>
    let g := 16 * q + p / 4
    let x := (s.group g).ent.get (p % 4)
    if x.mask = 0 then none else some (g, x.uid))

/-- The first ready split of a quad in its rotation that no YIELD of its own holds. -/
noncomputable def State.choose (s : State) (q : Nat) : Option (Nat × Nat) :=
  if (s.quads.get q).cur.isSome then none
  else (s.rotation q).find? (fun e => !s.yielding e.1 (s.splitOf e.1 e.2) && s.ready e.1 (s.splitOf e.1 e.2))

/-- The quads that hold groups. -/
def State.liveQuads (s : State) : List Nat := ((s.groups.filter (fun e => e.2.live)).map (fun e => quadOfGroup e.1)).dedup

/-- The next quad, after the one that issued last, with a ready split. -/
noncomputable def State.nextIssue (s : State) : Option Nat :=
  let qs := s.liveQuads
  ((qs.filter (fun q => decide (s.lastQuad < q))) ++ (qs.filter (fun q => decide (q ≤ s.lastQuad)))).find? (fun q => (s.choose q).isSome)

end Sys2Proof.Machine
end

