-- ==== Sys2Proof/Machine/Special.lean ====
section
/-! DEFINITION. The special registers (R105, R106, R378, R380) as SREAD and the recipes of a version
transfer read them, and the lines in error tables (R332). -/

namespace Sys2Proof.Machine

/-- A core's CCLK count (R380, R141). -/
def State.cycleCount (s : State) (core : Nat) : DWord :=
  BitVec.ofNat 64 (s.refCount (dieOfCore core)) + (s.cores.get core).cycleOffset

/-- R105: a per-lane code in a lane of a group. -/
def State.laneSpecialAt (s : State) (g code L : Nat) : Word :=
  let k := s.group g
  let r := (s.launchOf g).rec_
  let fields := laneFields r (s.blockOf g).ident (32 * k.index + L)
  match code with
  | 0 => BitVec.ofNat 32 L
  | 1 => BitVec.ofNat 32 (workId r fields)
  | 2 => BitVec.ofNat 32 (workId r fields / 2 ^ 32)
  | 9 => (k.plane.get L).setWidth 32
  | 10 => (k.depth.get L).setWidth 32
  | c => BitVec.ofNat 32 (fields.getD (c - 3) 0)

/-- R105, R106: a per-group code; the HI halves give the group's capture, or the count now. -/
def State.groupSpecialAt (s : State) (g entry version code : Nat) : Word :=
  let k := s.group g
  let core := coreOfGroup g
  match code with
  | 0x100 => BitVec.ofNat 32 k.index
  | 0x101 => BitVec.ofNat 32 entry
  | 0x102 => BitVec.ofNat 32 version
  | 0x103 => (s.launchOf g).id
  | 0x104 => BitVec.ofNat 32 (core % 32)
  | 0x105 => BitVec.ofNat 32 (dieOfCore core)
  | 0x106 => loWord (s.claveOf (dieOfCore core))
  | 0x107 => hiWord (k.claveCapture.getD (s.claveOf (dieOfCore core)))
  | 0x108 => loWord (s.cycleCount core)
  | 0x109 => hiWord (k.cycleCapture.getD (s.cycleCount core))
  | 0x112 => BitVec.ofNat 32 (s.blockOf g).stash
  | c => (s.launchOf g).rec_.slots.get (c - 0x10A)

/-- R106: reading a low half keeps the count for the high half. -/
def State.captureCount (s : State) (code : Nat) : State :=
  match code with
  | 0x106 => s.onCur (fun g => { g with claveCapture := some (s.claveOf (dieOfGroup s.focus.grp)) })
  | 0x108 => s.onCur (fun g => { g with cycleCapture := some (s.cycleCount s.curCore) })
  | _ => s

end Sys2Proof.Machine
end

