-- ==== Sys2Proof/Machine/Global.lean ====
section
/-! DEFINITION. Global loads and stores, acquiring and releasing accesses, compress-stores, prefetches,
ATOM and RED (R167–R172, R178–R180, R186, R187, R195), and the events that carry them out: page walks,
fills, the homes' answers (R99, R231, R235, R237, R238, R277, R328, R332). -/

namespace Sys2Proof.Machine

/-! ### Issue -/

/-- The lanes of a list that are not aligned to a size. -/
def misaligned (n : Nat) (lanes : List (Nat × DWord)) : List (Nat × DWord) :=
  lanes.filter (fun e => decide (e.2.toNat % n ≠ 0))

/-- R167, steps 1 and 2: ALIGN when every address is canonical and some lane is misaligned. A
non-canonical address is found again when the operation starts. -/
def alignCheck (s : State) (n : Nat) (lanes : List (Nat × DWord)) (k : Out) : Out :=
  match misaligned n lanes with
  | e :: es =>
    if lanes.all (fun x => canonical57 x.2) then
      .next (s.takeOpenTrap .align (maskOf (fun L => (e :: es).any (fun x => x.1 == L))) e.2)
    else k
  | [] => k

/-- R195: one lane of a logged load takes its words for the operation that returns them (R101). -/
def State.txLoadLane (s : State) (h : Shape) (i L : Nat) (a : DWord) : State :=
  match s.txLoad (s.op i).instr s.focus.grp s.focus.uid L a h.bytes with
  | (t0, some ws) =>
    (t0.watch s.focus.grp s.focus.uid s.focus.mask s.focus.next s.focus.plane.toNat false true false h.bytes [(L, a.toNat)]).onOp i
      (fun o => { o with
        have_ := o.have_ ||| maskOf (fun K => K == L)
        got := ws.zipIdx.foldl (fun (g : Store Word) w => g.put (4 * L + w.2) w.1) o.got })
  | (t, none) => t

/-- R195: the lanes of a logged load, ascending; a lane that it dooms gets no data. -/
def State.txLoads (s : State) (i : Instr) (la : BitVec 4) (h : Shape) (m : Mask) (addr : Nat → DWord) : State :=
  if m = 0 then s else
  let r := s.newOp { s.opHere i m with status := .accepted } la.toNat
  let t := (lanesOf m).foldl (fun (st : State) L => st.txLoadLane h r.2 L (addr L)) r.1
  (t.onOp r.2 (fun o => { o with mask := o.have_ })).post (.loadDataReturn r.2)

/-- R195: the logged stores of the lanes with an open transaction, ascending. -/
def State.txStores (s : State) (h : Shape) (m : Mask) (addr : Nat → DWord) (value : Nat → Nat) : State :=
  (lanesOf m).foldl (fun (st : State) L =>
      let r := st.txStore s.focus.grp L (addr L) h.bytes (value L)
      if r.2 then r.1.watch s.focus.grp s.focus.uid s.focus.mask s.focus.next s.focus.plane.toNat false false true h.bytes [(L, (addr L).toNat)]
      else r.1) s

/-- R98, R101: the access of some lanes becomes outstanding, its operands taken now, and starts. -/
def State.begin (s : State) (i : Instr) (la : BitVec 4) (h : Shape) (m : Mask) (addr : Nat → DWord) : State :=
  let o : Op := { s.opHere i m with
    addr := laneStore m addr
    data := if h.move = .load then [] else s.takeData m (BitVec.ofNat 6 h.d) h.regs }
  let r := s.newOp o la.toNat
  r.1.startOp r.2

/-- R167, steps 1, 3 and 4, for the lanes of an access whose other lanes have open transactions: what fails
first, with the lanes that fail it. -/
def State.laneFault (s : State) (h : Shape) (lanes : List (Nat × DWord)) : Option (Cause × Nat × Mask × DWord) :=
  let look (e : Nat × DWord) : Look := (s.lookupNow s.curCore (s.ctxOf s.focus.grp) e.2).1
  let missing (e : Nat × DWord) : Option (Cause × Nat) := match look e with | .fault c d => some (c, d) | _ => none
  let denied (e : Nat × DWord) : Option (Cause × Nat) :=
    match look e with | .hit t => permit t (accessFor h.move) (classesFor h.move h.bytes) | _ => none
  let first (f : Nat × DWord → Option (Cause × Nat)) : Option (Cause × Nat × Mask × DWord) :=
    lanes.findSome? (fun e => (f e).map (fun c => (c.1, c.2, maskOf (fun L => lanes.any (fun x => x.1 == L && (f x).isSome)), e.2)))
  first (fun e => if canonical57 e.2 then none else some (.faultT, 0x20)) <|> first missing <|> first denied

/-- R4, R327: some address of a pass waits for a free walker. -/
def State.walkerWait (s : State) (as : List DWord) : Bool :=
  s.walkersBusy (dieOfCore s.curCore)
    && as.any (fun a => canonical57 a && s.lookup s.curCore (s.ctxOf s.focus.grp) a = .miss)

/-- R332: the lanes of a logged load whose lines hold an uncorrectable error: lane, address, source. -/
def State.txErrors (s : State) (h : Shape) (lanes : List (Nat × DWord)) : List (Nat × DWord × Nat) :=
  if h.move ≠ .load then [] else
  lanes.filterMap (fun e => match (s.txAddress s.focus.grp e.2 h.bytes .read).1 with
    | .ok (pa, _) =>
      let t := s.cur.tx.get e.1
      let ws := wordsOf pa h.bytes
      let new := (ws.filter (fun w => !isLogged t w false)).length
      -- a word already logged is not read again, and a load that overflows the log does nothing (R267)
      if !ws.any t.needsMemory || decide (16 < t.reads.length + new) then none else (s.lineError (lineOf pa)).map (fun k => (e.1, e.2, k))
    | .error _ => none)

/-- LDG and STG (R171, R195). Where some lanes have open transactions, the others are checked before any lane
acts (R167); a fault of theirs is served before the pass issues (DEDUCED, log entry 71). -/
def plainAccess (i : Instr) (la : BitVec 4) (addr : State → Nat → DWord) (s : State) : Out :=
  match shapeOf i with
  | none => .next s
  | some h =>
    if s.focus.mask = 0 then .next s else
    let tx := s.focus.mask &&& s.cur.txOpen
    let m := s.focus.mask &&& ~~~s.cur.txOpen
    alignCheck s h.bytes ((lanesOf m).map (fun L => (L, addr s L)))
      (if tx ≠ 0 ∧ s.walkerWait ((lanesOf s.focus.mask).map (addr s)) = true then .next s.stall else
       match (if tx = 0 then none else s.laneFault h ((lanesOf m).map (fun L => (L, addr s L)))),
             s.txErrors h ((lanesOf tx).map (fun L => (L, addr s L))) with
       | some f, _ => .next (s.faultHere f.1 f.2.1 f.2.2.1 f.2.2.2)
       | none, e :: es => .next (s.takeTrap .ecc e.2.2 (maskOf (fun L => (e :: es).any (fun x => x.1 == L))) e.2.1)
       | none, [] =>
       let data := s.takeData tx (BitVec.ofNat 6 h.d) h.regs
       let s1 := if h.move = .load then s.txLoads i la h tx (addr s)
                 else s.txStores h tx (addr s) (fun L => ({ data := data } : Op).lane h.regs L)
       let s2 := if h.move = .store then s1.stampStore else s1
       .next (if m = 0 then s2 else s2.begin i la h m (addr s)))

/-- LDA, STL, ATOM and RED: no access in lanes with an open transaction (R172, R186, R187, R195). -/
def strongAccess (i : Instr) (la : BitVec 4) (addr : State → Nat → DWord) (s : State) : Out :=
  match shapeOf i with
  | none => .next s
  | some h =>
    plainLanes s s.focus.mask (fun t m =>
      alignCheck t h.bytes ((lanesOf m).map (fun L => (L, addr t L)))
        (let n := t.nextOp
         let t1 := if isStl i then t.stampStore else t
         let t2 := t1.begin i la h m (addr t)
         .next (if isLda i then t2.onSplit t.focus.grp t.focus.uid (fun x => { x with acquiring := x.acquiring ++ [n] }) else t2)))

/-- The addresses and the data of an STGC's elements (R178). -/
def compressElems (s : State) (d : Reg) (m : Mask) (base : DWord) : Store DWord × Store Word :=
  (lanesOf m).zipIdx.foldl (fun (acc : Store DWord × Store Word) e =>
    (acc.1.put e.2 (base + BitVec.ofNat 64 (4 * e.2)), acc.2.put e.2 (s.vR d e.1))) ([], [])

/-- STGC (R178, R179). -/
def compressAccess (i : Instr) (la : BitVec 4) (d : Reg) (addr : State → Nat → DWord) (s : State) : Out :=
  plainLanes s s.focus.mask (fun t m =>
    let L := lowLane m
    alignCheck t 4 [(L, addr t L)]
      (let e := compressElems t d m (addr t L)
       let r := t.stampStore.newOp { t.opHere i m with addr := e.1, data := e.2 } la.toNat
       .next (r.1.post (.storeApply r.2))))

/-- R180: one lane's request; one that fails a check is dropped. -/
def State.prefetchLane (s : State) (p : BitVec 2) (a : DWord) : State :=
  let core := s.curCore
  let ctx := s.ctxOf s.focus.grp
  if !canonical57 a then s else
  let r := s.lookupNow core ctx a
  match r.1 with
  | .hit e =>
    if (permit e .read [0, 1, 2]).isSome then s else
    let line := lineOf (e.pa a)
    let t := r.2.flushWcFor core line
    let l := (t.cores.get core).l1.get line
    let kept (st : State) : State := st.polL1 core line (decide (l.st ≠ .invalid)) p
    if e.cls = 0 then kept (t.fillPrivate core ctx line)
    else
      match l.st with
      | .filling _ => kept t
      | .updateOnly _ _ => kept t
      | _ =>
        if t.l1Valid l then kept t
        else (kept (t.onCore core (fun k => { k with l1 := k.l1.put line { st := .filling s.now, ctx := ctx } }))).post (.fillGrant core line)
  | _ => s

/-- PFG (R180): ignored in an open transaction; it issues again when its requests wait for a walker. -/
def prefetchAccess (p : BitVec 2) (addr : State → Nat → DWord) (s : State) : Out :=
  let lanes := lanesOf (s.focus.mask &&& ~~~s.cur.txOpen)
  .next (if s.walkerWait (lanes.map (addr s)) then s.stall else lanes.foldl (fun (st : State) L => st.prefetchLane p (addr s L)) s)

/-! ### The instructions -/

/-- LDG_SB, R171. -/
def execLdgSb (la : BitVec 4) (d : Reg) (a : Reg) (sp : BitVec 5) (m : Bool) (p : BitVec 2) (s : State) : Out :=
  plainAccess (.ldgSb la d a sp m p) la (fun s L => s.addrM sp m a L) s

/-- LDG_ZB, R171. -/
def execLdgZb (la : BitVec 4) (d : Reg) (a : Reg) (sp : BitVec 5) (m : Bool) (p : BitVec 2) (s : State) : Out :=
  plainAccess (.ldgZb la d a sp m p) la (fun s L => s.addrM sp m a L) s

/-- LDG_SH, R171. -/
def execLdgSh (la : BitVec 4) (d : Reg) (a : Reg) (sp : BitVec 5) (m : Bool) (p : BitVec 2) (s : State) : Out :=
  plainAccess (.ldgSh la d a sp m p) la (fun s L => s.addrM sp m a L) s

/-- LDG_ZH, R171. -/
def execLdgZh (la : BitVec 4) (d : Reg) (a : Reg) (sp : BitVec 5) (m : Bool) (p : BitVec 2) (s : State) : Out :=
  plainAccess (.ldgZh la d a sp m p) la (fun s L => s.addrM sp m a L) s

/-- LDG_W, R171. -/
def execLdgW (la : BitVec 4) (d : Reg) (a : Reg) (sp : BitVec 5) (m : Bool) (p : BitVec 2) (s : State) : Out :=
  plainAccess (.ldgW la d a sp m p) la (fun s L => s.addrM sp m a L) s

/-- LDG_D, R171. -/
def execLdgD (la : BitVec 4) (d : Reg) (a : Reg) (sp : BitVec 5) (m : Bool) (p : BitVec 2) (s : State) : Out :=
  plainAccess (.ldgD la d a sp m p) la (fun s L => s.addrM sp m a L) s

/-- LDG_Q, R171. -/
def execLdgQ (la : BitVec 4) (d : Reg) (a : Reg) (sp : BitVec 5) (m : Bool) (p : BitVec 2) (s : State) : Out :=
  plainAccess (.ldgQ la d a sp m p) la (fun s L => s.addrM sp m a L) s

/-- STG_B, R171. -/
def execStgB (la : BitVec 4) (d : Reg) (a : Reg) (sp : BitVec 5) (m : Bool) (p : BitVec 2) (s : State) : Out :=
  plainAccess (.stgB la d a sp m p) la (fun s L => s.addrM sp m a L) s

/-- STG_H, R171. -/
def execStgH (la : BitVec 4) (d : Reg) (a : Reg) (sp : BitVec 5) (m : Bool) (p : BitVec 2) (s : State) : Out :=
  plainAccess (.stgH la d a sp m p) la (fun s L => s.addrM sp m a L) s

/-- STG_W, R171. -/
def execStgW (la : BitVec 4) (d : Reg) (a : Reg) (sp : BitVec 5) (m : Bool) (p : BitVec 2) (s : State) : Out :=
  plainAccess (.stgW la d a sp m p) la (fun s L => s.addrM sp m a L) s

/-- STG_D, R171. -/
def execStgD (la : BitVec 4) (d : Reg) (a : Reg) (sp : BitVec 5) (m : Bool) (p : BitVec 2) (s : State) : Out :=
  plainAccess (.stgD la d a sp m p) la (fun s L => s.addrM sp m a L) s

/-- STG_Q, R171. -/
def execStgQ (la : BitVec 4) (d : Reg) (a : Reg) (sp : BitVec 5) (m : Bool) (p : BitVec 2) (s : State) : Out :=
  plainAccess (.stgQ la d a sp m p) la (fun s L => s.addrM sp m a L) s

/-- LDA_W, R172. -/
def execLdaW (la : BitVec 4) (d : Reg) (a : Reg) (sp : BitVec 5) (m : Bool) (c : BitVec 2) (s : State) : Out :=
  strongAccess (.ldaW la d a sp m c) la (fun s L => s.addrM sp m a L) s

/-- LDA_D, R172. -/
def execLdaD (la : BitVec 4) (d : Reg) (a : Reg) (sp : BitVec 5) (m : Bool) (c : BitVec 2) (s : State) : Out :=
  strongAccess (.ldaD la d a sp m c) la (fun s L => s.addrM sp m a L) s

/-- STL_W, R172. -/
def execStlW (la : BitVec 4) (d : Reg) (a : Reg) (sp : BitVec 5) (m : Bool) (c : BitVec 2) (s : State) : Out :=
  strongAccess (.stlW la d a sp m c) la (fun s L => s.addrM sp m a L) s

/-- STL_D, R172. -/
def execStlD (la : BitVec 4) (d : Reg) (a : Reg) (sp : BitVec 5) (m : Bool) (c : BitVec 2) (s : State) : Out :=
  strongAccess (.stlD la d a sp m c) la (fun s L => s.addrM sp m a L) s

/-- STGC, R178. -/
def execStgc (la : BitVec 4) (d : Reg) (a : Reg) (sp : BitVec 5) (m : Bool) (p : BitVec 2) (s : State) : Out :=
  compressAccess (.stgc la d a sp m p) la d (fun s L => s.addrM sp m a L) s

/-- PFG, R180. -/
def execPfg (_ : BitVec 4) (a : Reg) (sp : BitVec 5) (m : Bool) (p : BitVec 2) (s : State) : Out :=
  prefetchAccess p (fun s L => s.addrM sp m a L) s

/-- ATOM_ADD, R186. -/
def execAtomAdd (la : BitVec 4) (d : Reg) (a : Reg) (c : BitVec 2) (s : State) : Out :=
  strongAccess (.atomAdd la d a c) la (fun s L => s.vP a L) s

/-- ATOM_AND, R186. -/
def execAtomAnd (la : BitVec 4) (d : Reg) (a : Reg) (c : BitVec 2) (s : State) : Out :=
  strongAccess (.atomAnd la d a c) la (fun s L => s.vP a L) s

/-- ATOM_OR, R186. -/
def execAtomOr (la : BitVec 4) (d : Reg) (a : Reg) (c : BitVec 2) (s : State) : Out :=
  strongAccess (.atomOr la d a c) la (fun s L => s.vP a L) s

/-- ATOM_XOR, R186. -/
def execAtomXor (la : BitVec 4) (d : Reg) (a : Reg) (c : BitVec 2) (s : State) : Out :=
  strongAccess (.atomXor la d a c) la (fun s L => s.vP a L) s

/-- ATOM_MIN, R186. -/
def execAtomMin (la : BitVec 4) (d : Reg) (a : Reg) (c : BitVec 2) (s : State) : Out :=
  strongAccess (.atomMin la d a c) la (fun s L => s.vP a L) s

/-- ATOM_MAX, R186. -/
def execAtomMax (la : BitVec 4) (d : Reg) (a : Reg) (c : BitVec 2) (s : State) : Out :=
  strongAccess (.atomMax la d a c) la (fun s L => s.vP a L) s

/-- ATOM_UMIN, R186. -/
def execAtomUmin (la : BitVec 4) (d : Reg) (a : Reg) (c : BitVec 2) (s : State) : Out :=
  strongAccess (.atomUmin la d a c) la (fun s L => s.vP a L) s

/-- ATOM_UMAX, R186. -/
def execAtomUmax (la : BitVec 4) (d : Reg) (a : Reg) (c : BitVec 2) (s : State) : Out :=
  strongAccess (.atomUmax la d a c) la (fun s L => s.vP a L) s

/-- ATOM_XCHG, R186. -/
def execAtomXchg (la : BitVec 4) (d : Reg) (a : Reg) (c : BitVec 2) (s : State) : Out :=
  strongAccess (.atomXchg la d a c) la (fun s L => s.vP a L) s

/-- ATOM_CAS, R186. -/
def execAtomCas (la : BitVec 4) (d : Reg) (a : Reg) (c : BitVec 2) (s : State) : Out :=
  strongAccess (.atomCas la d a c) la (fun s L => s.vP a L) s

/-- ATOM_FADD, R186. -/
def execAtomFadd (la : BitVec 4) (d : Reg) (a : Reg) (c : BitVec 2) (s : State) : Out :=
  strongAccess (.atomFadd la d a c) la (fun s L => s.vP a L) s

/-- ATOM_FMIN, R186. -/
def execAtomFmin (la : BitVec 4) (d : Reg) (a : Reg) (c : BitVec 2) (s : State) : Out :=
  strongAccess (.atomFmin la d a c) la (fun s L => s.vP a L) s

/-- ATOM_FMAX, R186. -/
def execAtomFmax (la : BitVec 4) (d : Reg) (a : Reg) (c : BitVec 2) (s : State) : Out :=
  strongAccess (.atomFmax la d a c) la (fun s L => s.vP a L) s

/-- ATOM_ADD_D, R186. -/
def execAtomAddD (la : BitVec 4) (d : Reg) (a : Reg) (c : BitVec 2) (s : State) : Out :=
  strongAccess (.atomAddD la d a c) la (fun s L => s.vP a L) s

/-- ATOM_XCHG_D, R186. -/
def execAtomXchgD (la : BitVec 4) (d : Reg) (a : Reg) (c : BitVec 2) (s : State) : Out :=
  strongAccess (.atomXchgD la d a c) la (fun s L => s.vP a L) s

/-- ATOM_CAS_D, R186. -/
def execAtomCasD (la : BitVec 4) (d : Reg) (a : Reg) (c : BitVec 2) (s : State) : Out :=
  strongAccess (.atomCasD la d a c) la (fun s L => s.vP a L) s

/-- RED_ADD, R187. -/
def execRedAdd (la : BitVec 4) (d : Reg) (a : Reg) (c : BitVec 2) (s : State) : Out :=
  strongAccess (.redAdd la d a c) la (fun s L => s.vP a L) s

/-- RED_AND, R187. -/
def execRedAnd (la : BitVec 4) (d : Reg) (a : Reg) (c : BitVec 2) (s : State) : Out :=
  strongAccess (.redAnd la d a c) la (fun s L => s.vP a L) s

/-- RED_OR, R187. -/
def execRedOr (la : BitVec 4) (d : Reg) (a : Reg) (c : BitVec 2) (s : State) : Out :=
  strongAccess (.redOr la d a c) la (fun s L => s.vP a L) s

/-- RED_XOR, R187. -/
def execRedXor (la : BitVec 4) (d : Reg) (a : Reg) (c : BitVec 2) (s : State) : Out :=
  strongAccess (.redXor la d a c) la (fun s L => s.vP a L) s

/-- RED_MIN, R187. -/
def execRedMin (la : BitVec 4) (d : Reg) (a : Reg) (c : BitVec 2) (s : State) : Out :=
  strongAccess (.redMin la d a c) la (fun s L => s.vP a L) s

/-- RED_MAX, R187. -/
def execRedMax (la : BitVec 4) (d : Reg) (a : Reg) (c : BitVec 2) (s : State) : Out :=
  strongAccess (.redMax la d a c) la (fun s L => s.vP a L) s

/-- RED_UMIN, R187. -/
def execRedUmin (la : BitVec 4) (d : Reg) (a : Reg) (c : BitVec 2) (s : State) : Out :=
  strongAccess (.redUmin la d a c) la (fun s L => s.vP a L) s

/-- RED_UMAX, R187. -/
def execRedUmax (la : BitVec 4) (d : Reg) (a : Reg) (c : BitVec 2) (s : State) : Out :=
  strongAccess (.redUmax la d a c) la (fun s L => s.vP a L) s

/-- RED_FADD, R187. -/
def execRedFadd (la : BitVec 4) (d : Reg) (a : Reg) (c : BitVec 2) (s : State) : Out :=
  strongAccess (.redFadd la d a c) la (fun s L => s.vP a L) s

/-- RED_FMIN, R187. -/
def execRedFmin (la : BitVec 4) (d : Reg) (a : Reg) (c : BitVec 2) (s : State) : Out :=
  strongAccess (.redFmin la d a c) la (fun s L => s.vP a L) s

/-- RED_FMAX, R187. -/
def execRedFmax (la : BitVec 4) (d : Reg) (a : Reg) (c : BitVec 2) (s : State) : Out :=
  strongAccess (.redFmax la d a c) la (fun s L => s.vP a L) s

/-- RED_ADD_D, R187. -/
def execRedAddD (la : BitVec 4) (d : Reg) (a : Reg) (c : BitVec 2) (s : State) : Out :=
  strongAccess (.redAddD la d a c) la (fun s L => s.vP a L) s

/-! ### Errors found by a consumer (R332) -/

/-- R102: the record of an error that instruction i met waits for another outstanding one of its split: an older one,
or a younger one that does not itself stand behind i. Of those that met an error only the oldest is recorded. -/
def State.spoilAwaits (s : State) (i j : Nat) : Bool :=
  let o := s.op j
  if o.status = .faulted ∧ s.faults.all (fun f => f.2.op != some j) then false
  else if j < i then true
  else match shapeOf o.instr, stashShape o.instr with
    | some _, _ => o.status == .accepted || o.status == .walking || o.status == .faulted
        || (o.status == .flying && !isStl o.instr && !s.unsettledStore j && (lanesOf o.mask).all (fun L => o.cls.get L != 3))
    | none, some _ => (stashShape (s.op i).instr).isNone
    | none, none => o.status == .accepted || ((productOf o.instr).isSome && (productOf (s.op i).instr).isNone)

/-- R102, R342: the record is written, and the context stops, once nothing of the split is half done. -/
def State.deliverSpoil (s : State) (g uid : Nat) : State :=
  let x := s.splitOf g uid
  match x.spoil with
  | none => s
  | some (i, r) =>
    if x.out.any (fun e => e.op != i && s.spoilAwaits i e.op) then s else
    ((s.onSplit g uid (fun y => { y with spoil := none })).postTrap (s.ctxOf g) { r with
      retired := (s.group g).retired, time := s.claveOf (dieOfGroup g) }).stopContext (s.ctxOf g) .stopped

/-- An instruction consumes a line with an uncorrectable error: it writes nothing, and its context stops. -/
def State.eccOp (s : State) (i source : Nat) (hit : Mask) (a : DWord) : State :=
  let o := s.op i
  let r := { s.record o.grp o.uid .ecc source hit a o.offset (s.activeLanes o.grp o.uid ||| o.mask) o.plane with version := o.version }
  ((s.onOp i (fun x => { x with status := .faulted })).onSplit o.grp o.uid (fun x => { x with
    spoil := match x.spoil with | some e => if e.1 < i then some e else some (i, r) | none => some (i, r) })).deliverSpoil o.grp o.uid

/-- The lanes of an operation whose lines some error table holds, lowest first: lane, source. -/
def State.badLanes (s : State) (o : Op) : List (Nat × Nat) :=
  (lanesOf o.mask).filterMap (fun L => if o.cls.get L = 3 then none else (s.lineError (lineOf (o.pa.get L))).map (fun k => (L, k)))

/-- A load or ATOM has all its data: its registers are written, unless an error is consumed. -/
def State.deliverOp (s : State) (i : Nat) : State :=
  match s.badLanes (s.op i) with
  | e :: es => s.eccOp i e.2 (maskOf (fun L => (e :: es).any (fun x => x.1 == L))) ((s.op i).addr.get e.1)
  | [] => s.finishOp i

/-! ### Events -/

/-- An operation starts again from its log (R102, R179). -/
def State.restart (s : State) (i : Nat) : State :=
  match shapeOf (s.op i).instr with
  | some h => if h.move = .compress then
      (if s.unsettledStore i then s.post (.storeApply i) else s.compressFrom i 33) else s.startOp i
  | none => s

/-- R179: the element that an STGC is at, when its page does not translate. -/
def State.compressFault (s : State) (core ctx i : Nat) : State :=
  let o := s.op i
  let a := o.addr.get o.next
  match (s.lookupWalked core ctx a).1 with
  | .fault c d => s.faultOp i c d (maskOf (fun L => L == (lanesOf o.mask).getD o.next 0)) a
  | _ => s.restart i


/-- R231: the register accesses of a load, once the split's earlier ones have been answered. -/
def State.readRegisters (s : State) (i n : Nat) : State :=
  if s.registerBefore i then s else
  (lanesOf ((s.op i).mask &&& ~~~(s.op i).have_)).foldl (fun (st : State) L =>
    if (s.op i).cls.get L = 3 then st.takeDirect i n L else st) s

/-- R99: the data of a load, ATOM, LDS or FLONG instruction return. -/
def execLoadDataReturn (op : Nat) (s : State) : Out :=
  let o := s.op op
  if !o.live then .next s else
  match shapeOf o.instr with
  | none => .next (if o.status = .accepted then s.finishOp op else s)
  | some h =>
    if h.move ≠ .load ∧ h.move ≠ .atom then .next s
    else match o.status with
      | .walking => .next (s.startOp op)
      | .held => .next (s.startOp op)
      | .faulted => .next s
      | .accepted => .next (s.finishOp op)
      | .flying =>
        if h.move = .atom then .next (if o.have_ = o.mask then s.deliverOp op else s) else
        let s1 := s.readRegisters op h.bytes
        .next (if (s1.op op).have_ = o.mask then s1.deliverOp op else s1.later (.loadDataReturn op))

/-- R238: the home's answer to a store reaches the split. -/
def execStoreAcceptReply (op : Nat) (s : State) : Out :=
  let o := s.op op
  .next (if o.live = true ∧ o.status = .accepted ∧ (shapeOf o.instr).isSome then s.acceptReply op else s)

/-- A store's lanes are applied, and the answer is on its way. -/
def State.applyAndReply (s : State) (i : Nat) (h : Shape) : State :=
  ((s.applyStore i h).onOp i (fun x => { x with status := .accepted })).post (.storeAcceptReply i)

/-- R172: an STL is presented once its split's earlier accesses are complete and their completion
times at its scope have passed; the release acts first. -/
def State.presentStl (s : State) (i : Nat) (h : Shape) : State :=
  let o := s.op i
  if !((s.splitOf o.grp o.uid).out.all (fun e => decide (i ≤ e.op))) then s.later (.storeApply i) else
  let s1 := if o.next = 0 then (s.releaseAt o.grp o.uid (scopeOf o.instr)).onOp i (fun x => { x with next := 1 }) else s
  if !(s1.stlReady i) then s1.later (.storeApply i) else
  let r := s1.acceptStore i h
  if r.2 then r.1.applyAndReply i h else r.1.completeOp i

/-- R237: a store reaches the homes of its lines. -/
def execStoreApply (op : Nat) (s : State) : Out :=
  let o := s.op op
  if !o.live then .next s else
  match shapeOf o.instr with
  | none => .next s
  | some h =>
    if o.status = .faulted ∨ o.status = .accepted then .next s
    else if h.move = .compress then
      .next (if s.unsettledStore op then s.later (.storeApply op) else s.compressFrom op 33)
    else if o.status = .walking ∨ o.status = .held then .next (s.startOp op)
    else if h.move ≠ .store then .next s
    else if o.lines.any (fun l => s.storeBefore (coreOfGroup o.grp) op l)
        || ((lanesOf o.mask).any (fun L => o.cls.get L == 3) && s.registerBefore op) then .next (s.later (.storeApply op))
    else .next (if isStl o.instr then s.presentStl op h else s.applyAndReply op h)

/-- R235: the home answers a core's fill, after the stores that the core has accepted. -/
def execFillGrant (core line : Nat) (s : State) : Out :=
  let filling : Bool := match ((s.cores.get core).l1.get line).st with | .filling _ => true | _ => false
  if !filling && !s.lineWanted core line then .next s
  else if s.storeBefore core s.nextOp line then .next (s.later (.fillGrant core line))
  else .next ((s.flushWcFor core line).grantFill core line)

/-- R186, R277: the next lane of an ATOM, at the place that executes it. -/
def execAtomAtHome (op : Nat) (s : State) : Out :=
  let o := s.op op
  match shapeOf o.instr with
  | none => .next s
  | some h =>
    if o.live = false ∨ h.move ≠ .atom ∨ o.status ≠ .flying ∨ o.have_ = o.mask then .next s else
    match s.badLanes o with
    | e :: es => .next (s.eccOp op e.2 (maskOf (fun L => (e :: es).any (fun x => x.1 == L))) (o.addr.get e.1))
    | [] =>
      let L := lowLane (o.mask &&& ~~~o.have_)
      let s1 := s.atomLane op h L
      .next (if (s1.op op).have_ = o.mask then s1.post (.loadDataReturn op) else s1.post (.atomAtHome op))

/-- R328: a faulting translation, for an operation that waited for it. -/
def State.walkFault (s : State) (core ctx i : Nat) : State :=
  let o := s.op i
  match shapeOf o.instr with
  | none => s
  | some h =>
    if h.move = .compress then s.compressFault core ctx i else
    let lanes := (lanesOf (o.mask &&& ~~~o.have_)).map (fun L => (L, o.addr.get L))
    let bad (e : Nat × DWord) : Bool := match (s.lookupWalked core ctx e.2).1 with | .fault _ _ => true | _ => false
    match s.firstUntranslated core ctx lanes with
    | some (_, a, c, d) => s.faultOp i c d (maskOf (fun L => lanes.any (fun e => e.1 == L && bad e))) a
    | none => s.startOp i

/-- R328: a page walk ends; the operations that waited for it start again, or fault. The oldest 64 walks of a
die run; the others wait for a free walker (R4, R327). -/
def execPageWalkComplete (core ctx vpage : Nat) (s : State) : Out :=
  let d := dieOfCore core
  if !(s.dies.get d).walks.contains (core, ctx, vpage) then .next s else
  if !((s.dies.get d).walks.take 64).contains (core, ctx, vpage) then .next (s.later (.pageWalkComplete core ctx vpage)) else
  let s1 := (s.onDie d (fun k => { k with walks := k.walks.filter (fun w => decide (w ≠ (core, ctx, vpage))) })).walkCollect ctx vpage
  let waits (o : Op) : Bool := decide (o.status = .walking) && s.ctxOf o.grp == ctx && (shapeOf o.instr).isSome
  let ops := ((s1.coreOps core).filter (fun e => waits e.2)).map Prod.fst
  match s1.walk ctx vpage with
  | .hit e => .next (ops.foldl (fun (st : State) i => st.restart i) (s1.tlbFill core e))
  | _ => .next (ops.foldl (fun (st : State) i => st.walkFault core ctx i) s1)

end Sys2Proof.Machine
end

