-- ==== Sys2Proof/Machine/StashOps.lean ====
section
/-! DEFINITION. LDS and STS (R173–R175), stash allocation and maps (R176, R177), and the events that give
a stash a mapped line and end a write-back (R238, R243). -/

namespace Sys2Proof.Machine

/-- LDS and STS: ALIGN, then placement, then the access joins the block's order at the stash. The trap
details of these two are a free value: the spec states none. -/
def stashAccess (i : Instr) (la : BitVec 4) (a : Reg) (sp : BitVec 5) (s : State) : Out :=
  match stashShape i with
  | none => .next s
  | some h =>
    let m := s.focus.mask
    if m = 0 then .next s else
    let b := s.cur.block
    let lanes := (lanesOf m).map (fun L => (L, s.stashAddr sp a L))
    match lanes.filter (fun e => decide (e.2 % h.bytes ≠ 0)) with
    | e :: es => .next (s.takeOpenTrap .align (maskOf (fun L => (e :: es).any (fun x => x.1 == L))) (BitVec.ofNat 64 e.2))
    | [] =>
      match lanes.filter (fun e => decide ((s.blocks.get b).place e.2 h.bytes = .outside)) with
      | e :: es => .next (s.takeOpenTrap .faultP (maskOf (fun L => (e :: es).any (fun x => x.1 == L))) (BitVec.ofNat 64 e.2))
      | [] =>
        let o : Op := { s.opHere i m with
          addr := laneStore m (fun L => BitVec.ofNat 64 (s.stashAddr sp a L))
          data := if h.store then s.takeData m (BitVec.ofNat 6 h.d) h.regs else [] }
        let r := s.newOp o la.toNat
        .next (r.1.stashRun b ((r.1.stashQueue b).length + 1))

/-- LDS_SB, R173. -/
def execLdsSb (la : BitVec 4) (d a : Reg) (sp : BitVec 5) (s : State) : Out :=
  stashAccess (.ldsSb la d a sp) la a sp s

/-- LDS_ZB, R173. -/
def execLdsZb (la : BitVec 4) (d a : Reg) (sp : BitVec 5) (s : State) : Out :=
  stashAccess (.ldsZb la d a sp) la a sp s

/-- LDS_SH, R173. -/
def execLdsSh (la : BitVec 4) (d a : Reg) (sp : BitVec 5) (s : State) : Out :=
  stashAccess (.ldsSh la d a sp) la a sp s

/-- LDS_ZH, R173. -/
def execLdsZh (la : BitVec 4) (d a : Reg) (sp : BitVec 5) (s : State) : Out :=
  stashAccess (.ldsZh la d a sp) la a sp s

/-- LDS_W, R173. -/
def execLdsW (la : BitVec 4) (d a : Reg) (sp : BitVec 5) (s : State) : Out :=
  stashAccess (.ldsW la d a sp) la a sp s

/-- LDS_D, R173. -/
def execLdsD (la : BitVec 4) (d a : Reg) (sp : BitVec 5) (s : State) : Out :=
  stashAccess (.ldsD la d a sp) la a sp s

/-- LDS_Q, R173. -/
def execLdsQ (la : BitVec 4) (d a : Reg) (sp : BitVec 5) (s : State) : Out :=
  stashAccess (.ldsQ la d a sp) la a sp s

/-- STS_B, R173. -/
def execStsB (la : BitVec 4) (d a : Reg) (sp : BitVec 5) (s : State) : Out :=
  stashAccess (.stsB la d a sp) la a sp s

/-- STS_H, R173. -/
def execStsH (la : BitVec 4) (d a : Reg) (sp : BitVec 5) (s : State) : Out :=
  stashAccess (.stsH la d a sp) la a sp s

/-- STS_W, R173. -/
def execStsW (la : BitVec 4) (d a : Reg) (sp : BitVec 5) (s : State) : Out :=
  stashAccess (.stsW la d a sp) la a sp s

/-- STS_D, R173. -/
def execStsD (la : BitVec 4) (d a : Reg) (sp : BitVec 5) (s : State) : Out :=
  stashAccess (.stsD la d a sp) la a sp s

/-- STS_Q, R173. -/
def execStsQ (la : BitVec 4) (d a : Reg) (sp : BitVec 5) (s : State) : Out :=
  stashAccess (.stsQ la d a sp) la a sp s

/-! ### Allocation and maps (R176, R177) -/

/-- SALLOC. DEDUCED (log entry 24): a size above 524,288 is an argument out of range, like 0. -/
def execSalloc (d a : Reg) (s : State) : Out :=
  once170 s (fun _ =>
    let n := (s.sR a).toNat
    if n = 0 ∨ 524288 < n then .next (s.illop 0x0B 0x78) else
    match stashPlace (s.coreAllocs s.curCore) n with
    | none => .next (s.setS d 0xFFFFFFFF)
    | some o => .next ((s.onBlock s.cur.block (fun b => { b with allocs := b.allocs ++ [(o, n)] })).setS d (BitVec.ofNat 32 o)))

/-- The stash lines of a map. -/
def StashMap.lines (m : StashMap) : List Nat := (List.range (m.length / 64)).map (fun i => m.stash / 64 + i)

/-- Write back the dirty lines of a map, and with `drop` give its lines up. -/
def State.writeBackMap (s : State) (b : Nat) (m : StashMap) (drop : Bool) : State × Times :=
  (m.lines.filter (fun l => ((s.blocks.get b).mapLines.get l).owned)).foldl
    (fun (st : State × Times) l => let r := st.1.writeBack b l drop; (r.1, st.2.join r.2)) (s, {})

/-- SUNMAP of one map: written back, then removed; the stash keeps its bytes. -/
def State.unmap (s : State) (b : Nat) (m : StashMap) : State × Times :=
  let r := s.writeBackMap b m true
  (r.1.onBlock b (fun y => { y with
    maps := y.maps.filter (fun x => decide (x ≠ m))
    mapLines := m.lines.foldl (fun t l => t.erase l) y.mapLines }), r.2)

/-- The split blocks until the completion times, at device scope, of the lines written back have passed. -/
def State.awaitFlush (s : State) (t : Times) : State :=
  if t.device ≤ s.now then s else (s.block (.flush t.device)).post (.completionTimePassed t.device)

/-- SFREE. -/
def execSfree (a : Reg) (s : State) : Out :=
  once170 s (fun _ =>
    let b := s.cur.block
    let o := (s.sR a).toNat
    match s.curBlock.allocs.find? (fun x => x.1 == o) with
    | none => .next (s.illop 0x0B 0x78)
    | some x =>
      let r := (s.curBlock.maps.filter (fun m => decide (o ≤ m.stash ∧ m.stash < o + granules x.2))).foldl
        (fun (st : State × Times) m => let u := st.1.unmap b m; (u.1, st.2.join u.2)) (s, {})
      .next ((r.1.onBlock b (fun y => { y with allocs := y.allocs.filter (fun z => decide (z ≠ x)) })).awaitFlush r.2))

/-- The map that SMAP asks for. -/
def State.mapAsked (s : State) (a : Reg) : StashMap :=
  { stash := (s.cur.sAt a.toNat).toNat, length := (s.cur.sAt (a.toNat + 1)).toNat, global := s.cur.sPair (a.toNat + 2) }

/-- R177: the limits of SMAP. -/
def Block.mapOk (b : Block) (m : StashMap) : Bool :=
  decide (m.stash % 64 = 0 ∧ m.length % 64 = 0 ∧ m.global.toNat % 64 = 0 ∧ 64 ≤ m.length ∧ b.maps.length < 8)
  && b.holds m.stash m.length
  && b.maps.all (fun x => decide (x.stash + x.length ≤ m.stash ∨ m.stash + m.length ≤ x.stash))

/-- SMAP. -/
def execSmap (a : Reg) (s : State) : Out :=
  once170 s (fun _ =>
    let m := s.mapAsked a
    if s.curBlock.mapOk m then .next (s.onBlock s.cur.block (fun b => { b with maps := b.maps ++ [m] }))
    else .next (s.illop 0x0B 0x78))

/-- The map of the block in focus that starts at a stash offset. -/
def State.mapAtStart (s : State) (o : Nat) : Option StashMap := s.curBlock.maps.find? (fun m => m.stash == o)

/-- SUNMAP. -/
def execSunmap (a : Reg) (s : State) : Out :=
  once170 s (fun _ =>
    match s.mapAtStart (s.sR a).toNat with
    | none => .next (s.illop 0x0B 0x78)
    | some m => let r := s.unmap s.cur.block m; .next (r.1.awaitFlush r.2))

/-- SFLUSH. -/
def execSflush (a : Reg) (s : State) : Out :=
  once170 s (fun _ =>
    let w := s.sR a
    let ms := if w = 0xFFFFFFFF then s.curBlock.maps else (s.mapAtStart w.toNat).toList
    if ms = [] ∧ w ≠ 0xFFFFFFFF then .next (s.illop 0x0B 0x78) else
    let r := ms.foldl (fun (st : State × Times) m => let u := st.1.writeBackMap s.cur.block m false; (u.1, st.2.join u.2)) (s, {})
    .next (r.1.awaitFlush r.2))

/-! ### Events -/

/-- The MMAS at the head of a core's engine queue, when it waits for a line. -/
def State.operandAsker (s : State) (b core sl : Nat) : Option (Nat × Access × Mask) :=
  match (s.cores.get core).engine.waiting with
  | i :: _ =>
    let o := s.op i
    match productOf o.instr with
    | some p =>
      if o.status = .flying ∧ (s.group o.grp).block = b ∧ (s.operandMissing o.grp (o.addr.get 0).toNat p).contains sl then
        some (i, .read, 0) else none
    | none => none
  | [] => none

/-- The access that a fill of a mapped line is for: operation, access, lanes. -/
def State.lineAsker (s : State) (b sl : Nat) : Option (Nat × Access × Mask) :=
  let core := coreOfBlock b
  match s.stashQueue b with
  | (i, o) :: _ =>
    match stashShape o.instr with
    | some h =>
      if o.status = .flying ∧ (s.stashMissing b o h.bytes).contains sl then
        some (i, if h.store then .both else .read,
          maskOf (fun L => inMask o.mask L && ((s.blocks.get b).linesOf (o.addr.get L).toNat h.bytes).contains sl))
      else s.operandAsker b core sl
    | none => none
  | [] => s.operandAsker b core sl

/-- The block's waiting accesses, and its products, try again. -/
def State.stashAgain (s : State) (b : Nat) : State := (s.stashRun b ((s.stashQueue b).length + 1)).acceptEngine (coreOfBlock b) 8

/-- R243: a fill gives the stash ownership of a line, or faults, or waits for the leases on the line. What waits for
a line that came or went otherwise tries again. -/
def execStashOwnershipFill (block line : Nat) (s : State) : Out :=
  let clear (st : State) : State := st.onBlock block (fun y => { y with mapLines := y.mapLines.upd line (fun x => { x with filling := none, claim := false }) })
  if ((s.blocks.get block).mapLines.get line).filling.isNone then .next (s.stashAgain block) else
  match s.lineAsker block line with
  | none => .next ((clear s).stashAgain block)
  | some (i, k, m) =>
    let r := s.tryOwn block line k true
    match r.2 with
    | .wait => .next (r.1.later (.stashOwnershipFill block line))
    | .fault c d a =>
      .next ((clear r.1).faultOp i c (if isProduct (s.op i).instr then 0 else d) m a)
    | .owned =>
      let s1 := clear r.1
      match s1.lineError (lineOf ((s1.blocks.get block).mapLines.get line).pa) with
      | some k => .next ((s1.giveUp block line).eccOp i k m ((s.op i).addr.get (lowLane m)))
      | none => .next (s1.stashAgain block)

/-- R238: an instant has passed: splits that waited for it in SUNMAP, SFLUSH or SFREE go on. -/
def execCompletionTimePassed (time : Nat) (s : State) : Out :=
  if s.now < time then .next (s.later (.completionTimePassed time)) else
  .next (s.groups.foldl (fun (st : State) e =>
    st.overWaits e.1 (fun st x w =>
      match w with
      | .flush t => if t ≤ s.now then st.endWait e.1 x.uid w else st
      | _ => st)) s)

end Sys2Proof.Machine
end

