-- ==== Sys2Proof/Machine/Matrix.lean ====
section
/-! DEFINITION. The matrix engine as instructions (R44, R199–R209), and the event of its completions. -/

namespace Sys2Proof.Machine

/-- The engine of the core in focus. -/
def State.curEngine (s : State) : Engine := (s.cores.get s.curCore).engine

/-- R199, R203: only the owner of the engine goes on. -/
def asOwner (s : State) (major : Nat) (k : Out) : Out :=
  if s.curEngine.owner = some s.focus.grp then k else .next (s.illop 7 major)

/-- MACQ, R44, R200. -/
def execMacq (s : State) : Out :=
  onceLanes s (fun t _ =>
    let g := t.focus.grp
    if t.curEngine.owner = some g ∨ t.curEngine.queue.contains g = true then .next (t.illop 7 0x7F)
    else .next (((t.block .engine).onEngine t.curCore (fun e => { e with queue := e.queue ++ [g] })).grantEngine t.curCore))

/-- MREL, R200. -/
def execMrel (s : State) : Out :=
  onceLanes s (fun t _ => asOwner t 0x7F
    (if t.pendingProducts t.focus.grp = 0 then .next ((t.computeEnd t.focus.grp).releaseEngine t.curCore)
     else .next (t.block (.products true (t.pendingProducts t.focus.grp)))))

/-- MWAIT, R200. -/
def execMwait (s : State) : Out :=
  onceLanes s (fun t _ => asOwner t 0x7F
    (if t.pendingProducts t.focus.grp = 0 then .next (t.computeEnd t.focus.grp)
     else .next (t.block (.products false (t.pendingProducts t.focus.grp)))))

/-- An MZERO behind instructions that the engine has not accepted waits among them (R200, R201). -/
def State.queueZero (s : State) (i : Instr) (m : Mask) : State :=
  let n := s.nextOp
  ({ s with ops := s.ops.put n { s.opHere i m with live := true }, nextOp := n + 1 } : State).onEngine s.curCore
    (fun e => { e with waiting := e.waiting ++ [n] })

/-- MZERO, R200, R201: it enters the engine in issue order, as the fourth pending instruction at most. -/
def execMzero (c : BitVec 2) (s : State) : Out :=
  onceLanes s (fun t m => asOwner t 0x7F
    (if t.curEngine.waiting ≠ [] ∨ 4 ≤ t.curEngine.pending.length then .next (t.queueZero (.mzero c) m) else
     .next ((t.onEngine t.curCore (fun e => { e with
      pending := e.pending ++ [{ instr := .mzero c, mask := m, offset := 0, grp := t.focus.grp }] })).post (.mmaComplete t.curCore))))

/-- MLD, R208: eight columns of a lane's row. -/
def execMld (d : Reg) (c g : BitVec 2) (s : State) : Out :=
  plainLanes s s.focus.mask (fun t m => asOwner t 0x7F
    (.next ((List.range 8).foldl (fun (st : State) k =>
      st.onCur (fun y => y.setV (d.toNat + k) m (fun L => t.curEngine.acc.get (accKey c.toNat L (8 * g.toNat + k))))) t)))

/-- MST, R208. -/
def execMst (d : Reg) (c g : BitVec 2) (s : State) : Out :=
  plainLanes s s.focus.mask (fun t m => asOwner t 0x7F
    (.next (t.onEngine t.curCore (fun e => { e with
      acc := (lanesOf m).foldl (fun (acc : Store Word) L => (List.range 8).foldl (fun (acc : Store Word) k =>
        acc.put (accKey c.toNat L (8 * g.toNat + k)) (t.cur.vAt (d.toNat + k) L)) acc) e.acc }))))

/-- R207: the bytes of the stash operand of a product. -/
def State.operandBytes (s : State) (g : Nat) (p : Product) : Nat :=
  let slots := (s.launchOf g).rec_.slots
  32 * stashColumn (productK (slots.get p.slotA) (slots.get p.slotB)) (container (slotCode (slots.get p.slotB))) + 256

/-- R203, R204: a product goes to the engine, once over the union when every pass holds the same word. -/
def sendProduct (i : Instr) (la : BitVec 4) (off : State → Word) (major : Nat) (s : State) : Out :=
  match productOf i with
  | none => .next s
  | some p =>
    onceLanes s (fun t m => asOwner t major
      (let g := t.focus.grp
       let x := off t
       if p.fromStash = true ∧ x.toNat % 64 ≠ 0 then .next (t.takeTrap .align 0 0 (x.setWidth 64))
       else if p.fromStash = true ∧ !t.curBlock.holds x.toNat (t.operandBytes g p) then .next (t.takeTrap .faultP 0 0 (x.setWidth 64))
       else
         let t1 := t.stampEvent g (fun q n => { q with compute := once q.compute n })
         let r := t1.newOp { t1.opHere i m with addr := Store.put [] 0 (x.setWidth 64) } la.toNat
         .next ((r.1.onEngine t.curCore (fun e => { e with waiting := e.waiting ++ [r.2] })).acceptEngine t.curCore 8)))

/-- MMA, R203. -/
def execMma (la : BitVec 4) (x y : BitVec 2) (q : BitVec 4) (c : BitVec 2) (a b : BitVec 3) (s : State) : Out :=
  sendProduct (.mma la x y q c a b) la (fun _ => 0) 0x7C s
/-- MMAZ, R203. -/
def execMmaz (la : BitVec 4) (x y : BitVec 2) (q : BitVec 4) (c : BitVec 2) (a b : BitVec 3) (s : State) : Out :=
  sendProduct (.mmaz la x y q c a b) la (fun _ => 0) 0x7C s
/-- MMAI, R203. -/
def execMmai (la : BitVec 4) (x y : BitVec 2) (q : BitVec 4) (c : BitVec 2) (a b : BitVec 3) (s : State) : Out :=
  sendProduct (.mmai la x y q c a b) la (fun _ => 0) 0x7C s
/-- MMAIZ, R203. -/
def execMmaiz (la : BitVec 4) (x y : BitVec 2) (q : BitVec 4) (c : BitVec 2) (a b : BitVec 3) (s : State) : Out :=
  sendProduct (.mmaiz la x y q c a b) la (fun _ => 0) 0x7C s
/-- MMAS, R206, R207. -/
def execMmas (la : BitVec 4) (x : BitVec 2) (sp : Reg) (q : BitVec 4) (c : BitVec 2) (a b : BitVec 3) (s : State) : Out :=
  sendProduct (.mmas la x sp q c a b) la (fun t => t.sR sp) 0x7D s
/-- MMASZ, R206, R207. -/
def execMmasz (la : BitVec 4) (x : BitVec 2) (sp : Reg) (q : BitVec 4) (c : BitVec 2) (a b : BitVec 3) (s : State) : Out :=
  sendProduct (.mmasz la x sp q c a b) la (fun t => t.sR sp) 0x7E s

/-- R200, R201, R203: the engine completes an instruction and goes on with the next. -/
def execMmaComplete (core : Nat) (s : State) : Out := .next (s.engineComplete core)

end Sys2Proof.Machine
end

