-- ==== Sys2Proof/Machine/Timers.lean ====
section
/-! DEFINITION. What time alone brings about: the waits that a block's clock counts (R325), a split held
in WLTAKE (R215), planted breakpoints (R364), and spilled splits (R21). -/

namespace Sys2Proof.Machine

/-- R364: the breakpoint that a split at its offset meets, as the plane its record names. -/
def State.breakHit (s : State) (g uid : Nat) : Option Nat :=
  let x := s.splitOf g uid
  let k := s.group g
  let planes := (List.range 4).filter (fun p => decide (k.inPlane (k.active x.mask) p ≠ 0))
  if x.skipBreak = some x.offset ∨ x.rest.isSome then none else
  ((s.launchOf g).breaks.find? (fun b => b.offset == x.offset && b.version == x.version
    && planes.any (fun p => b.planes.getLsbD p))).bind (fun b => planes.find? (fun p => b.planes.getLsbD p))

/-- R147, R365: the STEP record of a split as it stands: the offset it would issue next, which follows the JOIN
for a split that is parked at one (R23). -/
def State.stepRecordIn (s : State) (k : Group) (b : Block) (core uid detail : Nat) : TrapRecord :=
  let x := (k.findSplit uid).getD default
  let m := k.active x.mask
  let p := ((List.range 4).find? (fun p => decide (k.inPlane m p ≠ 0))).getD 0
  let o := if x.cond = .parked then x.offset + 4 else x.offset
  s.recordIn k b core uid .step detail 0 (((s.launches.get b.launch).entries.get x.version).codeAddr p o) o m p
def State.stepRecord (s : State) (g uid detail : Nat) : TrapRecord := s.stepRecordIn (s.group g) (s.blockOf g) (coreOfGroup g) uid detail

/-- R365: splits of a group stop with STEP, and their records are queued together; without a stub the
context stops (R342). -/
def State.stopBatch (s : State) (g : Nat) (uids : List Nat) (detail : Nat) : State :=
  let recs := uids.map (fun u => (u, s.stepRecord g u detail))
  if s.hasStub g .step then
    let s1 := uids.foldl (fun (st : State) u => st.onSplit g u Split.stop) s
    (s1.settleGroup g).queueStub (s.blockOf g).launch (recs.map (fun e => { rec_ := e.2, grp := g, uid := e.1 }))
  else match recs with
    | e :: _ => s.deliver g e.1 e.2
    | [] => s

def isTake (i : Instr) : Bool := match i with | .wltake .. => true | _ => false

/-- R215: the lookahead rule holds a split's next instruction on an incomplete WLTAKE. -/
def State.takeHeld (s : State) (g : Nat) (x : Split) : Bool :=
  let mine := x.out.filter (fun e => isTake (s.op e.op).instr)
  decide (x.cond = .runnable) && (mine.any (fun e => e.left == 0)
    || (mine != [] && ((s.fetchAll g x.version x.offset ((s.group g).planesOf x.mask) x.words).2).any (fun e => match e.2 with
      | .word w => drainWord w
      | _ => false)))

/-- R215: which splits count as blocked in WLTAKE. -/
def State.markTakes (s : State) : State :=
  s.groups.foldl (fun (st : State) e => (st.group e.1).splits.foldl (fun (st : State) x =>
    let b := st.takeHeld e.1 x
    if b = x.taking then st else st.onSplit e.1 x.uid (fun y => { y with taking := b, since := s.now })) st) s

/-- R325: a split that does not hold back its block's wait clock. DBGWAIT (R145) and a GCALL that finds the Gong's
queue full (R218) never advance it, a token holder's not either (DEDUCED, log entry 75). -/
def State.charged (s : State) (g : Nat) (x : Split) : Bool :=
  if x.stopped then false else
  match x.cond with
  | .parked => true
  | .blocked _ => x.waits.any (fun w =>
    match w with
    | .barrier _ _ | .push _ _ _ | .pop _ _ _ _ | .signal _ _ _ _ _ | .engine | .products _ _ | .c1bar _ _ _ _ => true
    | .debug _ _ _ | .gongFull => false
    | _ => w.isBlock && s.token.holder == some g)
  | .runnable => s.takeHeld g x

/-- The wait clock of a block. -/
def State.clockOf (s : State) (b : Nat) : Nat :=
  let y := s.blocks.get b
  y.waited + (match y.waiting with | some t => s.now - t | none => 0)

/-- The context's waiting budget in ns (R312, R325); 0 fields have their defaults. -/
def Context.sliceNs (c : Context) : Nat := 1000 * (if c.slice = 0 then 4000 else c.slice)
def Context.budgetNs (c : Context) : Nat := c.sliceNs * (if c.budget = 0 then 50 else c.budget) / 100

/-- R21: the oldest runnable spilled split that has waited 4,096 cycles while no entry was free. -/
def State.longSpilled (s : State) (g : Nat) : Option Split :=
  if ((s.group g).freeEntry).isSome then none else
  (s.group g).spill.find? (fun x => x.isRunnable && decide (x.since + s.cycles (dieOfGroup g) 4096 ≤ s.now))

end Sys2Proof.Machine
end

