-- ==== Sys2Proof/Machine/Work.lean ====
section
/-! DEFINITION. Creating launches and work lists (R210–R216), the events of appends and of quiescence,
and the replay of logged instructions (R102, R330, R335). -/

namespace Sys2Proof.Machine

/-! ### LAUNCH (R211, R212) -/

/-- Submit the records of a LAUNCH's lanes, in ascending lane order: their numbers are the order of issue, in
which children are enqueued (R212). -/
def State.submitChildren (s : State) (i : Nat) : State :=
  let o := s.op i
  let l := s.launchOf o.grp
  (lanesOf o.mask).foldl (fun (st : State) L =>
    ({ st with
      subs := st.subs ++ [(st.nextSub, { ctx := s.ctxOf o.grp, addr := o.addr.get L, origin := .child i L, floor := l.rec_.priority })]
      nextSub := st.nextSub + 1 } : State).post (.launchAccept st.nextSub)) s

/-- What the page of a record's address gives, once it has a walker (R327). -/
def State.recordLook (s : State) (core ctx : Nat) (a : DWord) : Look :=
  if canonical57 a then (s.lookupWalked core ctx a).1 else .fault .faultT 0x20

/-- Start, or start again, a LAUNCH whose addresses are aligned: its records are read only once every lane's
page translates and permits it (R211), each check of R167 over every lane before the next. -/
def State.startChildren (s : State) (i : Nat) : State :=
  let o := s.op i
  let core := coreOfGroup o.grp
  let ctx := s.ctxOf o.grp
  let lanes := (lanesOf (o.mask &&& ~~~o.have_)).map (fun L => (L, o.addr.get L))
  let bad (x : Nat × DWord) : Bool := match s.recordLook core ctx x.2 with | .hit _ => false | _ => true
  let wild (x : Nat × DWord) : Bool := !canonical57 x.2
  let denied (x : Nat × DWord) : Bool := match s.recordLook core ctx x.2 with | .hit e => (permit e .read [0, 1, 2]).isSome | _ => false
  let hits (p : Nat × DWord → Bool) : Mask := maskOf (fun L => lanes.any (fun y => y.1 == L && p y))
  match lanes.find? wild, lanes.find? bad, lanes.find? denied with
  | some x, _, _ => s.faultOp i .faultT 0 (hits wild) x.2
  | none, some x, _ => s.faultOp i .faultT 0 (hits bad) x.2
  | none, none, some x => s.faultOp i .faultP 0 (hits denied) x.2
  | none, none, none => s.onOp i (fun x => { x with status := .flying, next := 0 })

/-- LAUNCH; it issues again when the page of a record waits for a free walker (R327). -/
def execLaunch (la : BitVec 4) (d a : Reg) (s : State) : Out :=
  onceLanes s (fun t m =>
    let core := t.curCore
    let ctx := t.ctxOf t.focus.grp
    let lanes := (lanesOf m).map (fun L => (L, t.vP a L))
    let odd (x : Nat × DWord) : Bool := decide (x.2.toNat % 128 ≠ 0)
    let bad (x : Nat × DWord) : Bool := match t.recordLook core ctx x.2 with | .hit _ => false | _ => true
    let denied (x : Nat × DWord) : Bool := match t.recordLook core ctx x.2 with | .hit e => (permit e .read [0, 1, 2]).isSome | _ => false
    let hits (p : Nat × DWord → Bool) : Mask := maskOf (fun L => lanes.any (fun y => y.1 == L && p y))
    let wild := lanes.any (fun x => !canonical57 x.2)
    if t.walkerWait (lanes.map Prod.snd) then .next t.stall else
    match lanes.find? odd, lanes.find? bad, lanes.find? denied, wild with
    | some x, _, _, false => .next (t.takeTrap .align 0 (hits odd) x.2)
    | none, none, some x, _ => .next (t.takeTrap .faultP 0 (hits denied) x.2)
    | _, _, _, _ =>
      let r := t.newOp { t.opHere (.launch la d a) m with addr := laneStore m (fun L => t.vP a L) } la.toNat
      .next ((r.1.submitChildren r.2).startChildren r.2))

/-! ### Work lists (R213–R215) -/

/-- A list of the context in focus. -/
def State.workList (s : State) (ctx n : Nat) : WorkList := (s.ctxs.get ctx).lists.get n
def State.onList (s : State) (ctx n : Nat) (f : WorkList → WorkList) : State :=
  s.onCtx ctx (fun c => { c with lists := c.lists.upd n f })

/-- A list index that is in range and configured. -/
def State.listOk (s : State) (ctx : Nat) (w : Word) : Bool := decide (w.toNat < 64 ∧ (s.workList ctx w.toNat).capacity ≠ 0)

/-- The address of a ring word. -/
def WorkList.word (w : WorkList) (n : Nat) : DWord := w.base + BitVec.ofNat 64 (4 * (n % w.capacity))

/-- R215: the take of an operation: its items are for the lowest lanes, the count for its scalar; they reach the
registers as any data that return (R101). -/
def State.giveItems (s : State) (i : Nat) (ws : List Word) : State :=
  let lanes := (lanesOf (s.op i).mask).take ws.length
  let m := maskOf lanes.contains
  (s.onOp i (fun o => { o with
    status := .accepted, mask := m, have_ := m
    got := ((lanes.zip ws).foldl (fun (g : Store Word) e => g.put (4 * e.1) e.2) []).put 128 (BitVec.ofNat 32 ws.length) })).post
    (.loadDataReturn i)

/-- R332: the first of the m oldest items whose line holds an uncorrectable error: its place, source, address. -/
def State.itemError (s : State) (ctx : Nat) (w : WorkList) (m : Nat) : Option (Nat × Nat × DWord) :=
  (List.range m).findSome? (fun k =>
    match s.agentPa ctx (w.word (w.head + k)) .read [0, 1, 2] with
    | .ok (pa, _) => (s.lineError (lineOf pa)).map (fun e => (k, e, w.word (w.head + k)))
    | .error _ => none)

/-- R215: a take on a list that holds items. A ring word that cannot be read gives a free value; an uncorrectable
error of one traps at the take, which takes nothing (R332). -/
def State.takeItems (s : State) (ctx n i : Nat) : State :=
  let w := s.workList ctx n
  let m := min (laneCount (s.op i).mask) (w.tail - w.head)
  match s.itemError ctx w m with
  | some (k, e, a) => s.eccOp i e (maskOf (fun L => L == (lanesOf (s.op i).mask).getD k 0)) a
  | none =>
  let r := (List.range m).foldl (fun (acc : List Word × State) k =>
    let u := acc.2.hubCollect ctx (w.word (w.head + k)) 4
    match u.agentWord ctx (w.word (w.head + k)) 4 with
    | .ok v => (acc.1 ++ [BitVec.ofNat 32 v], u)
    | .error _ => (acc.1 ++ [loWord (Config.freeWord u.free)], { u with free := u.free + 1 })) ([], s)
  (r.2.onList ctx n (fun x => { x with head := x.head + m })).giveItems i r.1

/-- The takes that wait on a list are served while it holds items, in the order in which they came. -/
def State.serveTakers (s : State) (ctx n fuel : Nat) : State :=
  match fuel with
  | 0 => s
  | f + 1 =>
    let w := s.workList ctx n
    match w.takers with
    | [] => s
    | i :: rest =>
      if (s.op i).live = false then (s.onList ctx n (fun x => { x with takers := rest })).serveTakers ctx n f
      else if w.tail = w.head then s
      else ((s.onList ctx n (fun x => { x with takers := rest })).takeItems ctx n i).serveTakers ctx n f

/-- A take reaches its list. -/
def State.startTake (s : State) (i : Nat) : State :=
  let o := s.op i
  let ctx := s.ctxOf o.grp
  let n := (o.data.get 0).toNat
  let w := s.workList ctx n
  if (s.launchOf o.grp).quiescent then s.giveItems i []
  else if w.tail ≠ w.head then s.takeItems ctx n i
  else s.onList ctx n (fun x => { x with takers := x.takers ++ [i] })

/-- WLTAKE. -/
def execWltake (la : BitVec 4) (d a b : Reg) (s : State) : Out :=
  onceLanes s (fun t m =>
    if !t.listOk (t.ctxOf t.focus.grp) (t.sR a) then .next (t.illop 0x0B 0x52) else
    let r := t.newOp { t.opHere (.wltake la d a b) m with data := Store.put [] 0 (t.sR a) } la.toNat
    .next (r.1.startTake r.2))

/-- The lanes of an append that go to a list. -/
def Op.toList (o : Op) (m : Mask) (n : Nat) : List Nat := (lanesOf m).filter (fun L => (o.data.get (4 * L + 1)).toNat == n)

/-- WLAPP. -/
def execWlapp (la : BitVec 4) (a b : Reg) (s : State) : Out :=
  plainLanes s s.focus.mask (fun t m =>
    let ctx := t.ctxOf t.focus.grp
    let o : Op := { t.opHere (.wlapp la a b) m with
      data := (lanesOf m).foldl (fun (acc : Store Word) L => (acc.put (4 * L) (t.vR a L)).put (4 * L + 1) (t.vR b L)) [] }
    if (lanesOf m).any (fun L => !t.listOk ctx (t.vR b L))
        || (List.range 64).any (fun n => decide ((t.workList ctx n).capacity < (o.toList m n).length ∧ o.toList m n ≠ [])) then
      .next (t.illop 0x0B 0x52)
    else
      let r := t.newOp o la.toNat
      .next (r.1.post (.wlappAccept r.2)))

/-- One run enters its list when it fits whole: the ring words are written, waiting takes are served. The item of
a ring word that cannot be written is lost, and its place is taken all the same: R214 states nothing for such a
page (DESIGN CHOICE, log entry 9). -/
def State.appendRun (s : State) (i n : Nat) : State :=
  let o := s.op i
  let ctx := s.ctxOf o.grp
  let lanes := o.toList (o.mask &&& ~~~o.have_) n
  let w := s.workList ctx n
  if lanes = [] ∨ w.capacity < w.tail - w.head + lanes.length then s else
  let s1 := lanes.zipIdx.foldl (fun (st : State) e =>
    match st.agentWrite ctx (w.word (w.tail + e.2)) (splitBytes (o.data.get (4 * e.1)).toNat 4) [0, 1, 2] with
    | .ok (t, _) => t
    | .error _ => st) s
  let s2 := (s1.onList ctx n (fun x => { x with tail := x.tail + lanes.length })).onOp i
    (fun x => { x with have_ := x.have_ ||| maskOf (fun L => lanes.contains L) })
  s2.serveTakers ctx n (w.takers.length + 1)

/-- R212, R214: the creating or appending split's earlier accesses are complete, it has released at
device scope, and the completion times have passed. Every earlier long-latency instruction of the split counts
as an earlier access, a FLONG, an MMA or a WLTAKE too: the rules do not say which do (DESIGN CHOICE, log entry 72). -/
def State.releasedOp (s : State) (i : Nat) : State × Bool :=
  let o := s.op i
  if !((s.splitOf o.grp o.uid).out.all (fun e => decide (i ≤ e.op))) then (s, false) else
  let s1 := if o.next = 0 then (s.releaseAt o.grp o.uid 2).onOp i (fun x => { x with next := 1 }) else s
  (s1, decide ((s1.splitOf o.grp o.uid).times.device ≤ s1.now))

/-- R214: the lists accept the runs of an append. -/
def execWlappAccept (op : Nat) (s : State) : Out :=
  let o := s.op op
  match o.instr with
  | .wlapp _ _ _ =>
    if o.live = false then .next s else
    let r := s.releasedOp op
    if !r.2 then .next (r.1.later (.wlappAccept op)) else
    let s1 := (List.range 64).foldl (fun (st : State) n => st.appendRun op n) r.1
    if (s1.op op).have_ = o.mask then .next (s1.completeOp op) else .next (s1.later (.wlappAccept op))
  | _ => .next s

/-! ### Quiescence (R216) -/

def isAppend (i : Instr) : Bool := match i with | .wlapp _ _ _ => true | _ => false

/-- The conditions of R216 for a launch. A take that has its items has ended; an append of a pre-empted block is in
flight. The rules do not say whether a split that was blocked in WLTAKE when its block was pre-empted is blocked
still: a launch with a saved block is not quiescent (DESIGN CHOICE, log entry 78). A split that the stub has stopped in
its WLTAKE is blocked as before (R215, R368). -/
def State.quiet (s : State) (l : Nat) : Bool :=
  let x := s.launches.get l
  let c := s.ctxs.get x.ctx
  x.live && !x.quiescent && x.placed == x.rec_.blocks
    && c.saved.all (fun v => v.block.launch != l && v.ops.all (fun e => !isAppend e.2.instr))
    && (s.launchGroups l).all (fun g => (s.group g).splits.all (s.takeHeld g))
    && (s.launchGroups l) != []
    && c.lists.all (fun e => e.2.tail == e.2.head)
    && s.ops.all (fun e => !(e.2.live && isTake e.2.instr && e.2.status == .accepted && (s.blockOf e.2.grp).launch == l))
    && s.ops.all (fun e => !(e.2.live && s.ctxOf e.2.grp == x.ctx && isAppend e.2.instr))

/-- R216, R358: both Knell replicas declare a launch quiescent; its takes complete with nothing. A
disagreement withholds the declaration. -/
def execKnellQuiescence (launch : Nat) (s : State) : Out :=
  if !s.quiet launch || (s.launches.get launch).disagree.isSome then .next s else
  let s1 := s.onLaunch launch (fun x => { x with quiescent := true })
  .next (s1.ops.foldl (fun (st : State) e =>
    if e.2.live && isTake e.2.instr && e.2.status != .accepted && (st.blockOf e.2.grp).launch == launch then
      (st.onCtx (st.ctxOf e.2.grp) (fun c => { c with lists := c.lists.map (fun w =>
        (w.1, { w.2 with takers := w.2.takers.filter (fun i => i != e.1) })) })).giveItems e.1 []
    else st) s1)

/-! ### Replay -/

/-- R102, R330, R335: a logged instruction replays. -/
def State.replayOp (s : State) (i : Nat) : State :=
  let o := s.op i
  if !o.live then s else
  match shapeOf o.instr with
  | some h =>
    if o.status = .accepted then
      s.post (if h.move = .load ∨ h.move = .atom then .loadDataReturn i else .storeAcceptReply i)
    else (s.onOp i (fun x => { x with status := .walking, next := if isStl x.instr then 0 else x.next })).restart i
  | none =>
    let t := s.onOp i (fun x => { x with status := if x.status = .accepted then .accepted else .flying })
    match o.instr with
    | .launch _ _ _ => if o.status = .accepted then t.post (.loadDataReturn i) else t.startChildren i
    | .wlapp _ _ _ => (t.onOp i (fun x => { x with next := 0 })).post (.wlappAccept i)
    | .wltake _ _ _ _ => if o.status = .accepted then t.post (.loadDataReturn i) else t.startTake i
    | _ =>
      if entersEngine o.instr then t.acceptEngine (coreOfGroup o.grp) 8
      else if o.status = .accepted then t.post (.loadDataReturn i)
      else t.stashRun (s.group o.grp).block ((t.stashQueue (s.group o.grp).block).length + 1)

end Sys2Proof.Machine
end

