-- ==== Sys2Proof/Machine/Launches.lean ====
section
/-! DEFINITION. Launches from acceptance to completion: the checks of a submitted record (R211, R212, R318),
placement and pre-emption by priority (R41, R42, R323), completion (R319), time slices (R324), restores
(R335), waiting budgets (R325, R326) and the Knell's disagreements (R358). -/

namespace Sys2Proof.Machine

/-! ### Acceptance -/

/-- The hardware queue and packet of a graph run. -/
def State.runQueue (s : State) (r : Nat) : Nat × Word := ((s.runs.get r).queue, (s.queues.get (s.runs.get r).queue).head)

/-- An error posted to a hardware queue's context, naming the queue's current packet. -/
def State.queueError (s : State) (q : Nat) (e : ErrorRec) : State :=
  s.postError (s.queues.get q).ctx { e with queue := BitVec.ofNat 32 q, packet := (s.queues.get q).head }

/-- R211: a lane of a LAUNCH has its answer; with the last, the instruction's data return. -/
def State.answerChild (s : State) (i L : Nat) (code : Word) : State :=
  let s1 := s.onOp i (fun o => { o with got := o.got.put (4 * L) code, have_ := o.have_ ||| maskOf (fun K => K == L) })
  if (s1.op i).have_ = (s1.op i).mask then (s1.onOp i (fun o => { o with status := .accepted })).post (.loadDataReturn i) else s1

/-- The submission is no longer pending. -/
def State.dropSub (s : State) (sub : Nat) : State := { s with subs := s.subs.filter (fun e => e.1 != sub) }

/-- A child's record (R211, R212): read once the creating split has released, in order of submission. While
its LAUNCH is saved by a pre-emption, or a page of it is being served, it waits, and later ones behind it. -/
def State.acceptChild (s : State) (sub : Nat) (x : Submission) (i L : Nat) : State :=
  let earlier := s.subs.any (fun e => decide (e.1 < sub) && e.2.ctx == x.ctx && (match e.2.origin with | .child _ _ => true | _ => false))
  if earlier || !(s.op i).live || decide ((s.op i).status ≠ .flying) then s.later (.launchAccept sub) else
  let r := s.releasedOp i
  if !r.2 then r.1.later (.launchAccept sub) else
  let t := r.1.dropSub sub
  match t.freeLaunch with
  | none => t.answerChild i L 0x80000001
  | some l =>
    let t := t.collectRecord x.ctx x.addr
    match t.checkRecord x.ctx x.addr with
    | .error _ => t.answerChild i L 0x80000002
    | .ok (rec_, e) =>
      if rec_.priority < x.floor then t.answerChild i L 0x80000003 else
      let me := t.launchOf (t.op i).grp
      let t1 := (t.acceptLaunch l x.ctx x.addr rec_ e me.queue me.packet none).onLaunch l (fun k => { k with child := true })
      t1.answerChild i L (t1.launches.get l).id

/-- The record of a LAUNCH node (R318, R321): with no slot free it waits. -/
def State.acceptNode (s : State) (sub : Nat) (x : Submission) (run node : Nat) : State :=
  match s.freeLaunch with
  | none => s.later (.launchAccept sub)
  | some l =>
    let t := (s.dropSub sub).collectRecord x.ctx x.addr
    let q := t.runQueue run
    match t.checkRecord x.ctx x.addr with
    | .error e => (t.queueError q.1 e).post (.graphNodeComplete run node)
    | .ok (rec_, e) => t.acceptLaunch l x.ctx x.addr rec_ e (some q.1) q.2 (some (run, node))

/-- LAUNCH_ACCEPT. The records of a context that is held or stopped wait until it runs again. -/
def execLaunchAccept (sub : Nat) (s : State) : Out :=
  match s.subs.find? (fun e => e.1 == sub) with
  | none => .next s
  | some (_, x) =>
    if (s.ctxs.get x.ctx).st ≠ .running then .next s else
    match x.origin with
    | .child i L => .next (s.acceptChild sub x i L)
    | .node run node => .next (s.acceptNode sub x run node)

/-- Blocks that wait for a launch slot for their successors try again (R135). -/
def State.retryEnds (s : State) : State :=
  (s.blocks.filter (fun e => e.2.live && e.2.groups == [] && e.2.successor.isSome)).foldl (fun (st : State) e =>
    if (st.blocks.get e.1).live && (st.blocks.get e.1).groups == [] then st.endBlock e.1 else st) s

/-! ### Placement -/

/-- Insert a launch into a list ordered by priority and order of acceptance (R323). -/
def State.insertWaiting (s : State) (l : Nat) (ls : List Nat) : List Nat :=
  let key (k : Nat) : Nat × Nat := ((s.launches.get k).rec_.priority, (s.launches.get k).order)
  match ls with
  | [] => [l]
  | k :: ks =>
    if (key l).1 < (key k).1 ∨ ((key l).1 = (key k).1 ∧ (key l).2 < (key k).2) then l :: k :: ks else k :: s.insertWaiting l ks

/-- The launches of running contexts that have blocks to place, in the order in which they are taken. -/
def State.waitingLaunches (s : State) : List Nat :=
  s.launches.foldl (fun (ls : List Nat) e =>
    if e.2.live && decide (e.2.placed < e.2.rec_.blocks) && decide ((s.ctxs.get e.2.ctx).st = .running) then s.insertWaiting e.1 ls
    else ls) []

/-- The next block of a launch, or all of them when it is co-resident, on dies that are not held back. -/
def State.tryPlace (s : State) (l : Nat) (ban : BitVec 8) : Option State :=
  let x := s.launches.get l
  if x.rec_.coresident then s.placeAll l ban (x.rec_.blocks - x.placed) else s.placeNext l ban

/-- The record of a saved block's launch. -/
def State.savedRecord (s : State) (v : Saved) : Record := (s.launches.get v.block.launch).rec_

/-- Insert a saved block into a list ordered by priority and by the order in which they began to wait again. -/
def State.insertSaved (s : State) (e : Nat × Saved) (ls : List (Nat × Saved)) : List (Nat × Saved) :=
  match ls with
  | [] => [e]
  | f :: fs =>
    let a := (s.savedRecord e.2).priority
    let b := (s.savedRecord f.2).priority
    if a < b ∨ (a = b ∧ e.2.turn < f.2.turn) then e :: f :: fs else f :: s.insertSaved e fs

/-- R324: the saved blocks of the running contexts, with their contexts, in the order in which they are taken. -/
def State.waitingSaved (s : State) : List (Nat × Saved) :=
  s.ctxs.foldl (fun (ls : List (Nat × Saved)) c =>
    if c.2.st = .running then c.2.saved.foldl (fun ls v => s.insertSaved (c.1, v) ls) ls else ls) []

/-- R323, R324: a waiting launch's next block is taken before a saved one. -/
def State.launchFirst (s : State) (l : Nat) (v : Saved) : Bool :=
  let x := s.launches.get l
  let p := (s.savedRecord v).priority
  decide (x.rec_.priority < p ∨ (x.rec_.priority = p ∧ x.order < v.turn))

/-- R42: the dies of the co-resident launches that wait to return and come before a launch. -/
def State.savedBan (s : State) (l : Nat) : BitVec 8 :=
  s.waitingSaved.foldl (fun (m : BitVec 8) e =>
    let r := s.savedRecord e.2
    if r.coresident && !s.launchFirst l e.2 then m ||| r.dieMask else m) 0

/-- The first launch of a list that can be placed. A co-resident launch that waits holds back the later
ones on the dies of its mask (R42); a child waits for the earlier children of its context and
priority to begin (R212). -/
def State.placeFirst (s : State) (ls : List Nat) (ban : BitVec 8) (seen : List (Nat × Nat)) : Option (Nat × State) :=
  match ls with
  | [] => none
  | l :: rest =>
    let x := s.launches.get l
    let key := (x.ctx, x.rec_.priority)
    match (if x.child && seen.contains key then none else s.tryPlace l (ban ||| s.savedBan l)) with
    | some t => some (l, t)
    | none => s.placeFirst rest (if x.rec_.coresident then ban ||| x.rec_.dieMask else ban)
        (if x.child && x.placed == 0 then key :: seen else seen)

/-- The next placement, if any. -/
def State.nextPlacement (s : State) : Option (Nat × State) := s.placeFirst s.waitingLaunches 0 []

/-- R323: the resident blocks on the dies of a record's mask with a priority number above its own. -/
def State.lowerBlocks (s : State) (r : Record) : List Nat :=
  (s.blocks.filter (fun e => e.2.live && r.dieMask.getLsbD (dieOfCore e.2.core)
    && decide (r.priority < (s.launches.get e.2.launch).rec_.priority))).map Prod.fst

/-- The machine without some blocks, to see whether a launch would fit. -/
def State.without (s : State) (bs : List Nat) : State :=
  { s with blocks := s.blocks.filter (fun e => !bs.contains e.1), groups := s.groups.filter (fun e => !bs.contains e.2.block) }

/-- The launch would fit if every block of lower priority left. -/
def State.fitsAbove (s : State) (l : Nat) : Bool :=
  ((s.without (s.lowerBlocks (s.launches.get l).rec_)).tryPlace l 0).isSome

/-- R323: the block to pre-empt for a waiting block: of the lowest priority, from the context whose slice
began earliest. -/
def State.victim (s : State) (r : Record) : Option Nat :=
  let bs := s.lowerBlocks r
  let pr (b : Nat) : Nat := (s.launches.get (s.blocks.get b).launch).rec_.priority
  let began (b : Nat) : Nat := ((s.ctxs.get (s.blocks.get b).ctx).sliceStart).getD 0
  let lowest := bs.foldl (fun m b => max m (pr b)) 0
  (bs.filter (fun b => pr b == lowest)).foldl (fun (best : Option Nat) b => match best with
    | none => some b
    | some a => if began b < began a then some b else some a) none

/-- A co-resident launch is pre-empted whole (R323). -/
def State.whole (s : State) (bs : List Nat) : List Nat :=
  let co := (bs.map (fun b => (s.blocks.get b).launch)).filter (fun l => (s.launches.get l).rec_.coresident)
  (s.blocks.filter (fun e => e.2.live && (bs.contains e.1 || co.contains e.2.launch))).map Prod.fst

/-! ### Restoring (R335) -/

/-- Restore a list of saved blocks, all or none: the operations logged replay first. -/
def State.restoreAll (s : State) (vs : List Saved) : Option State :=
  match vs with
  | [] => some s
  | v :: rest => match s.restorePlace v with
    | none => none
    | some p =>
      let s1 := s.restoreBlock v p.1 p.2
      let s2 := (v.ops.foldl (fun (st : State) e => st.replayOp e.1) s1).serveStub v.block.launch
      s2.restoreAll rest

/-- The saved blocks that go together: those of one co-resident launch, or one. -/
def together (s : State) (vs : List Saved) (v : Saved) : List Saved × List Saved :=
  if (s.launches.get v.block.launch).rec_.coresident then
    (vs.filter (fun w => w.block.launch == v.block.launch), vs.filter (fun w => w.block.launch != v.block.launch))
  else ([v], vs.filter (fun w => w != v))

/-- The restore of a context's saved block, with those that go with it. A frame whose zero bits are not zero
stops the context with ILLOP (R20), whose detail the spec does not state: a free value (log entry 9). -/
def State.restoreOne (s : State) (e : Nat × Saved) : Option State :=
  let parts := together s (s.ctxs.get e.1).saved e.2
  let s := parts.1.foldl (fun (st : State) v => st.collectAreas v) s
  match parts.1.mapM s.readAreas with
  | some vs => (s.onCtx e.1 (fun c => { c with saved := parts.2 })).restoreAll vs
  | none =>
    let r : TrapRecord := { launch := (s.launches.get e.2.block.launch).id, ctx := e.1, block := e.2.block.number, cause := .illop
                            detail := BitVec.ofNat 16 (Config.freeWord s.free).toNat, time := s.claveOf 0 }
    some ((({ s with free := s.free + 1 } : State).postTrap e.1 r).stopContext e.1 .stopped)

/-- The block could return if every block of lower priority left. -/
def State.returnsAbove (s : State) (e : Nat × Saved) : Bool :=
  ((s.without (s.lowerBlocks (s.savedRecord e.2))).restoreOne e).isSome

/-- R323: a waiting block of higher priority, on one of the dies, would pre-empt the block again. -/
def State.outranked (s : State) (v : Saved) : Bool :=
  let r := s.savedRecord v
  let above (w : Record) : Bool := decide (w.priority < r.priority) && w.dieMask &&& r.dieMask != 0
  s.waitingLaunches.any (fun l => above (s.launches.get l).rec_ && s.fitsAbove l)
    || s.waitingSaved.any (fun e => above (s.savedRecord e.2) && s.returnsAbove e)

/-- The first of a list of saved blocks that can return: its context, itself, and the machine after it. -/
def State.restoreFirst (s : State) (ls : List (Nat × Saved)) : Option (Nat × Saved × State) :=
  match ls with
  | [] => none
  | e :: rest =>
    match (if s.outranked e.2 then none else s.restoreOne e) with
    | some t => some (e.1, e.2, t)
    | none => s.restoreFirst rest

/-- The next restore, if any. -/
def State.nextRestore (s : State) : Option (Nat × Saved × State) := s.restoreFirst s.waitingSaved

/-- The machine once so many waiting blocks that can be placed or restored, in their order, have been. -/
def State.filled (s : State) (fuel : Nat) : State :=
  match fuel with
  | 0 => s
  | f + 1 => match s.nextPlacement, s.nextRestore with
    | some (l, t), some (_, v, u) => (if s.launchFirst l v then t else u).filled f
    | some (_, t), none | none, some (_, _, t) => t.filled f
    | none, none => s

/-- BLOCK_PLACEMENT: one placement, behind the saved blocks that come first; or one pre-emption by priority
for a launch that would then fit; otherwise the blocks that wait for their successors' room try again. -/
def execBlockPlacement (s : State) : Out :=
  match s.nextPlacement with
  | some (l, t) =>
    (match s.nextRestore with
    | some (c, v, _) => if s.launchFirst l v then .next (t.post .blockPlacement)
                        else .next ((s.post (.blockRestore c)).post .blockPlacement)
    | none => .next (t.post .blockPlacement))
  | none =>
    match s.waitingLaunches.findSome? (fun l => if s.fitsAbove l then s.victim (s.launches.get l).rec_ else none) with
    | some b => .next ((s.preemptBlocks (s.whole [b]) (some 1)).postWaiting.post .blockPlacement)
    | none => .next s.retryEnds

/-- BLOCK_RESTORE: one restore for a context, behind the blocks that come first and can be placed now; or one
pre-emption by priority for a block that would then return (R323). -/
def execBlockRestore (ctx : Nat) (s : State) : Out :=
  let mine := s.waitingSaved.filter (fun e => e.1 == ctx)
  if mine = [] then .next s else
  match s.nextRestore with
  | some (c, v, t) =>
    let first := match s.nextPlacement with
      | some (l, _) => s.launchFirst l v
      | none => false
    if first then .next ((s.post .blockPlacement).post (.blockRestore ctx))
    else if c = ctx then .next (t.retryEnds.post (.blockRestore ctx))
    else .next ((s.post (.blockRestore c)).post (.blockRestore ctx))
  | none =>
    match mine.findSome? (fun e => if s.returnsAbove e then s.victim (s.savedRecord e.2) else none) with
    | some b => .next ((s.preemptBlocks (s.whole [b]) (some 1)).postWaiting.post (.blockRestore ctx))
    | none => .next s

/-! ### Completion (R319) -/

/-- The buffers and update-only lines of a context go home, on every core. -/
def State.flushContext (s : State) (ctx : Nat) : State :=
  s.cores.foldl (fun (st : State) e =>
    let w := (st.cores.get e.1).wc
    let s1 := if w.held && w.ctxs.contains ctx then st.flushWc e.1 else st
    (s1.collectCore e.1 (fun x => x == ctx)).1) s

/-- The completion store of a launch, or error 0x09. -/
def State.completionStore (s : State) (l : Nat) : State :=
  let x := s.launches.get l
  if x.rec_.doneAddr = 0 then s else
  match s.hubStore x.ctx x.rec_.doneAddr x.rec_.doneValue with
  | (t, none, _) => t
  | (t, some c, _) => t.postError x.ctx (t.errorFor l { code := 9, address := x.rec_.doneAddr, detail := causeCode c })

/-- LAUNCH_COMPLETE. -/
def execLaunchComplete (launch : Nat) (s : State) : Out :=
  let x := s.launches.get launch
  if !x.live || decide (x.ended < x.rec_.blocks) then .next s else
  let s1 := s.flushContext x.ctx
  if s1.now < (s1.launches.get launch).settled then .next (s1.later (.launchComplete launch)) else
  let s2 := (s1.completionStore launch).onLaunch launch (fun _ => {})
  let s3 := match x.node with | some (r, n) => s2.post (.graphNodeComplete r n) | none => s2
  .next s3.retryEnds.postWaiting

/-! ### Time slices (R324) -/

/-- A die has a block of another context waiting that has the priority of one of the context's blocks there
and cannot be placed: it still waits once every block that can be placed has been. -/
def State.contended (s : State) (ctx d : Nat) : Bool :=
  let prios := (s.blocksOf ctx (fun k => k == d)).map (fun b => (s.launches.get (s.blocks.get b).launch).rec_.priority)
  if prios = [] then false else
  let t := s.filled 16384
  let here (c : Nat) (r : Record) : Bool := c != ctx && r.dieMask.getLsbD d && prios.contains r.priority
  t.waitingLaunches.any (fun l => here (t.launches.get l).ctx (t.launches.get l).rec_)
    || t.waitingSaved.any (fun e => here e.1 (t.savedRecord e.2))

/-- TIME_SLICE_EXPIRY. -/
def execTimeSliceExpiry (ctx : Nat) (s : State) : Out :=
  match (s.ctxs.get ctx).sliceStart with
  | none => .next s
  | some t =>
    if s.now < t + (s.ctxs.get ctx).sliceNs then .next s else
    let dies := (List.range 8).filter (fun d => s.contended ctx d)
    let bs := s.blocksOf ctx (fun d => dies.contains d)
    let s1 := s.onCtx ctx (fun c => { c with sliceStart := some s.now })
    if bs = [] then .next s1 else .next (s1.preemptBlocks (s1.whole bs) (some 0)).postWaiting

/-! ### Waiting budgets (R325, R326) -/

/-- What a snapshot entry says of a wait: kind, object, address, value A, value B. -/
structure WaitInfo where
  kind : Nat
  object : Nat := 0
  address : DWord := 0
  a : Nat := 0
  b : Nat := 0

/-- The place of a group in a list. -/
def placeIn (g : Nat) (l : List Nat) : Nat := l.findIdx (fun x => x == g)

/-- MACQ's value B: the owner's slot when it is the context's own. -/
def State.engineOwner (s : State) (ctx core : Nat) : Nat :=
  match (s.cores.get core).engine.owner with
  | none => 0xFFFFFFFF
  | some g => if s.ctxOf g = ctx then g % 64 else 0xFFFFFFFE

/-- The value that CQRY would return. -/
def Group.queryValue (k : Group) : Word := match k.closed with | m :: _ => m - 1 | [] => k.batchNo

/-- R326: a blocked split's wait. A wait that is charged only because its group holds the token has kind 9;
the waits of a split that is not blocked (R18) have no entry and no kind. -/
def State.waitInfo (s : State) (g : Nat) (w : Wait) : WaitInfo :=
  let k := s.group g
  let b := s.blocks.get k.block
  let core := coreOfGroup g
  let other (i : WaitInfo) : WaitInfo := if s.token.holder = some g then { kind := 9 } else i
  match w with
  | .barrier n t => { kind := 1, object := n, a := (t + 1).toNat, b := (b.bars.get n).arrived + 65536 * s.expected k.block n }
  | .push n ws _ => { kind := 2, object := n, a := ws.length, b := (b.queues.get n).count }
  | .pop n _ m _ => { kind := 3, object := n, a := laneCount m, b := (b.queues.get n).count }
  | .signal addr _ v last _ => { kind := 4, address := addr, a := v.toNat, b := last.toNat }
  | .engine => { kind := 5, a := placeIn g (s.cores.get core).engine.queue, b := s.engineOwner b.ctx core }
  | .products _ n => { kind := 7, a := n }
  | .c1bar n t _ _ => { kind := 8, object := n, a := (t + 1).toNat }
  | .batchClose _ => other { kind := 0x0A, a := k.closed.length }
  | .batch n => other { kind := 0x0B, a := n.toNat, b := k.queryValue.toNat }
  | .txSlot _ _ _ => other { kind := 0x0C, a := placeIn g ((s.cores.get core).txQueue.map Prod.fst) }
  | .token => other { kind := 0x0D, a := placeIn g (s.token.queue.map Prod.fst) }
  | .debug _ _ _ => { kind := 0x0E }
  | .gongFull => { kind := 0x0F }
  | _ => other { kind := 0 }

/-- R326: the 32 bytes of an entry. -/
def entryBytes (i : WaitInfo) (place launch number where_ : Nat) : List Byte :=
  layBytes 32 [(0, 4, i.kind % 256 + i.object % 256 * 256 + place), (4, 4, launch), (8, 4, number), (12, 4, where_),
    (16, 8, i.address.toNat), (24, 4, i.a), (28, 4, i.b)]

/-- The entry of a split: resident in its entry, or at its place in the spill area. -/
def State.splitEntry (s : State) (g : Nat) (x : Split) (i : WaitInfo) : List Byte :=
  let k := s.group g
  let place := match k.entryOf x.uid with
    | some e => e * 65536
    | none => 262144 + k.spill.findIdx (fun y => y.uid == x.uid) % 32 * 524288
  entryBytes i (place + g % 64 * 16777216) (s.launchOf g).id.toNat (s.blockOf g).number
    (k.index % 32 + dieOfGroup g * 256 + coreOfGroup g % 32 * 2048)

/-- The list that a split held in WLTAKE waits on. -/
def State.takeList (s : State) (x : Split) : Nat :=
  match x.out.find? (fun e => isTake (s.op e.op).instr) with
  | some e => ((s.op e.op).data.get 0).toNat
  | none => 0

/-- The entries of a group's blocked splits. -/
def State.groupEntries (s : State) (g : Nat) : List (List Byte) :=
  (s.group g).splits.filterMap (fun x =>
    match x.cond with
    | .blocked w => if w.isBlock then some (s.splitEntry g x (s.waitInfo g w)) else none
    | .runnable => if s.takeHeld g x then some (s.splitEntry g x { kind := 6, object := s.takeList x }) else none
    | .parked => none)

/-- A saved block as it stood, for the entries of its splits: they name the slots that its groups held (DESIGN
CHOICE, log entry 45). -/
def State.withSaved (s : State) (v : Saved) : State :=
  ({ s with
    groups := v.groups.foldl (fun m e => m.put e.1 e.2) s.groups
    blocks := s.blocks.put ((v.groups.headD (0, {})).2.block) v.block
    ops := v.ops.foldl (fun m e => m.put e.1 e.2) s.ops
    token := { s.token with holder := none, queue := [] } } : State).onCore v.block.core
      (fun k => { k with engine := { k.engine with queue := v.queued }, txQueue := [] })

/-- The entries of a context: its blocked splits, those of its saved blocks too, then its queues and nodes
stopped at a WAITSIG. -/
def State.waitEntries (s : State) (ctx : Nat) : List (List Byte) :=
  let groups := (s.groups.filter (fun e => e.2.live && s.ctxOf e.1 == ctx)).map Prod.fst
  let splits := groups.flatMap s.groupEntries
    ++ (s.ctxs.get ctx).saved.flatMap (fun v => v.groups.flatMap (fun e => (s.withSaved v).groupEntries e.1))
  let word (a : DWord) : Nat := match s.agentWord ctx a 4 with | .ok n => n | .error _ => 0
  let sig (kind : Nat) (bs : List Byte) (va vv : Nat) (n q : Nat) : List Byte :=
    let a : DWord := BitVec.ofNat 64 (fieldAt bs va 8)
    entryBytes { kind := kind, address := a, a := fieldAt bs vv 4, b := word a } 0 0xFFFFFFFF n (q * 65536)
  let queues := s.queues.filterMap (fun e =>
    match e.2.packet with
    | some p => if e.2.live && e.2.ctx == ctx && fieldAt p 0 1 == 0x14 && e.2.done.isNone
        then some (sig 0x10 p 8 0x18 e.2.head.toNat e.1) else none
    | none => none)
  let nodes := s.runs.flatMap (fun e => if e.2.live && e.2.ctx == ctx then
      (e.2.running.filter (fun n => fieldAt (e.2.nodes.get n) 8 1 == 2)).map (fun n => sig 0x11 (e.2.nodes.get n) 0x10 0x18 n e.2.queue)
    else [])
  splits ++ queues ++ nodes

/-- Two entries to a record. -/
def pairRecords : List (List Byte) → List (List Byte)
  | a :: b :: rest => (a ++ b) :: pairRecords rest
  | [a] => [a ++ layBytes 32 []]
  | [] => []

/-- WAITBUDGET_EXPIRY: the snapshot, then everything the context holds is released, launch slots too. -/
def execWaitbudgetExpiry (block : Nat) (s : State) : Out :=
  let b := s.blocks.get block
  if !b.live || decide (s.clockOf block < (s.ctxs.get b.ctx).budgetNs) || decide ((s.ctxs.get b.ctx).st ≠ .running) then .next s else
  let es := s.waitEntries b.ctx
  let head : TrapRecord :=
    { launch := (s.launches.get b.launch).id, core := b.core % 32, die := dieOfCore b.core, ctx := b.ctx, block := b.number
      detail := BitVec.ofNat 16 es.length, cause := .waitBudget, time := s.claveOf (dieOfCore b.core) }
  let s1 := (pairRecords es).foldl (fun (st : State) bs => st.ringWrite b.ctx (fun _ => bs) false) (s.postTrap b.ctx head)
  let s2 : State := { s1 with
    launches := s1.launches.map (fun e => (e.1, if e.2.live && e.2.ctx == b.ctx then { e.2 with slotFree := true } else e.2)) }
  .next (s2.stopContext b.ctx .held).retryEnds

/-! ### The Knell (R358) -/

/-- KNELL_DISAGREEMENT: the declaration is withheld from now on, and error 0x0A is posted once for a launch, when a
complex is active. -/
def execKnellDisagreement (launch : Nat) (s : State) : Out :=
  let x := s.launches.get launch
  if !x.live || x.quiescent then .next s else
  let s1 := if x.errorPosted || !s.fw.up then s else s.postError x.ctx (s.errorFor launch { code := 0x0A })
  .next (s1.onLaunch launch (fun k => { k with
    errorPosted := true, errorDue := k.errorDue || (!k.errorPosted && !s.fw.up), disagree := some (k.disagree.getD s.now) }))

/-- R343: the errors of disagreements that came while no complex was active are posted once one is. -/
def State.payErrors (s : State) : State :=
  if !s.fw.up then s else
  s.launches.foldl (fun (st : State) e => if e.2.errorDue then
    (st.postError e.2.ctx (st.errorFor e.1 { code := 0x0A })).onLaunch e.1 (fun k => { k with errorDue := false }) else st) s

/-- KNELL_RECOUNT_TIMEOUT: both replicas take the recount and evaluate again. -/
def execKnellRecountTimeout (launch : Nat) (s : State) : Out :=
  match (s.launches.get launch).disagree with
  | none => .next s
  | some t =>
    if !s.fw.up || decide (s.now < t + 10000000) then .next s
    else .next ((s.onLaunch launch (fun k => { k with disagree := none })).post (.knellQuiescence launch))

/-- R358: the replicas agree again before that. -/
def State.replicasAgree (s : State) (launch : Nat) : State := s.onLaunch launch (fun k => { k with disagree := none })

end Sys2Proof.Machine
end

