-- ==== Sys2Proof/Machine/Queues.lean ====
section
/-! DEFINITION. Hardware queues and their packets (R314, R315), the arming of launches by the firmware
(R138), and graph runs (R320–R322). -/

namespace Sys2Proof.Machine

/-! ### Carillon's mirror and journal (R347, R349) -/

/-- R354: a link runs on 4 lanes, then 2, then 1; with none the port is removed from routing. -/
def Port.width (p : Port) : Nat :=
  match laneCount (p.lanesOut.setWidth 32) with
  | 0 => 4 | 1 => 2 | 2 => 2 | 3 => 1 | _ => 0

/-- Section 2 holds the record and the state of a context (R347). -/
def Context.record (c : Context) : Context :=
  { c with dropped := false, sliceStart := none, lists := [], saved := [], top := [], ckpts := [] }

/-- R347: the state table, in the section layouts of an image. -/
def State.sections (s : State) (image : Word) : Mirror :=
  { layout := image
    queues := s.queues
    ctxs := s.ctxs.map (fun e => (e.1, e.2.record))
    runs := s.runs
    slots := s.launches.foldl (fun (m : Store (Word × Nat × Option Nat × Word)) e =>
      if e.2.live then m.put e.1 (e.2.id, e.2.ctx, e.2.queue, e.2.packet) else m) []
    routes := s.ports.map (fun e => (e.1, e.2.width, e.2.credits))
    faults := (s.faults.filter (fun f => f.2.sent)).map Prod.fst
    mailbox := s.fw.doorbell
    command := if s.fw.busy then some (s.fw.taken.get 0x80).toNat else none }

/-- R292, R293, R347: the size of a section as an image knows it, in 8-byte units, and the header that it writes:
kind 0x20 and the section's layout version. -/
def sectionSize (image : Word) (k : Nat) : Nat := 1 + (Config.sectionLayout image k).2 % 255
def sectionHeader (image : Word) (k : Nat) : Nat :=
  0x20 + 256 * (1 + (Config.sectionLayout image k).1 % 255) + 65536 * sectionSize image k

/-- R292, R347: an image accepts every section of a table. -/
def Mirror.accepted (m : Mirror) (image : Word) : Bool :=
  (List.range 7).all (fun i =>
    headerOk (sectionHeader m.layout (i + 1)) 0x20 (sectionSize image (i + 1))
      && (sectionSize m.layout (i + 1) == sectionSize image (i + 1)
        || Config.sectionTail m.layout (i + 1) (sectionSize image (i + 1))))

/-- R347: a rejected import posts error 0x01 to the event ring of every context. -/
def State.importRejected (s : State) : State :=
  s.ctxs.foldl (fun (st : State) e => if e.2.st = .none then st else st.postError e.1 { code := 1, detail := 0x20 }) s

/-- The journal's packets that have begun and are not complete. -/
def openEntries (js : List JournalEntry) : List JournalEntry :=
  js.filter (fun e => !e.complete && !(js.any (fun f => f.complete && f.queue == e.queue && f.packet == e.packet)))

/-- The sections go to the standby; outside probation the journal then keeps only the open packets. -/
def State.mirrorNow (s : State) : State :=
  if !s.fw.standbyUp then s.onFw (fun f => { f with lastMirror := s.now }) else
  s.onFw (fun f => { f with mirror := s.sections s.fw.activeImage, lastMirror := s.now
                            journal := if f.update = .probation then f.journal else openEntries f.journal })

/-- A packet's journal entry: begun, or complete. -/
def State.journalBegin (s : State) (q : Nat) (packet : Word) : State :=
  s.onFw (fun f => { f with journal := f.journal ++ [{ queue := q, packet := packet, time := (s.claveOf 0).toNat, complete := false }] })
def State.journalEnd (s : State) (q : Nat) (packet : Word) : State :=
  s.onFw (fun f => { f with journal := f.journal ++ [{ queue := q, packet := packet, time := (s.claveOf 0).toNat, complete := true }] })

/-! ### Packets -/

/-- The words of a packet. -/
def packetWord (p : List Byte) (off : Nat) : Word := BitVec.ofNat 32 (fieldAt p off 4)
def packetPair (p : List Byte) (off : Nat) : DWord := BitVec.ofNat 64 (fieldAt p off 8)

/-- R315: the fields that a kind of packet keeps zero. -/
def packetZeros (kind : Nat) (p : List Byte) : Bool :=
  match kind with
  | 0x10 => zeroAt p 0x20 32 && decide (fieldAt p 0x1C 4 < 4)
  | 0x11 => decide (fieldAt p 8 8 < 2 ^ 36) && zeroAt p 0x10 48
  | 0x12 => zeroAt p 0x1C 4 && decide (fieldAt p 0x2C 4 < 4) && zeroAt p 0x30 16
  | 0x13 => zeroAt p 0x10 8 && decide (fieldAt p 0x1C 4 < 4) && zeroAt p 0x20 32
  | _ => zeroAt p 0x10 8 && zeroAt p 0x1C 4 && zeroAt p 0x20 32

/-- The event by which a packet acts. -/
def packetEvent (kind q : Nat) : Instr :=
  match kind with
  | 0x10 => .graph q | 0x11 => .xferPacket q | 0x12 => .checkpoint q | 0x13 => .signal q | _ => .waitsig q

/-- The current packet is done, at the earliest at an instant. -/
def State.packetDone (s : State) (q t : Nat) : State :=
  (s.onQueue q (fun x => { x with done := some t })).post (.packetComplete q)

/-- A packet is rejected: it is skipped. -/
def State.rejectPacket (s : State) (q : Nat) (e : ErrorRec) : State := (s.queueError q e).packetDone q s.now

/-- A queue stops until the driver restarts it (R314). -/
def State.stopQueue (s : State) (q : Nat) (e : ErrorRec) : State :=
  (s.queueError q e).onQueue q (fun x => { x with stopped := true })

/-- The slot of a queue's ring that holds a packet. -/
def HQueue.slotAddr (x : HQueue) (packet : Word) : DWord := x.ring + BitVec.ofNat 64 (64 * (packet.toNat % 2 ^ x.slots))

/-- The next packet begins (R314): its slot is read whole, checked, and acts. -/
def State.beginPacket (s0 : State) (q : Nat) : State :=
  let x := s0.queues.get q
  let a := x.slotAddr x.head
  let s := s0.collectDescriptor x.ctx a 64
  let start (t : State) (p : List Byte) : State := (t.onQueue q (fun y => { y with packet := some p })).journalBegin q x.head
  match s.agentWord x.ctx a 1 with
  | .error f => (start s []).rejectPacket q { code := 9, address := a, detail := causeCode f.1 }
  | .ok kind =>
    if kind < 0x10 ∨ 0x14 < kind then (start s []).rejectPacket q { code := 1, address := a, detail := kind } else
    match s.descriptor x.ctx a kind 8 with
    | .error e => (start s []).rejectPacket q e
    | .ok p =>
      if packetZeros kind p then (start s p).post (packetEvent kind q)
      else (start s []).rejectPacket q { code := 1, address := a, detail := kind }

/-- Carillon reads a queue's tail (R314). -/
def State.readTail (s0 : State) (q : Nat) : State :=
  let x := s0.queues.get q
  if !x.live || x.stopped || x.packet.isSome || decide ((s0.ctxs.get x.ctx).st ≠ .running) then s0 else
  let s := s0.hubCollect x.ctx x.tailAddr 4
  match s.agentWord x.ctx x.tailAddr 4 with
  | .error f => s.stopQueue q { code := 9, address := x.tailAddr, detail := causeCode f.1 }
  | .ok t =>
    let n := (t + 2 ^ 32 - x.head.toNat) % 2 ^ 32
    if n = 0 then s
    else if 2 ^ x.slots < n then s.stopQueue q { code := 0x0B, address := x.tailAddr, detail := n }
    else s.beginPacket q

/-- QUEUE_TAIL_WRITE. -/
def execQueueTailWrite (queue : Nat) (s : State) : Out :=
  if !s.fw.up then .next (s.later (.queueTailWrite queue)) else .next (s.readTail queue)

/-- PACKET_COMPLETE: the head advances, with a release, and the next packet begins. DEDUCED (log entry 46): a head word
that cannot be written keeps its value, with no error. -/
def execPacketComplete (queue : Nat) (s : State) : Out :=
  let x := s.queues.get queue
  match x.packet, x.done with
  | some _, some t =>
    if !s.fw.up || decide (s.now < t) then .next (s.later (.packetComplete queue)) else
    let k := x.head + 1
    let s1 := s.onQueue queue (fun y => { y with head := k, packet := none, done := none })
    let s2 := match s1.agentWrite x.ctx x.headAddr (splitBytes k.toNat 4) [1, 2, 3] with
      | .ok (u, _) => u
      | .error _ => s1
    .next ((s2.journalEnd queue x.head).mirrorNow.readTail queue)
  | _, _ => .next s

/-- The current packet of a queue, while it has not acted: bytes and context. -/
def State.packetNow (s : State) (q kind : Nat) : Option (List Byte × Nat) :=
  let x := s.queues.get q
  match x.packet with
  | some p => if x.live && x.done.isNone && fieldAt p 0 1 == kind && (s.ctxs.get x.ctx).st == .running then some (p, x.ctx) else none
  | none => none

/-- A store that a packet makes (R315, R319): a failing one posts 0x09; the instant it is complete at its scope. -/
def State.packetStore (s : State) (q ctx : Nat) (a : DWord) (value : Word) (scope : Nat) : State × Nat :=
  match s.hubStore ctx a value with
  | (t, none, c) => (t, max t.now (c.at scope))
  | (t, some c, _) => (t.queueError q { code := 9, address := a, detail := causeCode c }, t.now)

/-- R343: what the active complex does waits while no complex is active. -/
def State.whenUp (s : State) (e : Instr) (o : Out) : Out := if s.fw.up then o else .next (s.later e)

/-- SIGNAL. -/
def execSignal (queue : Nat) (s : State) : Out :=
  s.whenUp (.signal queue) <|
  match s.packetNow queue 0x13 with
  | none => .next s
  | some (p, ctx) =>
    let r := s.packetStore queue ctx (packetPair p 8) (packetWord p 0x18) (fieldAt p 0x1C 1 % 4)
    .next (r.1.packetDone queue r.2)

/-- WAITSIG: the testing begins. Node 4096 stands for the packet itself. -/
def execWaitsig (queue : Nat) (s : State) : Out :=
  s.whenUp (.waitsig queue) <|
  match s.packetNow queue 0x14 with
  | none => .next s
  | some _ => .next (s.post (.waitsigSatisfied queue 4096))

/-! ### Requests of the firmware (R138) -/

/-- The version exists now and its entry passes R296. -/
def State.versionNow (s : State) (l v : Nat) : Option VersionEntry :=
  let x := s.launches.get l
  match s.readKernel x.ctx x.rec_.kernel with
  | none => none
  | some n => if n = 0 ∨ 16 < n ∨ n ≤ v then none else
    match s.readEntry x.ctx x.rec_.kernel v x.rec_.regs with
    | .ok e => some e
    | .error _ => none

/-- Every group of a launch is armed, saved ones too; the start version follows when it may. -/
def State.armLaunch (s : State) (l v : Nat) : State :=
  let x := s.launches.get l
  let mine (b : Nat) : Bool := (s.blocks.get b).live && (s.blocks.get b).launch == l
  let arm (g : Group) : Group := { g with armed := some v }
  let s1 : State := { s with groups := s.groups.map (fun e => (e.1, if e.2.live && mine e.2.block then arm e.2 else e.2)) }
  let s2 := s1.onSavedBlocks x.ctx (fun w => w.block.launch == l) (fun w => w.onGroups (fun _ g => arm g))
  let s3 := (s2.collectVersion x.ctx x.rec_.kernel v).onLaunch l (fun k => { k with requested := some v })
  match s3.versionNow l v with
  | some e => s3.onLaunch l (fun k => { k with start := v, entries := k.entries.put v e })
  | none => s3.postError x.ctx (s3.errorFor l { code := 5, address := x.rec_.kernel + BitVec.ofNat 64 (0x40 + 64 * v), detail := v })

/-- XFER_PACKET. -/
def execXferPacket (queue : Nat) (s : State) : Out :=
  s.whenUp (.xferPacket queue) <|
  match s.packetNow queue 0x11 with
  | none => .next s
  | some (p, ctx) =>
    let id := packetWord p 8
    match s.launches.find? (fun e => e.2.live && e.2.ctx == ctx && e.2.id == id) with
    | none => .next (s.rejectPacket queue { code := 6, address := (s.queues.get queue).slotAddr (s.queues.get queue).head })
    | some e => .next ((s.armLaunch e.1 (fieldAt p 0xC 1 % 16)).packetDone queue s.now)

/-! ### Graph tables (R320) -/

/-- A node's fields. -/
structure NodeFields where
  initial : Nat
  type : Nat
  operand : DWord
  value : Nat
  scope : Nat
  next : List Nat

def parseNode (bs : List Byte) : NodeFields :=
  { initial := fieldAt bs 0xA 2, type := fieldAt bs 8 1, operand := packetPair bs 0x10, value := fieldAt bs 0x18 4
    scope := fieldAt bs 0x1C 4, next := (List.range (min 6 (fieldAt bs 9 1))).map (fun m => fieldAt bs (0x20 + 2 * m) 2) }

/-- The body of a WHILE: the first and the last node. -/
def NodeFields.body (n : NodeFields) : Nat × Nat := (n.value % 65536, n.value / 65536)

/-- R320, R321: what a node must hold in a table of so many nodes. -/
def nodeOk (count i : Nat) (bs : List Byte) : Bool :=
  let n := parseNode bs
  let k := fieldAt bs 9 1
  decide (n.initial < 4096 ∧ k ≤ 6 ∧ n.type ≤ 5 ∧ n.scope < 4) && zeroAt bs 0xE 2 && zeroAt bs 0x2C 20
    && zeroAt bs (0x20 + 2 * k) (12 - 2 * k) && n.next.all (fun m => decide (m < count ∧ m ≠ i))
    && (if n.type = 4 then decide (n.body.1 ≤ n.body.2 ∧ n.body.2 < count)
        else if n.type = 5 then decide (n.value % 65536 < count) else true)

def nodeAddr (table : DWord) (i : Nat) : DWord := table + BitVec.ofNat 64 (0x40 + 64 * i)

/-- Read a node whole. -/
def State.readNode (s : State) (ctx : Nat) (table : DWord) (i : Nat) : Except ErrorRec (List Byte) :=
  s.descriptor ctx (nodeAddr table i) 8 8

/-- Read and check a table: the initial counts, or why it is rejected. -/
def State.readGraph (s : State) (ctx : Nat) (table : DWord) : Except ErrorRec (List Nat) :=
  match s.descriptor ctx table 7 2 with
  | .error e => .error e
  | .ok bs =>
    let n := fieldAt bs 8 4
    let bad : ErrorRec := { code := 1, address := table, detail := 7 }
    if n = 0 ∨ 4096 < n ∨ !zeroAt bs 0xC 4 ∨ table.toNat % 64 ≠ 0 then .error bad else
    (List.range n).foldlM (fun (acc : List Nat) i =>
      match s.readNode ctx table i with
      | .error e => .error e
      | .ok b => if nodeOk n i b then .ok (acc ++ [(parseNode b).initial]) else .error bad) []

/-- R279: the lines that the reads of a table collect. -/
def State.collectGraph (s : State) (ctx : Nat) (table : DWord) : State :=
  let t := s.collectDescriptor ctx table 16
  match t.agentWord ctx (table + 8) 4 with
  | .ok n => t.hubCollect ctx (table + 0x40) (64 * min n 4096)
  | .error _ => t

/-! ### Graph runs (R321, R322) -/

/-- A counter of the run; the sequencer writes it into the node too. -/
def State.setCounter (s : State) (r i n : Nat) : State :=
  let x := s.runs.get r
  let s1 := s.onRun r (fun y => { y with counters := y.counters.put i n })
  match s1.agentWrite x.ctx (nodeAddr x.table i + 0xC) (splitBytes n 2) [1, 2] with
  | .ok (t, _) => t
  | .error _ => s1

/-- A word read with an acquire at system scope; one that cannot be read posts 0x09 and counts as 0. -/
def State.conditionWord (s0 : State) (r : Nat) (a : DWord) : State × Word :=
  let s := s0.hubCollect (s0.runs.get r).ctx a 4
  match s.agentWord (s.runs.get r).ctx a 4 with
  | .ok n => (s, BitVec.ofNat 32 n)
  | .error f => (s.queueError (s.runs.get r).queue { code := 9, address := a, detail := causeCode f.1 }, 0)

/-- A node starts: it is read whole, and acts or waits for its completion. -/
def State.startNode (s0 : State) (r i : Nat) : State :=
  let x := s0.runs.get r
  let s := s0.collectDescriptor x.ctx (nodeAddr x.table i) 64
  match s.readNode x.ctx x.table i with
  | .error e =>
    ((s.queueError x.queue e).onRun r (fun y => { y with
      nodes := y.nodes.put i (layBytes 64 [(8, 1, 6)]), running := y.running ++ [i] })).post (.graphNodeComplete r i)
  | .ok bs =>
    let n := parseNode bs
    let t := s.onRun r (fun y => { y with nodes := y.nodes.put i bs, running := y.running ++ [i] })
    match n.type with
    | 0 =>
      ({ t with
        subs := t.subs ++ [(t.nextSub, { ctx := x.ctx, addr := n.operand, origin := .node r i, floor := 0 })]
        nextSub := t.nextSub + 1 } : State).post (.launchAccept t.nextSub)
    | 1 =>
      let w := t.packetStore x.queue x.ctx n.operand (BitVec.ofNat 32 n.value) (n.scope % 4)
      (w.1.onRun r (fun y => { y with times := y.times.put i w.2 })).post (.graphNodeComplete r i)
    | 2 => t.post (.waitsigSatisfied r i)
    | _ => t.post (.graphNodeComplete r i)

/-- R338: node starts are held from a checkpoint's boundary until it has begun. -/
def State.startsHeld (s : State) (ctx : Nat) : Bool :=
  let c := s.ctxs.get ctx
  decide (c.st ≠ .running) || (match c.ckpts with
    | k :: _ => !k.begun && s.launches.all (fun e => !(e.2.live && e.2.ctx == ctx))
    | [] => false)

/-- Start the nodes that have reached 0, in ascending order. -/
def State.startReady (s : State) (r : Nat) : State :=
  let x := s.runs.get r
  if !x.live || x.ready == [] || s.startsHeld x.ctx then s else
  let order := (List.range x.count).filter (fun i => x.ready.contains i)
  order.foldl (fun (st : State) i => st.startNode r i) (s.onRun r (fun y => { y with ready := [] }))

/-- R321: a run that has nothing running and nothing to start ends: its packet's completion store is made. -/
def State.endRun (s : State) (r : Nat) : State :=
  let x := s.runs.get r
  if !x.live || x.running != [] || x.ready != [] then s else
  let s1 := s.onRun r (fun _ => {})
  match (s1.queues.get x.queue).packet with
  | none => s1
  | some p =>
    let a := packetPair p 0x10
    if a = 0 then s1.packetDone x.queue s1.now else
    let w := s1.packetStore x.queue x.ctx a (packetWord p 0x18) (fieldAt p 0x1C 1 % 4)
    w.1.packetDone x.queue w.2

/-- The WHILE nodes whose body has ended with a node read their words again. -/
def State.leaveBodies (s : State) (r i : Nat) : State :=
  (s.runs.get r).bodies.foldl (fun (st : State) b =>
    if !b.2.contains i then st else
    let rest := b.2.filter (fun k => k != i)
    let st1 := st.onRun r (fun y => { y with bodies := y.bodies.map (fun c => if c.1 = b.1 then (c.1, rest) else c) })
    if rest = [] then st1.post (.graphNodeComplete r b.1) else st1) s

/-- A node is complete: it releases successors, and those that reach 0 start. -/
def State.completeNode (s : State) (r i : Nat) (released : List Nat) : State :=
  let s1 := s.onRun r (fun y => { y with
    running := y.running.filter (fun k => k != i), nodes := y.nodes.erase i
    bodies := y.bodies.filter (fun b => b.1 != i) })
  let s2 := released.foldl (fun (st : State) m =>
    let n := (st.runs.get r).counters.get m
    if n = 0 then st else
    let st1 := st.setCounter r m (n - 1)
    if n = 1 then st1.onRun r (fun y => { y with ready := y.ready ++ [m] }) else st1) s1
  ((s2.leaveBodies r i).startReady r).endRun r

/-- A WHILE whose word is not zero: its body starts over. A node changed during the run names no node outside the
table (R322). -/
def State.startBody (s : State) (r i : Nat) (n : NodeFields) : State :=
  let body := (List.range (n.body.2 + 1)).filter (fun k => decide (n.body.1 ≤ k ∧ k < (s.runs.get r).count))
  let s1 := body.foldl (fun (st : State) k => st.setCounter r k ((st.runs.get r).initial.get k)) s
  (s1.onRun r (fun y => { y with
    bodies := y.bodies.filter (fun b => b.1 != i) ++ [(i, body)]
    ready := y.ready ++ body.filter (fun k => y.initial.get k == 0) })).startReady r

/-- GRAPH_NODE_COMPLETE, R321. -/
def execGraphNodeComplete (run node : Nat) (s : State) : Out :=
  let x := s.runs.get run
  if !x.live || !x.running.contains node then .next s else
  let n := parseNode (x.nodes.get node)
  match n.type with
  | 0 =>
    let busy := s.launches.any (fun e => e.2.live && e.2.node == some (run, node))
      || s.subs.any (fun e => decide (e.2.origin = .node run node))
    if busy then .next s else .next (s.completeNode run node n.next)
  | 1 => if s.now < x.times.get node then .next (s.later (.graphNodeComplete run node)) else .next (s.completeNode run node n.next)
  | 2 => .next s
  | 3 =>
    let w := s.conditionWord run n.operand
    let pick := if w.2 = 0 then n.next.take 2 |>.drop 1 else n.next.take 1
    .next (w.1.completeNode run node (pick ++ n.next.drop 2))
  | 4 =>
    if x.bodies.any (fun b => b.1 == node && b.2 != []) then .next s else
    let w := s.conditionWord run n.operand
    if w.2 = 0 then .next (w.1.completeNode run node n.next) else .next (w.1.startBody run node n)
  | 5 =>
    let l := s.launches.find? (fun e => e.2.live && e.2.node == some (run, n.value % 65536))
    let s1 := match l with | some e => s.armLaunch e.1 (n.value / 65536 % 16) | none => s
    .next (s1.completeNode run node n.next)
  | _ => .next (s.completeNode run node [])

/-- The address and the value that a WAITSIG packet or node waits for. -/
def State.awaited (s : State) (run node : Nat) : Option (Nat × DWord × Word) :=
  if node = 4096 then (s.packetNow run 0x14).map (fun p => (p.2, packetPair p.1 8, packetWord p.1 0x18))
  else
    let x := s.runs.get run
    let bs := x.nodes.get node
    if x.live && x.running.contains node && fieldAt bs 8 1 == 2 && (s.ctxs.get x.ctx).st == .running then
      some (x.ctx, packetPair bs 0x10, packetWord bs 0x18)
    else none

/-- WAITSIG_SATISFIED, R315, R321: the word is tested; it is tested again until it is at least the value. The command
processor tests a packet's, the sequencer a node's. -/
def execWaitsigSatisfied (run node : Nat) (s0 : State) : Out :=
  if decide (node = 4096) && !s0.fw.up then .next (s0.later (.waitsigSatisfied run node)) else
  match s0.awaited run node with
  | none => .next s0
  | some (ctx, a, v) =>
    let s := s0.hubCollect ctx a 4
    let finish (t : State) : State :=
      if node = 4096 then t.packetDone run t.now else t.completeNode run node (parseNode ((t.runs.get run).nodes.get node)).next
    match s.agentWord ctx a 4 with
    | .ok n => if v.toNat ≤ n then .next (finish s) else .next (s.later (.waitsigSatisfied run node))
    | .error f =>
      let q := if node = 4096 then run else (s.runs.get run).queue
      .next (finish (s.queueError q { code := 9, address := a, detail := causeCode f.1 }))

/-- The lowest run number that is free. -/
def State.freeRun (s : State) : Nat := ((List.range (s.runs.length + 1)).find? (fun r => !(s.runs.get r).live)).getD 0

/-- GRAPH, R321, R322. -/
def execGraph (queue : Nat) (s0 : State) : Out :=
  s0.whenUp (.graph queue) <|
  match s0.packetNow queue 0x10 with
  | none => .next s0
  | some (p, ctx) =>
    let table := packetPair p 8
    if s0.runs.any (fun e => e.2.live && e.2.queue == queue) then .next s0
    else if s0.runs.any (fun e => e.2.live && e.2.ctx == ctx && e.2.table == table) then .next (s0.later (.graph queue))
    else
    let s := s0.collectGraph ctx table
    match s.readGraph ctx table with
      | .error e => .next (s.rejectPacket queue e)
      | .ok counts =>
        let r := s.freeRun
        let initial : Store Nat := counts.zipIdx.foldl (fun (m : Store Nat) e => m.put e.2 e.1) []
        let fresh : GraphRun := { live := true, ctx := ctx, table := table, count := counts.length, queue := queue, initial := initial }
        let s1 := counts.zipIdx.foldl (fun (st : State) e => st.setCounter r e.2 e.1) (s.onRun r (fun _ => fresh))
        let zero := (List.range counts.length).filter (fun i => initial.get i == 0)
        .next (((s1.onRun r (fun y => { y with ready := zero })).startReady r).endRun r)

end Sys2Proof.Machine
end

