-- ==== Sys2Proof/Machine/Checkpoints.lean ====
section
/-! DEFINITION. Checkpoints of a context (R337–R340) and the service of faults (R330). -/

namespace Sys2Proof.Machine

/-! ### The manifest (R337) -/

/-- The class of a page, by the heap window or the leaf that maps it. -/
def State.pageClass (s : State) (ctx vpage : Nat) : Option (BitVec 2) :=
  let x := s.ctxs.get ctx
  if inWindow x (BitVec.ofNat 64 (4096 * vpage)) then some (windowEntry x ctx vpage).cls
  else (s.leafOf ctx (vpage % 2 ^ 45)).map (fun r => r.2.cls)

/-- R337: every page of a range that is mapped is of class 1 or 2. -/
def State.rangeClassOk (s : State) (ctx : Nat) (r : DWord × Nat) : Bool :=
  (List.range (r.2 / 4096)).all (fun i => (s.pageClass ctx (r.1.toNat / 4096 + i)).all (fun c => c == 1 || c == 2))

/-- The ranges of a manifest, or why it is rejected. -/
def State.readManifest (s : State) (ctx : Nat) (a : DWord) : Except ErrorRec (List (DWord × Nat)) :=
  match s.descriptor ctx a 0x0A 4 with
  | .error e => .error e
  | .ok bs =>
    let n := fieldAt bs 8 4
    let bad : ErrorRec := { code := 1, address := a, detail := 0x0A }
    if n = 0 ∨ 1024 < n ∨ !zeroAt bs 0xC 4 ∨ !zeroAt bs 0x18 8 then .error bad else
    match s.agentRead ctx (a + 0x20) (16 * n) [1, 2] with
    | .error f => .error { code := 9, address := a, detail := causeCode f.1 }
    | .ok rs =>
      let ranges := (List.range n).map (fun i => (packetPair rs (16 * i), fieldAt rs (16 * i + 8) 8))
      if ranges.all (fun r => decide (r.1.toNat % 4096 = 0 ∧ r.2 % 4096 = 0) && s.rangeClassOk ctx r) then .ok ranges else .error bad

/-- R279: the lines that the reads of a manifest collect. -/
def State.collectManifest (s : State) (ctx : Nat) (a : DWord) : State :=
  let t := s.collectDescriptor ctx a 32
  match t.agentWord ctx (a + 8) 4 with
  | .ok n => t.hubCollect ctx (a + 0x20) (16 * min n 1024)
  | .error _ => t

/-- The length of the manifest copy: the manifest with a SHA-384 after each range entry (R339). -/
def Ckpt.copyLength (k : Ckpt) : Nat := 32 + 64 * k.ranges.length

/-- The address of the slot written. -/
def Ckpt.slotAddr (k : Ckpt) : DWord := k.target + BitVec.ofNat 64 (k.slot * k.slotBytes)

/-- Where a page's data stand in the slot: the data of the ranges follow the manifest copy, in order. -/
def Ckpt.dataAt (k : Ckpt) (vpage : Nat) : DWord :=
  let r := k.ranges.foldl (fun (st : Nat × Option Nat) x =>
    let lo := x.1.toNat / 4096
    (st.1 + x.2, st.2 <|> (if lo ≤ vpage ∧ vpage < lo + x.2 / 4096 then some (st.1 + 4096 * (vpage - lo)) else none))) (0, none)
  k.slotAddr + BitVec.ofNat 64 (0x40 + k.copyLength + r.2.getD 0)

/-! ### The target's slots (R339, R340) -/

/-- The low and the high half of a digest, as bytes; the digest is big-endian. -/
def digestBytes (bs : List Byte) : List Byte := (splitBytes (sha384 bs).toNat 48).reverse

/-- The data of a slot's range, read back. -/
def State.slotData (s : State) (ctx : Nat) (a : DWord) (n : Nat) : List Byte :=
  match s.agentRead ctx a n [0, 1, 2, 3] with
  | .ok bs => bs
  | .error _ => []

/-- The sequence of a slot's commit, 0 when it is not valid: the hashes of the manifest copy and of each
range's data must match. -/
def State.slotSequence (s : State) (ctx : Nat) (a : DWord) : Nat :=
  match s.agentRead ctx a 64 [0, 1, 2, 3] with
  | .error _ => 0
  | .ok rec_ =>
    let n := fieldAt rec_ 8 4
    let copy := s.slotData ctx (a + 0x40) n
    let count := fieldAt copy 8 4
    if n ≠ 32 + 64 * count ∨ 1024 < count then 0 else
    let ends := (List.range count).foldl (fun (st : Nat × Bool) i =>
      let len := fieldAt copy (0x20 + 64 * i + 8) 8
      let data := s.slotData ctx (a + BitVec.ofNat 64 (0x40 + n + st.1)) len
      (st.1 + len, st.2 && ((copy.drop (0x20 + 64 * i + 16)).take 48 == digestBytes data))) (0, true)
    if fieldAt rec_ 0 8 ≠ 0 ∧ (rec_.drop 0x10).take 48 = digestBytes copy ∧ ends.2 = true then fieldAt rec_ 0 8 else 0

/-! ### Starting (R337, R338) -/

/-- R327, R338: the page of a range: the window's, or that of the leaf that maps it. -/
def State.ckptPage (s : State) (ctx vpage : Nat) : Option CkptPage :=
  let x := s.ctxs.get ctx
  let v := vpage % 2 ^ 45
  if inWindow x (BitVec.ofNat 64 (4096 * vpage)) then
    some { vpage := vpage, frame := (windowEntry x ctx vpage).frame, leaves := [] }
  else (s.leafOf ctx v).map (fun r => { vpage := vpage, frame := r.2.frameAt v, leaves := r.1 })

/-- The pages of a list of ranges; one with no translation has no data. -/
def State.ckptPages (s : State) (ctx : Nat) (ranges : List (DWord × Nat)) : List CkptPage :=
  ranges.flatMap (fun r => (List.range (r.2 / 4096)).filterMap (fun i => s.ckptPage ctx (r.1.toNat / 4096 + i)))

/-- Set the copy-on-write bit of a table entry. -/
def setCow (m : Store Byte) (entry : Nat) : Store Byte := m.upd (entry + 7) (fun b => b ||| 0x10#8)

/-- Translations of a context that a test names leave every TLB. -/
def State.dropTlb (s : State) (ctx : Nat) (p : TlbEntry → Bool) : State :=
  let keep (t : List TlbEntry) : List TlbEntry := t.filter (fun e => !(e.ctx == ctx && p e))
  { s with
    cores := s.cores.map (fun e => (e.1, { e.2 with tlb := keep e.2.tlb }))
    dies := s.dies.map (fun e => (e.1, { e.2 with tlb := keep e.2.tlb })) }

/-- Update-only copies and owned lines of a frame go home, so that memory holds the boundary's bytes. -/
def State.settleFrame (s : State) (frame : Nat) : State :=
  (List.range 64).foldl (fun (st : State) i => (st.recall (64 * frame + i)).collect (64 * frame + i)) s

/-- The head checkpoint of a context. -/
def State.ckpt (s : State) (ctx : Nat) : Option Ckpt := (s.ctxs.get ctx).ckpts.head?

/-- Change it. -/
def State.onCkpt (s : State) (ctx : Nat) (f : Ckpt → Ckpt) : State :=
  s.onCtx ctx (fun c => { c with ckpts := match c.ckpts with | k :: ks => f k :: ks | [] => [] })

/-- An error of a checkpoint names its queue, when a packet started it. -/
def State.ckptError (s : State) (ctx : Nat) (k : Ckpt) (e : ErrorRec) : State :=
  match k.queue with
  | some q => s.queueError q e
  | none => s.postError ctx e

/-- Step 4 of R339: the packet or the notice completes, with its store; the next checkpoint may begin. A checkpoint
that has no commit record makes no store: it ends with the address 0. -/
def State.ckptDone (s : State) (ctx : Nat) (k : Ckpt) : State :=
  let s1 := s.onCtx ctx (fun c => { c with ckpts := c.ckpts.drop 1 })
  let w := if k.doneAddr = 0 then (s1, s1.now) else
    match s1.hubStore ctx k.doneAddr k.doneValue with
    | (t, none, c) => (t, max t.now (c.at k.doneScope.toNat))
    | (t, some c, _) => (t.ckptError ctx k { code := 9, address := k.doneAddr, detail := causeCode c }, t.now)
  match k.queue with
  | some q => w.1.packetDone q w.2
  | none => w.1

/-- Nodes that a boundary held start (R338). -/
def State.releaseStarts (s : State) (ctx : Nat) : State :=
  s.runs.foldl (fun (st : State) e => if e.2.live && e.2.ctx == ctx then st.startReady e.1 else st) s

/-- The boundary: the slot is chosen and its old sequence cleared, the bits are set and the translations
invalidated, the window's pages are copied, and the held nodes start. -/
def State.beginCkpt (s0 : State) (ctx : Nat) (k : Ckpt) (ranges : List (DWord × Nat)) : State :=
  let s := s0.hubCollect ctx k.target (2 * k.slotBytes)
  let n0 := s.slotSequence ctx k.target
  let n1 := s.slotSequence ctx (k.target + BitVec.ofNat 64 k.slotBytes)
  let slot := if n1 < n0 then 1 else 0
  let k0 : Ckpt := { k with ranges := ranges, slot := slot, sequence := BitVec.ofNat 64 (max n0 n1) }
  match s.agentWrite ctx k0.slotAddr (splitBytes 0 8) [1, 2] with
  | .error f => ((s.ckptError ctx k { code := 9, address := k0.slotAddr, detail := causeCode f.1 }).ckptDone ctx { k with doneAddr := 0 }).releaseStarts ctx
  | .ok (t, c) =>
    let pages := t.ckptPages ctx ranges
    let t0 := pages.foldl (fun (st : State) p => st.settleFrame p.frame) t
    let t1 : State := { t0 with mem := (pages.flatMap (fun p => p.leaves)).foldl setCow t0.mem }
    let t2 := t1.onCkpt ctx (fun _ => { k0 with begun := true, pages := pages, hold := c.system })
    let t3 := (t2.takePages ctx (fun p => p.leaves == [])).dropTlb ctx (fun e => pages.any (fun p => e.covers (p.vpage % 2 ^ 45)))
    (t3.post (.checkpointPageCopy ctx (match pages with | p :: _ => p.vpage | [] => 0))).releaseStarts ctx

/-- CHECKPOINT_BOUNDARY, R338: none of the context's launches is running. -/
def execCheckpointBoundary (ctx : Nat) (s : State) : Out :=
  match s.ckpt ctx with
  | none => .next s
  | some k =>
    if k.begun || !s.fw.up || s.launches.any (fun e => e.2.live && e.2.ctx == ctx) then .next s else
    let s := s.collectManifest ctx k.manifest
    match s.readManifest ctx k.manifest with
    | .error e => .next (((s.ckptError ctx k e).ckptDone ctx { k with doneAddr := 0 }).releaseStarts ctx)
    | .ok ranges => .next (s.beginCkpt ctx k ranges)

/-- A copied page goes to the target once the cleared sequence is there. After one that cannot be written the
checkpoint posts its error and does not commit (log entry 49). -/
def State.writePage (s : State) (ctx : Nat) (k : Ckpt) (p : Nat × List Byte) : State :=
  let s1 := s.onCkpt ctx (fun x => { x with streamed := x.streamed.filter (fun y => y.1 != p.1) })
  match s1.agentWrite ctx (k.dataAt p.1) p.2 [1, 2] with
  | .ok (t, _) => t
  | .error f =>
    if ((s1.ckpt ctx).getD k).failed then s1 else
    (s1.ckptError ctx k { code := 9, address := k.dataAt p.1, detail := causeCode f.1 }).onCkpt ctx (fun x => { x with failed := true })

/-- CHECKPOINT_PAGE_COPY, R338: one page is streamed, with those of its leaf, and the bit cleared; then the
next. With nothing left, the commit follows. -/
def execCheckpointPageCopy (ctx page : Nat) (s : State) : Out :=
  s.whenUp (.checkpointPageCopy ctx page) <|
  match s.ckpt ctx with
  | none => .next s
  | some k =>
    if !k.begun || k.committed.isSome then .next s
    else if s.now < k.hold then .next (s.later (.checkpointPageCopy ctx page)) else
    let s1 := s.takePages ctx (fun p => p.vpage == page)
    let s2 := (((s1.ckpt ctx).getD k).streamed).foldl (fun (st : State) p => st.writePage ctx k p) s1
    match ((s2.ckpt ctx).getD k).pages with
    | p :: _ => .next (s2.later (.checkpointPageCopy ctx p.vpage))
    | [] => .next (s2.post (.checkpointCommit ctx))

/-- The manifest copy: the target's current sequence in its field, a digest after each range entry. -/
def State.manifestCopy (s : State) (ctx : Nat) (k : Ckpt) : List Byte :=
  let entries := k.ranges.foldl (fun (st : List Byte × Nat) r =>
    let data := s.slotData ctx (k.slotAddr + BitVec.ofNat 64 (0x40 + k.copyLength + st.2)) r.2
    (st.1 ++ splitBytes r.1.toNat 8 ++ splitBytes r.2 8 ++ digestBytes data, st.2 + r.2)) ([], 0)
  layBytes 32 [(0, 8, header 0x0A 4), (8, 4, k.ranges.length), (0x10, 8, k.sequence.toNat)] ++ entries.1

/-- The commit record (R339). -/
def commitRecord (k : Ckpt) (copy : List Byte) : List Byte :=
  layBytes 16 [(0, 8, (k.sequence + 1).toNat), (8, 4, copy.length)] ++ digestBytes copy

/-- CHECKPOINT_COMMIT, R339: the manifest copy, then the commit record, then its completion time. A checkpoint
whose data are not all at the target writes no commit record. -/
def execCheckpointCommit (ctx : Nat) (s : State) : Out :=
  s.whenUp (.checkpointCommit ctx) <|
  match s.ckpt ctx with
  | none => .next s
  | some k =>
    if !k.begun || k.pages != [] || k.streamed != [] || decide (s.now < k.hold) then .next s else
    match k.committed with
    | some t => if s.now < t then .next (s.later (.checkpointCommit ctx)) else .next (s.ckptDone ctx k)
    | none =>
      if k.failed then .next (s.ckptDone ctx { k with doneAddr := 0 }) else
      let s0 := match s.agentWrite ctx (k.manifest + 0x10) (splitBytes k.sequence.toNat 8) [1, 2] with | .ok (t, _) => t | .error _ => s
      let s0 := s0.hubCollect ctx k.slotAddr k.slotBytes
      let copy := s0.manifestCopy ctx k
      match s0.agentWrite ctx (k.slotAddr + 0x40) copy [1, 2] with
      | .error f => .next ((s0.ckptError ctx k { code := 9, address := k.slotAddr, detail := causeCode f.1 }).ckptDone ctx { k with doneAddr := 0 })
      | .ok (s1, _) => match s1.agentWrite ctx k.slotAddr (commitRecord k copy) [1, 2] with
        | .error f => .next ((s1.ckptError ctx k { code := 9, address := k.slotAddr, detail := causeCode f.1 }).ckptDone ctx { k with doneAddr := 0 })
        | .ok (s2, c) => .next ((s2.onCkpt ctx (fun x => { x with committed := some c.system })).later (.checkpointCommit ctx))

/-- CHECKPOINT: the packet's checkpoint joins the context's (R337). -/
def execCheckpoint (queue : Nat) (s : State) : Out :=
  s.whenUp (.checkpoint queue) <|
  match s.packetNow queue 0x12 with
  | none => .next s
  | some (p, ctx) =>
    if (s.ctxs.get ctx).ckpts.any (fun k => k.queue == some queue) then .next s else
    let k : Ckpt :=
      { manifest := packetPair p 8, target := packetPair p 0x10, slotBytes := fieldAt p 0x18 4
        doneAddr := packetPair p 0x20, doneValue := packetWord p 0x28, doneScope := BitVec.ofNat 2 (fieldAt p 0x2C 4), queue := some queue }
    .next ((s.onCtx ctx (fun c => { c with ckpts := c.ckpts ++ [k] })).post (.checkpointBoundary ctx))

/-! ### Fault service (R330) -/

/-- The service of one fault is over: what waited goes on. -/
def State.replayFault (s : State) (id : Nat) (f : FaultRec) : State :=
  let s1 : State := { s with faults := s.faults.filter (fun e => e.1 != id) }
  match f.op, f.copy, f.fetch with
  | some i, _, _ => s1.replayOp i
  | none, some (g, c), _ => s1.post (.copyComplete g c)
  | none, none, some (g, u) =>
    if (s1.splitOf g u).waits.contains (.fetch id) then s1.endWait g u (.fetch id)
    else if (s1.splitOf g u).waits.contains .gong then s1.post (.gongEntryExecute (dieOfGroup g))
    else s1
  | none, none, none => s1

/-- Replay everything of a context that waits on a page. -/
def State.replayPage (s : State) (ctx vpage : Nat) : State :=
  (s.faults.filter (fun e => e.2.rec_.ctx == ctx && e.2.vpage == vpage)).foldl (fun (st : State) e => st.replayFault e.1 e.2) s

/-- A copy-on-write fault of a page that the context's running checkpoint has still to copy, or that shares its
leaf with one. -/
def State.cowFault (s : State) (f : FaultRec) : Bool :=
  let group := ((s.leafOf f.rec_.ctx f.vpage).map Prod.fst).getD []
  decide (f.rec_.cause = .faultP) && f.rec_.detail == 4
    && (match s.ckpt f.rec_.ctx with
      | some k => k.begun && k.pages.any (fun p => p.vpage % 2 ^ 45 == f.vpage || (p.leaves != [] && p.leaves == group))
      | none => false)

/-- The page of a fault is still copy-on-write. -/
def State.cowMapped (s : State) (f : FaultRec) : Bool :=
  match s.walk f.rec_.ctx f.vpage with
  | .hit e => e.cow
  | _ => true

/-- CARILLON_FAULT_SERVICE: a copy-on-write fault of a checkpoint is served; another FAULT.P stops the context
(R342; DEDUCED, log entry 21); a FAULT.T goes to the driver, in one notification for each context and page. Faults are
served in the order in which they arrived (R343; DEDUCED, log entry 95). -/
def execCarillonFaultService (fault : Nat) (s : State) : Out :=
  match s.faults.find? (fun e => e.1 == fault) with
  | none => .next s
  | some (_, f) =>
    if f.sent then .next s
    else if !s.fw.up || (s.faults.takeWhile (fun e => e.1 != fault)).any (fun e => !e.2.sent) then
      .next (s.later (.carillonFaultService fault))
    else
      let ctx := f.rec_.ctx
      if s.cowFault f then .next ((s.takeLeaf ctx f.vpage).replayPage ctx f.vpage)
      else if decide (f.rec_.cause = .faultP) && f.rec_.detail == 4 && !s.cowMapped f then
        -- the page has been copied meanwhile
        .next (s.replayFault fault f)
      else if f.rec_.cause = .faultP then .next ((s.postTrap ctx f.rec_).stopContext ctx .stopped)
      else
        let first := s.faults.all (fun e => !(e.2.sent && e.2.rec_.ctx == ctx && e.2.vpage == f.vpage))
        let s1 : State := { s with faults := s.faults.map (fun e => if e.1 = fault then (e.1, { e.2 with sent := true }) else e) }
        .next (if first then s1.postTrap ctx f.rec_ else s1)

end Sys2Proof.Machine
end

