-- ==== Sys2Proof/Machine/Mailbox.lean ====
section
/-! DEFINITION. The register page and the mailbox (R344–R346): the doorbell, the commands, and what each
command does to contexts (R312, R333, R342), queues (R314), translations (R328), faults (R330, R332), cores (R356)
and firmware (R348–R350). -/

namespace Sys2Proof.Machine

/-! ### The register page -/

/-- A command's event, by its code (R346). -/
def commandEvent (code : Nat) : Instr :=
  match code with
  | 0x01 => .contextCreate | 0x02 => .contextDestroy | 0x03 => .contextResume | 0x04 => .contextPreempt
  | 0x05 => .translationInvalidate | 0x06 => .faultReply | 0x07 => .queueRestart | 0x08 => .checkpointNotice
  | 0x10 => .update | 0x11 => .rollBack | 0x12 => .microcode
  | 0x20 => .coreRetire | 0x21 => .errorEntryClear | 0x30 => .powerCap | _ => .unknownCommand

/-- The codes that R346 lists. -/
def listedCode (code : Nat) : Bool := [1, 2, 3, 4, 5, 6, 7, 8, 0x10, 0x11, 0x12, 0x20, 0x21, 0x30].contains code

/-- The command taken: its code (bits 31:16 zero), its sequence, its arguments. -/
def Firmware.code (f : Firmware) : Nat := (f.taken.get 0x80).toNat
def Firmware.arg (f : Firmware) (n : Nat) : Nat := (pairOf (f.taken.get (0x88 + 8 * n)) (f.taken.get (0x8C + 8 * n))).toNat
def State.arg (s : State) (n : Nat) : Nat := s.fw.arg n

/-- The reply: status and results, then the reply count, which is the doorbell's value (R345). -/
def State.reply (s : State) (status : Nat) (results : List Nat) : State :=
  s.onFw (fun f => { f with
    replyStatus := BitVec.ofNat 32 status
    results := results.zipIdx.foldl (fun (m : Store DWord) e => m.put e.2 (BitVec.ofNat 64 e.1)) []
    replyCount := f.doorbell, busy := false })

/-- R345: a doorbell before the previous reply is ignored and sets overrun; otherwise the words are copied
and the command is on its way. -/
def State.ring (s : State) (v : Word) : State :=
  let f := s.fw
  if f.replyCount ≠ f.doorbell then s.onFw (fun f => { f with overrun := true }) else
  let s1 := s.onFw (fun f => { f with doorbell := v, taken := f.words, busy := true })
  s1.post (commandEvent (f.words.get 0x80).toNat)

/-- REGISTER_PAGE_WRITE, R344: the words 0x080–0x0BF and the doorbell; other writes are ignored. -/
def execRegisterPageWrite (offset : Nat) (value : Word) (s : State) : Out :=
  if offset = 0xC0 then .next (s.ring value)
  else if 0x80 ≤ offset ∧ offset < 0xC0 ∧ offset % 4 = 0 then .next (s.onFw (fun f => { f with words := f.words.put offset value }))
  else .next s

/-- DOORBELL_OVERRUN, R345. -/
def execDoorbellOverrun (_ : Word) (s : State) : Out :=
  if s.fw.replyCount ≠ s.fw.doorbell then .next (s.onFw (fun f => { f with overrun := true })) else .next s

/-- STATUS_READ, R345. -/
def execStatusRead (s : State) : Out := .next (s.onFw (fun f => { f with overrun := false }))

/-- R344: the update state's code. -/
def updateCode (u : UpdateState) : Nat :=
  match u with
  | .none => 0 | .staging => 1 | .probation => 2 | .rolledBack => 3

/-- R344: what the host reads at a 4-byte word of the register page; what the table does not list is 0. -/
def State.registerWord (s : State) (o : Nat) : Word :=
  let f := s.fw
  if o = 0x00 then 0x1A5E0000 + 256 * Config.stepping.setWidth 32
  else if o = 0x04 then 0x0960
  else if o = 0x08 then loWord Config.serial
  else if o = 0x0C then hiWord Config.serial
  else if 0x10 ≤ o ∧ o < 0x40 then BitVec.ofNat 32 (joinBytes ((List.range 4).map (fun i => Config.identityKey (o - 0x10 + i))))
  else if o = 0x40 then BitVec.ofNat 32 (f.moduleNumber.toNat * 65536 + (if f.overrun then 16 else 0) + updateCode f.update * 4
    + (if f.active then 2 else 0) + (if f.ready then 1 else 0))
  else if o = 0x48 then f.activeImage
  else if o = 0x4C then f.standbyImage
  else if o = 0x50 then f.power
  else if 0x80 ≤ o ∧ o < 0xC0 then f.words.get o
  else if o = 0xC0 then f.doorbell
  else if o = 0xC4 then f.replyCount
  else if o = 0xC8 then f.replyStatus
  else if 0xD0 ≤ o ∧ o < 0x100 then
    (if o % 8 = 0 then loWord (f.results.get ((o - 0xD0) / 8)) else hiWord (f.results.get ((o - 0xD0) / 8)))
  else if 0x100 ≤ o ∧ o < 0x140 then f.debugBox.get ((o - 0x100) / 4)
  else 0

/-- A command runs once the active complex is up, when it is the one taken; a torn one replies with 6. -/
def command (s : State) (e : Instr) (here : Firmware → Bool) (f : State → State) : Out :=
  if !s.fw.busy || !here s.fw then .next s
  else if !s.fw.up then .next (s.later e)
  else if s.fw.taken.get 0x84 ≠ s.fw.doorbell then .next (s.reply 6 [])
  else .next (f s)

def withCode (n : Nat) (f : Firmware) : Bool := f.code == n

/-- UNKNOWN_COMMAND, R346. -/
def execUnknownCommand (s : State) : Out := command s .unknownCommand (fun f => !listedCode f.code) (fun t => t.reply 1 [])

/-! ### Contexts -/

/-- A context argument that names a context. -/
def State.ctxArg (s : State) (n : Nat) : Option Nat :=
  if s.arg n < 64 ∧ (s.ctxs.get (s.arg n)).st ≠ .none then some (s.arg n) else none

/-- A command on a context, status 2 when there is none. -/
def State.onNamed (s : State) (n : Nat) (f : Nat → State) : State :=
  match s.ctxArg n with
  | some c => f c
  | none => s.reply 2 []

/-- R312: a context record's fields. -/
def parseContext (bs : List Byte) : Context :=
  { st := .running, root := fieldAt bs 8 8, heapBase := packetPair bs 0x10, heapLimit := packetPair bs 0x18
    heapOffset := packetPair bs 0x20, heapAttr := BitVec.ofNat 5 (fieldAt bs 0x28 8)
    lease := if fieldAt bs 0x30 4 = 0 then 256 else fieldAt bs 0x30 4
    slice := fieldAt bs 0x34 4, budget := fieldAt bs 0x38 4, queueTable := packetPair bs 0x40, queueCount := fieldAt bs 0x48 4
    eventRing := packetPair bs 0x50, eventLog := fieldAt bs 0x58 4, workTable := packetPair bs 0x60
    traceRing := packetPair bs 0x68, traceBytes := fieldAt bs 0x70 4, saveArea := packetPair bs 0x78 }

/-- R312: every field is in its range, and the header passes R292. -/
def contextOk (bs : List Byte) (c : Context) : Bool :=
  let lease := fieldAt bs 0x30 4
  headerOk (fieldAt bs 0 8) 6 16
  && decide (c.root % 4096 = 0 ∧ c.root < 2 ^ 52 ∧ c.heapBase.toNat % 65536 = 0 ∧ c.heapLimit.toNat % 65536 = 0
    ∧ c.heapOffset.toNat % 65536 = 0 ∧ fieldAt bs 0x28 8 < 32 ∧ (lease = 0 ∨ (32 ≤ lease ∧ lease ≤ 4096))
    ∧ (c.slice = 0 ∨ (100 ≤ c.slice ∧ c.slice ≤ 1000000)) ∧ c.budget ≤ 100 ∧ c.queueTable.toNat % 64 = 0
    ∧ 1 ≤ c.queueCount ∧ c.queueCount ≤ 512 ∧ c.eventRing.toNat % 64 = 0 ∧ 4 ≤ c.eventLog ∧ c.eventLog ≤ 16
    ∧ c.traceRing.toNat % 64 = 0 ∧ c.traceBytes % 64 = 0 ∧ c.saveArea.toNat % 65536 = 0)
  && canonical57 c.heapBase && zeroAt bs 0x3C 4 && zeroAt bs 0x4C 4 && zeroAt bs 0x5C 4 && zeroAt bs 0x74 4

/-- R213: one entry of the work-list table. -/
def parseList (bs : List Byte) : Option WorkList :=
  let cap := fieldAt bs 8 4
  let base := packetPair bs 0
  if !zeroAt bs 0xC 4 then none
  else if cap = 0 then some {}
  else if base.toNat % 256 = 0 ∧ (List.range 19).any (fun k => cap == 64 * 2 ^ k) then some { capacity := cap, base := base }
  else none

/-- The work lists of a context (R213). -/
def State.readLists (s : State) (ctx : Nat) (table : DWord) : Option (Store WorkList) :=
  if table = 0 then some [] else
  match s.agentRead ctx table 1024 [0, 1, 2, 3] with
  | .error _ => none
  | .ok bs => (List.range 64).foldlM (fun (m : Store WorkList) n =>
      (parseList ((bs.drop (16 * n)).take 16)).map (fun w => m.put n w)) []

/-- The queue table entry of a queue (R313). -/
def parseQueue (ctx n : Nat) (bs : List Byte) : Option HQueue :=
  let q : HQueue := { live := true, ctx := ctx, index := n, ring := packetPair bs 0, tailAddr := packetPair bs 8
                      headAddr := packetPair bs 0x10, slots := fieldAt bs 0x18 4 }
  if q.ring.toNat % 64 = 0 ∧ q.tailAddr.toNat % 4 = 0 ∧ q.headAddr.toNat % 4 = 0 ∧ 1 ≤ q.slots ∧ q.slots ≤ 16 ∧ zeroAt bs 0x1C 4
  then some q else none

def State.readQueues (s : State) (ctx : Nat) (table : DWord) (count : Nat) : Option (List HQueue) :=
  (List.range count).foldlM (fun (l : List HQueue) n =>
    match s.agentRead ctx (table + BitVec.ofNat 64 (32 * n)) 32 [0, 1, 2, 3] with
    | .error _ => none
    | .ok bs => (parseQueue ctx n bs).map (fun q => l ++ [q])) []

/-- The 512 entries of the top-level table, or those that a test names (R328). -/
def State.loadTop (s0 : State) (ctx : Nat) (p : Nat → Bool) : State :=
  let root := (s0.ctxs.get ctx).root
  let s := s0.collectAll (fun _ => ((List.range 512).filter p).map (fun i => root + 8 * i)) 1
  s.onCtx ctx (fun c => { c with top := (List.range 512).foldl (fun (m : Store DWord) i =>
    if p i then m.put i (BitVec.ofNat 64 (s.readPa (c.root + 8 * i) 8)) else m) c.top })

/-- R279: the lines that the reads of a new context's tables collect. -/
def State.collectTables (s : State) (ctx : Nat) (c : Context) : State :=
  (if c.workTable = 0 then s else s.hubCollect ctx c.workTable 1024).hubCollect ctx c.queueTable (32 * c.queueCount)

/-- The free hardware queues, ascending. -/
def State.freeQueues (s : State) : List Nat := (List.range 512).filter (fun q => !(s.queues.get q).live)

/-- R379, R380: the skew record and the anchors that a new context's trace ring gets. -/
def State.anchorTrace (s : State) (ctx : Nat) : State :=
  (List.range 8).foldl (fun (st : State) d => st.traceWrite ctx (st.stepBytes d (st.dies.get d).freq)) (s.traceWrite ctx s.skewBytes)

/-- A context from a record that is in range; the status and the context's index. -/
def State.createContext (s : State) (c : Context) : State :=
  match (List.range 64).find? (fun i => (s.ctxs.get i).st == .none) with
  | none => s.reply 3 []
  | some i =>
    if s.freeQueues.length < c.queueCount then s.reply 3 [] else
    let s1 := ((s.onCtx i (fun _ => c)).loadTop i (fun _ => true)).collectTables i c
    match s1.readLists i c.workTable, s1.readQueues i c.queueTable c.queueCount with
    | some lists, some qs =>
      let s2 := s1.onCtx i (fun x => { x with lists := lists })
      let s3 := (s1.freeQueues.zip qs).foldl (fun (st : State) e => st.onQueue e.1 (fun _ => e.2)) s2
      (s3.anchorTrace i).reply 0 [i]
    | _, _ => ({ s1 with ctxs := s.ctxs } : State).reply 2 []

/-- R292: the bytes of a longer record past its 128 are zero. -/
def State.recordTail (s : State) (a : Nat) (bs : List Byte) : Bool :=
  (List.range (8 * (fieldAt bs 2 1 - 16))).all (fun i => s.byteAt (a + 128 + i) == 0)

/-- CONTEXT_CREATE, R312: the record lies at a physical address. -/
def execContextCreate (s : State) : Out :=
  command s .contextCreate (withCode 1) (fun t =>
    let a := t.arg 0
    let t0 := t.hubCollectPa a 128
    let t := t0.hubCollectPa a (8 * (t0.byteAt (a + 2)).toNat)
    let bs := (List.range 128).map (fun i => t.byteAt (a + i))
    let c := parseContext bs
    if a % 64 = 0 ∧ a < 2 ^ 52 ∧ contextOk bs c = true ∧ t.recordTail a bs = true then t.createContext c else t.reply 2 [])

/-- What a context leaves: launches, runs, queues, submissions, faults, translations, its L1 lines. -/
def State.forgetContext (s : State) (ctx : Nat) : State :=
  { s with
    ctxs := s.ctxs.erase ctx
    launches := s.launches.filter (fun e => e.2.ctx != ctx || !e.2.live)
    runs := s.runs.filter (fun e => e.2.ctx != ctx || !e.2.live)
    queues := s.queues.filter (fun e => e.2.ctx != ctx || !e.2.live)
    subs := s.subs.filter (fun e => e.2.ctx != ctx)
    faults := s.faults.filter (fun e => e.2.rec_.ctx != ctx)
    cores := s.cores.map (fun e => (e.1, { e.2 with
      tlb := e.2.tlb.filter (fun t => t.ctx != ctx)
      l1 := e.2.l1.filter (fun l => l.2.ctx != ctx), l1i := e.2.l1i.filter (fun l => l.2.ctx != ctx) }))
    dies := s.dies.map (fun e => (e.1, { e.2 with tlb := e.2.tlb.filter (fun t => t.ctx != ctx) })) }

/-- CONTEXT_DESTROY, R312. -/
def execContextDestroy (s : State) : Out :=
  command s .contextDestroy (withCode 2) (fun t => t.onNamed 0 (fun c =>
    (((t.preemptBlocks (t.blocksOf c (fun _ => true)) none).forgetContext c).postWaiting).reply 0 []))

/-- What a context had under way goes on: launches, packets, nodes, records. -/
def State.wakeContext (s : State) (ctx : Nat) : State :=
  let s1 := s.queues.foldl (fun (st : State) e =>
    match e.2.packet with
    | some p => if e.2.live && e.2.ctx == ctx then st.post (if e.2.done.isSome then .packetComplete e.1 else packetEvent (fieldAt p 0 1) e.1) else st
    | none => st) s
  let s2 := (s1.subs.filter (fun e => e.2.ctx == ctx)).foldl (fun (st : State) e => st.post (.launchAccept e.1)) s1
  let s3 := s2.runs.foldl (fun (st : State) e =>
    if e.2.live && e.2.ctx == ctx then e.2.running.foldl (fun (st : State) n =>
      if fieldAt (e.2.nodes.get n) 8 1 == 2 then st.post (.waitsigSatisfied e.1 n) else st) st else st) s2
  (s3.releaseStarts ctx).postWaiting

/-- CONTEXT_RESUME, R326, R342. -/
def execContextResume (s : State) : Out :=
  command s .contextResume (withCode 3) (fun t => t.onNamed 0 (fun c =>
    if (t.ctxs.get c).st = .running then t.reply 0 [] else
    let t1 : State := { t with launches := t.launches.map (fun e => (e.1, if e.2.ctx = c then { e.2 with slotFree := false } else e.2)) }
    ((t1.onCtx c (fun x => { x with st := .running })).wakeContext c).reply 0 []))

/-- CONTEXT_PREEMPT, R333: reason 2; the context is held until it is resumed. -/
def execContextPreempt (s : State) : Out :=
  command s .contextPreempt (withCode 4) (fun t => t.onNamed 0 (fun c =>
    let t1 := t.preemptBlocks (t.blocksOf c (fun _ => true)) (some 2)
    ((t1.onCtx c (fun x => { x with st := if x.st = .running then .held else x.st })).postWaiting).reply 0 []))

/-- R232, R333: before the class of a page changes, a context that maps it is pre-empted, with reason 4; it is held
until it is resumed (DEDUCED, log entry 73). -/
def State.classChange (s : State) (ctx : Nat) : State :=
  if (s.ctxs.get ctx).st = .none then s else
  ((s.preemptBlocks (s.blocksOf ctx (fun _ => true)) (some 4)).onCtx ctx
    (fun x => { x with st := if x.st = .running then .held else x.st })).postWaiting

/-- TRANSLATION_INVALIDATE, R327, R328. -/
def execTranslationInvalidate (s : State) : Out :=
  command s .translationInvalidate (withCode 5) (fun t => t.onNamed 0 (fun c =>
    let start := t.arg 1
    let len := t.arg 2
    if start % 4096 ≠ 0 ∨ len % 4096 ≠ 0 then t.reply 2 [] else
    let lo := start % 2 ^ 57
    let inside (e : TlbEntry) : Bool := decide (4096 * e.vpage < lo + len ∧ lo < 4096 * (e.vpage + e.pages))
    let spans (i : Nat) : Bool := decide (len ≠ 0 ∧ lo < 2 ^ 48 * (i + 1) ∧ 2 ^ 48 * i < lo + len)
    ((t.dropTlb c inside).loadTop c spans).reply 0 []))

/-! ### Faults, queues, checkpoints -/

/-- FAULT_REPLY, R330: the record is named by its time. -/
def execFaultReply (s : State) : Out :=
  command s .faultReply (withCode 6) (fun t => t.onNamed 0 (fun c =>
    match t.faults.find? (fun e => e.2.sent && e.2.rec_.ctx == c && e.2.rec_.time.toNat == t.arg 1) with
    | none => t.reply 2 []
    | some (_, f) =>
      match t.arg 2 with
      | 0 => (t.replayPage c f.vpage).reply 0 []
      | 1 => (t.stopContext c .stopped).reply 0 []
      | 2 => ((t.postTrap c { f.rec_ with cause := .frame, detail := 0, time := t.claveOf f.rec_.die }).stopContext c .stopped).reply 0 []
      | _ => t.reply 2 []))

/-- QUEUE_RESTART, R314. -/
def execQueueRestart (s : State) : Out :=
  command s .queueRestart (withCode 7) (fun t => t.onNamed 0 (fun c =>
    match t.queues.find? (fun e => e.2.live && e.2.ctx == c && e.2.index == t.arg 1) with
    | none => t.reply 2 []
    | some e => ((t.onQueue e.1 (fun q => { q with stopped := false })).post (.queueTailWrite e.1)).reply 0 []))

/-- CHECKPOINT_NOTICE, R337: ahead of the packets' checkpoints that have not begun. The command's words do
not name the context: the sixth argument does, in this model. -/
def execCheckpointNotice (s : State) : Out :=
  command s .checkpointNotice (withCode 8) (fun t => t.onNamed 5 (fun c =>
    let k : Ckpt :=
      { manifest := BitVec.ofNat 64 (t.arg 0), target := BitVec.ofNat 64 (t.arg 1), slotBytes := t.arg 2 % 2 ^ 32
        doneAddr := BitVec.ofNat 64 (t.arg 3), doneValue := BitVec.ofNat 32 (t.arg 4), doneScope := BitVec.ofNat 2 (t.arg 4 / 2 ^ 32) }
    if 2 ^ 32 ≤ t.arg 2 ∨ 4 ≤ t.arg 4 / 2 ^ 32 then t.reply 2 [] else
    let t1 := t.onCtx c (fun x => { x with ckpts := x.ckpts.filter (fun y => y.begun) ++ [k] ++ x.ckpts.filter (fun y => !y.begun) })
    (t1.post (.checkpointBoundary c)).reply 0 []))

/-- ERROR_ENTRY_CLEAR, R332. PRESUMED (log entry 80): the physical line is the number of the line. -/
def execErrorEntryClear (s : State) : Out :=
  command s .errorEntryClear (withCode 0x21) (fun t =>
    let line := t.arg 2
    let here (e : Nat × Nat) : Bool := e.1 == line && (homeOf line).2 == t.arg 1
    if 7 < t.arg 0 ∨ !((t.dies.get (t.arg 0)).errors.any here) then t.reply 2 []
    else (t.onDie (t.arg 0) (fun d => { d with errors := d.errors.filter (fun e => !here e) })).reply 0 [])

/-- POWER_CAP, R360. -/
def execPowerCap (s : State) : Out :=
  command s .powerCap (withCode 0x30) (fun t =>
    if t.arg 0 < 1000 ∨ 4000 < t.arg 0 then t.reply 2 []
    else (t.onFw (fun f => { f with cap := BitVec.ofNat 32 (t.arg 0) })).reply 0 [])

/-! ### Cores (R356) -/

/-- A core retires: its blocks are pre-empted with reason 3, and one of the die's two spares takes its number, or
none is left; the spare-core map keeps it (R352). -/
def State.retireCore (s : State) (die core : Nat) : State × Option Nat :=
  let c := 32 * die + core
  let bs := (s.blocks.filter (fun e => e.2.live && e.2.core == c)).map Prod.fst
  let s1 := s.preemptBlocks (s.whole bs) (some 3)
  let used := (s1.fw.spares.filter (fun e => e.1 == die)).length
  if used < 2 then
    ((({ s1 with cores := s1.cores.erase c } : State).onFw (fun f => { f with spares := f.spares ++ [(die, core)] })).postWaiting, some used)
  else ((s1.onCore c (fun k => { k with removed := true })).postWaiting, none)

/-- CORE_RETIRE. -/
def execCoreRetire (s : State) : Out :=
  command s .coreRetire (withCode 0x20) (fun t =>
    if 7 < t.arg 0 ∨ 31 < t.arg 1 ∨ (t.cores.get (32 * t.arg 0 + t.arg 1)).removed then t.reply 2 [] else
    let r := t.retireCore (t.arg 0) (t.arg 1)
    match r.2 with
    | some n => r.1.reply 0 [n]
    | none => r.1.reply 5 [0xFF])

/-- AUTO_CORE_RETIRE: Carillon's own decision, after repeated errors of the core's register files. -/
def execAutoCoreRetire (die core : Nat) (s : State) : Out :=
  if 7 < die ∨ 31 < core ∨ (s.cores.get (32 * die + core)).removed = true ∨ s.fw.up = false
      ∨ (s.cores.get (32 * die + core)).regErrors < 2 then .next s
  else .next (s.retireCore die core).1

/-! ### Firmware (R348–R350) -/

/-- An update that has not ended. -/
def Firmware.updating (f : Firmware) : Bool := f.update == .staging || f.update == .probation

/-- Steps 1 and 2 of R348: the standby loads, verifies and boots the image, which imports the state table: update
state 1. A failure, a rejected section too (R347), replies with status 4 and ends the update. -/
def State.stageUpdate (s : State) : State :=
  let v := Config.imageVersion (s.arg 0)
  if !Config.imageVerifies (s.arg 0) (s.arg 1) || decide (v.2 < s.fw.minSecurity) then s.reply 4 []
  else if !(s.sections s.fw.activeImage).accepted v.1 then s.importRejected.reply 4 []
  else (s.onFw (fun f => { f with update := .staging, staged := some v.1, standbyImage := v.1, standbyUp := true })).post .update

/-- Steps 3 and 4 of R348, at an instant at which no packet is half parsed and no node half started: the new image
imports the last sections and is active, update state 2. The update has failed when the standby has. -/
def State.switchImage (s : State) (image : Word) : State :=
  if !s.fw.standbyUp then (s.onFw (fun f => { f with update := .none, staged := none })).reply 4 []
  else if !(s.sections s.fw.activeImage).accepted image then
    (s.importRejected.onFw (fun f => { f with update := .none, staged := none })).reply 4 []
  else
    let t := s.onFw (fun f => { f with
      active := !f.active, activeImage := image, standbyImage := f.activeImage, update := .probation, staged := none
      probationStart := s.now, nextBeat := s.now + 250000000, export_ := s.sections f.activeImage
      mirror := s.sections f.activeImage, journal := openEntries f.journal })
    t.reply 0 []

/-- UPDATE, R348. -/
def execUpdate (s : State) : Out :=
  command s .update (withCode 0x10) (fun t =>
    match t.fw.update, t.fw.staged with
    | .staging, some image => t.switchImage image
    | _, _ => if t.fw.updating then t.reply 7 [] else t.stageUpdate)

/-- R349: one journal entry, after the import: a complete packet is passed; an open one is adopted when a
launch slot, a graph run or a checkpoint names it, or when it has acted already, and is read again from its slot;
otherwise it begins again. `was` are the queues before the import. -/
def State.replayEntry (s0 : State) (was : Store HQueue) (e : JournalEntry) : State :=
  let q := s0.queues.get e.queue
  let s := if q.live && !e.complete then s0.hubCollect q.ctx (q.slotAddr e.packet) 64 else s0
  let w := was.get e.queue
  if !q.live then s
  else if e.complete then s.onQueue e.queue (fun x => { x with head := e.packet + 1, packet := none, done := none })
  else
    let adopted := s.launches.any (fun l => l.2.live && l.2.queue == some e.queue && l.2.packet == e.packet)
      || s.runs.any (fun r => r.2.live && r.2.queue == e.queue)
      || (s.ctxs.get q.ctx).ckpts.any (fun k => k.queue == some e.queue)
      || (w.head == e.packet && w.done.isSome)
    let bytes := match s.agentRead q.ctx (q.slotAddr e.packet) 64 [1, 2] with | .ok p => p | .error _ => []
    if adopted then s.onQueue e.queue (fun x => { x with
      head := e.packet, packet := some (if w.head = e.packet then w.packet.getD bytes else bytes)
      done := if w.head = e.packet then w.done else none })
    else s.onQueue e.queue (fun x => { x with head := e.packet, packet := none, done := none })

/-- A context with the fields of a section's record. -/
def Context.withRecord (c r : Context) : Context :=
  { r with dropped := c.dropped, sliceStart := c.sliceStart, lists := c.lists, saved := c.saved, top := c.top, ckpts := c.ckpts }

/-- R347, R349: the sections are imported, then the journal's entries in order. -/
def State.importSections (s : State) (m : Mirror) (js : List JournalEntry) : State :=
  let s1 := m.queues.foldl (fun (st : State) e => if (st.queues.get e.1).live then st.onQueue e.1 (fun _ => e.2) else st) s
  let s2 := m.ctxs.foldl (fun (st : State) e =>
    if (st.ctxs.get e.1).st = .none then st else st.onCtx e.1 (fun c => c.withRecord e.2)) s1
  let s3 : State := { s2 with faults := s2.faults.map (fun e => (e.1, { e.2 with sent := e.2.sent && m.faults.contains e.1 })) }
  let s4 := s3.faults.foldl (fun (st : State) e => if e.2.sent then st else st.post (.carillonFaultService e.1)) s3
  let s5 := js.foldl (fun (st : State) e => st.replayEntry s.queues e) s4
  s5.ctxs.foldl (fun (st : State) e => if e.2.st = .running then st.wakeContext e.1 else st) s5

/-- The table that a rollback imports: the downgrade export, or outside probation the mirrored sections. -/
def Firmware.rollbackTable (f : Firmware) : Mirror := if f.update = .probation then f.export_ else f.mirror

/-- R349: the old image stops the new one and takes over, unless it rejects a section: then it stays in standby
(R347). -/
def State.rollback (s : State) : State :=
  let f := s.fw
  if !f.rollbackTable.accepted f.standbyImage then s.importRejected.onFw (fun f => { f with nextBeat := s.now + 30000000 }) else
  let s1 := s.onFw (fun f => { f with
    active := !f.active, activeImage := f.standbyImage, standbyImage := f.activeImage, up := true, standbyUp := false
    update := .rolledBack, nextBeat := s.now + 30000000, journal := openEntries f.journal })
  s1.importSections f.rollbackTable f.journal

/-- ROLL_BACK. R346 gives no status for one with no standby up: it replies 7 (DESIGN CHOICE, log entry 97). -/
def execRollBack (s : State) : Out :=
  command s .rollBack (withCode 0x11) (fun t => if t.fw.updating || !t.fw.standbyUp then t.reply 7 []
    else t.rollback.reply (if t.fw.rollbackTable.accepted t.fw.standbyImage then 0 else 4) [])

/-- MICROCODE, R350: the controller's window is waited for; the reply follows the installation. -/
def execMicrocode (s : State) : Out :=
  command s .microcode (withCode 0x12) (fun t =>
    let v := Config.imageVersion (t.arg 1)
    if t.fw.updating then t.reply 7 []
    else if !Config.imageVerifies (t.arg 1) (t.arg 2) || decide (v.2 < t.fw.minMicrocode) then t.reply 4 []
    else if t.fw.microcode.isSome then t
    else (t.onFw (fun f => { f with microcode := some (t.arg 0, t.arg 1) })).post (.microcodeWindow (t.arg 0)))

/-- MICROCODE_WINDOW. -/
def execMicrocodeWindow (controller : Nat) (s : State) : Out :=
  s.whenUp (.microcodeWindow controller) <|
  match s.fw.microcode with
  | none => .next s
  | some (c, a) =>
    if c ≠ controller then .next s else
    let s1 := s.onFw (fun f => { f with microcode := none, controllers := f.controllers.put c a })
    .next (if s1.fw.busy && s1.fw.code == 0x12 then s1.reply 0 [] else s1)

end Sys2Proof.Machine
end

