-- ==== Sys2Proof/Machine/Module.lean ====
section
/-! DEFINITION. The module around the cores: heartbeats and takeover (R347–R349), power and clocks (R359, R360,
R378–R380), fabric and memory repair (R353, R354, R357), and requests from outside (R228). -/

namespace Sys2Proof.Machine

/-! ### Heartbeats and takeover -/

/-- HEARTBEAT, R348, R349: the watchdog's next deadline; on probation, a downgrade export, and no beat
after a missed deadline. -/
def execHeartbeat (s : State) : Out :=
  if !s.fw.up || (s.fw.update == .probation && decide (s.fw.nextBeat < s.now)) then .next s else
  .next (s.onFw (fun f =>
    if f.update = .probation then { f with nextBeat := s.now + 10000000, export_ := s.sections f.standbyImage, journal := openEntries f.journal }
    else { f with nextBeat := s.now + 30000000 }))

/-- WATCHDOG_MISS, R349: a deadline that has passed on probation: the resident old image takes over. -/
def execWatchdogMiss (s : State) : Out :=
  if s.fw.update = .probation ∧ s.fw.nextBeat ≤ s.now ∧ s.fw.standbyUp = true then .next s.rollback else .next s

/-- PROBATION_END, R348: no deadline has been missed. -/
def execProbationEnd (s : State) : Out :=
  if s.fw.update = .probation ∧ s.fw.probationStart + 60000000000 ≤ s.now ∧ s.fw.up = true ∧ s.now ≤ s.fw.nextBeat then
    .next (s.onFw (fun f => { f with update := .none, nextBeat := s.now + 30000000 }))
  else .next s

/-- A Carillon complex fails, the active one or the standby (R343, R349). -/
def State.complexFail (s : State) (standby : Bool) : State :=
  s.onFw (fun f => if standby then { f with standbyUp := false } else { f with up := false })

/-- STANDBY_TAKEOVER, R349: the active complex has failed, its watchdog deadline has passed, and no image is on
probation; an update that was being staged ends. A standby whose image rejects a section of its mirror stays in
standby (R347). -/
def execStandbyTakeover (s : State) : Out :=
  let f := s.fw
  if !f.standbyUp || f.up || f.update == .probation || decide (s.now < f.nextBeat) then .next s
  else if !f.mirror.accepted f.standbyImage then
    .next (s.importRejected.onFw (fun f => { f with nextBeat := s.now + 30000000 }))
  else
    let s1 := s.onFw (fun f => { f with
      active := !f.active, activeImage := f.standbyImage, standbyImage := f.activeImage, up := true, standbyUp := false
      update := if f.update = .staging then .none else f.update, staged := none
      nextBeat := s.now + 30000000, journal := openEntries f.journal })
    .next (s1.importSections f.mirror f.journal)

/-- STATE_TABLE_MIRROR, R347. -/
def execStateTableMirror (s : State) : Out := if s.fw.up then .next s.mirrorNow else .next s

/-! ### Power -/

/-- The cores that are removed, which lose everything else with their power (R356). -/
def State.removedCores (s : State) : Store Core :=
  (s.cores.filter (fun e => e.2.removed)).map (fun e => (e.1, { removed := true }))

/-- Everything the module loses with its power; what stands in memory and in the flash stays. -/
def State.dark (s : State) : State :=
  { s with
    powered := false, pending := [], focus := {}, home := []
    dies := (List.range 8).map (fun d => (d, Die.atReset))
    cores := s.removedCores, quads := [], blocks := [], groups := [], ops := [], ctxs := [], queues := [], launches := []
    nextLaunch := 0, nextOrder := 0, subs := [], runs := [], faults := [], token := {}
    fw := { minSecurity := s.fw.minSecurity, minMicrocode := s.fw.minMicrocode, spares := s.fw.spares, moduleNumber := s.fw.moduleNumber, firstActive := s.fw.firstActive
            powerLimit := s.fw.powerLimit, activeImage := s.fw.activeImage, standbyImage := s.fw.standbyImage
            controllers := s.fw.controllers }
    ports := [], hbm := { replaced := s.hbm.replaced, channels := s.hbm.channels, failed := s.hbm.failed } }

/-- R340: a commit record whose store is not complete leaves its slot invalid. -/
def State.tearCommits (s : State) : State :=
  s.ctxs.foldl (fun (st : State) e =>
    match e.2.ckpts with
    | k :: _ =>
      if k.committed.any (fun t => decide (s.now < t)) then
        (match st.agentPa e.1 k.slotAddr .write [1, 2] with
        | .ok (pa, _) => { st with mem := putBytes st.mem ((List.range 8).map (fun i => (pa + i, 0))) }
        | .error _ => st)
      else st
    | [] => st) s
/-- POWER_LOSS, R340. -/
def execPowerLoss (s : State) : Out := .next s.tearCommits.dark

/-- R351, R352: a newly signed configuration record takes the old one's place; it can only raise the minimum
security versions. -/
def Firmware.configure (f : Firmware) (r : Option ConfigRecord) : Firmware :=
  match r with
  | none => f
  | some r => { f with
      minSecurity := max f.minSecurity r.minSecurity, minMicrocode := max f.minMicrocode r.minMicrocode
      firstActive := r.firstActive, spares := r.spares, moduleNumber := r.moduleNumber, powerLimit := r.powerLimit }

/-- R378, R380: the counts of every die begin at its reset, and none of its skews is measured yet. -/
def State.startClocks (s : State) : State :=
  { s with dies := (List.range 8).map (fun d => (d, { s.dies.get d with origin := s.now, measuredAt := none })) }

/-- POWER_ON, R359: whether the record and the images verify is not the model's to say (a free value); a
failure leaves the ready bit 0. -/
def execPowerOn (s : State) : Out :=
  if s.powered then .next s else
  let ok := Config.freeBit s.free
  .next (({ s with powered := true, free := s.free + 1, fw := s.fw.configure (Config.newRecord s.free) } : State).onFw (fun f => { f with
    ready := ok, up := ok, standbyUp := ok, active := f.firstActive, cap := f.powerLimit, nextBeat := s.now + 30000000
    lastMirror := s.now })).startClocks

/-- R360: the power that the module stays at or below. -/
def State.powerBound (s : State) : Nat := min 4000 s.fw.cap.toNat

/-- FREQUENCY_STEP, R360, R380: one step of 0.1 GHz within 1.6–4.0 GHz, its step record, and the relock. A die that
is too hot, or a module at its power bound, takes no step up. The active complex takes the steps: while none is up there are
none. -/
def execFrequencyStep (die : Nat) (up : Bool) (s : State) : Out :=
  let d := s.dies.get die
  let new := if up then d.freq + 1 else d.freq - 1
  if 7 < die ∨ d.off = true ∨ s.fw.up = false ∨ d.relock.isSome ∨ new < 16 ∨ 40 < new
      ∨ (up = true ∧ (d.hot = true ∨ s.powerBound ≤ s.fw.power.toNat)) then .next s else
  let count := s.refCount die
  let s1 := s.onDie die (fun k => { k with
    freq := new, stepTime := (s.claveOf die).toNat, stepCount := count, relock := some (s.now + 1200) })
  .next (s1.traceAll (s1.stepBytes die d.freq))

/-- RELOCK_END, R380. -/
def execRelockEnd (die : Nat) (s : State) : Out :=
  match (s.dies.get die).relock with
  | some t => if t ≤ s.now then .next (s.onDie die (fun k => { k with relock := none })) else .next s
  | none => .next s

/-- JUNCTION_105, R360: the die steps down, step after step, until it is below 100 °C. -/
def execJunction105 (die : Nat) (s : State) : Out :=
  if 7 < die ∨ (s.dies.get die).off = true then .next s else .next (s.onDie die (fun k => { k with hot := true }))

/-- A die that has stepped down is below 100 °C (R360). -/
def State.cooled (s : State) (die : Nat) : State := s.onDie die (fun k => { k with hot := false })

/-- JUNCTION_115, R360: the compute dies lose power, with everything on them; the hub dies go on, with the token's
arbiter on HD0 (R273). -/
def execJunction115 (s : State) : Out :=
  .next { s with
    home := [], cores := s.removedCores, quads := [], blocks := [], groups := [], ops := []
    token := { grants := s.token.grants }
    faults := []
    dies := (List.range 8).map (fun d => (d, let x := s.dies.get d
      { Die.atReset with off := true, origin := x.origin, skew := x.skew, measured := x.measured, measuredAt := x.measuredAt })) }

/-- POWER_REFRESH, R344: the module's input power, which Carillon holds at or below its bound (R360): no reading is
above it, but while a lower cap brings the power down. -/
def execPowerRefresh (watts : Word) (s : State) : Out :=
  if max s.powerBound s.fw.power.toNat < watts.toNat then .next s else .next (s.onFw (fun f => { f with power := watts }))

/-- SKEW_MEASUREMENT, R378, R379: within 2 ns of the die's skew; a change writes skew records. Which value within
them it gives is open (`State.skewDue`). -/
def execSkewMeasurement (die : Nat) (skew : Word) (s : State) : Out :=
  let d := s.dies.get die
  let k := skew.toInt
  if die = 0 ∨ 7 < die ∨ k < d.skew - 2 ∨ d.skew + 2 < k then .next s else
  let s1 := ({ s with free := s.free + 1 } : State).onDie die (fun x => { x with measured := k, measuredAt := some (s.claveOf 0).toNat })
  .next (if k = d.measured then s1 else s1.traceAll s1.skewBytes)

/-! ### Fabric and memory repair -/

/-- FLIT_CRC_FAILURE, R353, R354: the flit is resent; its eighth failure takes the lane out of service, and
the link retrains for at most 10 µs. -/
def execFlitCrcFailure (port lane : Nat) (s : State) : Out :=
  let p := s.ports.get port
  if 17 < port ∨ 3 < lane ∨ p.lanesOut.getLsbD lane = true then .next s else
  let n := p.fails.get lane + 1
  if n < 8 then .next { s with ports := s.ports.put port { p with fails := p.fails.put lane n, resent := p.resent + 1 } }
  else
    let pause := (Config.freeWord s.free).toNat % 10001
    .next { s with
      free := s.free + 1
      ports := s.ports.put port { p with
        lanesOut := p.lanesOut ||| BitVec.ofNat 4 (2 ^ lane), fails := p.fails.put lane 0, resent := p.resent + 1, retrain := some (s.now + pause) } }

/-- A flit's check succeeds: its failures on the lane are over (R353). -/
def State.flitSent (s : State) (port lane : Nat) : State :=
  { s with ports := s.ports.upd port (fun p => { p with fails := p.fails.put lane 0 }) }

/-- LINK_RETRAIN_END, R354. -/
def execLinkRetrainEnd (port : Nat) (s : State) : Out :=
  let p := s.ports.get port
  match p.retrain with
  | some t => if t ≤ s.now then .next { s with ports := s.ports.put port { p with retrain := none } } else .next s
  | none => .next s

/-- HBM_CORRECTABLE_ERROR, R357: the second error of a row replaces it. -/
def execHbmCorrectableError (controller bank row : Nat) (s : State) : Out :=
  let r := (controller, bank, row)
  if s.hbm.errors.contains r then
    .next { s with hbm := { s.hbm with errors := s.hbm.errors.filter (fun e => e != r), replaced := s.hbm.replaced ++ [r] } }
  else .next { s with hbm := { s.hbm with errors := s.hbm.errors ++ [r] } }

/-- PSEUDO_CHANNEL_FAILURE, R357: the stack's spare takes over; a second failure of the stack, of the spare too,
raises ECC at its consumers. -/
def execPseudoChannelFailure (stack channel : Nat) (s : State) : Out :=
  let c := (stack, channel)
  if s.hbm.failed.contains c then .next s
  else if s.hbm.channels.any (fun e => e.1 == stack) then .next { s with hbm := { s.hbm with failed := s.hbm.failed ++ [c] } }
  else .next { s with hbm := { s.hbm with channels := s.hbm.channels ++ [c] } }

/-! ### Requests from outside (R228) -/

/-- R354: the port by which an answer leaves: the one that the line's address names, or the next of those that are
neither paused nor removed from routing. -/
def State.routePort (s : State) (line : Nat) : Nat :=
  (((List.range 18).map (fun i => (portOf line + i) % 18)).find? (fun p =>
    (s.ports.get p).retrain.isNone && decide ((s.ports.get p).width ≠ 0))).getD (portOf line)

/-- The answer to a request: whether it was served, and the bytes it gives. -/
def State.answerOutside (s : State) (pa : Nat) (ok : Bool) (bs : List Byte) : State :=
  { s with ports := s.ports.upd (s.routePort (lineOf pa)) (fun p => { p with answer := some (ok, bs) }) }

/-- The class that the module's translations give a frame: by a TLB, a heap window or the page tables. -/
def State.frameClass (s : State) (frame : Nat) : Option Nat :=
  let tlbs := s.dies.flatMap (fun e => e.2.tlb) ++ s.cores.flatMap (fun e => e.2.tlb)
  match tlbs.find? (fun e => e.maps frame) with
  | some e => some e.cls.toNat
  | none => s.ctxs.findSome? (fun e => s.mapsFrame e.1 frame)

/-- An outside store, line by line (R237, R279). -/
def State.outsideWrite (s : State) (pa size value : Nat) : State :=
  let bs := (splitBytes value size).zipIdx.map (fun e => (pa + e.2, e.1))
  ((bs.map (fun e => lineOf e.1)).dedup).foldl (fun (st : State) l =>
    (st.homeWrite l 2 0 0 (bs.filter (fun e => lineOf e.1 == l))).1) s

/-- An outside fill: a lease for the agents outside, of at most 4,096 ns, unless a stash owns the line or waits to
(R243). -/
def State.outsideRead (s : State) (pa size lease : Nat) : State :=
  (((List.range size).map (fun i => lineOf (pa + i))).dedup).foldl (fun (st : State) l =>
    if ((st.home.get l).owner).isSome || st.claimed l then st.collect l else
    (st.collect l).onHome l (fun h => { h with lease := h.lease.upd 8 (fun e => max e (s.now + min lease 4096)) })) s

/-- The bytes of a page's memory as a request reads them. -/
def State.outsideBytes (s : State) (pa size : Nat) : List Byte := (List.range size).map (fun i => s.byteAt (pa + i))

/-- The value that an ATOM or a RED from outside leaves (R186, R187). -/
def fabricNew (op compare old v : Nat) : Nat :=
  if op = 12 then v else if op = 13 then (if old = compare then v else old) else redFold op old v

/-- An ATOM of an outside agent collects the module's update-only copies (R279). -/
def State.outsideUpdate (s : State) (pa size op compare value : Nat) : State × List Byte :=
  let s1 := (s.recall (lineOf pa)).collect (lineOf pa)
  (s1.outsideWrite pa size (fabricNew op compare (s1.readPa pa size) value), s1.outsideBytes pa size)

/-- A RED of an outside agent is applied at the home as it arrives, between collections (R280). -/
def State.outsideRed (s : State) (pa size op value : Nat) : State :=
  let line := lineOf pa
  let s1 := s.recall line
  let bs := (splitBytes (redFold op (s1.readPa pa size) value) size).zipIdx.map (fun e => (pa + e.2, e.1))
  ((s1.applyAt line 2 0 0 bs).1).wakeSignals line

/-- A byte of the host register page. -/
def State.registerByte (s : State) (o : Nat) : Byte :=
  BitVec.ofNat 8 ((s.registerWord (o / 4 * 4)).toNat / 2 ^ (8 * (o % 4)))

/-- A word of the page with the bytes that a write of `size` bytes from byte `o` brings into it. -/
def State.mergedWord (s : State) (o size value w : Nat) : Word :=
  BitVec.ofNat 32 (joinBytes ((List.range 4).map (fun i =>
    if o ≤ w + i ∧ w + i < o + size then BitVec.ofNat 8 (value / 2 ^ (8 * (w + i - o))) else s.registerByte (w + i))))

/-- A request to the host register page (R344, R345), a class 3 page: an aligned access of 1, 2, 4 or 8 bytes (R168),
of its words in ascending order; a read of the status word clears the overrun bit. -/
def State.registerRequest (s : State) (kind : FabricKind) (pa size value : Nat) : State :=
  let o := pa % 4096
  if !([1, 2, 4, 8].contains size) || decide (o % size ≠ 0) then s.answerOutside pa false [] else
  let words := ((List.range size).map (fun i => (o + i) / 4 * 4)).dedup
  match kind with
  | .read =>
    let t := s.answerOutside pa true ((List.range size).map (fun i => s.registerByte (o + i)))
    if words.contains 0x40 then t.onFw (fun f => { f with overrun := false }) else t
  | .write => (words.foldl (fun (st : State) w =>
      match execRegisterPageWrite w (s.mergedWord o size value w) st with | .next t => t | _ => st) s).answerOutside pa true []
  | _ => s.answerOutside pa false []

/-- FABRIC_REQUEST, R228: served on a class 2 page and on the host register page; on a page of another class refused
with an error, which changes nothing. A frame that no translation of the module maps is served (log entry 55). A
write waits while a checkpoint has the page to copy (R338). -/
def execFabricRequest (kind : FabricKind) (pa size value : Nat) (s : State) : Out :=
  if pa / 4096 = Config.registerPage then .next (s.registerRequest kind pa size value) else
  match s.frameClass (pa / 4096) with
  | some 2 | none =>
    (match kind with
    | .read => let t := s.outsideRead pa size value
               .next (t.answerOutside pa true (t.outsideBytes pa size))
    | .write => if s.cowFrame (pa / 4096) then .next (s.later (.fabricRequest kind pa size value))
                else .next ((s.outsideWrite pa size value).answerOutside pa true [])
    | .atom op c => if s.cowFrame (pa / 4096) then .next (s.later (.fabricRequest kind pa size value))
                    else let r := s.outsideUpdate pa size op c value
                         .next (r.1.answerOutside pa true r.2)
    | .red op => if s.cowFrame (pa / 4096) then .next (s.later (.fabricRequest kind pa size value))
                 else .next ((s.outsideRed pa size op value).answerOutside pa true []))
  | some _ => .next (s.answerOutside pa false [])

end Sys2Proof.Machine
end

