-- ==== Sys2Proof/Machine/Upkeep.lean ====
section
/-! DEFINITION. Events of the cores and the homes: the rotation of spilled splits (R21), the end of a
YIELD (R140), flushes and evictions (R229, R236, R241, R274, R279), errors that nothing consumes (R332),
and words that are not instructions (R36, R109). -/

namespace Sys2Proof.Machine

/-- SPILL_ROTATION, R21: the split changes places with the one in the rotation pointer's entry. -/
def execSpillRotation (grp : Nat) (s : State) : Out :=
  match s.longSpilled grp with
  | none => .next s
  | some x =>
    .next (s.onGroup grp (fun g =>
      let k := g.rot.toNat
      let old := { g.ent.get k with since := s.now }
      { g with ent := g.ent.put k x, rot := g.rot + 1
               spill := g.spill.map (fun y => if y.uid = x.uid then old else y) }))

/-- YIELD_EXPIRY, R140. -/
def execYieldExpiry (quad : Nat) (s : State) : Out :=
  .next (s.onQuad quad (fun k => { k with yields := k.yields.filter (fun y => decide (s.now < y.until_)) }))

/-- WC_FLUSH_TIMEOUT, R241. -/
def execWcFlushTimeout (core : Nat) (s : State) : Out :=
  let w := (s.cores.get core).wc
  if w.held && decide (w.since + s.cycles (dieOfCore core) 64 ≤ s.now) then .next (s.flushWc core) else .next s

/-- An instruction line leaves the core (R245). -/
def State.dropCode (s : State) (core line : Nat) : State :=
  s.onCore core (fun k => { k with l1i := k.l1i.erase line })

/-- R4: a dirty private line is written back (R229), an update-only copy is collected (R279), a
leased copy goes; a core that holds no data line of that number gives up its instruction line. -/
def State.evictL1 (s : State) (core line : Nat) : State :=
  match ((s.cores.get core).l1.get line).st with
  | .priv => s.evictPrivate core line
  | .updateOnly _ _ => (s.collectFrom line [core]).1
  | .leased _ => s.l1Drop core line
  | .filling _ => s
  | .invalid => s.dropCode core line
/-- L1_EVICTION. -/
def execL1Eviction (core line : Nat) (s : State) : Out := .next (s.evictL1 core line)

/-- R236, R274: the latest summary and the stamp of a line fold into its slice's, or, for a line homed outside
the module, into its hub die's. -/
def State.foldEviction (s : State) (line : Nat) : State :=
  let h := s.home.get line
  if outsidePa (64 * line) then
    { s with hubs := s.hubs.upd (hubOf line) (fun p => ⟨max p.evExpiry (h.leaseMax 8), max p.evStamp h.stamp⟩) }
  else
    let at_ := homeOf line
    s.onDie at_.1 (fun d => { d with
      evExpiry := d.evExpiry.upd at_.2 (fun n => max n (h.leaseMax 9)), evStamp := d.evStamp.upd at_.2 (fun n => max n h.stamp) })

/-- What a home still has of a line that its slice does not hold: a store that settles, an owning stash, waiting
splits (R239, R243, R192). -/
def HomeLine.busy (h : HomeLine) (now : Nat) : Bool := decide (now < h.settle) || h.owner.isSome || h.watchers != []

/-- R236, R274: the line takes its slice's eviction values; what its home is busy with stays. -/
def State.evictL2 (s : State) (line : Nat) : State :=
  if !listed s.home line then s else
  let h := s.home.get line
  let f := s.foldEviction line
  let gone : State := { f with home := f.home.erase line }
  if h.busy s.now then gone.onHome line (fun x => { x with settle := h.settle, owner := h.owner, watchers := h.watchers })
  else gone
/-- L2_EVICTION. -/
def execL2Eviction (line : Nat) (s : State) : Out := .next (s.evictL2 line)

/-! ### The sizes of the caches (R4, R236): a cache that is beyond its size gives lines up, those of priority stream
first and those of keep last (R169), and of one priority the lowest first (DESIGN CHOICE, log entry 61) -/

/-- Lines in the order in which they are replaced. -/
def replaced {α : Type} (pol : α → BitVec 2) (ls : List (Nat × α)) : List (Nat × α) :=
  ls.filter (fun e => pol e.2 == 1) ++ ls.filter (fun e => pol e.2 != 1 && pol e.2 != 2) ++ ls.filter (fun e => pol e.2 == 2)

/-- The L1 of a core, 128 KiB of data and 64 KiB of instructions. -/
def State.trimCore (s : State) (core : Nat) : State :=
  let k := s.cores.get core
  let stays (l : L1Line) : Bool := match l.st with | .filling _ => true | _ => false
  let data := ((replaced L1Line.pol (k.l1.filter (fun e => !stays e.2))).take (k.l1.length - 2048)).map Prod.fst
  let code := (k.l1i.take (k.l1i.length - 1024)).map Prod.fst
  code.foldl (fun (st : State) l => st.dropCode core l) (data.foldl (fun (st : State) l => st.evictL1 core l) s)

/-- The place that holds a line: a slice's 2 MiB, or the 65,536 entries of a hub die's proxy. -/
def holderOf (line : Nat) : Nat := if outsidePa (64 * line) then 384 + hubOf line else 48 * (homeOf line).1 + (homeOf line).2
def State.trimHomes (s : State) : State :=
  if s.home.length ≤ 32768 then s else
  ((s.home.map (fun e => holderOf e.1)).dedup).foldl (fun (st : State) k =>
    let mine := st.home.filter (fun e => holderOf e.1 == k)
    let extra := mine.length - (if 384 ≤ k then 65536 else 32768)
    (((replaced HomeLine.pol (mine.filter (fun e => !e.2.busy st.now))).take extra).map Prod.fst).foldl (fun (st : State) l => st.evictL2 l) st) s
def State.trimCaches (s : State) : State :=
  (((s.cores.filter (fun e => decide (2048 < e.2.l1.length ∨ 1024 < e.2.l1i.length))).map Prod.fst).foldl
    (fun (st : State) c => st.trimCore c) s).trimHomes

/-! ### Errors that nothing consumes (R332) -/

/-- R332: a context owns a frame: its heap window, a translation held, or its page tables map it. -/
def State.ownsFrame (s : State) (ctx frame : Nat) : Bool :=
  let mine (t : List TlbEntry) : Bool := t.any (fun e => e.ctx == ctx && e.maps frame)
  s.dies.any (fun e => mine e.2.tlb) || s.cores.any (fun e => mine e.2.tlb) || (s.mapsFrame ctx frame).isSome

/-- The source of an error in a line at rest: the second tier, the fabric, or a free one of HBM, L2, L1. -/
def State.errorSource (s : State) (line : Nat) : Nat × State :=
  if outsidePa (64 * line) then (6, s)
  else if 2 ^ 38 ≤ line ∧ line < 2 ^ 39 then (5, s)
  else ((Config.freeWord s.free).toNat % 3, { s with free := s.free + 1 })

/-- A full error table stops the contexts that own the page. -/
def State.stopOwners (s : State) (line source : Nat) : State :=
  s.ctxs.foldl (fun (st : State) e =>
    if e.2.st = .none ∨ st.ownsFrame e.1 (line / 64) = false then st else
    let r : TrapRecord := { ctx := e.1, cause := .ecc, detail := BitVec.ofNat 16 source, time := st.claveOf 0 }
    (st.postTrap e.1 r).stopContext e.1 .stopped) s

/-- UNCORRECTABLE_ERROR, R332: the line enters the error table of its home slice. -/
def execUncorrectableError (line : Nat) (s : State) : Out :=
  let at_ := homeOf line
  let t := (s.dies.get at_.1).errors
  if t.any (fun e => e.1 == line) then .next s else
  let r := s.errorSource line
  if 64 ≤ (t.filter (fun e => decide ((homeOf e.1).2 = at_.2))).length then .next (r.2.stopOwners line r.1)
  else .next (r.2.onDie at_.1 (fun d => { d with errors := d.errors ++ [(line, r.1)] }))

/-! ### Words that are not instructions -/

/-- WORD_NOT_INSTRUCTION, R36, R109: ILL or ILLOP, precisely, with the record of the failing plane. -/
def execWordNotInstruction (illop : Bool) (reason low : Byte) (plane : BitVec 2) (s : State) : Out :=
  let f := s.focus
  .next (s.trapHere (s.record f.grp f.uid (if illop then .illop else .ill) (256 * reason.toNat + low.toNat) 0
    (s.fetchAddr f.grp f.version plane.toNat f.offset) f.offset f.lanes plane.toNat))

end Sys2Proof.Machine
end

