-- ==== Sys2Proof/Machine/Due.lean ====
section
/-! DEFINITION. The events whose time has come: what happens by itself once time has passed, or once the state
calls for it. -/

namespace Sys2Proof.Machine

/-- Something due once its instant has passed. -/
def due (s : State) (t : Option Nat) (after : Nat) (e : Instr) : List Instr :=
  match t with
  | some t => if t + after ≤ s.now then [e] else []
  | none => []

/-- What Carillon, the sequencer and the Knell have to do: a packet in a ring, a checkpoint at its boundary, a
launch that is quiescent, a heartbeat within the last 3 µs before its deadline (DESIGN CHOICE, log entry 53), a
deadline that a complex has missed, the end of a probation, the sections for the standby. -/
def State.dueService (s : State) : List Instr :=
  let queues := if !s.fw.up then [] else s.queues.flatMap (fun e =>
    let q := e.2
    if !q.live || q.stopped || q.packet.isSome || decide ((s.ctxs.get q.ctx).st ≠ .running) then [] else
    match s.agentWord q.ctx q.tailAddr 4 with
    | .ok t => if t % 2 ^ 32 = q.head.toNat then [] else [.queueTailWrite e.1]
    | .error _ => [.queueTailWrite e.1])
  let ckpts := if !s.fw.up then [] else s.ctxs.flatMap (fun e => match e.2.ckpts with
    | k :: _ => if !k.begun && s.launches.all (fun l => !(l.2.live && l.2.ctx == e.1)) then [.checkpointBoundary e.1] else []
    | [] => [])
  let quiet := s.launches.flatMap (fun e => if s.quiet e.1 && e.2.disagree.isNone then [.knellQuiescence e.1] else [])
  let beats := if !s.powered then [] else
    if s.fw.up then
      (if s.fw.update = .probation ∧ s.fw.nextBeat < s.now then (if s.fw.standbyUp then [.watchdogMiss] else [])
       else due s (some (s.fw.nextBeat - 3000)) 0 .heartbeat)
      ++ due s (some s.fw.lastMirror) 10000000 .stateTableMirror
    else if s.fw.standbyUp then due s (some s.fw.nextBeat) 0 (if s.fw.update = .probation then .watchdogMiss else .standbyTakeover)
    else []
  let ends := due s (if s.fw.update = .probation && s.fw.up && decide (s.now ≤ s.fw.nextBeat) then some s.fw.probationStart else none) 60000000000 .probationEnd
  queues ++ ckpts ++ quiet ++ beats ++ ends

/-- R378: the skew of a compute die is measured at its clock's start and then every 1 ms; the value is a free one
within 2 ns (DEDUCED, log entry 54). -/
def State.skewDue (s : State) (d : Nat) : List Instr :=
  let x := s.dies.get d
  if d = 0 || 7 < d || x.off || !s.powered then [] else
  if x.measuredAt.all (fun t => decide (t + 1000000 ≤ (s.claveOf 0).toNat)) then
    [.skewMeasurement d (BitVec.ofInt 32 (x.skew + ((Config.freeWord s.free).toNat % 5 : Nat) - 2))]
  else []

/-! ### The relock of a die's clock (R380) -/

/-- The die whose crossing between the core and the uncore clocks a request or an answer of an event passes. -/
def State.crosses (s : State) (i : Instr) : Option Nat :=
  let ofOp (k : Nat) : Option Nat :=
    let o := s.op k
    if o.live && ((shapeOf o.instr).isSome || (match o.instr with | .launch _ _ _ | .wltake _ _ _ _ | .wlapp _ _ _ => true | _ => false))
    then some (dieOfGroup o.grp) else none
  match i with
  | .loadDataReturn op | .storeAcceptReply op | .storeApply op | .atomAtHome op | .wlappAccept op => ofOp op
  | .fillGrant core _ | .wcFlushTimeout core | .pageWalkComplete core _ _ | .l1Eviction core _ => some (dieOfCore core)
  | .stashOwnershipFill block _ => some (dieOfCore (coreOfBlock block))
  | .copyComplete grp _ | .txLaneCommit grp => some (dieOfGroup grp)
  | .gongEntryExecute die => some die
  | .launchAccept sub => match s.subs.find? (fun e => e.1 == sub) with
    | some (_, x) => (match x.origin with | .child op _ => ofOp op | _ => none)
    | none => none
  | _ => none

/-- The event waits for the end of a relock. -/
def State.held (s : State) (i : Instr) : Bool := match s.crosses i with | some d => s.relocking d | none => false

/-- The first event under way that does not wait. -/
def State.firstFree (s : State) : Option Nat := s.pending.findIdx? (fun e => !s.held e)

/-- The events whose time has come, in a fixed order. -/
def State.dueEvents (s : State) : List Instr :=
  let cores := s.cores.flatMap (fun e => due s (if e.2.wc.held && !s.relocking (dieOfCore e.1) then some e.2.wc.since else none)
    (s.cycles (dieOfCore e.1) 64) (.wcFlushTimeout e.1))
  let quads := s.quads.flatMap (fun e => if e.2.yields.any (fun y => decide (y.until_ ≤ s.now)) then [.yieldExpiry e.1] else [])
  let groups := s.groups.flatMap (fun e => if (s.longSpilled e.1).isSome then [.spillRotation e.1] else [])
  let dies := s.dies.flatMap (fun e => due s e.2.relock 0 (.relockEnd e.1)
    ++ (if s.fw.up && (e.2.hot || decide (s.powerBound < s.fw.power.toNat)) && e.2.relock.isNone && !e.2.off && decide (16 < e.2.freq)
        then [.frequencyStep e.1 false] else [])
    ++ s.skewDue e.1)
  let ctxs := s.ctxs.flatMap (fun e => due s e.2.sliceStart e.2.sliceNs (.timeSliceExpiry e.1))
  let blocks := s.blocks.flatMap (fun e => if e.2.live && decide ((s.ctxs.get e.2.ctx).budgetNs ≤ s.clockOf e.1)
    then [.waitbudgetExpiry e.1] else [])
  let ports := s.ports.flatMap (fun e => due s e.2.retrain 0 (.linkRetrainEnd e.1))
  let recounts := if !s.fw.up then [] else s.launches.flatMap (fun e => due s e.2.disagree 10000000 (.knellRecountTimeout e.1))
  cores ++ quads ++ groups ++ dies ++ ctxs ++ blocks ++ ports ++ recounts ++ s.dueService

end Sys2Proof.Machine
end

