-- ==== Sys2Proof/Machine/Flags.lean ====
section
/-! DEFINITION. Truth values: the relations of CMP and CMPI (R122, R123), the predicate operations of
R124 and the conditions of BSC (R130). The machine has no other flags. -/

namespace Sys2Proof.Machine

/-- R108: relations 0 EQ, 1 NE, 2 LT, 3 LE, 4 GT, 5 GE on integers. -/
def relInt (rel : Nat) (x y : Int) : Bool :=
  match rel with
  | 0 => decide (x = y) | 1 => decide (x ≠ y) | 2 => decide (x < y)
  | 3 => decide (x ≤ y) | 4 => decide (y < x) | _ => decide (y ≤ x)

/-- The relations on an ordered outcome of FP32; `unord` is the answer when a NaN takes part. -/
def relFloat (unord : Bool) (rel : Nat) (x y : Word) : Bool :=
  match fCompare x y, rel with
  | .unordered, _ => unord
  | .equal, 0 => true | .equal, 1 => false | .equal, 2 => false | .equal, 3 => true
  | .equal, 4 => false | .equal, _ => true
  | .less, 0 => false | .less, 1 => true | .less, 2 => true | .less, 3 => true | .less, _ => false
  | .greater, 1 => true | .greater, 4 => true | .greater, 5 => true | .greater, _ => false

/-- R122: types 0 ICMP, 1 UCMP, 2 FCMP, 3 FCMPU, 4 ICMP.D, 5 UCMP.D, on pair values. -/
def cmpTruth (t rel : Nat) (x y : DWord) : Bool :=
  match t with
  | 0 => relInt rel (loWord x).toInt (loWord y).toInt
  | 1 => relInt rel (loWord x).toNat (loWord y).toNat
  | 2 => relFloat false rel (loWord x) (loWord y)
  | 3 => relFloat true rel (loWord x) (loWord y)
  | 4 => relInt rel x.toInt y.toInt
  | _ => relInt rel x.toNat y.toNat

/-- R123: relations 0–5 by sx, 6 ULT and 7 UGE by ux. -/
def cmpiTruth (rel : Nat) (x k : Word) : Bool :=
  match rel with
  | 6 => decide (x.toNat < k.toNat)
  | 7 => decide (k.toNat ≤ x.toNat)
  | r => relInt r x.toInt k.toInt

/-- R130: 0 EQZ, 1 NEZ, 2 LTZ, 3 GEZ. -/
def bscTruth (rel : Nat) (x : Word) : Bool :=
  match rel with
  | 0 => decide (x = 0) | 1 => decide (x ≠ 0) | 2 => decide (x.toInt < 0) | _ => decide (0 ≤ x.toInt)

/-- R126: the tested predicate, p XOR neg. -/
def State.test (s : State) (p : BitVec 3) (neg : Bool) (L : Nat) : Bool := s.pR p L != neg

/-- R125: the lanes of a mask in which a predicate is set. -/
def State.ballot (s : State) (p : BitVec 3) (m : Mask) : Mask := s.cur.p.get p.toNat &&& m

end Sys2Proof.Machine
end

