-- ==== Sys2Proof/Machine/Control.lean ====
section
/-! DEFINITION. Structured control, branches, calls, joining and exiting: majors 0x40–0x4E (R25–R28,
R126–R135), with the levels and the leaving of transactions (R195, R261). -/

namespace Sys2Proof.Machine

/-! ### Where lanes go -/

/-- The non-exited lanes of the split in focus. -/
def State.splitLanes (s : State) : Mask := (s.splitOf s.focus.grp s.focus.uid).mask &&& ~~~s.cur.exited

/-- Send lanes to an offset; entries made later win. -/
def State.sendTo (s : State) (m : Mask) (t : Word) : State := s.onFocus (fun f => { f with goes := (m, t) :: f.goes })

/-- R126: the target of an offset field: the word's own offset + 2 · off. -/
def State.target (s : State) (off : Word) : Word := s.focus.offset + 2 * off

/-- R130: the lanes that a pass moves as a whole: those of its plane, active or not, and in the first
pass those of planes that issued no pass. -/
def State.ownLanes (s : State) : Mask :=
  let f := s.focus
  let idle := s.splitLanes &&& ~~~f.lanes
  let inPlane (p : Nat) : Mask := maskOf (fun L => (s.cur.plane.get L).toNat == p)
  let issued (p : Nat) : Bool := decide (f.lanes &&& inPlane p ≠ 0)
  f.mask ||| (idle &&& maskOf (fun L =>
    (s.cur.plane.get L).toNat == f.plane.toNat || (f.first && !issued (s.cur.plane.get L).toNat)))

/-! ### Transactions -/

/-- Change the open transactions of lanes. -/
def State.onTx (s : State) (m : Mask) (f : TxLane → TxLane) : State :=
  s.onCur (fun g => { g with tx := (lanesOf (m &&& g.txOpen)).foldl (fun t L => t.upd L f) g.tx })

/-- R261: IF and LOOP levels open at an offset of a plane's words. -/
def depthAt (units : List Nat) (here pos fuel depth : Nat) : Nat :=
  match fuel with
  | 0 => depth
  | f + 1 =>
    if here ≤ pos then depth else
    match units with
    | [] => depth
    | lo :: rest =>
      let long := lo % 2 = 1
      let w := lo + 65536 * (if long then rest.headD 0 else 0)
      let d := if isIfOrLoop w then depth + 1 else if isEndOf w then depth - 1 else depth
      depthAt (if long then rest.drop 1 else rest) here (if long then pos + 4 else pos + 2) f d

/-- R261: an offset lies outside the region of the TXBEGIN; or past the TXEND. -/
def TxLane.outside (t : TxLane) (o : Word) : Bool := decide (o.toNat < t.regionLo.toNat ∨ t.regionHi.toNat < o.toNat)
def TxLane.past (t : TxLane) (o : Word) : Bool := match t.txEnd with | some e => decide (e.toNat < o.toNat) | none => false
/-- R261: a lane that goes from an offset to another leaves the region, or goes past the TXEND. -/
def TxLane.leaves (t : TxLane) (here target : Word) : Bool :=
  t.isOpen && ((t.outside target && !t.outside here) || (t.past target && !t.past here))

/-- R195, code 6: lanes sent to an offset. Of those that stay, a branch loses the levels that it leaves; a call and
a return, which go to other code and come back, leave none (R261). JMP, BSC, CALL and RET take the inactive lanes
of the pass's plane along (R130) and doom those too, of which R195 does not speak (DEDUCED, log entry 36). -/
def State.leaveTx (s : State) (m : Mask) (target : Word) (call : Bool) : State :=
  if m &&& s.cur.txOpen = 0 then s else
  let bad := maskOf (fun L => inMask m L && (s.cur.tx.get L).leaves s.focus.offset target)
  let u := s.planeUnits s.focus.grp s.focus.version s.focus.plane.toNat
  let at_ (o : Word) : Nat := depthAt u o.toNat 0 (u.length + 1) 0
  let gone := if call then 0 else at_ s.focus.offset - at_ target
  (s.doom bad 6).onTx m (fun t => { t with levels := t.levels - gone })

/-! ### Depth counters (R26–R28) -/

/-- Write depth counters; one that would pass 255 changes none and traps ILLOP. -/
def setDepths (s : State) (m : Mask) (f : Nat → Nat) (major : Nat) (k : State → Out) : Out :=
  if (lanesOf m).any (fun L => decide (255 < f L)) then .next (s.illop 8 major)
  else k (s.onCur (fun g => { g with depth := (lanesOf m).foldl (fun d L => d.put L (BitVec.ofNat 8 (f L))) g.depth }))

def State.depthOf (s : State) (L : Nat) : Nat := (s.cur.depth.get L).toNat

/-- The split jumps when a test says so. -/
def jumpIf (b : Bool) (s : State) (off : Word) : Out := .next (if b then s.sendTo (BitVec.allOnes 32) (s.target off) else s)

/-- IF, R27. -/
def execIfP (p : BitVec 3) (g : Bool) (off : BitVec 16) (s : State) : Out :=
  let act := s.focus.mask
  let stay := maskOf (fun L => inMask act L && s.test p g L)
  setDepths s s.splitLanes (fun L => if inMask act L then (if inMask stay L then 0 else 1) else s.depthOf L + 1) 0x40
    (fun t => jumpIf (stay == 0) (t.onTx s.splitLanes (fun x => { x with levels := x.levels + 1 })) (off.signExtend 32))

/-- ELSE, R27. -/
def execElseP (off : BitVec 20) (s : State) : Out :=
  setDepths s s.splitLanes (fun L => match s.depthOf L with | 0 => 1 | 1 => 0 | k => k) 0x41
    (fun t => jumpIf (t.cur.active t.splitLanes == 0) t (off.signExtend 32))

/-- ENDIF, R27. -/
def execEndif (s : State) : Out :=
  setDepths s s.splitLanes (fun L => s.depthOf L - 1) 0x42
    (fun t => .next (t.onTx s.splitLanes (fun x => { x with levels := x.levels - 1 })))

/-- LOOP, R28. -/
def execLoop (off : BitVec 20) (s : State) : Out :=
  setDepths s s.splitLanes (fun L => if inMask s.focus.mask L then 0 else s.depthOf L + 1) 0x43
    (fun t => jumpIf (s.focus.mask == 0) (t.onTx s.splitLanes (fun x => { x with levels := x.levels + 1 })) (off.signExtend 32))

/-- ENDLOOP, R28. -/
def execEndloop (off : BitVec 20) (s : State) : Out :=
  if s.focus.mask ≠ 0 then jumpIf true s (off.signExtend 32)
  else setDepths s s.splitLanes (fun L => s.depthOf L - 1) 0x44
    (fun t => .next (t.onTx s.splitLanes (fun x => { x with levels := x.levels - 1 })))

/-- BRK, R28; a breaking lane whose levels are below n + 1 leaves its transaction's region (R261). -/
def execBrk (p : BitVec 3) (g : Bool) (n : BitVec 4) (off : BitVec 16) (s : State) : Out :=
  let out := maskOf (fun L => inMask s.focus.mask L && s.test p g L)
  let bad := maskOf (fun L => inMask out L && (s.cur.tx.get L).isOpen && decide ((s.cur.tx.get L).levels < n.toNat + 1))
  setDepths s out (fun _ => n.toNat + 1) 0x45
    (fun t => jumpIf ((s.focus.mask &&& ~~~out) == 0) (t.doom bad 6) (off.signExtend 32))

/-! ### Branches and calls (R128–R131) -/

/-- BRA, R128. -/
def execBra (p : BitVec 3) (g : Bool) (off : BitVec 16) (s : State) : Out :=
  let m := maskOf (fun L => inMask s.focus.mask L && s.test p g L)
  let t := s.target (off.signExtend 32)
  .next ((s.leaveTx m t false).sendTo m t)

/-- R130: every lane that the pass moves goes to an offset. -/
def State.moveWhole (s : State) (t : Word) (call : Bool) : State := (s.leaveTx s.ownLanes t call).sendTo s.ownLanes t

/-- JMP, R130. -/
def execJmp (off : BitVec 20) (s : State) : Out := .next (s.moveWhole (s.target (off.signExtend 32)) false)

/-- BSC, R130. -/
def execBsc (sp : Reg) (r : BitVec 2) (off : BitVec 16) (s : State) : Out :=
  .next (if bscTruth r.toNat (s.sR sp) then s.moveWhole (s.target (off.signExtend 32)) false else s)

/-- R131: s63 takes the offset after a call. -/
def State.linkHere (s : State) : State := s.setS 63 (s.focus.offset + 4)

/-- CALL, R131. -/
def execCall (off : BitVec 20) (s : State) : Out := .next (s.linkHere.moveWhole (s.target (off.signExtend 32)) true)

/-- An offset with bit 0 cleared. -/
def evenOffset (w : Word) : Word := w &&& ~~~1

/-- RET, R131. -/
def execRet (a : Reg) (s : State) : Out := .next (s.moveWhole (evenOffset (s.sR a)) true)

/-- R129: each lane of the pass goes to the offset in its register. -/
def State.scatter (s : State) (a : Reg) (call : Bool) : State :=
  (lanesOf s.focus.mask).foldl (fun (st : State) L =>
    let m := maskOf (fun K => K == L)
    (st.leaveTx m (evenOffset (s.vR a L)) call).sendTo m (evenOffset (s.vR a L))) s

/-- BRX, R129. -/
def execBrx (a : Reg) (s : State) : Out := .next (s.scatter a false)

/-- CALLI, R129. -/
def execCalli (a : Reg) (s : State) : Out := .next (if s.focus.mask = 0 then s else (s.scatter a true).linkHere)

/-! ### Joining and exiting (R133–R135) -/

/-- JOIN, R23, R133: the lanes that the pass moves stay at the JOIN; the split that they form there is parked
once every pass of the offset has issued (R33). -/
def execJoin (s : State) : Out :=
  .next ((s.onSplit s.focus.grp s.focus.uid (fun x => { x with joins := x.joins ||| s.ownLanes })).sendTo s.ownLanes s.focus.offset)

/-- EXIT, R134. -/
def execExit (s : State) : Out := .next (s.exitLanes s.focus.grp s.focus.uid s.focus.mask)

/-- EXITC, R135: the block keeps the first address. -/
def execExitc (a : Reg) (s : State) : Out :=
  if s.focus.mask = 0 then .next s else
  .next ((s.onBlock s.cur.block (fun b => { b with successor := b.successor <|> some (s.sP a) })).exitLanes
    s.focus.grp s.focus.uid s.focus.mask)

/-! ### Planes (R32, R137) -/

/-- R32: set planes; one that is not below the version's plane count changes none and traps ILLOP. -/
def setPlanes (s : State) (m : Mask) (f : Nat → BitVec 2) : Out :=
  let n := ((s.launchOf s.focus.grp).entries.get s.focus.version).planes
  if (lanesOf m).any (fun L => decide (n ≤ (f L).toNat)) then .next (s.illop 9 0x50)
  else .next (s.onCur (fun g => { g with plane := (lanesOf m).foldl (fun p L => p.put L (f L)) g.plane }))

/-- PSET (PLANE), R137. -/
def execPset (k : BitVec 2) (s : State) : Out := setPlanes s s.focus.mask (fun _ => k)
/-- PSEL, R137. -/
def execPsel (g : Bool) (p : BitVec 3) (k : BitVec 2) (s : State) : Out :=
  setPlanes s (maskOf (fun L => inMask s.focus.mask L && s.test p g L)) (fun _ => k)
/-- PMOV, R137. -/
def execPmov (a : Reg) (s : State) : Out := setPlanes s s.focus.mask (fun L => (s.vR a L).setWidth 2)
/-- PGET, R137. -/
def execPget (d : Reg) (s : State) : Out := lanewise s d (fun L => (s.cur.plane.get L).setWidth 32)

end Sys2Proof.Machine
end

