-- ==== Sys2Proof/Machine/Convert.lean ====
section
/-! DEFINITION. Conversions, slot packing and dot products: majors 0x1F–0x22 (R157–R163). -/

namespace Sys2Proof.Machine

/-! ### CVT (R157) -/

/-- I2F, R157. -/
def execI2f (d : Reg) (a : Reg) (s : State) : Out := vvv s intToF d a 0

/-- U2F, R157. -/
def execU2f (d : Reg) (a : Reg) (s : State) : Out := vvv s uintToF d a 0

/-- F2I, R157. -/
def execF2i (d : Reg) (a : Reg) (s : State) : Out := vvv s (fToInt .rz true) d a 0

/-- F2U, R157. -/
def execF2u (d : Reg) (a : Reg) (s : State) : Out := vvv s (fToInt .rz false) d a 0

/-- F2IN, R157. -/
def execF2in (d : Reg) (a : Reg) (s : State) : Out := vvv s (fToInt .rne true) d a 0

/-- F2UN, R157. -/
def execF2un (d : Reg) (a : Reg) (s : State) : Out := vvv s (fToInt .rne false) d a 0

/-- PKH, R157. -/
def execPkh (d : Reg) (a : Reg) (b : Reg) (s : State) : Out := vvv s pkh d a b

/-- PKB, R157. -/
def execPkb (d : Reg) (a : Reg) (b : Reg) (s : State) : Out := vvv s pkb d a b

/-- UPH_LO, R157. -/
def execUphLo (d : Reg) (a : Reg) (s : State) : Out := vvv s uphLo d a 0

/-- UPH_HI, R157. -/
def execUphHi (d : Reg) (a : Reg) (s : State) : Out := vvv s uphHi d a 0

/-- UPB_LO, R157. -/
def execUpbLo (d : Reg) (a : Reg) (s : State) : Out := vvv s upbLo d a 0

/-- UPB_HI, R157. -/
def execUpbHi (d : Reg) (a : Reg) (s : State) : Out := vvv s upbHi d a 0

/-- F2F19, R157. -/
def execF2f19 (d : Reg) (a : Reg) (s : State) : Out := vvv s f2f19 d a 0

/-! ### Slot packing (R158–R161) -/

/-- The format code of a slot of the launch in focus. -/
def State.slotCodeOf (s : State) (f : BitVec 3) : Nat := slotCode ((s.launchOf s.focus.grp).rec_.slots.get f.toNat)

/-- FPACK, R159. -/
def execFpack (d : Reg) (a : Reg) (f : BitVec 3) (s : State) : Out := 
  lanewise s d (fun L => fpackWord (s.slotCodeOf f) (fun k => s.cur.vAt (a.toNat + k) L))

/-- FPACK_SR, R160. -/
def execFpackSr (d : Reg) (a : Reg) (b : Reg) (f : BitVec 3) (s : State) : Out := 
  lanewise s d (fun L => fpackSRWord (s.slotCodeOf f) (s.vR b L) (fun k => s.cur.vAt (a.toNat + k) L))

/-- FUNPK, R161. -/
def execFunpk (d : Reg) (a : Reg) (k : BitVec 6) (f : BitVec 3) (s : State) : Out := 
  lanewise s d (fun L => funpkWord (s.slotCodeOf f) (s.vR a L) k.toNat)

/-! ### Dot products (R162, R163) -/

/-- DOT4_SS, R162. -/
def execDot4Ss (d : Reg) (a : Reg) (b : Reg) (s : State) : Out := vvvv s (intDot 8 true true) d d a b

/-- DOT4_UU, R162. -/
def execDot4Uu (d : Reg) (a : Reg) (b : Reg) (s : State) : Out := vvvv s (intDot 8 false false) d d a b

/-- DOT4_SU, R162. -/
def execDot4Su (d : Reg) (a : Reg) (b : Reg) (s : State) : Out := vvvv s (intDot 8 true false) d d a b

/-- DOT8_SS, R162. -/
def execDot8Ss (d : Reg) (a : Reg) (b : Reg) (s : State) : Out := vvvv s (intDot 4 true true) d d a b

/-- DOT8_UU, R162. -/
def execDot8Uu (d : Reg) (a : Reg) (b : Reg) (s : State) : Out := vvvv s (intDot 4 false false) d d a b

/-- DOT8_SU, R162. -/
def execDot8Su (d : Reg) (a : Reg) (b : Reg) (s : State) : Out := vvvv s (intDot 4 true false) d d a b

/-- DOT16_SS, R162. -/
def execDot16Ss (d : Reg) (a : Reg) (b : Reg) (s : State) : Out := vvvv s (intDot 2 true true) d d a b

/-- DOT2_SS, R162. -/
def execDot2Ss (d : Reg) (a : Reg) (b : Reg) (s : State) : Out := vvvv s (intDot 16 true true) d d a b

/-- FDOT, R163. -/
def execFdot (d : Reg) (a : Reg) (b : Reg) (f : BitVec 3) (s : State) : Out := vvvv s (fdotWord (s.slotCodeOf f)) d d a b

end Sys2Proof.Machine
end

