-- ==== Sys2Proof/Machine/Copy.lean ====
section
/-! DEFINITION. Asynchronous copies (R181–R184), batches (R185), and the events by which a copy and a
batch come to their end. -/

namespace Sys2Proof.Machine

/-! ### Batches (R185) -/

/-- Batch m counts as numbered n or lower. -/
def batchBelow (m n : Word) : Bool := decide ((n - m).toNat < 2 ^ 31)

/-- The completion times of a batch's bytes have passed, and none of its copies is queued (R182). -/
def State.batchDone (s : State) (k : Group) (m : Word) : Bool :=
  k.copies.all (fun c => c.batch != m) && k.batchTimes.all (fun e => e.1 != m || decide (e.2 ≤ s.now))

/-- R375: the first CWAIT that returns and covers the batch of the first CPY ends the copy-in. -/
def State.copyInEnd (s : State) (g : Nat) (n : Word) : State :=
  s.stampEvent g (fun p t => match p.copyBatch with
    | some b => if batchBelow b n then { p with copyInEnd := once p.copyInEnd t } else p
    | none => p)

/-- The open batch is closed: its number goes to s[d], and a new one begins. -/
def State.closeBatch (s : State) (g : Nat) (d : Reg) : State :=
  let n := (s.group g).batchNo + 1
  let s1 := s.onGroup g (fun k => { k.setS d.toNat n with batchNo := n, closed := k.closed ++ [n] })
  s1.post (.batchComplete g)

/-- Closed batches that are complete leave the list. -/
def State.retireBatches (s : State) (g : Nat) : State :=
  s.onGroup g (fun k =>
    let done (m : Word) : Bool := s.batchDone k m
    { k with closed := k.closed.filter (fun m => !done m)
             batchTimes := k.batchTimes.filter (fun e => !(k.closed.contains e.1 && done e.1)) })

/-- Every closed batch numbered n or lower is complete. -/
def Group.batchesDone (k : Group) (n : Word) : Bool := k.closed.all (fun m => !batchBelow m n)

/-- The splits that wait for batches go on: those of CWAIT, then one CBCLOSE for each free place. -/
def State.wakeBatches (s : State) (g : Nat) : State :=
  s.overWaits g (fun st x w =>
    match w with
    | .batch n => if (st.group g).batchesDone n then (st.copyInEnd g n).endWait g x.uid w else st
    | .batchClose d => if (st.group g).closed.length < 16 then (st.closeBatch g d).endWait g x.uid w else st
    | _ => st)

/-- R182: closed batches complete; one whose completion times have not passed is looked at again. -/
def execBatchComplete (grp : Nat) (s : State) : Out :=
  if !(s.group grp).live then .next s else
  let s1 := (s.retireBatches grp).wakeBatches grp
  let k := s1.group grp
  let waits := k.closed.any (fun m => k.copies.all (fun c => c.batch != m))
  .next ((if waits then s1.later (.batchComplete grp) else s1).tryEndGroup grp)

/-- CBCLOSE. -/
def execCbclose (d : Reg) (s : State) : Out :=
  onceLanes s (fun t _ =>
    let t1 := t.retireBatches t.focus.grp
    if (t1.cur).closed.length < 16 then .next (t1.closeBatch t.focus.grp d) else .next (t1.block (.batchClose d)))

/-- CWAIT. -/
def execCwait (a : Reg) (s : State) : Out :=
  onceLanes s (fun t _ =>
    let t1 := t.retireBatches t.focus.grp
    if t1.cur.batchesDone (t.sR a) then .next (t1.copyInEnd t.focus.grp (t.sR a)) else .next (t1.block (.batch (t.sR a))))

/-- CQRY. -/
def execCqry (d : Reg) (s : State) : Out :=
  onceLanes s (fun t _ =>
    let t1 := t.retireBatches t.focus.grp
    .next (t1.setS d (match t1.cur.closed with | m :: _ => m - 1 | [] => t1.cur.batchNo)))

/-! ### Queueing a copy (R181) -/

/-- The copy that a CPY asks for, from its operands; 1D copies are one row. -/
def State.copyAsked (s : State) (kind : Nat) (x y n : Reg) (p : BitVec 2) : Copy :=
  let at_ (k : Nat) : Nat := (s.cur.sAt (n.toNat + k)).toNat
  let flat := kind = 0 ∨ kind = 1 ∨ kind = 4
  { id := s.cur.nextCopy, kind := BitVec.ofNat 4 kind, batch := s.cur.batchNo + 1
    global := s.sP y, dest := if kind = 4 then s.sP x else 0, stash := if kind = 4 then 0 else s.sR x
    rows := if flat then 1 else at_ 0, rowBytes := if flat then at_ 0 else at_ 1
    gStride := if flat then 0 else at_ 2, sStride := if flat then 0 else at_ 3
    uid := s.focus.uid, offset := s.focus.offset, version := s.focus.version, active := s.focus.lanes
    stamp := s.stampFor s.focus.grp, pol := p }

/-- The first three checks of R181. -/
def Copy.argsOk (c : Copy) : Bool :=
  decide (c.global.toNat % 4 = 0 ∧ c.dest.toNat % 4 = 0 ∧ c.stash.toNat % 4 = 0 ∧ c.rowBytes % 4 = 0
    ∧ c.gStride % 4 = 0 ∧ c.sStride % 4 = 0)
  && (if c.kind = 2 ∨ c.kind = 3 then
        decide (c.rows ≤ 65535 ∧ 4 ≤ c.rowBytes ∧ c.rowBytes ≤ 65536 ∧ c.rowBytes ≤ c.gStride ∧ c.rowBytes ≤ c.sStride)
      else decide (c.rowBytes ≤ 2 ^ 24))

/-- Words of a copy, and where word k stands: row and byte of the row. -/
def Copy.words (c : Copy) : Nat := c.rows * (c.rowBytes / 4)
def Copy.row (c : Copy) (k : Nat) : Nat := k / (c.rowBytes / 4)
def Copy.col (c : Copy) (k : Nat) : Nat := 4 * (k % (c.rowBytes / 4))
def Copy.stashAt (c : Copy) (k : Nat) : Nat := c.stash.toNat + c.row k * c.sStride + c.col k
def Copy.globalAt (c : Copy) (k : Nat) : DWord := c.global + BitVec.ofNat 64 (c.row k * c.gStride + c.col k)

/-- Every stash byte lies in one allocation of the block. -/
def Block.holdsCopy (b : Block) (c : Copy) : Bool :=
  c.kind == 4 || c.words == 0
    || b.holds c.stash.toNat ((c.rows - 1) * c.sStride + c.rowBytes)

/-- R375: what the issue of a CPY records in the stamp. -/
def State.stampCopy (s : State) (kind : Nat) (batch : Word) : State :=
  let s1 := s.stampEvent s.focus.grp (fun p t => match p.copyIn with
    | some _ => p
    | none => { p with copyIn := some t, copyBatch := some batch })
  if kind = 1 ∨ kind = 3 then s1.stampStore else s1

/-- CPY: the checks, then a place in the queue; a copy of nothing is complete at once. The trap detail
of a stash breach is a free value. -/
def queueCopy (kind : Nat) (x y n : Reg) (p : BitVec 2) (s : State) : Out :=
  onceLanes s (fun t _ =>
    let c := t.copyAsked kind x y n p
    if !c.argsOk then .next (t.illop 0x0B 0x76)
    else if !t.curBlock.holdsCopy c then .next (t.takeOpenTrap .faultP 0 (c.stash.setWidth 64))
    else if 32 ≤ t.cur.copies.length then .next ((t.block .copyRoom).stall)
    else
      let t1 := t.stampCopy kind c.batch
      if c.words = 0 then .next t1 else
      .next ((t1.onCur (fun g => { g with copies := g.copies ++ [c], nextCopy := g.nextCopy + 1 })).post
        (.copyComplete t.focus.grp c.id)))

/-- CPY.G2S. -/
def execCpyG2s (x y n : Reg) (p : BitVec 2) (s : State) : Out := queueCopy 0 x y n p s
/-- CPY.S2G. -/
def execCpyS2g (x y n : Reg) (p : BitVec 2) (s : State) : Out := queueCopy 1 x y n p s
/-- CPY.G2S.2D. -/
def execCpyG2s2d (x y n : Reg) (p : BitVec 2) (s : State) : Out := queueCopy 2 x y n p s
/-- CPY.S2G.2D. -/
def execCpyS2g2d (x y n : Reg) (p : BitVec 2) (s : State) : Out := queueCopy 3 x y n p s
/-- CPY.G2G. -/
def execCpyG2g (x y n : Reg) (p : BitVec 2) (s : State) : Out := queueCopy 4 x y n p s

/-! ### Copying (R182–R184) -/

/-- Translate a copy's global address. -/
def State.copyPage (s : State) (g : Nat) (a : DWord) (k : Access) : State × Except Piece (Nat × Nat) :=
  if !canonical57 a then (s, .error (.fault .faultT 0x20 a)) else
  let r := s.lookupNow (coreOfGroup g) (s.ctxOf g) a
  match r.1 with
  | .miss => (r.2, .error .wait)
  | .fault c d => (r.2, .error (.fault c d a))
  | .hit e =>
    match permit e k [0, 1, 2] with
    | some f => (r.2, .error (.fault f.1 f.2 a))
    | none => (r.2, .ok (e.pa a, e.cls.toNat))

/-- A copy's access to a global line follows the stores that its core has accepted (R251). -/
def State.copyLine (s : State) (core line : Nat) : State := (s.flushWcFor core line).landStores core line

/-- Read a word of global memory for a copy; its line takes the copy's priority (R181). -/
def State.copyRead (s : State) (g : Nat) (p : BitVec 2) (a : DWord) : State × Except Piece Word :=
  let r := s.copyPage g a .read
  match r.2 with
  | .error p => (r.1, .error p)
  | .ok (pa, cls) =>
    let core := coreOfGroup g
    let line := lineOf pa
    match r.1.lineError line with
    | some k => (r.1, .error (.fault .ecc k a))
    | none =>
      let s1 := r.1.copyLine core line
      if cls = 0 then
        let s2 := (s1.fillPrivate core (s.ctxOf g) line).polL1 core line (decide (((s1.cores.get core).l1.get line).st ≠ .invalid)) p
        (s2, .ok (BitVec.ofNat 32 (lineElem ((s2.cores.get core).l1.get line).bytes (pa % 64) 4)))
      else let s2 := (s1.collect line).polHome line (listed s1.home line) p; (s2, .ok (BitVec.ofNat 32 (s2.readPa pa 4)))

/-- The latest completion time of a batch's bytes. -/
def noteBatch (ts : List (Word × Nat)) (m : Word) (t : Nat) : List (Word × Nat) :=
  if ts.any (fun e => e.1 == m) then ts.map (fun e => if e.1 = m then (e.1, max e.2 t) else e) else ts ++ [(m, t)]

/-- Write a word of global memory for a copy, noting its device-scope completion time (R182, R244). -/
def State.copyWrite (s : State) (g : Nat) (c : Copy) (a : DWord) (w : Word) : State × Piece :=
  let r := s.copyPage g a .write
  match r.2 with
  | .error p => (r.1, p)
  | .ok (pa, cls) =>
    let core := coreOfGroup g
    let line := lineOf pa
    let bs := (splitBytes w.toNat 4).zipIdx.map (fun e => (pa + e.2, e.1))
    let s1 := r.1.copyLine core line
    if cls = 0 then ((s1.fillPrivate core (s.ctxOf g) line |>.polL1 core line (decide (((s1.cores.get core).l1.get line).st ≠ .invalid)) c.pol).l1Update core line bs, .done)
    else
      let h := s1.homeWrite line cls (dieOfCore core) c.stamp bs
      ((((h.1.polHome line (listed s1.home line) c.pol).l1Update core line bs).onGroup g (fun k => { k with batchTimes := noteBatch k.batchTimes c.batch h.2.device })).raiseSettled (s.blockOf g).launch h.2, .done)

/-- R183: the stash owns the mapped line of a byte before the copy reads or writes it. A line that is filled
for it with an uncorrectable error is a source error (R184). -/
def State.copyOwn (s : State) (g off : Nat) (k : Access) (fill : Bool) : State × Piece :=
  s.ownLine (s.group g).block (off / 64) k fill

/-- The rows of a copy hold a stash byte. -/
def Copy.covers (c : Copy) (off : Nat) : Bool :=
  let d := off - c.stash.toNat
  decide (c.stash.toNat ≤ off ∧ d / c.sStride < c.rows ∧ d % c.sStride < c.rowBytes)

/-- A G2S copy writes the whole of the mapped line of a word, by one row or by several that abut. -/
def Copy.wholeLine (c : Copy) (k : Nat) : Bool :=
  (List.range 16).all (fun i => c.covers (c.stashAt k / 64 * 64 + 4 * i))

/-- Copy word k. -/
def State.copyWord (s : State) (g : Nat) (c : Copy) (k : Nat) : State × Piece :=
  let b := (s.group g).block
  let core := coreOfGroup g
  let off := c.stashAt k
  if c.kind = 4 then
    match s.copyRead g c.pol (c.globalAt k) with
    | (t, .error p) => (t, p)
    | (t, .ok w) => t.copyWrite g c (c.dest + BitVec.ofNat 64 (4 * k)) w
  else if c.kind = 0 ∨ c.kind = 2 then
    match s.copyRead g c.pol (c.globalAt k) with
    | (t, .error p) => (t, p)
    | (t, .ok w) =>
      match t.copyOwn g off (if c.wholeLine k then .write else .both) (!c.wholeLine k) with
      | (u, .done) => (u.stashWrite b ((splitBytes w.toNat 4).zipIdx.map (fun e => (off + e.2, e.1))), .done)
      | r => r
  else
    match s.copyOwn g off .read true with
    | (t, .done) => t.copyWrite g c (c.globalAt k) (BitVec.ofNat 32 (t.stashValue core off 4))
    | r => r

/-- Change one queued copy of a group. -/
def State.onCopy (s : State) (g id : Nat) (f : Copy → Copy) : State :=
  s.onGroup g (fun k => { k with copies := k.copies.map (fun c => if c.id = id then f c else c) })

/-- R182: the words of a copy are unordered: one beyond the first not copied is copied before it. Nothing happens when
it must wait or fails, nor for a line that the stash comes to own without a fill (R183). -/
def State.copyEarly (s : State) (g id k : Nat) : State :=
  match (s.group g).copies.find? (fun c => c.id == id) with
  | none => s
  | some c =>
    let b := s.blockOf g
    let unfilled := (c.kind == 0 || c.kind == 2) && c.wholeLine k && (b.mapAt (c.stashAt k)).isSome && !b.owns (c.stashAt k / 64)
    if c.words ≤ k ∨ k < c.done ∨ c.early.contains k = true ∨ unfilled = true ∨ s.relocking (dieOfGroup g) = true
        ∨ s.faults.any (fun f => decide (f.2.copy = some (g, id))) = true then s else
    match s.copyWord g c k with
    | (t, .done) => t.onCopy g id (fun c => { c with early := c.early ++ [k] })
    | _ => s

/-- Copy words from the first one not copied, until one must wait or fails. -/
def State.copyRun (s : State) (g id fuel : Nat) : State × Piece :=
  match fuel with
  | 0 => (s, .done)
  | f + 1 =>
    match (s.group g).copies.find? (fun c => c.id == id) with
    | none => (s, .done)
    | some c =>
      if c.words ≤ c.done then (s, .done) else
      if c.early.contains c.done then (s.onCopy g id (fun c => { c with done := c.done + 1 })).copyRun g id f else
      match s.copyWord g c c.done with
      | (t, .done) => (t.onCopy g id (fun c => { c with done := c.done + 1 })).copyRun g id f
      | r => r

/-- R184: the record of a copy's fault names the split and the offset of its CPY. -/
def State.copyRecord (s : State) (g : Nat) (c : Copy) (cause : Cause) (detail : Nat) (a : DWord) : TrapRecord :=
  { s.record g c.uid cause detail 0 a c.offset c.active 0 with version := c.version }

/-- The splits that wait for room among the queued copies try again. -/
def State.wakeRoom (s : State) (g : Nat) : State :=
  ((s.group g).waiting (fun w => decide (w = Wait.copyRoom))).foldl (fun (st : State) (x : Split) => st.endWait g x.uid .copyRoom) s

/-- R184: a copy fails for good: its context stops. -/
def State.copyStop (s : State) (g : Nat) (c : Copy) (cause : Cause) (detail : Nat) (a : DWord) : State :=
  (s.postTrap (s.ctxOf g) (s.copyRecord g c cause detail a)).stopContext (s.ctxOf g) .stopped

/-- R181, R184: a queued copy finishes; or it meets a translation fault, or a copy-on-write page, and
waits for service; or it meets another failure, and its context stops. -/
def execCopyComplete (grp copy : Nat) (s : State) : Out :=
  match (s.group grp).copies.find? (fun c => c.id == copy) with
  | none => .next s
  | some c =>
    if s.faults.any (fun f => decide (f.2.copy = some (grp, copy))) then .next s else
    let r := s.copyRun grp copy (c.words - c.done + 1)
    match r.2 with
    | .done =>
      let s1 := (r.1.onGroup grp (fun k => { k with copies := k.copies.filter (fun c => c.id != copy) })).wakeRoom grp
      .next ((s1.post (.batchComplete grp)).tryEndGroup grp)
    | .wait => .next (r.1.later (.copyComplete grp copy))
    | .fault cause d a =>
      if cause = .faultT ∨ (cause = .faultP ∧ d = 4) then
        .next (r.1.sendFault { op := none, copy := some (grp, copy), fetch := none, rec_ := r.1.copyRecord grp c cause d a
                               vpage := a.toNat % 2 ^ 57 / 4096, sent := false })
      else .next (r.1.copyStop grp c cause d a)

/-- R332: a queued copy that reads the stash finds an uncorrectable error there. -/
def State.copyError (s : State) (g id : Nat) : State :=
  match (s.group g).copies.find? (fun c => c.id == id) with
  | some c => if (c.kind = 1 ∨ c.kind = 3) ∧ c.done < c.words then s.copyStop g c .ecc 3 (BitVec.ofNat 64 (c.stashAt c.done)) else s
  | none => s

end Sys2Proof.Machine
end

