-- ==== Sys2Proof/Machine/Debug.lean ====
section
/-! DEFINITION. The debug instructions of a stub (R144–R147, R363–R368), and the stop at a planted
breakpoint (R364). -/

namespace Sys2Proof.Machine

/-- R363: the group in focus is a stub group from now on. -/
def State.becomeStub (s : State) : State := s.onCur (fun g => { g with stub := true })

/-- DBGWAIT, R145: the checks of s[a], then the wait for a record. The spec states no trap details. -/
def execDbgwait (d a : Reg) (s : State) : Out :=
  match s.onceMask with
  | none => .next s
  | some _ =>
    let t := s.becomeStub
    let off := s.sR a
    if off.toNat % 64 ≠ 0 then .next (t.takeOpenTrap .align 0 (off.setWidth 64))
    else if !s.curBlock.holds off.toNat 64 then .next (t.takeOpenTrap .faultP 0 (off.setWidth 64))
    else .next ((t.block (.debug d off t.nextOp)).serveStub s.curBlock.launch)

/-! ### Reading and writing the selected split (R146) -/

/-- The selected split of the group in focus, while it is stopped. -/
def State.selectedSplit (s : State) : Option (Nat × Split) :=
  match s.cur.selected with
  | none => none
  | some (g, u) =>
    match (s.anyGroup g).findSplit u with
    | some x => if x.stopped then some (g, x) else none
    | none => none

/-- What DBGRD reads in a lane: class, index. A lane that does not exist owns no state (R15): its registers, predicates,
depth counter and plane read as 0. -/
def debugValue (k : Group) (x : Split) (cls index L : Nat) : Word :=
  if !inMask k.exist_ L ∧ (cls = 0 ∨ 2 ≤ cls ∧ cls ≤ 4) then 0 else
  match cls, index with
  | 0, r => k.vAt r L
  | 1, r => k.sAt r
  | 2, p => if p < 8 then (if k.pAt p L then 1 else 0) else 0
  | 3, 0 => (k.depth.get L).setWidth 32
  | 4, 0 => (k.plane.get L).setWidth 32
  | 5, 0 => x.offset
  | 5, 1 => BitVec.ofNat 32 x.version
  | 5, 2 => x.mask
  | _, _ => 0

/-- The class and the index of a selector. -/
def selectorClass (w : Word) : Nat := w.toNat / 4096 % 16
def selectorIndex (w : Word) : Nat := w.toNat % 64

/-- DBGRD. -/
def execDbgrd (d a : Reg) (s : State) : Out :=
  match s.selectedSplit with
  | none => lanewise s d (fun _ => 0)
  | some (g, x) => lanewise (s.collectSaved g) d (debugValue (s.anyGroup g) x (selectorClass (s.sR a)) (selectorIndex (s.sR a)))

/-- What DBGWR writes: lanes of the stub's pass that exist in the target (R15), and their words. R25 freezes the depth
counter and the plane of an exited lane, and R146 excepts no lane: DBGWR writes them there too (DESIGN CHOICE, log entry
89). -/
def debugWrite (regs planes uid : Nat) (m0 : Mask) (w : Nat → Word) (cls index : Nat) (k : Group) : Group :=
  let m := m0 &&& k.exist_
  match cls, index with
  | 0, r => if r < regs then k.setV r m w else k
  | 1, r => k.setS r (w (lowLane m0))
  | 2, p => if p < 8 then k.setP p m (fun L => (w L).getLsbD 0) else k
  | 3, 0 => { k with depth := (lanesOf m).foldl (fun t L => t.put L ((w L).setWidth 8)) k.depth }
  | 4, 0 => { k with plane := (lanesOf m).foldl (fun t L =>
      if (w L).toNat % 4 < planes then t.put L ((w L).setWidth 2) else t) k.plane }
  | 5, 0 => k.onSplit uid (fun x => x.moved (w (lowLane m0) &&& ~~~1))
  | _, _ => k

/-- DBGWR. -/
def execDbgwr (a b : Reg) (s : State) : Out :=
  if s.focus.mask = 0 then .next s else
  match s.selectedSplit with
  | none => .next s
  | some (g, x) =>
    let l := s.launches.get s.curBlock.launch
    .next (s.onAnyGroup g (debugWrite l.rec_.regs (l.entries.get x.version).planes x.uid s.focus.mask (s.vR b)
      (selectorClass (s.sR a)) (selectorIndex (s.sR a))))

/-! ### DBGCTL (R147) -/

/-- A command: the status it reports in s[d], and what it does after that. -/
def control (s : State) (d : Reg) (f : State → Word × (State → State)) : Out :=
  match s.onceMask with
  | none => .next s
  | some _ =>
    let t := s.becomeStub
    let r := f t
    .next (r.2 (t.setS d r.1))

/-- An argument register of a command. -/
def State.debugArg (s : State) (a : Reg) (n : Nat) : Word := s.cur.sAt (a.toNat + n)

/-- A stopped split resumes, resident or in a saved block. -/
def State.resumeAny (s : State) (key uid : Nat) (step : Bool) : State :=
  if key < 2 ^ 20 then s.resumeSplit key uid step
  else s.onAnyGroup key (fun k => k.onSplit uid (fun x => x.resumed step s.now))

/-- RESUME and STEP: status 3 without a stopped selected split. -/
def State.release (s : State) (step : Bool) : Word × (State → State) :=
  match s.selectedSplit with
  | none => (3, id)
  | some (g, x) => (0, fun t => t.resumeAny g x.uid step)

/-- Change the launch in focus. -/
def State.onCurLaunch (s : State) (f : Launch → Launch) : State := s.onLaunch s.curBlock.launch f

/-- DBGCTL RESUME; the same word with a command above 7 reports status 2. -/
def execDbgctlResume (d a : Reg) (s : State) : Out :=
  control s d (fun t => if 7 < (t.sR a).toNat then (2, id) else t.release false)

/-- DBGCTL STEP. -/
def execDbgctlStep (d _a : Reg) (s : State) : Out := control s d (fun t => t.release true)

/-- The offset that a group's quad is about to issue, no pass of which has acted, is not begun. -/
def State.cancelIssue (s : State) (g : Nat) : State :=
  match (s.quads.get (quadOfGroup g)).cur with
  | some c => if c.grp = g ∧ c.fresh = true then s.stopIssue g else s
  | none => s

/-- The split of a group that is in the middle of the passes of its offset, or has passes left (R33, R385). -/
def State.inOffset (s : State) (g : Nat) (x : Split) : Bool :=
  x.rest.isSome || ((s.quads.get (quadOfGroup g)).cur.any (fun c => c.grp == g && c.uid == x.uid))

/-- HALT of a group of a saved block: its splits stop where they were saved, one in the middle of its offset
before the next one (R144), and their records are queued together. -/
def State.haltSaved (s0 : State) (key : Nat) : State :=
  let s := s0.collectSaved key
  match s.savedGroup key with
  | none => s
  | some (_, v, k) =>
    let now := (k.splits.filter (fun x => !x.stopped && !x.stopping && x.rest.isNone)).map (fun x => x.uid)
    let recs := now.map (fun u =>
      ({ rec_ := s.stepRecordIn k v.block v.block.core u 1, grp := key, uid := u } : StubRecord))
    let s1 := s.onAnyGroup key (fun k => k.mapSplits (fun x =>
      if now.contains x.uid then x.stop else { x with halting := x.halting || !(x.stopped || x.stopping) }))
    if recs = [] then s1 else s1.queueStub v.block.launch recs

/-- A split of the launch that a HALT found in the middle of its offset has still to stop, other than the stub's own. -/
def State.haltPending (s : State) (l g uid : Nat) : Bool :=
  (s.launchGroups l).any (fun h => (s.group h).splits.any (fun x => x.halting && !x.stopped && !(h == g && x.uid == uid)))
  || (s.ctxs.get (s.launches.get l).ctx).saved.any (fun v => v.block.launch == l
    && v.groups.any (fun e => e.2.splits.any (fun x => x.halting && !x.stopped)))

/-- R366: the command has taken effect before the stub's next instruction issues: its split waits for those splits. -/
def State.awaitHalt (s : State) : State :=
  if s.haltPending s.curBlock.launch s.focus.grp s.focus.uid then s.block .halt else s

/-- DBGCTL HALT: a split in the middle of its offset stops before the next one (R144); one whose own stop waits
for older instructions (R102) gets no other record (R368). -/
def execDbgctlHalt (d _a : Reg) (s : State) : Out :=
  control s d (fun t =>
    match t.cur.selected with
    | none => (3, id)
    | some (g, _) =>
      (0, fun u =>
        if 2 ^ 20 ≤ g then (u.haltSaved g).awaitHalt else
        let u1 := u.cancelIssue g
        let open_ := (u1.group g).splits.filter (fun x => !x.stopped && !x.stopping)
        let u2 := (open_.filter (u1.inOffset g)).foldl (fun (st : State) x => st.onSplit g x.uid (fun y => { y with halting := true })) u1
        let names := (open_.filter (fun x => !u1.inOffset g x)).map (fun x => x.uid)
        (if names = [] then u2 else u2.stopBatch g names 1).awaitHalt))

/-- DBGCTL RESUMEALL: the saved blocks of the launch too. -/
def execDbgctlResumeall (d _a : Reg) (s : State) : Out :=
  control s d (fun t => (0, fun u =>
    let l := t.curBlock.launch
    let u1 := (u.launchGroups l).foldl (fun (st : State) g =>
      ((st.group g).splits.filter (fun x => x.stopped)).foldl (fun (st : State) x => st.resumeSplit g x.uid false) st) u
    u1.onSavedBlocks t.curBlock.ctx (fun v => v.block.launch == l) (fun v => v.onGroups (fun _ k =>
      k.mapSplits (fun x => if x.stopped then x.resumed false u.now else x)))))

/-- DBGCTL BKSET. -/
def execDbgctlBkset (d a : Reg) (s : State) : Out :=
  control s d (fun t =>
    let o := t.debugArg a 1
    let v := (t.debugArg a 2).toNat
    let m := (t.debugArg a 3).setWidth 4
    let bs := (t.launchOf t.focus.grp).breaks
    let same (b : Breakpoint) : Bool := b.offset == o && b.version == v
    if o.toNat % 2 = 1 ∨ 15 < v ∨ m = 0 then (2, id)
    else if bs.any same then
      (0, fun u => u.onCurLaunch (fun l => { l with breaks := bs.map (fun b => if same b then { b with planes := m } else b) }))
    else if 8 ≤ bs.length then (1, id)
    else (0, fun u => u.onCurLaunch (fun l => { l with breaks := bs ++ [{ offset := o, version := v, planes := m }] })))

/-- DBGCTL BKCLR. -/
def execDbgctlBkclr (d a : Reg) (s : State) : Out :=
  control s d (fun t =>
    let bs := (t.launchOf t.focus.grp).breaks
    let same (b : Breakpoint) : Bool := b.offset == t.debugArg a 1 && b.version == (t.debugArg a 2).toNat
    if bs.any same then (0, fun u => u.onCurLaunch (fun l => { l with breaks := bs.filter (fun b => !same b) }))
    else (2, id))

/-- The lowest watchpoint number that is free. -/
def freeWatch (ws : List Watchpoint) : Option Nat := (List.range 4).find? (fun n => ws.all (fun w => w.number != n))

/-- DBGCTL WSET. DEDUCED (log entries 24 and 68): an address is aligned when it is a multiple of 4; a stash range whose
address bits 63:32, 0 for stash in the table, are not 0 is an invalid argument; bits 31:3 of the kind are ignored,
and a kind with neither loads nor stores arms a watchpoint that nothing hits; statuses 2, 3, 1 are tested in that
order. -/
def execDbgctlWset (d a : Reg) (s : State) : Out :=
  control s d (fun t =>
    let addr := pairOf (t.debugArg a 1) (t.debugArg a 2)
    let len := (t.debugArg a 3).toNat
    let kind : BitVec 3 := (t.debugArg a 4).setWidth 3
    let stash := kind.getLsbD 0
    if addr.toNat % 4 ≠ 0 ∨ len < 4 ∨ 4096 < len ∨ len % 4 ≠ 0 ∨ (stash = true ∧ t.debugArg a 2 ≠ 0) then (2, id)
    else if stash = true ∧ t.cur.selected.isNone then (3, id)
    else
      let ws := (t.launchOf t.focus.grp).watches
      let b := match t.cur.selected with | some (g, _) => (t.anyBlock g).number | none => 0
      match freeWatch ws with
      | none => (1, id)
      | some n => (0, fun u => u.onCurLaunch (fun l => { l with
          watches := ws ++ [{ number := n, addr := addr, length := len, kind := kind, block := if stash then b else 0 }] })))

/-- DBGCTL WCLR. -/
def execDbgctlWclr (d a : Reg) (s : State) : Out :=
  control s d (fun t =>
    let addr := pairOf (t.debugArg a 1) (t.debugArg a 2)
    let ws := (t.launchOf t.focus.grp).watches
    match (List.range 4).find? (fun n => ws.any (fun w => w.number == n && w.addr == addr)) with
    | none => (2, id)
    | some n => (0, fun u => u.onCurLaunch (fun l => { l with watches := ws.filter (fun w => w.number != n) })))

/-! ### The stop at a planted breakpoint -/

/-- R364: the split stops before its offset, with the record of the lowest plane of the mask that holds
an active lane. -/
def execBreakpointStop (grp uid : Nat) (s : State) : Out :=
  match s.breakHit grp uid with
  | none => .next s
  | some p =>
    let x := s.splitOf grp uid
    if x.stopped || x.stopping || decide (x.mask = 0) then .next s else
    .next (s.trapSplit grp uid (s.record grp uid .brkpt 1 0 (s.fetchAddr grp x.version p x.offset) x.offset
      (s.activeLanes grp uid) p))

end Sys2Proof.Machine
end

