-- ==== Sys2Proof/Machine/Float.lean ====
section
/-! DEFINITION. Floating-point instructions: majors 0x10–0x17, 0x1C–0x1E, 0x24–0x26 and the 16-bit float operations (R95, R149–R156). -/

namespace Sys2Proof.Machine

/-! ### FALU (R150, R151) -/

/-- FADD, R150. -/
def execFadd (d : Reg) (a : Reg) (b : Reg) (s : State) : Out := vvv s (fAdd .rne) d a b

/-- FADD_VS, R150. -/
def execFaddVs (d : Reg) (a : Reg) (b : Reg) (s : State) : Out := vvs s (fAdd .rne) d a b

/-- FADD_RZ, R150. -/
def execFaddRz (d : Reg) (a : Reg) (b : Reg) (s : State) : Out := vvv s (fAdd .rz) d a b

/-- FADD_RZ_VS, R150. -/
def execFaddRzVs (d : Reg) (a : Reg) (b : Reg) (s : State) : Out := vvs s (fAdd .rz) d a b

/-- FADD_RD, R150. -/
def execFaddRd (d : Reg) (a : Reg) (b : Reg) (s : State) : Out := vvv s (fAdd .rd) d a b

/-- FADD_RD_VS, R150. -/
def execFaddRdVs (d : Reg) (a : Reg) (b : Reg) (s : State) : Out := vvs s (fAdd .rd) d a b

/-- FADD_RU, R150. -/
def execFaddRu (d : Reg) (a : Reg) (b : Reg) (s : State) : Out := vvv s (fAdd .ru) d a b

/-- FADD_RU_VS, R150. -/
def execFaddRuVs (d : Reg) (a : Reg) (b : Reg) (s : State) : Out := vvs s (fAdd .ru) d a b

/-- FSUB, R150. -/
def execFsub (d : Reg) (a : Reg) (b : Reg) (s : State) : Out := vvv s fSub d a b

/-- FSUB_VS, R150. -/
def execFsubVs (d : Reg) (a : Reg) (b : Reg) (s : State) : Out := vvs s fSub d a b

/-- FMUL, R150. -/
def execFmul (d : Reg) (a : Reg) (b : Reg) (s : State) : Out := vvv s (fMul .rne) d a b

/-- FMUL_VS, R150. -/
def execFmulVs (d : Reg) (a : Reg) (b : Reg) (s : State) : Out := vvs s (fMul .rne) d a b

/-- FMUL_RZ, R150. -/
def execFmulRz (d : Reg) (a : Reg) (b : Reg) (s : State) : Out := vvv s (fMul .rz) d a b

/-- FMUL_RZ_VS, R150. -/
def execFmulRzVs (d : Reg) (a : Reg) (b : Reg) (s : State) : Out := vvs s (fMul .rz) d a b

/-- FMUL_RD, R150. -/
def execFmulRd (d : Reg) (a : Reg) (b : Reg) (s : State) : Out := vvv s (fMul .rd) d a b

/-- FMUL_RD_VS, R150. -/
def execFmulRdVs (d : Reg) (a : Reg) (b : Reg) (s : State) : Out := vvs s (fMul .rd) d a b

/-- FMUL_RU, R150. -/
def execFmulRu (d : Reg) (a : Reg) (b : Reg) (s : State) : Out := vvv s (fMul .ru) d a b

/-- FMUL_RU_VS, R150. -/
def execFmulRuVs (d : Reg) (a : Reg) (b : Reg) (s : State) : Out := vvs s (fMul .ru) d a b

/-- FMIN, R151. -/
def execFmin (d : Reg) (a : Reg) (b : Reg) (s : State) : Out := vvv s fMin d a b

/-- FMIN_VS, R151. -/
def execFminVs (d : Reg) (a : Reg) (b : Reg) (s : State) : Out := vvs s fMin d a b

/-- FMAX, R151. -/
def execFmax (d : Reg) (a : Reg) (b : Reg) (s : State) : Out := vvv s fMax d a b

/-- FMAX_VS, R151. -/
def execFmaxVs (d : Reg) (a : Reg) (b : Reg) (s : State) : Out := vvs s fMax d a b

/-- FMINNUM, R151. -/
def execFminnum (d : Reg) (a : Reg) (b : Reg) (s : State) : Out := vvv s fMinNum d a b

/-- FMINNUM_VS, R151. -/
def execFminnumVs (d : Reg) (a : Reg) (b : Reg) (s : State) : Out := vvs s fMinNum d a b

/-- FMAXNUM, R151. -/
def execFmaxnum (d : Reg) (a : Reg) (b : Reg) (s : State) : Out := vvv s fMaxNum d a b

/-- FMAXNUM_VS, R151. -/
def execFmaxnumVs (d : Reg) (a : Reg) (b : Reg) (s : State) : Out := vvs s fMaxNum d a b

/-- FABS, R150. -/
def execFabs (d : Reg) (a : Reg) (s : State) : Out := vvv s fAbs d a 0

/-- FABS_VS, R150. -/
def execFabsVs (d : Reg) (a : Reg) (s : State) : Out := vvs s fAbs d a 0

/-- FNEG, R150. -/
def execFneg (d : Reg) (a : Reg) (s : State) : Out := vvv s fNeg d a 0

/-- FNEG_VS, R150. -/
def execFnegVs (d : Reg) (a : Reg) (s : State) : Out := vvs s fNeg d a 0

/-- FCOPYSIGN, R150. -/
def execFcopysign (d : Reg) (a : Reg) (b : Reg) (s : State) : Out := vvv s fCopySign d a b

/-- FCOPYSIGN_VS, R150. -/
def execFcopysignVs (d : Reg) (a : Reg) (b : Reg) (s : State) : Out := vvs s fCopySign d a b

/-- FFLOOR, R150. -/
def execFfloor (d : Reg) (a : Reg) (s : State) : Out := vvv s (fToIntegral .rd) d a 0

/-- FFLOOR_VS, R150. -/
def execFfloorVs (d : Reg) (a : Reg) (s : State) : Out := vvs s (fToIntegral .rd) d a 0

/-- FCEIL, R150. -/
def execFceil (d : Reg) (a : Reg) (s : State) : Out := vvv s (fToIntegral .ru) d a 0

/-- FCEIL_VS, R150. -/
def execFceilVs (d : Reg) (a : Reg) (s : State) : Out := vvs s (fToIntegral .ru) d a 0

/-- FTRUNC, R150. -/
def execFtrunc (d : Reg) (a : Reg) (s : State) : Out := vvv s (fToIntegral .rz) d a 0

/-- FTRUNC_VS, R150. -/
def execFtruncVs (d : Reg) (a : Reg) (s : State) : Out := vvs s (fToIntegral .rz) d a 0

/-- FRINT, R150. -/
def execFrint (d : Reg) (a : Reg) (s : State) : Out := vvv s (fToIntegral .rne) d a 0

/-- FRINT_VS, R150. -/
def execFrintVs (d : Reg) (a : Reg) (s : State) : Out := vvs s (fToIntegral .rne) d a 0

/-- FCLAMP01, R150. -/
def execFclamp01 (d : Reg) (a : Reg) (s : State) : Out := vvv s fClamp01 d a 0

/-- FCLAMP01_VS, R150. -/
def execFclamp01Vs (d : Reg) (a : Reg) (s : State) : Out := vvs s fClamp01 d a 0

/-! ### Fused multiply-add (R152) -/

/-- FFMA, R152. -/
def execFfma (d : Reg) (a : Reg) (b : Reg) (c : Reg) (s : State) : Out := vvvv s (fFma .rne false false) d a b c

/-- FFMS, R152. -/
def execFfms (d : Reg) (a : Reg) (b : Reg) (c : Reg) (s : State) : Out := vvvv s (fFma .rne false true) d a b c

/-- FFNMA, R152. -/
def execFfnma (d : Reg) (a : Reg) (b : Reg) (c : Reg) (s : State) : Out := vvvv s (fFma .rne true false) d a b c

/-- FFMA_RZ, R152. -/
def execFfmaRz (d : Reg) (a : Reg) (b : Reg) (c : Reg) (s : State) : Out := vvvv s (fFma .rz false false) d a b c

/-- FFMA_RD, R152. -/
def execFfmaRd (d : Reg) (a : Reg) (b : Reg) (c : Reg) (s : State) : Out := vvvv s (fFma .rd false false) d a b c

/-- FFMA_RU, R152. -/
def execFfmaRu (d : Reg) (a : Reg) (b : Reg) (c : Reg) (s : State) : Out := vvvv s (fFma .ru false false) d a b c

/-! ### Packed FP16 and BF16 (R153, R154) -/

/-- HADD2, R153. -/
def execHadd2 (d : Reg) (a : Reg) (b : Reg) (s : State) : Out := vvv s hAdd2 d a b

/-- HSUB2, R153. -/
def execHsub2 (d : Reg) (a : Reg) (b : Reg) (s : State) : Out := vvv s hSub2 d a b

/-- HMUL2, R153. -/
def execHmul2 (d : Reg) (a : Reg) (b : Reg) (s : State) : Out := vvv s hMul2 d a b

/-- HMIN2, R153. -/
def execHmin2 (d : Reg) (a : Reg) (b : Reg) (s : State) : Out := vvv s hMin2 d a b

/-- HMAX2, R153. -/
def execHmax2 (d : Reg) (a : Reg) (b : Reg) (s : State) : Out := vvv s hMax2 d a b

/-- BADD2, R153. -/
def execBadd2 (d : Reg) (a : Reg) (b : Reg) (s : State) : Out := vvv s bAdd2 d a b

/-- BSUB2, R153. -/
def execBsub2 (d : Reg) (a : Reg) (b : Reg) (s : State) : Out := vvv s bSub2 d a b

/-- BMUL2, R153. -/
def execBmul2 (d : Reg) (a : Reg) (b : Reg) (s : State) : Out := vvv s bMul2 d a b

/-- BMIN2, R153. -/
def execBmin2 (d : Reg) (a : Reg) (b : Reg) (s : State) : Out := vvv s bMin2 d a b

/-- BMAX2, R153. -/
def execBmax2 (d : Reg) (a : Reg) (b : Reg) (s : State) : Out := vvv s bMax2 d a b

/-- HFMA2, R154. -/
def execHfma2 (d : Reg) (a : Reg) (b : Reg) (c : Reg) (s : State) : Out := vvvv s hFma2 d a b c

/-- BFMA2, R154. -/
def execBfma2 (d : Reg) (a : Reg) (b : Reg) (c : Reg) (s : State) : Out := vvvv s bFma2 d a b c

/-! ### Correctly rounded functions (R155, R156) -/

/-- FDIV, R155. -/
def execFdiv (la : BitVec 4) (d : Reg) (a : Reg) (b : Reg) (s : State) : Out := 
  longOp s (.fdiv la d a b) la (fun L => fDiv (s.vR a L) (s.vR b L))

/-- FSQRT, R155. -/
def execFsqrt (la : BitVec 4) (d : Reg) (a : Reg) (s : State) : Out := 
  longOp s (.fsqrt la d a) la (fun L => fSqrt (s.vR a L) 0)

/-- FRCP, R155. -/
def execFrcp (la : BitVec 4) (d : Reg) (a : Reg) (s : State) : Out := 
  longOp s (.frcp la d a) la (fun L => fRcp (s.vR a L) 0)

/-- FRSQ, R155. -/
def execFrsq (la : BitVec 4) (d : Reg) (a : Reg) (s : State) : Out := 
  longOp s (.frsq la d a) la (fun L => fRsq (s.vR a L) 0)

/-- FEXP2, R155. -/
def execFexp2 (la : BitVec 4) (d : Reg) (a : Reg) (s : State) : Out := 
  longOp s (.fexp2 la d a) la (fun L => fExp2 (s.vR a L) 0)

/-- FLOG2, R155. -/
def execFlog2 (la : BitVec 4) (d : Reg) (a : Reg) (s : State) : Out := 
  longOp s (.flog2 la d a) la (fun L => fLog2 (s.vR a L) 0)

/-- FSINT, R155. -/
def execFsint (la : BitVec 4) (d : Reg) (a : Reg) (s : State) : Out := 
  longOp s (.fsint la d a) la (fun L => fSinT (s.vR a L) 0)

/-- FCOST, R155. -/
def execFcost (la : BitVec 4) (d : Reg) (a : Reg) (s : State) : Out := 
  longOp s (.fcost la d a) la (fun L => fCosT (s.vR a L) 0)

/-- FTANH, R155. -/
def execFtanh (la : BitVec 4) (d : Reg) (a : Reg) (s : State) : Out := 
  longOp s (.ftanh la d a) la (fun L => fTanh (s.vR a L) 0)

/-- FSIGM, R155. -/
def execFsigm (la : BitVec 4) (d : Reg) (a : Reg) (s : State) : Out := 
  longOp s (.fsigm la d a) la (fun L => fSigm (s.vR a L) 0)

/-- FERF, R155. -/
def execFerf (la : BitVec 4) (d : Reg) (a : Reg) (s : State) : Out := 
  longOp s (.ferf la d a) la (fun L => fErf (s.vR a L) 0)

/-! ### The 16-bit form (R95) -/

/-- FADD_16, R95. -/
def execFadd16 (d : Reg) (sp : BitVec 5) (s : State) : Out := short s (fAdd .rne) d (reg5 sp)

/-- FSUB_16, R95. -/
def execFsub16 (d : Reg) (sp : BitVec 5) (s : State) : Out := short s fSub d (reg5 sp)

/-- FMUL_16, R95. -/
def execFmul16 (d : Reg) (sp : BitVec 5) (s : State) : Out := short s (fMul .rne) d (reg5 sp)

/-- FMIN_16, R95. -/
def execFmin16 (d : Reg) (sp : BitVec 5) (s : State) : Out := short s fMin d (reg5 sp)

/-- FMAX_16, R95. -/
def execFmax16 (d : Reg) (sp : BitVec 5) (s : State) : Out := short s fMax d (reg5 sp)

end Sys2Proof.Machine
end

