-- ==== Sys2Proof/Machine/Sync.lean ====
section
/-! DEFINITION. Fences (R188), barriers (R189, R190), stash queues (R191) and signal waits (R192). -/

namespace Sys2Proof.Machine

/-! ### Fences -/

/-- R188, R242: the release of a fence at a scope, in the lanes that have no open transaction. -/
def fence (s : State) (f : State → State) : Out := onceLanes s (fun t _ => .next (f t))

/-- Hold back the later stores, ATOM and RED of the split until an instant. -/
def State.holdStoresTo (s : State) (t : Nat) : State :=
  s.onSplit s.focus.grp s.focus.uid (fun x => { x with holdStores := max x.holdStores t })
def State.holdAllTo (s : State) (t : Nat) : State :=
  s.onSplit s.focus.grp s.focus.uid (fun x => { x with holdAll := max x.holdAll t })

/-- The split in focus. -/
def State.curSplit (s : State) : Split := s.splitOf s.focus.grp s.focus.uid

/-- The release, and then the hold of later stores. -/
def State.fenceRelease (s : State) (scope : Nat) : State :=
  let t := s.releaseAt s.focus.grp s.focus.uid scope
  t.holdStoresTo (t.curSplit.times.at scope)

/-- FENCE.REL. -/
def execFenceRel (c : BitVec 2) (s : State) : Out := fence s (fun t => t.fenceRelease c.toNat)
/-- FENCE.ACQ: what it waits for, the drain has brought. At system scope it holds back what a FENCE.REL does
(R188's last but one paragraph; DEDUCED, log entry 70). -/
def execFenceAcq (c : BitVec 2) (s : State) : Out := fence s (fun t => t.acquireAt t.focus.grp t.focus.uid c.toNat)
/-- FENCE.AR. -/
def execFenceAr (c : BitVec 2) (s : State) : Out := fence s (fun t => t.fenceRelease c.toNat)
/-- FENCE.SC, R188, R240. -/
def execFenceSc (c : BitVec 2) (s : State) : Out :=
  fence s (fun t =>
    let u := t.fenceRelease c.toNat
    u.holdAllTo (max (u.curSplit.times.at c.toNat) (if c = 0 then 0 else u.curSplit.settle)))

/-! ### Barriers -/

/-- R174: a pending guard report replaces a barrier instruction. -/
def orGuard (s : State) (k : Mask → Out) : Out :=
  once170 s (fun m =>
    match s.curBlock.guard with
    | some o => .next ((s.onBlock s.cur.block (fun b => { b with guard := none })).takeTrap .guard (o / 4 % 32) 0 (BitVec.ofNat 64 o))
    | none => k m)

/-- A barrier instruction, in the lanes that have no open transaction. -/
def barrierOp (s : State) (f : State → Mask → Out) : Out := orGuard s (fun m => plainLanes s m f)

/-- A barrier of the block in focus. -/
def State.bar (s : State) (k : BitVec 4) : Barrier := s.curBlock.bars.get k.toNat

/-- BAR.INIT. -/
def execBarInit (k : BitVec 4) (b : Reg) (s : State) : Out :=
  barrierOp s (fun t _ =>
    let n := (t.sR b).toNat
    if 1024 < n ∨ (t.bar k).arrived ≠ 0 then .next (t.illop 0x0B 0x7A)
    else .next (t.onBlock t.cur.block (fun y => { y with
      bars := y.bars.upd k.toNat (fun x => { x with fixed := if n = 0 then none else some n }) })))

/-- BAR.ARRIVE. -/
def execBarArrive (d : Reg) (k : BitVec 4) (s : State) : Out :=
  barrierOp s (fun t m => .next ((t.setS d (t.bar k).phase).arrive t.cur.block k.toNat (laneCount m)))

/-- BAR.WAIT. -/
def execBarWait (k : BitVec 4) (b : Reg) (s : State) : Out :=
  barrierOp s (fun t _ => .next (if (t.bar k).phase = t.sR b then t.block (.barrier k.toNat (t.sR b)) else t))

/-- BAR.SYNC. -/
def execBarSync (k : BitVec 4) (s : State) : Out :=
  barrierOp s (fun t m =>
    let token := (t.bar k).phase
    let u := t.arrive t.cur.block k.toNat (laneCount m)
    .next (if (u.bar k).phase = token then u.block (.barrier k.toNat token) else u))

/-! ### Queues -/

/-- The stash offset of a ring's entry i. -/
def Queue.at (q : Queue) (i : Nat) : Nat := q.base + 4 * ((q.head + i) % q.capacity)

def State.onStashQueue (s : State) (b k : Nat) (f : Queue → Queue) : State :=
  s.onBlock b (fun y => { y with queues := y.queues.upd k f })

/-- Append values, oldest first. -/
def State.queueAppend (s : State) (b k : Nat) (ws : List Word) : State :=
  let q := (s.blocks.get b).queues.get k
  (s.stashWrite b (ws.zipIdx.flatMap (fun e =>
    (splitBytes e.1.toNat 4).zipIdx.map (fun x => (q.at (q.count + e.2) + x.2, x.1))))).onStashQueue b k
      (fun q => { q with count := q.count + ws.length })

/-- Take the n oldest entries. -/
def State.queueTake (s : State) (b k n : Nat) : List Word × State :=
  let q := (s.blocks.get b).queues.get k
  ((List.range n).map (fun i => BitVec.ofNat 32 (s.stashValue (coreOfBlock b) (q.at i) 4)),
   s.onStashQueue b k (fun q => { q with head := (q.head + n) % q.capacity, count := q.count - n }))

/-- Words to the lowest lanes of a mask, ascending. -/
def Group.setLow (g : Group) (d : Nat) (m : Mask) (ws : List Word) : Group :=
  ((lanesOf m).zip ws).foldl (fun g e => g.setV d (maskOf (fun K => K == e.1)) (fun _ => e.2)) g

/-- The oldest push, or pop, of a split that waits for a queue. -/
def Split.queueWait (x : Split) (k : Nat) (push : Bool) : Option Wait :=
  x.waits.reverse.find? (fun w => match w with | .push n _ _ => push && n == k | .pop n _ _ _ => !push && n == k | _ => false)

/-- R177, R191: the stash owns the mapped lines of n entries of a ring from entry i, as for an LDS or an STS. -/
def State.ownRing (s : State) (b k i n : Nat) (acc : Access) : State × Piece :=
  let y := s.blocks.get b
  s.ownLines b ((((List.range n).map (fun j => (y.queues.get k).at (i + j) / 64)).dedup).filter (fun l => (y.mapAt (64 * l)).isSome)) acc true

/-- R177, R330, R332: a blocked QPUSH or QPOP cannot have its entries yet: it waits for the lines, a fault of them is
served, or an uncorrectable error traps at the instruction. -/
def State.ringStops (s : State) (g uid : Nat) (src : Word × Nat) (p : Piece) (hit : Mask) : State :=
  let r (c : Cause) (d : Nat) (a : DWord) : TrapRecord := s.record g uid c d hit a src.1 (s.activeLanes g uid) src.2
  match p with
  | .fault .ecc n a => s.trapSplit g uid (r .ecc n a)
  | .fault c d a => (s.onSplit g uid (fun x => x.addWait (.fetch s.nextFault))).sendFault
      { op := none, copy := none, fetch := some (g, uid), rec_ := r c d a, vpage := a.toNat % 2 ^ 57 / 4096, sent := false }
  | _ => s

/-- R191: the oldest QPUSH, or QPOP, blocked on a queue is served if its entries are free, or there. -/
def State.serveHead (s : State) (b k : Nat) (push : Bool) : State × Bool :=
  let q := (s.blocks.get b).queues.get k
  match (if push then q.pushes else q.pops) with
  | [] => (s, false)
  | (g, uid) :: rest =>
    let x := s.splitOf g uid
    let go (t : State) (w : Wait) : State × Bool :=
      ((t.onStashQueue b k (fun q => if push then { q with pushes := rest } else { q with pops := rest })).endWait g uid w, true)
    if x.trap.isSome ∨ s.faults.any (fun f => decide (f.2.fetch = some (g, uid))) = true then (s, false) else
    match x.queueWait k push with
    | some (.push n ws src) =>
      if q.capacity < q.count + ws.length then (s, false) else
      match s.ownRing b k q.count ws.length .both with
      | (t, .done) => go (t.queueAppend b k ws) (.push n ws src)
      | (t, p) => (t.ringStops g uid src p 0, false)
    | some (.pop n d m src) =>
      if q.count < laneCount m then (s, false) else
      match s.ownRing b k 0 (laneCount m) .read with
      | (t, .done) =>
        if q.bad &&& m ≠ 0 then
          ((t.onStashQueue b k (fun q => { q with bad := 0 })).ringStops g uid src (.fault .ecc 3 (BitVec.ofNat 64 (q.at 0))) (q.bad &&& m), false)
        else
          let r := t.queueTake b k (laneCount m)
          go (r.2.onGroup g (fun y => y.setLow d.toNat m r.1)) (.pop n d m src)
      | (t, p) => (t.ringStops g uid src p 0, false)
    | _ => ((s.onStashQueue b k (fun q => if push then { q with pushes := rest } else { q with pops := rest })), true)

/-- R191: the blocked pushes of a queue are served in the order they arrived, and so are its pops; neither holds back
the other, for what a push waits for only a pop brings. Where both may go, a push goes first (DESIGN CHOICE, log
entry 93). -/
def State.serveQueue (s : State) (b k fuel : Nat) : State :=
  match fuel with
  | 0 => s
  | f + 1 =>
    match s.serveHead b k true with
    | (t, true) => t.serveQueue b k f
    | (t, false) => match t.serveHead b k false with
      | (u, true) => u.serveQueue b k f
      | (u, false) => u

def State.serveAll (s : State) (b k : Nat) : State :=
  let q := (s.blocks.get b).queues.get k
  s.serveQueue b k (q.pushes.length + q.pops.length + 1)

/-- The split in focus joins a queue's line and is served when its turn comes. -/
def State.joinQueue (s : State) (k : Nat) (push : Bool) (w : Wait) : State :=
  let b := s.cur.block
  let me := (s.focus.grp, s.focus.uid)
  ((s.block w).onStashQueue b k (fun q => if push then { q with pushes := q.pushes ++ [me] } else { q with pops := q.pops ++ [me] })).serveAll b k

/-- Operations that wait for a mapped line of their ring, or for its fault, try again. -/
def State.serveRings (s : State) : State :=
  s.blocks.foldl (fun (st : State) e =>
    if !e.2.live || st.relocking (dieOfCore e.2.core) then st else
    (e.2.queues).foldl (fun (st : State) q => if q.2.pushes = [] ∧ q.2.pops = [] then st else st.serveAll e.1 q.1) st) s

/-- R332: the entries that the oldest blocked QPOP of a queue will take hold an uncorrectable error. -/
def State.popError (s : State) (b k : Nat) (hit : Mask) : State :=
  if ((s.blocks.get b).queues.get k).pops = [] then s else s.onStashQueue b k (fun q => { q with bad := hit })

/-- Where the instruction in focus stands: its offset and plane. -/
def State.here (s : State) : Word × Nat := (s.focus.offset, s.focus.plane.toNat)

/-- A queue of the block in focus. -/
def State.stashQ (s : State) (k : BitVec 3) : Queue := s.curBlock.queues.get k.toNat

/-- QINIT. -/
def execQinit (k : BitVec 3) (b : Reg) (s : State) : Out :=
  onceLanes s (fun t _ =>
    let off := (t.sR b).toNat
    let cap := (t.cur.sAt (b.toNat + 1)).toNat
    if cap = 0 ∨ 65536 < cap ∨ off % 4 ≠ 0 ∨ !t.curBlock.holds off (4 * cap) then .next (t.illop 0x0B 0x7A)
    else .next ((t.onStashQueue t.cur.block k.toNat (fun q => { base := off, capacity := cap, pushes := q.pushes, pops := q.pops })).serveAll
      t.cur.block k.toNat))

/-- QPUSH. -/
def execQpush (k : BitVec 3) (b : Reg) (s : State) : Out :=
  onceLanes s (fun t m =>
    if (t.stashQ k).capacity < laneCount m then .next (t.illop 0x0B 0x7A)
    else .next (t.joinQueue k.toNat true (.push k.toNat ((lanesOf m).map (fun L => t.vR b L)) t.here)))

/-- QPOP. -/
def execQpop (d : Reg) (k : BitVec 3) (s : State) : Out :=
  onceLanes s (fun t m =>
    if (t.stashQ k).capacity < laneCount m then .next (t.illop 0x0B 0x7A)
    else .next (t.joinQueue k.toNat false (.pop k.toNat d m t.here)))

/-- QTRY: it issues again when a mapped line of its ring is not there yet. -/
def execQtry (d : Reg) (k : BitVec 3) (b : Reg) (s : State) : Out :=
  onceLanes s (fun t m =>
    if (t.stashQ k).capacity = 0 then .next (t.illop 0x0B 0x7A) else
    let n := min (laneCount m) (t.stashQ k).count
    match t.ownRing t.cur.block k.toNat 0 n .read with
    | (u, .wait) => .next u.stall
    | (u, .fault .ecc c a) => .next (u.takeTrap .ecc c 0 a)
    | (u, .fault c x a) => .next (u.faultHere c x 0 a)
    | (u, .done) =>
      let r := u.queueTake t.cur.block k.toNat n
      .next (((r.2.onCur (fun g => g.setLow d.toNat m r.1)).setS b (BitVec.ofNat 32 n)).serveAll t.cur.block k.toNat))

/-! ### Signal waits -/

/-- The word that SIGWAIT tests: class 0 in the core's L1, otherwise at the home (R168, R192); an older leased copy
goes, so that no later load of the split reads it (R246). The split takes the settle time of the value (R239). -/
def State.signalRead (s : State) (ctx pa cls : Nat) : State × Word :=
  let core := s.curCore
  let line := lineOf pa
  let t := s.flushWcFor core line
  if cls = 0 then
    let u := t.fillPrivate core ctx line
    (u, BitVec.ofNat 32 (lineElem ((u.cores.get core).l1.get line).bytes (pa % 64) 4))
  else
    let u := if cls = 3 then t else (t.collect line).dropLeased core line
    (noteSettle u s.focus.grp s.focus.uid (u.homeLine line).settle, BitVec.ofNat 32 (u.readPa pa 4))

/-- SIGWAIT. -/
def execSigwait (a b : Reg) (s : State) : Out :=
  onceLanes s (fun t _ =>
    let addr := t.sP a
    let ctx := t.ctxOf t.focus.grp
    if !canonical57 addr then .next (t.faultHere .faultT 0x20 0 addr)
    else if addr.toNat % 4 ≠ 0 then .next (t.takeOpenTrap .align 0 addr)
    else
      let r := t.lookupNow t.curCore ctx addr
      match r.1 with
      | .fault c d => .next (r.2.faultHere c d 0 addr)
      | .miss => .next r.2.stall
      | .hit e =>
        match permit e .read [0, 1, 2, 3] with
        | some f => .next (r.2.faultHere f.1 f.2 0 addr)
        | none =>
          let pa := e.pa addr
          match r.2.lineError (lineOf pa) with
          | some k => .next (r.2.takeTrap .ecc k 0 addr)
          | none =>
            let w := r.2.signalRead ctx pa e.cls.toNat
            if (t.sR b).toNat ≤ w.2.toNat then .next (w.1.acquireAt t.focus.grp t.focus.uid 3)
            else .next ((w.1.block (.signal addr pa (t.sR b) w.2 t.here)).onHome (lineOf pa)
              (fun h => { h with watchers := h.watchers ++ [(t.focus.grp, t.focus.uid)] })))

end Sys2Proof.Machine
end

