-- ==== Sys2Proof/Machine/Gong.lean ====
section
/-! DEFINITION. Legacy calls: the seven classes of GCALL (R217, R218, R308–R311), and the event by which
the Gong executes its oldest entry. -/

namespace Sys2Proof.Machine

/-- R218: a GCALL takes one entry, over the union when every pass holds the same word; a full queue
holds the split before it. -/
def callGong (i : Instr) (strong : Bool) (s : State) : Out :=
  once170 s (fun m0 =>
    let r := if strong then s.doom5 m0 else (s, m0)
    let t := r.1
    let die := dieOfGroup t.focus.grp
    if r.2 = 0 then .next t
    else if 64 ≤ (t.dies.get die).gong.length then .next ((t.block .gongFull).stall)
    else
      let e : GongEntry := { grp := t.focus.grp, uid := t.focus.uid, instr := i, mask := r.2, left := r.2
                             offset := t.focus.offset, version := t.focus.version, plane := t.focus.plane
                             stamp := t.stampFor t.focus.grp, before := t.nextOp }
      .next (((t.block .gong).onDie die (fun d => { d with gong := d.gong ++ [e] })).post (.gongEntryExecute die)))

/-- C1HADD. -/
def execC1hadd (d a b : Reg) (s : State) : Out := callGong (.c1hadd d a b) false s
/-- C1HSUB. -/
def execC1hsub (d a b : Reg) (s : State) : Out := callGong (.c1hsub d a b) false s
/-- C1HMUL. -/
def execC1hmul (d a b : Reg) (s : State) : Out := callGong (.c1hmul d a b) false s
/-- C1HFMA. -/
def execC1hfma (d a b : Reg) (s : State) : Out := callGong (.c1hfma d a b) false s
/-- C1CAS: a memory class. -/
def execC1cas (d a b : Reg) (s : State) : Out := callGong (.c1cas d a b) true s
/-- C1F2I. -/
def execC1f2i (d a : Reg) (s : State) : Out := callGong (.c1f2i d a) false s
/-- C1BAR. -/
def execC1bar (d a : Reg) (s : State) : Out := callGong (.c1bar d a) true s

/-! ### The Gong executes -/

/-- The oldest entry leaves the queue; the Gong goes on with the next. -/
def State.popGong (s : State) (die : Nat) : State :=
  (s.onDie die (fun d => { d with gong := d.gong.drop 1 })).wakeGong die

/-- An entry ends: its split goes on, when it waits for no other. -/
def State.endCall (s : State) (die : Nat) (e : GongEntry) : State := (s.popGong die).endWait e.grp e.uid .gong

/-- An arithmetic class writes its results (R308, R309). -/
def State.callResult (s : State) (die : Nat) (e : GongEntry) (d : Reg) (f : Group → Nat → Word) : State :=
  (s.onGroup e.grp (fun g => g.setV d.toNat e.mask (f (s.group e.grp)))).endCall die e

/-- A failure traps precisely at the GCALL (R218). On resume the GCALL issues again, for the lanes it still had,
and then the passes of its offset that had not issued; those that had, issued while it was queued, do not
(R385; DEDUCED, log entry 69). -/
def State.callTrap (s : State) (die : Nat) (e : GongEntry) (c : Cause) (detail : Nat) (hit : Mask) (addr : DWord) : State :=
  let s1 := ((s.popGong die).onSplit e.grp e.uid (fun x => x.endWait .gong)).goBack e.grp e.uid e.offset e.plane e.left e.instr
  s1.trapSplit e.grp e.uid { s1.record e.grp e.uid c detail hit addr e.offset (s1.activeLanes e.grp e.uid) e.plane.toNat with
    version := e.version }

/-- The fetch address of an entry's word (R110). -/
def State.callAddr (s : State) (e : GongEntry) : DWord := s.fetchAddr e.grp e.version e.plane.toNat e.offset

/-- The class of a GCALL (R308). -/
def callClass (i : Instr) : Nat :=
  match i with
  | .c1hadd .. => 1 | .c1hsub .. => 2 | .c1hmul .. => 3 | .c1hfma .. => 4 | .c1cas .. => 5 | .c1f2i .. => 6 | _ => 7

/-- R218: an internal error of the Gong, at its oldest entry, before any lane of it has acted. -/
def State.gongError (s : State) (die : Nat) : State :=
  match (s.dies.get die).gong with
  | [] => s
  | e :: _ => if e.left = e.mask then s.callTrap die e .gongErr (callClass e.instr) 0 (s.callAddr e) else s

/-- The lanes of a C1CAS and their addresses. -/
def casLanes (g : Group) (m : Mask) (a : Reg) : List (Nat × DWord) := (lanesOf m).map (fun L => (L, g.vPair a.toNat L))

/-- One lane of a C1CAS whose operands are read (R310): a relaxed atomic at device scope. -/
def State.casLane (s : State) (e : GongEntry) (d : Reg) (L : Nat) : State :=
  let core := coreOfGroup e.grp
  let pa := e.pa.get L
  let cls := e.cls.get L
  let line := lineOf pa
  let put (old : Nat) : Bool := old == (e.data.get (2 * L)).toNat
  let bs := (splitBytes (e.data.get (2 * L + 1)).toNat 4).zipIdx.map (fun x => (pa + x.2, x.1))
  let one (t : State) (w : Word) : State := t.onGroup e.grp (fun y => y.setV d.toNat (maskOf (fun K => K == L)) (fun _ => w))
  let s0 := s.flushWcFor core line
  if cls = 0 then
    let t := s0.fillPrivate core (s.ctxOf e.grp) line
    if put (lineElem ((t.cores.get core).l1.get line).bytes (pa % 64) 4) then one (t.l1Update core line bs) 1 else one t 0
  else
    let t := (s0.recall line).collect line
    if put (t.readPa pa 4) then
      let r := t.homeWrite line cls (dieOfCore core) e.stamp bs
      one ((r.1.l1Update core line bs).noteTimes e.grp e.uid (scopeTimes r.2 2)) 1
    else one t 0

/-- A translation fault of an entry, with Carillon; the entry stays at the head of the queue. -/
def State.callFault (s : State) (e : GongEntry) (c : Cause) (detail : Nat) (hit : Mask) (a : DWord) : State :=
  if s.faults.any (fun f => decide (f.2.fetch = some (e.grp, e.uid))) then s else
  let r := { s.record e.grp e.uid c detail hit a e.offset (s.activeLanes e.grp e.uid) e.plane.toNat with version := e.version }
  s.sendFault { op := none, copy := none, fetch := some (e.grp, e.uid), rec_ := r, vpage := a.toNat % 2 ^ 57 / 4096, sent := false }

/-- The line of a translated address. -/
def Look.line (l : Look) (a : DWord) : Option Nat := match l with | .hit t => some (lineOf (t.pa a)) | _ => none

/-- R171, R186: an entry's access waits, as an ATOM's does, for the older stores, ATOMs and REDs of its split that
are not translated yet, and for those of its core under way to its lines. -/
def State.callHeld (s : State) (e : GongEntry) (lines : List Nat) : Bool :=
  s.ops.any (fun x => decide (x.1 < e.before) && x.2.live
    && ((x.2.grp == e.grp && x.2.uid == e.uid && (match shapeOf x.2.instr with
          | some h => decide (h.move = .compress ∧ x.2.status ≠ .accepted)
              || decide (h.move ≠ .load ∧ h.move ≠ .prefetch ∧ (x.2.status = .walking ∨ x.2.status = .held ∨ x.2.status = .faulted))
          | none => false))
        || (coreOfGroup x.2.grp == coreOfGroup e.grp && x.2.storeLines.any lines.contains)))

/-- The entry has its operands: each register of each lane is read once (R218). -/
def GongEntry.reads (e : GongEntry) (g : Group) (b : Reg) (hits : List (Nat × DWord × TlbEntry)) : GongEntry :=
  { e with
    read := true
    pa := hits.foldl (fun m x => m.put x.1 (x.2.2.pa x.2.1)) []
    cls := hits.foldl (fun m x => m.put x.1 x.2.2.cls.toNat) []
    data := hits.foldl (fun m x => (m.put (2 * x.1) (g.vAt b.toNat x.1)).put (2 * x.1 + 1) (g.vAt (b.toNat + 1) x.1)) [] }

/-- The next lane of a C1CAS acts; with the last, the entry ends. -/
def State.casNext (s : State) (die : Nat) (e : GongEntry) (d : Reg) : State :=
  let L := lowLane e.left
  let s1 := s.casLane e d L
  let left := e.left &&& ~~~(maskOf (fun K => K == L))
  if left = 0 then s1.endCall die e
  else (s1.onDie die (fun y => { y with gong := { e with left := left } :: y.gong.drop 1 })).post (.gongEntryExecute die)

/-- R218, R310: a C1CAS, checked across its lanes, errors of its lines among the checks (R332), and its operands
read, then one lane at a time. -/
def State.callCas (s : State) (die : Nat) (e : GongEntry) (d a b : Reg) : State :=
  if e.read then s.casNext die e d else
  let core := coreOfGroup e.grp
  let ctx := s.ctxOf e.grp
  let lanes := casLanes (s.group e.grp) e.left a
  let hits (p : Nat × DWord → Bool) : Mask := maskOf (fun L => lanes.any (fun x => x.1 == L && p x))
  let odd (x : Nat × DWord) : Bool := decide (x.2.toNat % 4 ≠ 0)
  let look (x : Nat × DWord) : Look := (s.lookupNow core ctx x.2).1
  let untranslated (x : Nat × DWord) : Bool := match look x with | .hit _ => false | _ => true
  let denied (x : Nat × DWord) : Bool := match look x with | .hit t => (permit t .both [0, 1, 2]).isSome | _ => false
  -- a copy-on-write page of a checkpoint, when no lane is denied for good (R338)
  let cowOnly (x : Nat × DWord) : Bool := match look x with | .hit t => permit t .both [0, 1, 2] == some (.faultP, 4) | _ => false
  let cowed := if lanes.all (fun x => !denied x || cowOnly x) then lanes.find? cowOnly else none
  match lanes.find? (fun x => !canonical57 x.2), lanes.find? odd, lanes.find? untranslated, lanes.find? denied with
  | some x, _, _, _ => s.callFault e .faultT 0 (hits (fun x => !canonical57 x.2)) x.2
  | none, some x, _, _ => ({ s with free := s.free + 1 } : State).callTrap die e .align ((Config.freeWord s.free).toNat % 65536) (hits odd) x.2
  | none, none, some x, _ =>
    -- a lane's page waits for a free walker (R327)
    if lanes.any (fun y => look y == .miss) then s.later (.gongEntryExecute die) else
    s.callFault e .faultT 0 (hits untranslated) x.2
  | none, none, none, some x =>
    match cowed with
    | some y => s.callFault e .faultP 4 (maskOf (fun K => K == y.1)) y.2
    | none => s.callTrap die e .faultP 0 (hits denied) x.2
  | none, none, none, none =>
    match lanes with
    | [] => s.endCall die e
    | _ :: _ =>
      let error (y : Nat × DWord) : Option Nat := ((look y).line y.2).bind s.lineError
      match lanes.find? (fun y => (error y).isSome) with
      | some y => s.callTrap die e .ecc ((error y).getD 0) (hits (fun y => (error y).isSome)) y.2
      | none =>
        if s.callHeld e (lanes.filterMap (fun y => (look y).line y.2)) then s.later (.gongEntryExecute die) else
        let found := lanes.filterMap (fun y => match look y with | .hit t => some (y.1, y.2, t) | _ => none)
        let s1 := lanes.foldl (fun (st : State) y => (st.lookupNow core ctx y.2).2) s
        s1.casNext die (e.reads (s.group e.grp) b found) d

/-- R311: a C1BAR: the whole group arrives, and the split waits for the phase. -/
def State.callBar (s : State) (die : Nat) (e : GongEntry) (d a : Reg) : State :=
  let g := s.group e.grp
  let w := (g.vAt a.toNat (lowLane e.mask)).toNat
  let bar := (s.blocks.get g.block).bars.get w
  if 16 ≤ w ∨ bar.fixed.isSome then
    s.callTrap die e .illop (0x0B * 256 + 0x54) 0 (s.callAddr e)
  else
    ((s.popGong die).onSplit e.grp e.uid (fun x => x.setWait .gong (.c1bar w bar.phase d e.mask))).arrive g.block w
      (laneCount (g.exist_ &&& ~~~g.exited))

/-- R218: the Gong executes its oldest entry. -/
def execGongEntryExecute (die : Nat) (s : State) : Out :=
  match (s.dies.get die).gong with
  | [] => .next s
  | e :: _ =>
    match e.instr with
    | .c1hadd d a b => .next (s.callResult die e d (fun g L => c1Add (g.vAt a.toNat L) (g.vAt b.toNat L)))
    | .c1hsub d a b => .next (s.callResult die e d (fun g L => c1Sub (g.vAt a.toNat L) (g.vAt b.toNat L)))
    | .c1hmul d a b => .next (s.callResult die e d (fun g L => c1Mul (g.vAt a.toNat L) (g.vAt b.toNat L)))
    | .c1hfma d a b => .next (s.callResult die e d (fun g L => c1Fma (g.vAt a.toNat L) (g.vAt b.toNat L) (g.vAt d.toNat L)))
    | .c1f2i d a => .next (s.callResult die e d (fun g L => c1F2I (g.vAt a.toNat L)))
    | .c1cas d a b => .next (s.callCas die e d a b)
    | .c1bar d a => .next (s.callBar die e d a)
    | _ => .next (s.popGong die)

end Sys2Proof.Machine
end

