-- ==== Sys2Proof/Machine/Integer.lean ====
section
/-! DEFINITION. Integer instructions: majors 0x01–0x0F, 0x30–0x3C and the 16-bit integer operations (R95, R114–R121). -/

namespace Sys2Proof.Machine

/-! ### IALU (R114, R115): vector, vector with scalar, scalar -/

/-- IADD, R115. -/
def execIadd (d : Reg) (a : Reg) (b : Reg) (s : State) : Out := vvv s aluAdd d a b

/-- IADD_VS, R115. -/
def execIaddVs (d : Reg) (a : Reg) (b : Reg) (s : State) : Out := vvs s aluAdd d a b

/-- IADD_S, R115. -/
def execIaddS (d : Reg) (a : Reg) (b : Reg) (s : State) : Out := sss s aluAdd d a b

/-- ISUB, R115. -/
def execIsub (d : Reg) (a : Reg) (b : Reg) (s : State) : Out := vvv s aluSub d a b

/-- ISUB_VS, R115. -/
def execIsubVs (d : Reg) (a : Reg) (b : Reg) (s : State) : Out := vvs s aluSub d a b

/-- ISUB_S, R115. -/
def execIsubS (d : Reg) (a : Reg) (b : Reg) (s : State) : Out := sss s aluSub d a b

/-- IMUL, R115. -/
def execImul (d : Reg) (a : Reg) (b : Reg) (s : State) : Out := vvv s aluMul d a b

/-- IMUL_VS, R115. -/
def execImulVs (d : Reg) (a : Reg) (b : Reg) (s : State) : Out := vvs s aluMul d a b

/-- IMUL_S, R115. -/
def execImulS (d : Reg) (a : Reg) (b : Reg) (s : State) : Out := sss s aluMul d a b

/-- IMULHI, R115. -/
def execImulhi (d : Reg) (a : Reg) (b : Reg) (s : State) : Out := vvv s aluMulHi d a b

/-- IMULHI_VS, R115. -/
def execImulhiVs (d : Reg) (a : Reg) (b : Reg) (s : State) : Out := vvs s aluMulHi d a b

/-- IMULHI_S, R115. -/
def execImulhiS (d : Reg) (a : Reg) (b : Reg) (s : State) : Out := sss s aluMulHi d a b

/-- UMULHI, R115. -/
def execUmulhi (d : Reg) (a : Reg) (b : Reg) (s : State) : Out := vvv s aluUMulHi d a b

/-- UMULHI_VS, R115. -/
def execUmulhiVs (d : Reg) (a : Reg) (b : Reg) (s : State) : Out := vvs s aluUMulHi d a b

/-- UMULHI_S, R115. -/
def execUmulhiS (d : Reg) (a : Reg) (b : Reg) (s : State) : Out := sss s aluUMulHi d a b

/-- IMIN, R115. -/
def execImin (d : Reg) (a : Reg) (b : Reg) (s : State) : Out := vvv s aluMin d a b

/-- IMIN_VS, R115. -/
def execIminVs (d : Reg) (a : Reg) (b : Reg) (s : State) : Out := vvs s aluMin d a b

/-- IMIN_S, R115. -/
def execIminS (d : Reg) (a : Reg) (b : Reg) (s : State) : Out := sss s aluMin d a b

/-- IMAX, R115. -/
def execImax (d : Reg) (a : Reg) (b : Reg) (s : State) : Out := vvv s aluMax d a b

/-- IMAX_VS, R115. -/
def execImaxVs (d : Reg) (a : Reg) (b : Reg) (s : State) : Out := vvs s aluMax d a b

/-- IMAX_S, R115. -/
def execImaxS (d : Reg) (a : Reg) (b : Reg) (s : State) : Out := sss s aluMax d a b

/-- UMIN, R115. -/
def execUmin (d : Reg) (a : Reg) (b : Reg) (s : State) : Out := vvv s aluUMin d a b

/-- UMIN_VS, R115. -/
def execUminVs (d : Reg) (a : Reg) (b : Reg) (s : State) : Out := vvs s aluUMin d a b

/-- UMIN_S, R115. -/
def execUminS (d : Reg) (a : Reg) (b : Reg) (s : State) : Out := sss s aluUMin d a b

/-- UMAX, R115. -/
def execUmax (d : Reg) (a : Reg) (b : Reg) (s : State) : Out := vvv s aluUMax d a b

/-- UMAX_VS, R115. -/
def execUmaxVs (d : Reg) (a : Reg) (b : Reg) (s : State) : Out := vvs s aluUMax d a b

/-- UMAX_S, R115. -/
def execUmaxS (d : Reg) (a : Reg) (b : Reg) (s : State) : Out := sss s aluUMax d a b

/-- AND, R115. -/
def execAnd (d : Reg) (a : Reg) (b : Reg) (s : State) : Out := vvv s aluAnd d a b

/-- AND_VS, R115. -/
def execAndVs (d : Reg) (a : Reg) (b : Reg) (s : State) : Out := vvs s aluAnd d a b

/-- AND_S, R115. -/
def execAndS (d : Reg) (a : Reg) (b : Reg) (s : State) : Out := sss s aluAnd d a b

/-- OR, R115. -/
def execOr (d : Reg) (a : Reg) (b : Reg) (s : State) : Out := vvv s aluOr d a b

/-- OR_VS, R115. -/
def execOrVs (d : Reg) (a : Reg) (b : Reg) (s : State) : Out := vvs s aluOr d a b

/-- OR_S, R115. -/
def execOrS (d : Reg) (a : Reg) (b : Reg) (s : State) : Out := sss s aluOr d a b

/-- XOR, R115. -/
def execXor (d : Reg) (a : Reg) (b : Reg) (s : State) : Out := vvv s aluXor d a b

/-- XOR_VS, R115. -/
def execXorVs (d : Reg) (a : Reg) (b : Reg) (s : State) : Out := vvs s aluXor d a b

/-- XOR_S, R115. -/
def execXorS (d : Reg) (a : Reg) (b : Reg) (s : State) : Out := sss s aluXor d a b

/-- ANDN, R115. -/
def execAndn (d : Reg) (a : Reg) (b : Reg) (s : State) : Out := vvv s aluAndN d a b

/-- ANDN_VS, R115. -/
def execAndnVs (d : Reg) (a : Reg) (b : Reg) (s : State) : Out := vvs s aluAndN d a b

/-- ANDN_S, R115. -/
def execAndnS (d : Reg) (a : Reg) (b : Reg) (s : State) : Out := sss s aluAndN d a b

/-- SHL, R115. -/
def execShl (d : Reg) (a : Reg) (b : Reg) (s : State) : Out := vvv s aluShl d a b

/-- SHL_VS, R115. -/
def execShlVs (d : Reg) (a : Reg) (b : Reg) (s : State) : Out := vvs s aluShl d a b

/-- SHL_S, R115. -/
def execShlS (d : Reg) (a : Reg) (b : Reg) (s : State) : Out := sss s aluShl d a b

/-- SHR, R115. -/
def execShr (d : Reg) (a : Reg) (b : Reg) (s : State) : Out := vvv s aluShr d a b

/-- SHR_VS, R115. -/
def execShrVs (d : Reg) (a : Reg) (b : Reg) (s : State) : Out := vvs s aluShr d a b

/-- SHR_S, R115. -/
def execShrS (d : Reg) (a : Reg) (b : Reg) (s : State) : Out := sss s aluShr d a b

/-- SAR, R115. -/
def execSar (d : Reg) (a : Reg) (b : Reg) (s : State) : Out := vvv s aluSar d a b

/-- SAR_VS, R115. -/
def execSarVs (d : Reg) (a : Reg) (b : Reg) (s : State) : Out := vvs s aluSar d a b

/-- SAR_S, R115. -/
def execSarS (d : Reg) (a : Reg) (b : Reg) (s : State) : Out := sss s aluSar d a b

/-- ROL, R115. -/
def execRol (d : Reg) (a : Reg) (b : Reg) (s : State) : Out := vvv s aluRol d a b

/-- ROL_VS, R115. -/
def execRolVs (d : Reg) (a : Reg) (b : Reg) (s : State) : Out := vvs s aluRol d a b

/-- ROL_S, R115. -/
def execRolS (d : Reg) (a : Reg) (b : Reg) (s : State) : Out := sss s aluRol d a b

/-- IABSD, R115. -/
def execIabsd (d : Reg) (a : Reg) (b : Reg) (s : State) : Out := vvv s aluAbsD d a b

/-- IABSD_VS, R115. -/
def execIabsdVs (d : Reg) (a : Reg) (b : Reg) (s : State) : Out := vvs s aluAbsD d a b

/-- IABSD_S, R115. -/
def execIabsdS (d : Reg) (a : Reg) (b : Reg) (s : State) : Out := sss s aluAbsD d a b

/-- IADDS, R115. -/
def execIadds (d : Reg) (a : Reg) (b : Reg) (s : State) : Out := vvv s aluAddS d a b

/-- IADDS_VS, R115. -/
def execIaddsVs (d : Reg) (a : Reg) (b : Reg) (s : State) : Out := vvs s aluAddS d a b

/-- IADDS_S, R115. -/
def execIaddsS (d : Reg) (a : Reg) (b : Reg) (s : State) : Out := sss s aluAddS d a b

/-- ISUBS, R115. -/
def execIsubs (d : Reg) (a : Reg) (b : Reg) (s : State) : Out := vvv s aluSubS d a b

/-- ISUBS_VS, R115. -/
def execIsubsVs (d : Reg) (a : Reg) (b : Reg) (s : State) : Out := vvs s aluSubS d a b

/-- ISUBS_S, R115. -/
def execIsubsS (d : Reg) (a : Reg) (b : Reg) (s : State) : Out := sss s aluSubS d a b

/-- UADDS, R115. -/
def execUadds (d : Reg) (a : Reg) (b : Reg) (s : State) : Out := vvv s aluUAddS d a b

/-- UADDS_VS, R115. -/
def execUaddsVs (d : Reg) (a : Reg) (b : Reg) (s : State) : Out := vvs s aluUAddS d a b

/-- UADDS_S, R115. -/
def execUaddsS (d : Reg) (a : Reg) (b : Reg) (s : State) : Out := sss s aluUAddS d a b

/-- USUBS, R115. -/
def execUsubs (d : Reg) (a : Reg) (b : Reg) (s : State) : Out := vvv s aluUSubS d a b

/-- USUBS_VS, R115. -/
def execUsubsVs (d : Reg) (a : Reg) (b : Reg) (s : State) : Out := vvs s aluUSubS d a b

/-- USUBS_S, R115. -/
def execUsubsS (d : Reg) (a : Reg) (b : Reg) (s : State) : Out := sss s aluUSubS d a b

/-- POPC, R115. -/
def execPopc (d : Reg) (a : Reg) (s : State) : Out := vvv s aluPopc d a 0

/-- POPC_VS, R115. -/
def execPopcVs (d : Reg) (a : Reg) (s : State) : Out := vvs s aluPopc d a 0

/-- POPC_S, R115. -/
def execPopcS (d : Reg) (a : Reg) (s : State) : Out := sss s aluPopc d a 0

/-- CLZ, R115. -/
def execClz (d : Reg) (a : Reg) (s : State) : Out := vvv s aluClz d a 0

/-- CLZ_VS, R115. -/
def execClzVs (d : Reg) (a : Reg) (s : State) : Out := vvs s aluClz d a 0

/-- CLZ_S, R115. -/
def execClzS (d : Reg) (a : Reg) (s : State) : Out := sss s aluClz d a 0

/-- BREV, R115. -/
def execBrev (d : Reg) (a : Reg) (s : State) : Out := vvv s aluBrev d a 0

/-- BREV_VS, R115. -/
def execBrevVs (d : Reg) (a : Reg) (s : State) : Out := vvs s aluBrev d a 0

/-- BREV_S, R115. -/
def execBrevS (d : Reg) (a : Reg) (s : State) : Out := sss s aluBrev d a 0

/-- BFE, R115. -/
def execBfe (d : Reg) (a : Reg) (b : Reg) (s : State) : Out := vvv s aluBfe d a b

/-- BFE_VS, R115. -/
def execBfeVs (d : Reg) (a : Reg) (b : Reg) (s : State) : Out := vvs s aluBfe d a b

/-- BFE_S, R115. -/
def execBfeS (d : Reg) (a : Reg) (b : Reg) (s : State) : Out := sss s aluBfe d a b

/-- UBFE, R115. -/
def execUbfe (d : Reg) (a : Reg) (b : Reg) (s : State) : Out := vvv s aluUBfe d a b

/-- UBFE_VS, R115. -/
def execUbfeVs (d : Reg) (a : Reg) (b : Reg) (s : State) : Out := vvs s aluUBfe d a b

/-- UBFE_S, R115. -/
def execUbfeS (d : Reg) (a : Reg) (b : Reg) (s : State) : Out := sss s aluUBfe d a b

/-- MOV, R115. -/
def execMov (d : Reg) (b : Reg) (s : State) : Out := vvv s aluMov d 0 b

/-- MOV_VS, R115. -/
def execMovVs (d : Reg) (b : Reg) (s : State) : Out := vvs s aluMov d 0 b

/-- MOV_S, R115. -/
def execMovS (d : Reg) (b : Reg) (s : State) : Out := sss s aluMov d 0 b

/-- ISET_LT, R115. -/
def execIsetLt (d : Reg) (a : Reg) (b : Reg) (s : State) : Out := vvv s aluSetLt d a b

/-- ISET_LT_VS, R115. -/
def execIsetLtVs (d : Reg) (a : Reg) (b : Reg) (s : State) : Out := vvs s aluSetLt d a b

/-- ISET_LT_S, R115. -/
def execIsetLtS (d : Reg) (a : Reg) (b : Reg) (s : State) : Out := sss s aluSetLt d a b

/-- ISET_LE, R115. -/
def execIsetLe (d : Reg) (a : Reg) (b : Reg) (s : State) : Out := vvv s aluSetLe d a b

/-- ISET_LE_VS, R115. -/
def execIsetLeVs (d : Reg) (a : Reg) (b : Reg) (s : State) : Out := vvs s aluSetLe d a b

/-- ISET_LE_S, R115. -/
def execIsetLeS (d : Reg) (a : Reg) (b : Reg) (s : State) : Out := sss s aluSetLe d a b

/-- ISET_EQ, R115. -/
def execIsetEq (d : Reg) (a : Reg) (b : Reg) (s : State) : Out := vvv s aluSetEq d a b

/-- ISET_EQ_VS, R115. -/
def execIsetEqVs (d : Reg) (a : Reg) (b : Reg) (s : State) : Out := vvs s aluSetEq d a b

/-- ISET_EQ_S, R115. -/
def execIsetEqS (d : Reg) (a : Reg) (b : Reg) (s : State) : Out := sss s aluSetEq d a b

/-- ISET_NE, R115. -/
def execIsetNe (d : Reg) (a : Reg) (b : Reg) (s : State) : Out := vvv s aluSetNe d a b

/-- ISET_NE_VS, R115. -/
def execIsetNeVs (d : Reg) (a : Reg) (b : Reg) (s : State) : Out := vvs s aluSetNe d a b

/-- ISET_NE_S, R115. -/
def execIsetNeS (d : Reg) (a : Reg) (b : Reg) (s : State) : Out := sss s aluSetNe d a b

/-- USET_LT, R115. -/
def execUsetLt (d : Reg) (a : Reg) (b : Reg) (s : State) : Out := vvv s aluUSetLt d a b

/-- USET_LT_VS, R115. -/
def execUsetLtVs (d : Reg) (a : Reg) (b : Reg) (s : State) : Out := vvs s aluUSetLt d a b

/-- USET_LT_S, R115. -/
def execUsetLtS (d : Reg) (a : Reg) (b : Reg) (s : State) : Out := sss s aluUSetLt d a b

/-- USET_LE, R115. -/
def execUsetLe (d : Reg) (a : Reg) (b : Reg) (s : State) : Out := vvv s aluUSetLe d a b

/-- USET_LE_VS, R115. -/
def execUsetLeVs (d : Reg) (a : Reg) (b : Reg) (s : State) : Out := vvs s aluUSetLe d a b

/-- USET_LE_S, R115. -/
def execUsetLeS (d : Reg) (a : Reg) (b : Reg) (s : State) : Out := sss s aluUSetLe d a b

/-! ### Immediates and constants (R116, R117) -/

/-- IADDI, R116. -/
def execIaddi (d : Reg) (a : Reg) (i : BitVec 12) (s : State) : Out := vvi s aluAdd d a (sx12 i)

/-- IADDI_S, R116. -/
def execIaddiS (d : Reg) (a : Reg) (i : BitVec 12) (s : State) : Out := ssi s aluAdd d a (sx12 i)

/-- ANDI, R116. -/
def execAndi (d : Reg) (a : Reg) (i : BitVec 12) (s : State) : Out := vvi s aluAnd d a (sx12 i)

/-- ANDI_S, R116. -/
def execAndiS (d : Reg) (a : Reg) (i : BitVec 12) (s : State) : Out := ssi s aluAnd d a (sx12 i)

/-- ORI, R116. -/
def execOri (d : Reg) (a : Reg) (i : BitVec 12) (s : State) : Out := vvi s aluOr d a (sx12 i)

/-- ORI_S, R116. -/
def execOriS (d : Reg) (a : Reg) (i : BitVec 12) (s : State) : Out := ssi s aluOr d a (sx12 i)

/-- XORI, R116. -/
def execXori (d : Reg) (a : Reg) (i : BitVec 12) (s : State) : Out := vvi s aluXor d a (sx12 i)

/-- XORI_S, R116. -/
def execXoriS (d : Reg) (a : Reg) (i : BitVec 12) (s : State) : Out := ssi s aluXor d a (sx12 i)

/-- SHLI, R116. -/
def execShli (d : Reg) (a : Reg) (i : BitVec 5) (s : State) : Out := vvi s aluShl d a (i.setWidth 32)

/-- SHLI_S, R116. -/
def execShliS (d : Reg) (a : Reg) (i : BitVec 5) (s : State) : Out := ssi s aluShl d a (i.setWidth 32)

/-- SHRI, R116. -/
def execShri (d : Reg) (a : Reg) (i : BitVec 5) (s : State) : Out := vvi s aluShr d a (i.setWidth 32)

/-- SHRI_S, R116. -/
def execShriS (d : Reg) (a : Reg) (i : BitVec 5) (s : State) : Out := ssi s aluShr d a (i.setWidth 32)

/-- SARI, R116. -/
def execSari (d : Reg) (a : Reg) (i : BitVec 5) (s : State) : Out := vvi s aluSar d a (i.setWidth 32)

/-- SARI_S, R116. -/
def execSariS (d : Reg) (a : Reg) (i : BitVec 5) (s : State) : Out := ssi s aluSar d a (i.setWidth 32)

/-- MOVK, R117. -/
def execMovk (d : Reg) (k : BitVec 18) (s : State) : Out := lanewise s d (fun _ => sx18 k)

/-- MOVK_S, R117. -/
def execMovkS (d : Reg) (k : BitVec 18) (s : State) : Out := scalar s d (sx18 k)

/-- MOVKH, R117. -/
def execMovkh (d : Reg) (k : BitVec 18) (s : State) : Out := lanewise s d (fun L => movkh (s.vR d L) k)

/-- MOVKH_S, R117. -/
def execMovkhS (d : Reg) (k : BitVec 18) (s : State) : Out := scalar s d (movkh (s.sR d) k)

/-! ### Pairs (R118) -/

/-- IADD_D, R118. -/
def execIaddD (d : Reg) (a : Reg) (b : Reg) (s : State) : Out := ppp s pairAdd d a b

/-- IADD_D_S, R118. -/
def execIaddDS (d : Reg) (a : Reg) (b : Reg) (s : State) : Out := pppS s pairAdd d a b

/-- ISUB_D, R118. -/
def execIsubD (d : Reg) (a : Reg) (b : Reg) (s : State) : Out := ppp s pairSub d a b

/-- ISUB_D_S, R118. -/
def execIsubDS (d : Reg) (a : Reg) (b : Reg) (s : State) : Out := pppS s pairSub d a b

/-- SHL_D, R118. -/
def execShlD (d : Reg) (a : Reg) (b : Reg) (s : State) : Out := ppw s pairShl d a b

/-- SHL_D_S, R118. -/
def execShlDS (d : Reg) (a : Reg) (b : Reg) (s : State) : Out := ppwS s pairShl d a b

/-- SHR_D, R118. -/
def execShrD (d : Reg) (a : Reg) (b : Reg) (s : State) : Out := ppw s pairShr d a b

/-- SHR_D_S, R118. -/
def execShrDS (d : Reg) (a : Reg) (b : Reg) (s : State) : Out := ppwS s pairShr d a b

/-- SAR_D, R118. -/
def execSarD (d : Reg) (a : Reg) (b : Reg) (s : State) : Out := ppw s pairSar d a b

/-- SAR_D_S, R118. -/
def execSarDS (d : Reg) (a : Reg) (b : Reg) (s : State) : Out := ppwS s pairSar d a b

/-- IMULW, R118. -/
def execImulw (d : Reg) (a : Reg) (b : Reg) (s : State) : Out := pww s wideMul d a b

/-- IMULW_S, R118. -/
def execImulwS (d : Reg) (a : Reg) (b : Reg) (s : State) : Out := pwwS s wideMul d a b

/-- UMULW, R118. -/
def execUmulw (d : Reg) (a : Reg) (b : Reg) (s : State) : Out := pww s wideUMul d a b

/-- UMULW_S, R118. -/
def execUmulwS (d : Reg) (a : Reg) (b : Reg) (s : State) : Out := pwwS s wideUMul d a b

/-- IADDW, R118. -/
def execIaddw (d : Reg) (a : Reg) (b : Reg) (s : State) : Out := ppw s pairAddW d a b

/-- IADDW_S, R118. -/
def execIaddwS (d : Reg) (a : Reg) (b : Reg) (s : State) : Out := ppwS s pairAddW d a b

/-- UADDW, R118. -/
def execUaddw (d : Reg) (a : Reg) (b : Reg) (s : State) : Out := ppw s pairUAddW d a b

/-- UADDW_S, R118. -/
def execUaddwS (d : Reg) (a : Reg) (b : Reg) (s : State) : Out := ppwS s pairUAddW d a b

/-! ### Multiply-add, insert, select (R119–R121) -/

/-- IMAD, R119. -/
def execImad (d : Reg) (a : Reg) (b : Reg) (c : Reg) (s : State) : Out := vvvv s mulAdd d a b c

/-- IMAD_S, R119. -/
def execImadS (d : Reg) (a : Reg) (b : Reg) (c : Reg) (s : State) : Out := ssss s mulAdd d a b c

/-- BFI, R120. -/
def execBfi (d : Reg) (a : Reg) (b : Reg) (c : Reg) (s : State) : Out := vvvv s bitInsert d a b c

/-- SEL, R121. -/
def execSel (d : Reg) (a : Reg) (b : Reg) (p : BitVec 3) (g : Bool) (s : State) : Out := 
  lanewise s d (fun L => if s.test p g L then s.vR a L else s.vR b L)

/-- SSEL, R121. -/
def execSsel (d : Reg) (a : Reg) (b : Reg) (c : Reg) (s : State) : Out := scalar s d (if s.sR c ≠ 0 then s.sR a else s.sR b)

/-! ### The 16-bit form (R95) -/

/-- MOV_16, R95. -/
def execMov16 (d : Reg) (sp : BitVec 5) (s : State) : Out := short s aluMov d (reg5 sp)

/-- IADD_16, R95. -/
def execIadd16 (d : Reg) (sp : BitVec 5) (s : State) : Out := short s aluAdd d (reg5 sp)

/-- ISUB_16, R95. -/
def execIsub16 (d : Reg) (sp : BitVec 5) (s : State) : Out := short s aluSub d (reg5 sp)

/-- IMUL_16, R95. -/
def execImul16 (d : Reg) (sp : BitVec 5) (s : State) : Out := short s aluMul d (reg5 sp)

/-- AND_16, R95. -/
def execAnd16 (d : Reg) (sp : BitVec 5) (s : State) : Out := short s aluAnd d (reg5 sp)

/-- OR_16, R95. -/
def execOr16 (d : Reg) (sp : BitVec 5) (s : State) : Out := short s aluOr d (reg5 sp)

/-- XOR_16, R95. -/
def execXor16 (d : Reg) (sp : BitVec 5) (s : State) : Out := short s aluXor d (reg5 sp)

/-- SHL_16, R95. -/
def execShl16 (d : Reg) (sp : BitVec 5) (s : State) : Out := short s aluShl d (reg5 sp)

/-- SHR_16, R95. -/
def execShr16 (d : Reg) (sp : BitVec 5) (s : State) : Out := short s aluShr d (reg5 sp)

/-- SAR_16, R95. -/
def execSar16 (d : Reg) (sp : BitVec 5) (s : State) : Out := short s aluSar d (reg5 sp)

/-- NOP_16, R95. The word 0x0000: MOV v0, v0. -/
def execNop16 (s : State) : Out := short s aluMov 0 0

/-- IADD_I5, R95. -/
def execIaddI5 (d : Reg) (i : BitVec 5) (s : State) : Out := vvi s aluAdd d d (i.signExtend 32)

end Sys2Proof.Machine
end

