-- ==== Sys2Proof/Machine/Lane.lean ====
section
/-! DEFINITION. Lane operations: major 0x23 (R164, R165). -/

namespace Sys2Proof.Machine

/-- R164: SRC(t): the register of an existing lane, 0 for a lane that does not exist. -/
def State.src (s : State) (a : Reg) (t : Nat) : Word := if inMask s.cur.exist_ t then s.vR a t else 0
/-- The shift or lane number of a lane. -/
def State.laneArg (s : State) (b : Reg) (L : Nat) : Nat := (s.vR b L).toNat % 32
/-- v[a] over the lanes of the pass. -/
def State.passWords (s : State) (a : Reg) : List Word := (lanesOf s.focus.mask).map (fun L => s.vR a L)
/-- A reduction over the lanes of the pass, in ascending order, from the first. -/
def foldWords (f : Word → Word → Word) (ws : List Word) : Word :=
  match ws with | [] => 0 | w :: t => t.foldl f w

/-- SHFL_IDX, R164. -/
def execShflIdx (d : Reg) (a : Reg) (b : Reg) (s : State) : Out := lanewise s d (fun L => s.src a (s.laneArg b L))

/-- SHFL_UP, R164. -/
def execShflUp (d : Reg) (a : Reg) (b : Reg) (s : State) : Out := 
  lanewise s d (fun L => if s.laneArg b L ≤ L then s.src a (L - s.laneArg b L) else s.vR a L)

/-- SHFL_DN, R164. -/
def execShflDn (d : Reg) (a : Reg) (b : Reg) (s : State) : Out := 
  lanewise s d (fun L => if L + s.laneArg b L ≤ 31 then s.src a (L + s.laneArg b L) else s.vR a L)

/-- SHFL_XOR, R164. -/
def execShflXor (d : Reg) (a : Reg) (b : Reg) (s : State) : Out := lanewise s d (fun L => s.src a (L ^^^ s.laneArg b L))

/-- RDLANE, R164. -/
def execRdlane (d : Reg) (a : Reg) (b : Reg) (s : State) : Out := lanewise s d (fun _ => s.src a (s.laneArg b (lowLane s.focus.mask)))

/-- WRLANE, R164. -/
def execWrlane (d : Reg) (a : Reg) (b : Reg) (s : State) : Out := 
  let l0 := lowLane s.focus.mask
  .next (s.setV d (s.focus.mask &&& maskOf (fun t => t == s.laneArg b l0)) (fun _ => s.vR a l0))

/-- REDUX_ADD, R164. -/
def execReduxAdd (d : Reg) (a : Reg) (s : State) : Out := lanewise s d (fun _ => foldWords aluAdd (s.passWords a))

/-- REDUX_MIN, R164. -/
def execReduxMin (d : Reg) (a : Reg) (s : State) : Out := lanewise s d (fun _ => foldWords aluMin (s.passWords a))

/-- REDUX_MAX, R164. -/
def execReduxMax (d : Reg) (a : Reg) (s : State) : Out := lanewise s d (fun _ => foldWords aluMax (s.passWords a))

/-- REDUX_FADD, R164. -/
def execReduxFadd (d : Reg) (a : Reg) (s : State) : Out := lanewise s d (fun _ => reduxFadd (s.passWords a))

/-- SCANX_ADD, R164. -/
def execScanxAdd (d : Reg) (a : Reg) (s : State) : Out := 
  lanewise s d (fun L => ((lanesOf s.focus.mask).filter (fun M => decide (M < L))).foldl (fun w M => w + s.vR a M) 0)

end Sys2Proof.Machine
end

