-- ==== Sys2Proof/Machine/Predicate.lean ====
section
/-! DEFINITION. Compares and predicate operations: majors 0x18–0x1B (R122–R125). -/

namespace Sys2Proof.Machine

/-! ### Compares (R122, R123) -/

/-- CMP, R122. -/
def execCmp (p : BitVec 3) (a : Reg) (b : Reg) (r : BitVec 3) (t : BitVec 3) (s : State) : Out := 
  lanewisePred s p (fun L => cmpTruth t.toNat r.toNat
    (if t.toNat < 4 then (s.vR a L).setWidth 64 else s.vP a L) (if t.toNat < 4 then (s.vR b L).setWidth 64 else s.vP b L))

/-- CMP_VS, R122. -/
def execCmpVs (p : BitVec 3) (a : Reg) (b : Reg) (r : BitVec 3) (t : BitVec 3) (s : State) : Out := 
  lanewisePred s p (fun L => cmpTruth t.toNat r.toNat
    (if t.toNat < 4 then (s.vR a L).setWidth 64 else s.vP a L) (if t.toNat < 4 then (s.sR b).setWidth 64 else s.sP b))

/-- CMPI, R123. -/
def execCmpi (p : BitVec 3) (r : BitVec 3) (a : Reg) (i : BitVec 12) (s : State) : Out := lanewisePred s p (fun L => cmpiTruth r.toNat (s.vR a L) (sx12 i))

/-! ### PRED (R124, R125) -/

/-- PAND, R124. -/
def execPand (d : BitVec 3) (a : BitVec 3) (b : BitVec 3) (s : State) : Out := lanewisePred s d (fun L => s.pR a L && s.pR b L)

/-- POR, R124. -/
def execPor (d : BitVec 3) (a : BitVec 3) (b : BitVec 3) (s : State) : Out := lanewisePred s d (fun L => s.pR a L || s.pR b L)

/-- PXOR, R124. -/
def execPxor (d : BitVec 3) (a : BitVec 3) (b : BitVec 3) (s : State) : Out := lanewisePred s d (fun L => s.pR a L != s.pR b L)

/-- PANDN, R124. -/
def execPandn (d : BitVec 3) (a : BitVec 3) (b : BitVec 3) (s : State) : Out := lanewisePred s d (fun L => s.pR a L && !s.pR b L)

/-- PNOT, R124. -/
def execPnot (d : BitVec 3) (a : BitVec 3) (s : State) : Out := lanewisePred s d (fun L => !s.pR a L)

/-- PSET_PRED, R124. -/
def execPsetPred (d : BitVec 3) (s : State) : Out := lanewisePred s d (fun _ => true)

/-- PCLR, R124. -/
def execPclr (d : BitVec 3) (s : State) : Out := lanewisePred s d (fun _ => false)

/-- PFROM, R124. -/
def execPfrom (d : BitVec 3) (a : Reg) (s : State) : Out := lanewisePred s d (fun L => decide (s.vR a L ≠ 0))

/-- PLOAD, R124. -/
def execPload (d : BitVec 3) (a : Reg) (s : State) : Out := lanewisePred s d (fun L => (s.sR a).getLsbD L)

/-- PTOV, R124. -/
def execPtov (d : Reg) (a : BitVec 3) (s : State) : Out := lanewise s d (fun L => word01 (s.pR a L))

/-- BALLOT, R125. -/
def execBallot (d : Reg) (a : BitVec 3) (s : State) : Out := uniform s (fun m => s.setS d (s.ballot a m))

/-- VANY, R125. -/
def execVany (d : Reg) (a : BitVec 3) (s : State) : Out := uniform s (fun m => s.setS d (word01 (decide (s.ballot a m ≠ 0))))

/-- VALL, R125. -/
def execVall (d : Reg) (a : BitVec 3) (s : State) : Out := uniform s (fun m => s.setS d (word01 (decide (s.ballot a m = m))))

/-- MASK, R125. -/
def execMask (d : Reg) (s : State) : Out := uniform s (fun m => s.setS d m)

end Sys2Proof.Machine
end

