-- ==== Sys2Proof/Machine/System.lean ====
section
/-! DEFINITION. The SYSQ instructions that are not debug operations (R139–R143), and MBOXW (R148). -/

namespace Sys2Proof.Machine

/-- NOP, R139. -/
def execNop (s : State) : Out := .next s

/-- The resident splits of a quad, as group and split name. -/
def State.quadSplits (s : State) (q : Nat) : List (Nat × Nat) :=
  ((List.range 16).filter (fun i => (s.group (16 * q + i)).live)).flatMap (fun i =>
    (([0, 1, 2, 3].map (s.group (16 * q + i)).ent.get).filter (fun x => decide (x.mask ≠ 0))).map (fun x => (16 * q + i, x.uid)))

/-- YIELD, R140: the split waits for the others of its quad; those that are not ready leave the set at
the end of the step. -/
def execYield (s : State) : Out :=
  let me := (s.focus.grp, s.focus.uid)
  uniform s (fun _ => s.onQuad s.focus.quad (fun k => { k with
    yields := k.yields.filter (fun y => decide (y.split ≠ me)) ++
      [⟨me, (s.quadSplits s.focus.quad).filter (fun e => decide (e ≠ me)), s.now + s.cycles (dieOfGroup s.focus.grp) 64⟩] }))

/-- The 12-bit code in two register fields (R141). -/
def codeOf (a b : Reg) : Nat := 64 * a.toNat + b.toNat

/-- SREAD, R141. -/
def execSread (d a b : Reg) (s : State) : Out :=
  let c := codeOf a b
  if laneSpecial c then lanewise s d (fun L => s.laneSpecialAt s.focus.grp c L)
  else uniform s (fun _ => (s.captureCount c).setS d (s.groupSpecialAt s.focus.grp s.focus.entry s.focus.version c))

/-- R141: one half of the core's CCLK counter is set: the low half for CYCLELO, the high half for CYCLEHI. -/
def State.setCycles (s : State) (code : Nat) (w : Word) : State :=
  let n := s.cycleCount s.curCore
  let new : DWord := if code = 0x108 then pairOf w (hiWord n) else pairOf (loWord n) w
  s.onCore s.curCore (fun k => { k with cycleOffset := k.cycleOffset + (new - n) })

/-- SWRITE, R141; d is the source. -/
def execSwrite (d a b : Reg) (s : State) : Out := uniform s (fun _ => s.setCycles (codeOf a b) (s.sR d))

/-- R142: the split in focus stops after its offset. -/
def State.stopHere (s : State) (c : Cause) (detail : BitVec 16) : State :=
  s.onSplit s.focus.grp s.focus.uid (fun x => { x with
    stopAfter := x.stopAfter <|> some (c, detail)
    stopPlane := if x.stopAfter.isNone then s.focus.plane.toNat else x.stopPlane })

/-- TRAP, R142. -/
def execTrap (a b : Reg) (s : State) : Out := uniform s (fun _ => s.stopHere .trap (BitVec.ofNat 16 (codeOf a b)))
/-- BRKPT, R142. -/
def execBrkpt (s : State) : Out := uniform s (fun _ => s.stopHere .brkpt 0)

/-- DBLS, R45, R139: once per offset, whatever the number of passes that hold it. -/
def execDbls (s : State) : Out :=
  uniform s (fun _ =>
    if (s.splitOf s.focus.grp s.focus.uid).toggled then s
    else (s.onCur (fun g => { g with dstroke := !g.dstroke })).onSplit s.focus.grp s.focus.uid (fun x => { x with toggled := true }))

/-- R143: an open stamp record goes to the trace ring with its close fields zero. -/
def State.dropStamp (s : State) (g : Nat) : State :=
  match (s.group g).stamp with
  | some p => s.traceWrite (s.ctxOf g) (stampBytes p false 0 0)
  | none => s

/-- The record that STAMP.OPEN opens (R376). -/
def State.freshStamp (s : State) (tag : Word) : Stamp :=
  let g := s.focus.grp
  { tag := tag, core := coreOfGroup g % 32, die := dieOfGroup g, ctx := s.ctxOf g, launch := (s.launchOf g).id
    version := s.focus.version, entry := s.focus.entry, group := s.cur.index
    openTime := s.claveOf (dieOfGroup g), retired := s.cur.retired }

/-- STAMP.OPEN, R143. -/
def execStampOpen (a : Reg) (s : State) : Out :=
  uniform s (fun _ =>
    let p := s.freshStamp (s.sR a)
    (s.dropStamp s.focus.grp).onCur (fun g => { g with stamp := some p }))

/-- STAMP.CLOSE, R143, R376. -/
def execStampClose (s : State) : Out :=
  uniform s (fun _ =>
    match s.cur.stamp with
    | none => s
    | some p =>
      (s.traceWrite (s.ctxOf s.focus.grp) (stampBytes p true (s.claveOf (dieOfGroup s.focus.grp)) s.cur.retired)).onCur
        (fun g => { g with stamp := none }))

/-- MBOXW, R148. -/
def execMboxw (a b : Reg) (s : State) : Out :=
  uniform s (fun _ =>
    if 15 < (s.sR a).toNat then s
    else s.onFw (fun f => { f with debugBox := f.debugBox.put (s.sR a).toNat (s.sR b) }))

end Sys2Proof.Machine
end

