-- ==== Sys2Proof/Machine/Transfer.lean ====
section
/-! DEFINITION. SAFE and the transfer between versions (R136, R298–R306), and the VER instructions (R138). -/

namespace Sys2Proof.Machine

/-! ### Recipes (R300, R301) -/

/-- One step of a recipe: kind, index, value. -/
structure RecipeStep where
  kind : Nat
  index : Nat
  value : Nat
  deriving DecidableEq, Repr

/-- A recipe: target class and index, and its steps. -/
structure Recipe where
  cls : Nat
  index : Nat
  steps : List RecipeStep
  deriving DecidableEq, Repr

/-- A body of a map. -/
structure MapBody where
  laneExports : Nat
  groupExports : Nat
  imports : Nat
  planes : Nat
  exportPlanes : Nat
  importPlanes : Nat
  recipes : List Recipe
  deriving DecidableEq, Repr

/-- R298: a schema entry: abstract planes, group slots, lane slots. -/
structure Schema where
  planes : Nat
  groupSlots : Nat
  laneSlots : Nat
  deriving DecidableEq, Repr

/-- What the operand steps of a recipe read. -/
structure RecipeEnv where
  vreg : Nat → Word
  sreg : Nat → Word
  special : Nat → Word
  frame : Nat → Word
  lslot : Nat → Word
  gslot : Nat → Word

/-- An operand step's value. -/
def RecipeStep.operand (st : RecipeStep) (e : RecipeEnv) : Option Word :=
  match st.kind with
  | 1 => some (e.vreg st.index) | 2 => some (e.sreg st.index) | 3 => some (BitVec.ofNat 32 st.value)
  | 4 => some (e.special (st.value % 4096)) | 5 => some (e.frame st.value)
  | 6 => some (e.lslot st.index) | 7 => some (e.gslot st.index)
  | _ => none

/-- An operator step on x and y. -/
def recipeOp (kind : Nat) (x y : Word) : Word :=
  match kind with
  | 0x10 => aluAdd x y | 0x11 => aluSub x y | 0x12 => aluMul x y | 0x13 => aluShl x y | _ => aluShr x y

/-- R301: the postfix evaluation; the result is the one value left. -/
def evalRecipe (e : RecipeEnv) (steps : List RecipeStep) (stack : List Word) : Option Word :=
  match steps with
  | [] => match stack with | [w] => some w | _ => none
  | st :: rest =>
    match st.operand e with
    | some w => evalRecipe e rest (w :: stack)
    | none =>
      match stack with
      | y :: x :: t => evalRecipe e rest (recipeOp st.kind x y :: t)
      | _ => none

/-- Values of no interest: used to see that a recipe leaves exactly one value. -/
def blankEnv : RecipeEnv := ⟨fun _ => 0, fun _ => 0, fun _ => 0, fun _ => 0, fun _ => 0, fun _ => 0⟩

def listedSpecial (code : Nat) : Bool := laneSpecial code || groupSpecial code

/-- R301, R302: a step is allowed in a recipe of a class, and what it names exists. -/
def stepOk (cls regs : Nat) (sc : Schema) (st : RecipeStep) : Bool :=
  let lane := cls == 0 || cls == 2 || cls == 4
  match st.kind with
  | 1 => cls == 0 && decide (st.index < regs)
  | 2 => decide (cls < 2 ∧ st.index < 64)
  | 3 => true
  | 4 => listedSpecial (st.value % 4096) && (lane || !laneSpecial (st.value % 4096))
  | 5 => decide (st.value % 4 = 0 ∧ st.value ≤ 4092)
  | 6 => (cls == 2 || cls == 4) && decide (st.index < sc.laneSlots)
  | 7 => decide (2 ≤ cls ∧ st.index < sc.groupSlots)
  | k => decide (0x10 ≤ k ∧ k ≤ 0x14)

def recipeOk (regs : Nat) (sc : Schema) (r : Recipe) : Bool :=
  r.steps.all (stepOk r.cls regs sc) && (evalRecipe blankEnv r.steps []).isSome

/-- Read the 72 bytes of a recipe; none when a zero field is not zero or a count is out of range. -/
def parseRecipe (bs : List Byte) : Option Recipe :=
  let n := fieldAt bs 2 1
  let st (j : Nat) : RecipeStep := ⟨fieldAt bs (8 + 8 * j) 1, fieldAt bs (9 + 8 * j) 1, fieldAt bs (12 + 8 * j) 4⟩
  if n = 0 ∨ 8 < n ∨ zeroAt bs 3 5 = false ∨ zeroAt bs (8 + 8 * n) (64 - 8 * n) = false
      ∨ (List.range n).any (fun j => !zeroAt bs (10 + 8 * j) 2) then none
  else some ⟨fieldAt bs 0 1, fieldAt bs 1 1, (List.range n).map st⟩

/-- R300, R302: a body, checked against its version's entry and the schema. -/
def parseBody (bs : List Byte) (e : VersionEntry) (sc : Schema) : Option MapBody :=
  let el := fieldAt bs 0 1
  let eg := fieldAt bs 1 1
  let im := fieldAt bs 2 1
  let k := el + eg + im
  let rs := (List.range k).map (fun j => parseRecipe ((bs.drop (8 + 72 * j)).take 72))
  let recipes := rs.filterMap id
  let b : MapBody := ⟨el, eg, im, fieldAt bs 3 1, fieldAt bs 4 1, fieldAt bs 5 1, recipes⟩
  let planeOk (t n m : Nat) : Bool := (List.range n).all (fun i => decide (t / 4 ^ i % 4 < m))
  let order := (recipes.take el).zipIdx.all (fun x => x.1.cls == 0 && x.1.index == x.2)
    && ((recipes.drop el).take eg).zipIdx.all (fun x => x.1.cls == 1 && x.1.index == x.2)
  let imports := recipes.drop (el + eg)
  let targets : List (Nat × Nat) := imports.map (fun r => (r.cls, r.index))
  let targetOk (r : Recipe) : Bool :=
    (r.cls == 2 && decide (r.index < e.regs)) || (r.cls == 3 && decide (r.index < 64)) || (r.cls == 4 && decide (r.index < 8))
  if bs.length < 8 + 72 * k ∨ zeroAt bs 6 2 = false ∨ recipes.length ≠ k ∨ el ≠ sc.laneSlots ∨ eg ≠ sc.groupSlots
      ∨ b.planes ≠ e.planes then none
  else if order && imports.all targetOk && decide targets.Nodup && recipes.all (recipeOk e.regs sc)
      && planeOk b.exportPlanes e.planes sc.planes && planeOk b.importPlanes sc.planes e.planes then some b
  else none

/-! ### Reading the descriptor and the maps -/

/-- Why a SAFE does not transfer, or cannot yet. -/
inductive SafeStop where
  /-- goes on in its own version, nothing changed -/
  | stay
  /-- R306: the arm goes and error 0x08 is posted -/
  | abandon
  /-- a translation fault to be served (R304) -/
  | serve (detail : Nat) (a : DWord)
  /-- a wait for a free walker (R327) -/
  | later
  /-- an uncorrectable error (R304) -/
  | ecc (source : Nat) (a : DWord)
  deriving DecidableEq, Repr

/-- Read bytes, as the transfer does. -/
def State.safeRead (s : State) (ctx : Nat) (a : DWord) (n : Nat) : Except SafeStop (List Byte) :=
  match (List.range n).findSome? (fun i =>
      let x := a + BitVec.ofNat 64 i
      if i ≠ 0 ∧ x.toNat % 64 ≠ 0 then none else
      match s.agentPa ctx x .read [1, 2] with
      | .error (.faultT, d) => some (SafeStop.serve d x)
      | .error _ => some .abandon
      | .ok (pa, _) => (s.lineError (lineOf pa)).map (fun k => .ecc k x)) with
  | some e => .error e
  | none => match s.agentRead ctx a n [1, 2] with
    | .ok bs => .ok bs
    | .error _ => .error .abandon

/-- R292: the header of a descriptor of a kind whose size the reader knows. -/
def State.safeHead (s : State) (ctx : Nat) (a : DWord) (kind size : Nat) : Except SafeStop Bool := do
  let h ← s.safeRead ctx a 8
  let n := fieldAt h 2 1
  if !headerOk (fieldAt h 0 8) kind size then return false
  if n = size then return true
  let rest ← s.safeRead ctx (a + BitVec.ofNat 64 (8 * size)) (8 * (n - size))
  return rest.all (fun b => b == 0)

/-- R299: a map's directory entry: offset of the SAFE, whether batches may be outstanding, body. -/
structure MapEntry where
  async : Bool
  offset : Nat
  body : Nat
  length : Nat
  deriving DecidableEq, Repr

/-- The directory entry of a safe point in a version's map, and whether the head and the directory are well formed: a
body of any entry beyond the map length makes the map malformed (DEDUCED, log entry 83). -/
def State.mapEntry (s : State) (ctx : Nat) (e : VersionEntry) (n : Nat) : Except SafeStop (Option MapEntry × Bool) := do
  if e.points = 0 then return (none, true)
  let head ← s.safeHead ctx e.map 5 2
  let bs ← s.safeRead ctx e.map (16 + 16 * e.points)
  let w (i : Nat) : Nat := fieldAt bs (16 + 16 * i) 4
  let at_ (i : Nat) : MapEntry := ⟨(w i).testBit 16, fieldAt bs (20 + 16 * i) 4, fieldAt bs (24 + 16 * i) 4, fieldAt bs (28 + 16 * i) 4⟩
  let idx := (List.range e.points).find? (fun i => w i % 4096 == n)
  let ok := head && fieldAt bs 8 4 == e.points && zeroAt bs 12 4
    && (List.range e.points).all (fun i => decide (w i / 2 ^ 17 = 0 ∧ w i / 4096 % 16 = 0)
      && (i == 0 || decide (w (i - 1) % 4096 < w i % 4096))
      && decide ((at_ i).offset % 2 = 0 ∧ (at_ i).offset < e.length.toNat ∧ (at_ i).body % 8 = 0
        ∧ (at_ i).body + (at_ i).length ≤ e.mapLength))
  return (idx.map at_, ok)

/-- An entry of a schema table, and whether its zero bits and ranges are right (R298). -/
def parseSchema (v : Nat) : Schema × Bool :=
  let sc : Schema := ⟨v / 2 ^ 32 % 256, v / 2 ^ 24 % 256, v / 2 ^ 16 % 256⟩
  (sc, decide (v / 2 ^ 40 = 0 ∧ v / 4096 % 16 = 0 ∧ 1 ≤ sc.planes ∧ sc.planes ≤ 4 ∧ sc.groupSlots ≤ 16 ∧ sc.laneSlots ≤ 32))

/-- The schema entry of a safe point (R298); none when the table is malformed or lacks it: R302, R306 and R316 do not name
that case, and it counts as a malformed map, so that the arm goes and error 0x08 is posted (DESIGN CHOICE, log entry 96). -/
def State.schemaEntry (s : State) (ctx : Nat) (kernel : DWord) (n : Nat) : Except SafeStop (Option Schema) := do
  let p ← s.safeRead ctx (kernel + 0x10) 8
  let a : DWord := BitVec.ofNat 64 (fieldAt p 0 8)
  let head ← s.safeHead ctx a 4 2
  let h ← s.safeRead ctx a 16
  let cnt := fieldAt h 8 4
  if !head || !zeroAt h 12 4 || decide (4096 < cnt) then return none
  let bs ← s.safeRead ctx (a + 16) (8 * cnt)
  let v (i : Nat) : Nat := fieldAt bs (8 * i) 8
  let ok := (List.range cnt).all (fun i => (parseSchema (v i)).2 && (i == 0 || decide (v (i - 1) % 4096 < v i % 4096)))
  if !ok then return none
  return ((List.range cnt).find? (fun i => v i % 4096 == n)).map (fun i => (parseSchema (v i)).1)

/-- A halfword of code, read as a fetch (R302, R304). -/
def State.safeUnit (s : State) (core ctx : Nat) (a : DWord) : Except SafeStop (State × Nat) :=
  let r := s.fetchUnit core ctx a
  match r.2 with
  | .ok w => .ok (r.1, w)
  | .error none => .error .later
  | .error (some (.faultT, t)) => .error (.serve t a)
  | .error (some (.ecc, k)) => .error (.ecc k a)
  | .error _ => .error .abandon

/-- R303: everything a transfer has read before it writes. -/
structure TransferPlan where
  entry : VersionEntry
  offset : Nat
  source : MapBody
  dest : MapBody
  /-- the words of the group frame that its recipes name -/
  frame : Store Word

/-- The FRAME words of a list of recipes (R301, R303): each is read from the group's frame. -/
def State.readFrame (s : State) (ctx : Nat) (k : Group) (rs : List Recipe) : Except SafeStop (Store Word) :=
  ((rs.flatMap (fun r => r.steps.filterMap (fun x => if x.kind = 5 then some x.value else none))).dedup).foldlM
    (fun (m : Store Word) o => do
      let bs ← s.safeRead ctx (s.frameAddr ctx k + BitVec.ofNat 64 o) 4
      return m.put (o / 4) (BitVec.ofNat 32 (joinBytes bs))) []

/-- A value that must be there, or the transfer is abandoned. -/
def orAbandon {α : Type} (o : Option α) : Except SafeStop α := match o with | some x => .ok x | none => .error .abandon

/-- R136, R302, R303: the tests of SAFE n in their order, and the reads of the transfer. -/
def State.planTransfer (s : State) (n : Nat) : Except SafeStop (State × TransferPlan) := do
  let f := s.focus
  let k := s.cur
  let x := s.launchOf f.grp
  let ctx := s.ctxOf f.grp
  match k.armed with
  | none => .error .stay
  | some a =>
    if a = f.version then .error .stay else
    let c ← s.safeRead ctx (x.rec_.kernel + 8) 4
    let count := fieldAt c 0 4
    if count = 0 ∨ 16 < count then .error .abandon
    else if count ≤ a then .error .stay
    else
      let _ ← s.safeRead ctx (x.rec_.kernel + BitVec.ofNat 64 (0x40 + 64 * a)) 64
      let _ ← s.safeHead ctx (x.rec_.kernel + BitVec.ofNat 64 (0x40 + 64 * a)) 3 8
      let e ← orAbandon (s.readEntry ctx x.rec_.kernel a x.rec_.regs).toOption
      let d ← s.mapEntry ctx e n
      match d.1 with
      | none => .error .stay
      | some de =>
        if s.splitLanes &&& k.txOpen ≠ 0 then .error .stay
        else if !de.async && (k.copies != [] || k.batchTimes.any (fun t => decide (s.now < t.2))) then
          .error .stay
        else
          let v := x.entries.get f.version
          let se ← s.mapEntry ctx v n
          let sd ← orAbandon se.1
          if !d.2 || !se.2 || decide (sd.offset ≠ f.offset.toNat) then .error .abandon else
          let sc ← orAbandon (← s.schemaEntry ctx x.rec_.kernel n)
          let sb ← s.safeRead ctx (v.map + BitVec.ofNat 64 sd.body) sd.length
          let db ← s.safeRead ctx (e.map + BitVec.ofNat 64 de.body) de.length
          let src ← orAbandon (parseBody sb v sc)
          let dst ← orAbandon (parseBody db e sc)
          let frame ← s.readFrame ctx k (src.recipes ++ dst.recipes)
          if e.length.toNat ≤ de.offset + 2 then .error .abandon else
          let code := e.codeBase + BitVec.ofNat 64 de.offset
          let lo ← s.safeUnit (coreOfGroup f.grp) ctx code
          let hi ← lo.1.safeUnit (coreOfGroup f.grp) ctx (code + 2)
          if lo.2 + 65536 * hi.2 ≠ 0x9F + 4096 * n then .error .abandon
          else .ok (hi.1, ⟨e, de.offset, src, dst, frame⟩)

/-- What the SAFE has read as LDA at device scope does (R136, R297, R303): the count; the armed version's entry,
when the count allows it; and the two bodies. -/
def State.safeRegions (s : State) (n : Nat) : List (DWord × Nat) :=
  let f := s.focus
  let x := s.launchOf f.grp
  let ctx := s.ctxOf f.grp
  match s.cur.armed with
  | none => []
  | some a =>
    if a = f.version then [] else
    let count := match s.safeRead ctx (x.rec_.kernel + 8) 4 with | .ok c => fieldAt c 0 4 | .error _ => 0
    let body (e : VersionEntry) : List (DWord × Nat) := match s.mapEntry ctx e n with
      | .ok (some d, _) => [(e.map + BitVec.ofNat 64 d.body, d.length)]
      | _ => []
    (x.rec_.kernel + 8, 4) :: (if 16 < count ∨ count ≤ a then [] else
      (x.rec_.kernel + BitVec.ofNat 64 (0x40 + 64 * a), 64) ::
        ((match s.readEntry ctx x.rec_.kernel a x.rec_.regs with | .ok e => body e | .error _ => []) ++ body (x.entries.get f.version)))

/-- The rest of what it reads: the directories of both maps, the schema table, the words of the frame. -/
def State.safeOthers (s : State) (n : Nat) : List (DWord × Nat) :=
  let f := s.focus
  let x := s.launchOf f.grp
  let ctx := s.ctxOf f.grp
  match s.cur.armed with
  | none => []
  | some a =>
    if a = f.version then [] else
    let dir (e : VersionEntry) : List (DWord × Nat) := [(e.map, 16 + 16 * e.points)]
    let table : List (DWord × Nat) := match s.safeRead ctx (x.rec_.kernel + 0x10) 8 with
      | .ok p =>
        let t : DWord := BitVec.ofNat 64 (fieldAt p 0 8)
        (t, 16) :: (match s.safeRead ctx (t + 8) 4 with | .ok c => [(t + 16, 8 * min 4096 (fieldAt c 0 4))] | .error _ => [])
      | .error _ => []
    let frame : List (DWord × Nat) := match s.planTransfer n with
      | .ok (t, p) => p.frame.map (fun e => (t.frameAddr ctx t.cur + BitVec.ofNat 64 (4 * e.1), 4))
      | .error _ => []
    (match s.readEntry ctx x.rec_.kernel a x.rec_.regs with | .ok e => dir e | .error _ => []) ++ dir (x.entries.get f.version)
      ++ (x.rec_.kernel + 0x10, 8) :: table ++ frame

/-- What happens to the physical lines of some regions, line by line. -/
def State.overLines (s : State) (ctx : Nat) (rs : List (DWord × Nat)) (f : State → Nat → State) : State :=
  rs.foldl (fun (st : State) r =>
    (List.range (r.2 / 64 + 2)).foldl (fun (st : State) i =>
      let a := BitVec.ofNat 64 (r.1.toNat / 64 * 64 + 64 * i)
      if r.1.toNat + r.2 ≤ a.toNat then st else
      match st.agentPa ctx a .read [1, 2] with
      | .ok (pa, _) => f st (lineOf pa)
      | .error _ => st) st) s

/-- R239, R297: the split keeps the settle times of the lines that a SAFE has read as LDA does, and each of those
reads is an acquire at device scope. -/
def State.noteSafe (s : State) (n : Nat) : State :=
  let g := s.focus.grp
  let rs := s.safeRegions n
  if rs = [] then s else
  (s.overLines (s.ctxOf g) rs (fun st l => noteSettle st g s.focus.uid (st.homeLine l).settle)).acquireAt g s.focus.uid 2

/-- R241, R246, R279, R297: the reads of a SAFE are accesses of its core, as LDA's at device scope are: the buffer that
holds one of their lines is flushed first, the core's accepted stores reach it, no older copy of it stays in the core,
and they collect the update-only copies. What is read says what is read next. -/
def State.prepareSafe (s : State) (n fuel : Nat) : State :=
  let core := coreOfGroup s.focus.grp
  match fuel with
  | 0 => s
  | k + 1 =>
    (s.overLines (s.ctxOf s.focus.grp) (s.safeRegions n ++ s.safeOthers n)
      (fun st l => (((st.flushWcFor core l).landStores core l).dropLeased core l).collect l)).prepareSafe n k

/-! ### The transfer (R303) -/

/-- R303: the transfer waits until every instruction that the group has sent to the engine is complete, one that a
pre-emption saved too. -/
def State.engineBusy (s : State) (g : Nat) : Bool :=
  decide (s.pendingProducts g ≠ 0) || (s.cores.get (coreOfGroup g)).engine.restoring.any (fun x => x.1 == g && x.2.2 != [])

/-- What the recipes of a lane read. -/
def State.recipeEnv (s : State) (version : Nat) (frame : Store Word) (lslot : Nat → Word) (gslot : Nat → Word) (L : Nat) : RecipeEnv :=
  let f := s.focus
  { vreg := fun k => s.cur.vAt k L, sreg := fun k => s.cur.sAt k
    special := fun c => if laneSpecial c then s.laneSpecialAt f.grp c L else s.groupSpecialAt f.grp f.entry version c
    frame := fun o => frame.get (o / 4), lslot := lslot, gslot := gslot }

def runRecipe (e : RecipeEnv) (r : Recipe) : Word := (evalRecipe e r.steps []).getD 0

/-- R106: the captures that a recipe makes by reading CLAVELO or CYCLELO. -/
def State.captureRecipe (s : State) (r : Recipe) : State :=
  r.steps.foldl (fun (st : State) x => if x.kind = 4 then st.captureCount (x.value % 4096) else st) s

/-- The split moves to version `a`: exports, imports, planes; it resumes at the SAFE there. The recipes are
evaluated in order, so that a high half reads what an earlier low half captured (R106). -/
def State.transfer (s : State) (a : Nat) (p : TransferPlan) : State :=
  let f := s.focus
  let lanes := lanesOf s.splitLanes
  let none_ : Nat → Word := fun _ => 0
  let exports := p.source.recipes.take (p.source.laneExports + p.source.groupExports)
  let at_ (rs : List Recipe) : State := rs.foldl State.captureRecipe s
  let export_ (e L : Nat) : Word := ((exports[e]?).map
    (runRecipe ((at_ (exports.take (e + 1))).recipeEnv f.version p.frame none_ none_ L))).getD 0
  let lslot (L e : Nat) : Word := export_ e L
  let gslot (e : Nat) : Word := export_ (p.source.laneExports + e) 0
  let imports := p.dest.recipes.drop (p.dest.laneExports + p.dest.groupExports)
  let env (i L : Nat) : RecipeEnv := (at_ (exports ++ imports.take (i + 1))).recipeEnv a p.frame (lslot L) gslot L
  let done := at_ (exports ++ imports)
  let g1 := imports.zipIdx.foldl (fun (g : Group) r =>
    match r.1.cls with
    | 2 => g.setV r.1.index s.splitLanes (fun L => runRecipe (env r.2 L) r.1)
    | 3 => g.setS r.1.index (runRecipe (env r.2 0) r.1)
    | _ => g.setP r.1.index s.splitLanes (fun L => (runRecipe (env r.2 L) r.1).getLsbD 0)) done.cur
  let move (q : BitVec 2) : BitVec 2 :=
    let abs := p.source.exportPlanes / 4 ^ q.toNat % 4
    BitVec.ofNat 2 (p.dest.importPlanes / 4 ^ abs)
  let g2 : Group := { g1 with plane := lanes.foldl (fun m L => m.put L (move (m.get L))) g1.plane }
  (((done.onCur (fun _ => g2)).onLaunch (s.blockOf f.grp).launch (fun x => { x with entries := x.entries.put a p.entry })).onSplit
    f.grp f.uid (fun x => { x with version := a })).sendTo (BitVec.allOnes 32) (BitVec.ofNat 32 p.offset)

/-- SAFE, R136, R306. A fault of its reads is served, and the SAFE issues again (R304); it issues again too while
the engine has instructions of its group (R303). -/
def execSafe (n : BitVec 12) (s0 : State) : Out :=
  let s := s0.prepareSafe n.toNat 5
  let f := s.focus
  let l := (s.blockOf f.grp).launch
  let a := s.cur.armed.getD 0
  match s.planTransfer n.toNat with
  | .ok (t, p) => if s.engineBusy f.grp then .next s.stall else .next ((t.noteSafe n.toNat).transfer a p)
  | .error .stay => .next (s.noteSafe n.toNat)
  | .error .abandon =>
    .next (((s.noteSafe n.toNat).onCur (fun k => { k with armed := none })).postError (s.ctxOf f.grp) (s.errorFor l
      { code := 8, address := (s.launches.get l).rec_.kernel + BitVec.ofNat 64 (0x40 + 64 * a), detail := n.toNat + 4096 * a }))
  | .error (.serve d x) =>
    let r := s.record f.grp f.uid .faultT d 0 x f.offset f.lanes f.plane.toNat
    .next (((s.block (.fetch s.nextFault)).sendFault
      { op := none, copy := none, fetch := some (f.grp, f.uid), rec_ := r, vpage := x.toNat % 2 ^ 57 / 4096, sent := false }).stall)
  | .error .later => .next s.stall
  | .error (.ecc k x) => .next (s.takeTrap .ecc k 0 x)

/-! ### VER (R138) -/

/-- XFER, R138. -/
def execXfer (a : Reg) (s : State) : Out :=
  uniform s (fun _ => s.onCur (fun k => { k with armed := if (s.sR a).toNat ≤ 15 then some (s.sR a).toNat else none }))

/-- XQRY, R138. -/
def execXqry (d : Reg) (s : State) : Out :=
  scalar s d (match s.cur.armed with | some n => BitVec.ofNat 32 n | none => 0xFFFFFFFF)

/-- XCLR, R138. -/
def execXclr (s : State) : Out := uniform s (fun _ => s.onCur (fun k => { k with armed := none }))

/-- VERSION, R138. -/
def execVersion (d : Reg) (s : State) : Out := scalar s d (BitVec.ofNat 32 s.focus.version)

end Sys2Proof.Machine
end

