-- ==== Sys2Proof/Machine/Tx.lean ====
section
/-! DEFINITION. Transactions as instructions (R193–R197) and the event that commits one lane (R269, R272). -/

namespace Sys2Proof.Machine

/-- TXBEGIN, R194. -/
def execTxbegin (s : State) : Out :=
  once170 s (fun m =>
    let g := s.focus.grp
    if s.token.holder = some g then .next (s.illop 0x0B 0x7B)
    else if s.cur.txSlot = false ∧ 8 ≤ s.txHolders s.curCore then
      .next ((s.block (.txSlot m s.focus.plane.toNat s.focus.offset)).onCore s.curCore (fun k => { k with txQueue := k.txQueue ++ [(g, s.focus.uid)] }))
    else .next (s.openTx g m s.focus.offset s.focus.version s.focus.plane.toNat))

/-- TXEND, R196, R269: the split waits while its lanes commit one at a time. -/
def execTxend (d : Reg) (a : BitVec 3) (s : State) : Out :=
  once170 s (fun m => .next ((s.block (.commit d a m)).post (.txLaneCommit s.focus.grp)))

/-- TXIRR, R197. -/
def execTxirr (s : State) : Out :=
  once170 s (fun m =>
    let t := s.doom m 5
    let g := s.focus.grp
    if t.token.holder = some g then .next t
    else
      let t1 := t.block .token
      .next ({ t1 with token := { t1.token with queue := t1.token.queue ++ [(g, s.focus.uid)] } } : State).grantToken)

/-- TXIRE, R197. -/
def execTxire (s : State) : Out := once170 s (fun _ => .next (s.releaseToken s.focus.grp))

/-- TXABORT, R196. -/
def execTxabort (b : Reg) (s : State) : Out :=
  once170 s (fun m => .next (s.doom m (BitVec.ofNat 32 (9 + b.toNat * 65536))))

/-- What TXQRY reports of a lane. -/
def TxLane.query (t : TxLane) : Word :=
  BitVec.ofNat 32 ((if t.isOpen then 1 else 0) + 256 * t.reads.length + 65536 * t.writes.length)

/-- TXQRY, R196. -/
def execTxqry (d : Reg) (s : State) : Out :=
  once170 s (fun m => .next (s.setV d m (fun L => (s.cur.tx.get L).query)))

/-- R272: the first line of a lane's logs that an error table holds, in the order of the logs, the read log first: of
several lines the rule does not say which one the record names (DEDUCED, log entry 82). -/
def State.commitError (s : State) (g L : Nat) : Option (Nat × Nat) :=
  let t := (s.group g).tx.get L
  if t.isOpen = false ∨ t.doom.isSome then none
  else t.lines.findSome? (fun l => (s.lineError l).map (fun k => (l, k)))

/-- R272: an error under a lock stops the context with ECC at the TXEND. On resume the TXEND issues again,
for the lanes that have not committed. -/
def State.commitEcc (s : State) (g uid : Nat) (d : Reg) (p : BitVec 3) (left : Mask) (line source : Nat) : State :=
  let L := lowLane left
  let plane := (s.group g).plane.get L
  let mid := (s.quads.get (quadOfGroup g)).cur.any (fun c => c.grp == g && c.uid == uid)
  let o := (s.splitOf g uid).offset
  let s1 := (s.onSplit g uid (fun x => x.endWait (.commit d p left))).goBack g uid (if mid then o else o - 4) plane left (.txend d p)
  let r := s1.record g uid .ecc source (maskOf (fun K => K == L)) (BitVec.ofNat 64 (64 * line)) (s1.splitOf g uid).offset
    (s1.activeLanes g uid) plane.toNat
  (s1.postTrap (s.ctxOf g) r).stopContext (s.ctxOf g) .stopped

/-- The wait of the oldest TXEND of a split that still commits. -/
def Split.commitWait (x : Split) : Option (Reg × BitVec 3 × Mask) :=
  x.waits.reverse.findSome? (fun w => match w with | .commit d p left => some (d, p, left) | _ => none)

/-- R269: the next lane of a TXEND of the group commits. -/
def execTxLaneCommit (grp : Nat) (s : State) : Out :=
  match (s.group grp).splits.findSome? (fun x => x.commitWait.map (fun w => (x.uid, w))) with
  | none => .next s
  | some (uid, d, p, left) =>
    match s.commitError grp (lowLane left) with
    | some (line, k) => .next (s.commitEcc grp uid d p left line k)
    | none => .next (s.commitNext grp uid d p left)

end Sys2Proof.Machine
end

