-- ==== Sys2Proof/Machine/Dispatch.lean ====
section
/-! DEFINITION. The one match from instructions to their meanings. -/

namespace Sys2Proof.Machine

/-- What the machine does on each instruction, and on each step of the part. -/
def exec (i : Instr) (s : State) : Host.Outcome State Fault Refusal :=
  match i with
  | .spillRotation grp => Sys2Proof.Machine.execSpillRotation grp s
  | .yieldExpiry quad => Sys2Proof.Machine.execYieldExpiry quad s
  | .mmaComplete core => Sys2Proof.Machine.execMmaComplete core s
  | .gongEntryExecute die => Sys2Proof.Machine.execGongEntryExecute die s
  | .loadDataReturn op => Sys2Proof.Machine.execLoadDataReturn op s
  | .storeAcceptReply op => Sys2Proof.Machine.execStoreAcceptReply op s
  | .storeApply op => Sys2Proof.Machine.execStoreApply op s
  | .fillGrant core line => Sys2Proof.Machine.execFillGrant core line s
  | .atomAtHome op => Sys2Proof.Machine.execAtomAtHome op s
  | .stashOwnershipFill block line => Sys2Proof.Machine.execStashOwnershipFill block line s
  | .completionTimePassed time => Sys2Proof.Machine.execCompletionTimePassed time s
  | .wcFlushTimeout core => Sys2Proof.Machine.execWcFlushTimeout core s
  | .batchComplete grp => Sys2Proof.Machine.execBatchComplete grp s
  | .txLaneCommit grp => Sys2Proof.Machine.execTxLaneCommit grp s
  | .wlappAccept op => Sys2Proof.Machine.execWlappAccept op s
  | .knellQuiescence launch => Sys2Proof.Machine.execKnellQuiescence launch s
  | .knellDisagreement launch => Sys2Proof.Machine.execKnellDisagreement launch s
  | .knellRecountTimeout launch => Sys2Proof.Machine.execKnellRecountTimeout launch s
  | .pageWalkComplete core ctx vpage => Sys2Proof.Machine.execPageWalkComplete core ctx vpage s
  | .carillonFaultService fault => Sys2Proof.Machine.execCarillonFaultService fault s
  | .uncorrectableError line => Sys2Proof.Machine.execUncorrectableError line s
  | .breakpointStop grp uid => Sys2Proof.Machine.execBreakpointStop grp uid s
  | .queueTailWrite queue => Sys2Proof.Machine.execQueueTailWrite queue s
  | .graph queue => Sys2Proof.Machine.execGraph queue s
  | .xferPacket queue => Sys2Proof.Machine.execXferPacket queue s
  | .checkpoint queue => Sys2Proof.Machine.execCheckpoint queue s
  | .signal queue => Sys2Proof.Machine.execSignal queue s
  | .waitsig queue => Sys2Proof.Machine.execWaitsig queue s
  | .waitsigSatisfied run node => Sys2Proof.Machine.execWaitsigSatisfied run node s
  | .packetComplete queue => Sys2Proof.Machine.execPacketComplete queue s
  | .graphNodeComplete run node => Sys2Proof.Machine.execGraphNodeComplete run node s
  | .launchAccept sub => Sys2Proof.Machine.execLaunchAccept sub s
  | .blockPlacement => Sys2Proof.Machine.execBlockPlacement s
  | .launchComplete launch => Sys2Proof.Machine.execLaunchComplete launch s
  | .timeSliceExpiry ctx => Sys2Proof.Machine.execTimeSliceExpiry ctx s
  | .blockRestore ctx => Sys2Proof.Machine.execBlockRestore ctx s
  | .waitbudgetExpiry block => Sys2Proof.Machine.execWaitbudgetExpiry block s
  | .checkpointBoundary ctx => Sys2Proof.Machine.execCheckpointBoundary ctx s
  | .checkpointCommit ctx => Sys2Proof.Machine.execCheckpointCommit ctx s
  | .fabricRequest kind pa size value => Sys2Proof.Machine.execFabricRequest kind pa size value s
  | .contextCreate => Sys2Proof.Machine.execContextCreate s
  | .contextDestroy => Sys2Proof.Machine.execContextDestroy s
  | .contextResume => Sys2Proof.Machine.execContextResume s
  | .contextPreempt => Sys2Proof.Machine.execContextPreempt s
  | .translationInvalidate => Sys2Proof.Machine.execTranslationInvalidate s
  | .faultReply => Sys2Proof.Machine.execFaultReply s
  | .queueRestart => Sys2Proof.Machine.execQueueRestart s
  | .checkpointNotice => Sys2Proof.Machine.execCheckpointNotice s
  | .update => Sys2Proof.Machine.execUpdate s
  | .rollBack => Sys2Proof.Machine.execRollBack s
  | .microcode => Sys2Proof.Machine.execMicrocode s
  | .microcodeWindow controller => Sys2Proof.Machine.execMicrocodeWindow controller s
  | .coreRetire => Sys2Proof.Machine.execCoreRetire s
  | .autoCoreRetire die core => Sys2Proof.Machine.execAutoCoreRetire die core s
  | .errorEntryClear => Sys2Proof.Machine.execErrorEntryClear s
  | .powerCap => Sys2Proof.Machine.execPowerCap s
  | .unknownCommand => Sys2Proof.Machine.execUnknownCommand s
  | .doorbellOverrun value => Sys2Proof.Machine.execDoorbellOverrun value s
  | .statusRead => Sys2Proof.Machine.execStatusRead s
  | .registerPageWrite offset value => Sys2Proof.Machine.execRegisterPageWrite offset value s
  | .heartbeat => Sys2Proof.Machine.execHeartbeat s
  | .watchdogMiss => Sys2Proof.Machine.execWatchdogMiss s
  | .probationEnd => Sys2Proof.Machine.execProbationEnd s
  | .standbyTakeover => Sys2Proof.Machine.execStandbyTakeover s
  | .stateTableMirror => Sys2Proof.Machine.execStateTableMirror s
  | .powerOn => Sys2Proof.Machine.execPowerOn s
  | .frequencyStep die up => Sys2Proof.Machine.execFrequencyStep die up s
  | .relockEnd die => Sys2Proof.Machine.execRelockEnd die s
  | .junction105 die => Sys2Proof.Machine.execJunction105 die s
  | .junction115 => Sys2Proof.Machine.execJunction115 s
  | .powerRefresh watts => Sys2Proof.Machine.execPowerRefresh watts s
  | .skewMeasurement die skew => Sys2Proof.Machine.execSkewMeasurement die skew s
  | .flitCrcFailure port lane => Sys2Proof.Machine.execFlitCrcFailure port lane s
  | .linkRetrainEnd port => Sys2Proof.Machine.execLinkRetrainEnd port s
  | .hbmCorrectableError controller bank row => Sys2Proof.Machine.execHbmCorrectableError controller bank row s
  | .pseudoChannelFailure stack channel => Sys2Proof.Machine.execPseudoChannelFailure stack channel s
  | .wordNotInstruction illop reason low plane => Sys2Proof.Machine.execWordNotInstruction illop reason low plane s
  | .l1Eviction core line => Sys2Proof.Machine.execL1Eviction core line s
  | .l2Eviction line => Sys2Proof.Machine.execL2Eviction line s
  | .copyComplete grp copy => Sys2Proof.Machine.execCopyComplete grp copy s
  | .checkpointPageCopy ctx page => Sys2Proof.Machine.execCheckpointPageCopy ctx page s
  | .powerLoss => Sys2Proof.Machine.execPowerLoss s
  | .fdiv la d a b => Sys2Proof.Machine.execFdiv la d a b s
  | .fsqrt la d a => Sys2Proof.Machine.execFsqrt la d a s
  | .frcp la d a => Sys2Proof.Machine.execFrcp la d a s
  | .frsq la d a => Sys2Proof.Machine.execFrsq la d a s
  | .fexp2 la d a => Sys2Proof.Machine.execFexp2 la d a s
  | .flog2 la d a => Sys2Proof.Machine.execFlog2 la d a s
  | .fsint la d a => Sys2Proof.Machine.execFsint la d a s
  | .fcost la d a => Sys2Proof.Machine.execFcost la d a s
  | .ftanh la d a => Sys2Proof.Machine.execFtanh la d a s
  | .fsigm la d a => Sys2Proof.Machine.execFsigm la d a s
  | .ferf la d a => Sys2Proof.Machine.execFerf la d a s
  | .launch la d a => Sys2Proof.Machine.execLaunch la d a s
  | .wlapp la a b => Sys2Proof.Machine.execWlapp la a b s
  | .wltake la d a b => Sys2Proof.Machine.execWltake la d a b s
  | .c1hadd d a b => Sys2Proof.Machine.execC1hadd d a b s
  | .c1hsub d a b => Sys2Proof.Machine.execC1hsub d a b s
  | .c1hmul d a b => Sys2Proof.Machine.execC1hmul d a b s
  | .c1hfma d a b => Sys2Proof.Machine.execC1hfma d a b s
  | .c1cas d a b => Sys2Proof.Machine.execC1cas d a b s
  | .c1f2i d a => Sys2Proof.Machine.execC1f2i d a s
  | .c1bar d a => Sys2Proof.Machine.execC1bar d a s
  | .ldgSb la d a sp m p => Sys2Proof.Machine.execLdgSb la d a sp m p s
  | .ldgZb la d a sp m p => Sys2Proof.Machine.execLdgZb la d a sp m p s
  | .ldgSh la d a sp m p => Sys2Proof.Machine.execLdgSh la d a sp m p s
  | .ldgZh la d a sp m p => Sys2Proof.Machine.execLdgZh la d a sp m p s
  | .ldgW la d a sp m p => Sys2Proof.Machine.execLdgW la d a sp m p s
  | .ldgD la d a sp m p => Sys2Proof.Machine.execLdgD la d a sp m p s
  | .ldgQ la d a sp m p => Sys2Proof.Machine.execLdgQ la d a sp m p s
  | .stgB la d a sp m p => Sys2Proof.Machine.execStgB la d a sp m p s
  | .stgH la d a sp m p => Sys2Proof.Machine.execStgH la d a sp m p s
  | .stgW la d a sp m p => Sys2Proof.Machine.execStgW la d a sp m p s
  | .stgD la d a sp m p => Sys2Proof.Machine.execStgD la d a sp m p s
  | .stgQ la d a sp m p => Sys2Proof.Machine.execStgQ la d a sp m p s
  | .ldaW la d a sp m c => Sys2Proof.Machine.execLdaW la d a sp m c s
  | .ldaD la d a sp m c => Sys2Proof.Machine.execLdaD la d a sp m c s
  | .stlW la d a sp m c => Sys2Proof.Machine.execStlW la d a sp m c s
  | .stlD la d a sp m c => Sys2Proof.Machine.execStlD la d a sp m c s
  | .ldsSb la d a sp => Sys2Proof.Machine.execLdsSb la d a sp s
  | .ldsZb la d a sp => Sys2Proof.Machine.execLdsZb la d a sp s
  | .ldsSh la d a sp => Sys2Proof.Machine.execLdsSh la d a sp s
  | .ldsZh la d a sp => Sys2Proof.Machine.execLdsZh la d a sp s
  | .ldsW la d a sp => Sys2Proof.Machine.execLdsW la d a sp s
  | .ldsD la d a sp => Sys2Proof.Machine.execLdsD la d a sp s
  | .ldsQ la d a sp => Sys2Proof.Machine.execLdsQ la d a sp s
  | .stsB la d a sp => Sys2Proof.Machine.execStsB la d a sp s
  | .stsH la d a sp => Sys2Proof.Machine.execStsH la d a sp s
  | .stsW la d a sp => Sys2Proof.Machine.execStsW la d a sp s
  | .stsD la d a sp => Sys2Proof.Machine.execStsD la d a sp s
  | .stsQ la d a sp => Sys2Proof.Machine.execStsQ la d a sp s
  | .stgc la d a sp m p => Sys2Proof.Machine.execStgc la d a sp m p s
  | .pfg la a sp m p => Sys2Proof.Machine.execPfg la a sp m p s
  | .atomAdd la d a c => Sys2Proof.Machine.execAtomAdd la d a c s
  | .atomAnd la d a c => Sys2Proof.Machine.execAtomAnd la d a c s
  | .atomOr la d a c => Sys2Proof.Machine.execAtomOr la d a c s
  | .atomXor la d a c => Sys2Proof.Machine.execAtomXor la d a c s
  | .atomMin la d a c => Sys2Proof.Machine.execAtomMin la d a c s
  | .atomMax la d a c => Sys2Proof.Machine.execAtomMax la d a c s
  | .atomUmin la d a c => Sys2Proof.Machine.execAtomUmin la d a c s
  | .atomUmax la d a c => Sys2Proof.Machine.execAtomUmax la d a c s
  | .atomXchg la d a c => Sys2Proof.Machine.execAtomXchg la d a c s
  | .atomCas la d a c => Sys2Proof.Machine.execAtomCas la d a c s
  | .atomFadd la d a c => Sys2Proof.Machine.execAtomFadd la d a c s
  | .atomFmin la d a c => Sys2Proof.Machine.execAtomFmin la d a c s
  | .atomFmax la d a c => Sys2Proof.Machine.execAtomFmax la d a c s
  | .atomAddD la d a c => Sys2Proof.Machine.execAtomAddD la d a c s
  | .atomXchgD la d a c => Sys2Proof.Machine.execAtomXchgD la d a c s
  | .atomCasD la d a c => Sys2Proof.Machine.execAtomCasD la d a c s
  | .redAdd la d a c => Sys2Proof.Machine.execRedAdd la d a c s
  | .redAnd la d a c => Sys2Proof.Machine.execRedAnd la d a c s
  | .redOr la d a c => Sys2Proof.Machine.execRedOr la d a c s
  | .redXor la d a c => Sys2Proof.Machine.execRedXor la d a c s
  | .redMin la d a c => Sys2Proof.Machine.execRedMin la d a c s
  | .redMax la d a c => Sys2Proof.Machine.execRedMax la d a c s
  | .redUmin la d a c => Sys2Proof.Machine.execRedUmin la d a c s
  | .redUmax la d a c => Sys2Proof.Machine.execRedUmax la d a c s
  | .redFadd la d a c => Sys2Proof.Machine.execRedFadd la d a c s
  | .redFmin la d a c => Sys2Proof.Machine.execRedFmin la d a c s
  | .redFmax la d a c => Sys2Proof.Machine.execRedFmax la d a c s
  | .redAddD la d a c => Sys2Proof.Machine.execRedAddD la d a c s
  | .cpyG2s x y n p => Sys2Proof.Machine.execCpyG2s x y n p s
  | .cpyS2g x y n p => Sys2Proof.Machine.execCpyS2g x y n p s
  | .cpyG2s2d x y n p => Sys2Proof.Machine.execCpyG2s2d x y n p s
  | .cpyS2g2d x y n p => Sys2Proof.Machine.execCpyS2g2d x y n p s
  | .cpyG2g x y n p => Sys2Proof.Machine.execCpyG2g x y n p s
  | .cbclose d => Sys2Proof.Machine.execCbclose d s
  | .cwait a => Sys2Proof.Machine.execCwait a s
  | .cqry d => Sys2Proof.Machine.execCqry d s
  | .salloc d a => Sys2Proof.Machine.execSalloc d a s
  | .sfree a => Sys2Proof.Machine.execSfree a s
  | .smap a => Sys2Proof.Machine.execSmap a s
  | .sunmap a => Sys2Proof.Machine.execSunmap a s
  | .sflush a => Sys2Proof.Machine.execSflush a s
  | .fenceRel c => Sys2Proof.Machine.execFenceRel c s
  | .fenceAcq c => Sys2Proof.Machine.execFenceAcq c s
  | .fenceAr c => Sys2Proof.Machine.execFenceAr c s
  | .fenceSc c => Sys2Proof.Machine.execFenceSc c s
  | .barInit k b => Sys2Proof.Machine.execBarInit k b s
  | .barArrive d k => Sys2Proof.Machine.execBarArrive d k s
  | .barWait k b => Sys2Proof.Machine.execBarWait k b s
  | .barSync k => Sys2Proof.Machine.execBarSync k s
  | .qinit k b => Sys2Proof.Machine.execQinit k b s
  | .qpush k b => Sys2Proof.Machine.execQpush k b s
  | .qpop d k => Sys2Proof.Machine.execQpop d k s
  | .qtry d k b => Sys2Proof.Machine.execQtry d k b s
  | .sigwait a b => Sys2Proof.Machine.execSigwait a b s
  | .txbegin => Sys2Proof.Machine.execTxbegin s
  | .txend d a => Sys2Proof.Machine.execTxend d a s
  | .txirr => Sys2Proof.Machine.execTxirr s
  | .txire => Sys2Proof.Machine.execTxire s
  | .txabort b => Sys2Proof.Machine.execTxabort b s
  | .txqry d => Sys2Proof.Machine.execTxqry d s
  | .mma la x y q c a b => Sys2Proof.Machine.execMma la x y q c a b s
  | .mmaz la x y q c a b => Sys2Proof.Machine.execMmaz la x y q c a b s
  | .mmai la x y q c a b => Sys2Proof.Machine.execMmai la x y q c a b s
  | .mmaiz la x y q c a b => Sys2Proof.Machine.execMmaiz la x y q c a b s
  | .mmas la x sp q c a b => Sys2Proof.Machine.execMmas la x sp q c a b s
  | .mmasz la x sp q c a b => Sys2Proof.Machine.execMmasz la x sp q c a b s
  | .macq => Sys2Proof.Machine.execMacq s
  | .mrel => Sys2Proof.Machine.execMrel s
  | .mwait => Sys2Proof.Machine.execMwait s
  | .mzero c => Sys2Proof.Machine.execMzero c s
  | .mld d c g => Sys2Proof.Machine.execMld d c g s
  | .mst d c g => Sys2Proof.Machine.execMst d c g s
  | .iadd d a b => Sys2Proof.Machine.execIadd d a b s
  | .iaddVs d a b => Sys2Proof.Machine.execIaddVs d a b s
  | .iaddS d a b => Sys2Proof.Machine.execIaddS d a b s
  | .isub d a b => Sys2Proof.Machine.execIsub d a b s
  | .isubVs d a b => Sys2Proof.Machine.execIsubVs d a b s
  | .isubS d a b => Sys2Proof.Machine.execIsubS d a b s
  | .imul d a b => Sys2Proof.Machine.execImul d a b s
  | .imulVs d a b => Sys2Proof.Machine.execImulVs d a b s
  | .imulS d a b => Sys2Proof.Machine.execImulS d a b s
  | .imulhi d a b => Sys2Proof.Machine.execImulhi d a b s
  | .imulhiVs d a b => Sys2Proof.Machine.execImulhiVs d a b s
  | .imulhiS d a b => Sys2Proof.Machine.execImulhiS d a b s
  | .umulhi d a b => Sys2Proof.Machine.execUmulhi d a b s
  | .umulhiVs d a b => Sys2Proof.Machine.execUmulhiVs d a b s
  | .umulhiS d a b => Sys2Proof.Machine.execUmulhiS d a b s
  | .imin d a b => Sys2Proof.Machine.execImin d a b s
  | .iminVs d a b => Sys2Proof.Machine.execIminVs d a b s
  | .iminS d a b => Sys2Proof.Machine.execIminS d a b s
  | .imax d a b => Sys2Proof.Machine.execImax d a b s
  | .imaxVs d a b => Sys2Proof.Machine.execImaxVs d a b s
  | .imaxS d a b => Sys2Proof.Machine.execImaxS d a b s
  | .umin d a b => Sys2Proof.Machine.execUmin d a b s
  | .uminVs d a b => Sys2Proof.Machine.execUminVs d a b s
  | .uminS d a b => Sys2Proof.Machine.execUminS d a b s
  | .umax d a b => Sys2Proof.Machine.execUmax d a b s
  | .umaxVs d a b => Sys2Proof.Machine.execUmaxVs d a b s
  | .umaxS d a b => Sys2Proof.Machine.execUmaxS d a b s
  | .and d a b => Sys2Proof.Machine.execAnd d a b s
  | .andVs d a b => Sys2Proof.Machine.execAndVs d a b s
  | .andS d a b => Sys2Proof.Machine.execAndS d a b s
  | .or d a b => Sys2Proof.Machine.execOr d a b s
  | .orVs d a b => Sys2Proof.Machine.execOrVs d a b s
  | .orS d a b => Sys2Proof.Machine.execOrS d a b s
  | .xor d a b => Sys2Proof.Machine.execXor d a b s
  | .xorVs d a b => Sys2Proof.Machine.execXorVs d a b s
  | .xorS d a b => Sys2Proof.Machine.execXorS d a b s
  | .andn d a b => Sys2Proof.Machine.execAndn d a b s
  | .andnVs d a b => Sys2Proof.Machine.execAndnVs d a b s
  | .andnS d a b => Sys2Proof.Machine.execAndnS d a b s
  | .shl d a b => Sys2Proof.Machine.execShl d a b s
  | .shlVs d a b => Sys2Proof.Machine.execShlVs d a b s
  | .shlS d a b => Sys2Proof.Machine.execShlS d a b s
  | .shr d a b => Sys2Proof.Machine.execShr d a b s
  | .shrVs d a b => Sys2Proof.Machine.execShrVs d a b s
  | .shrS d a b => Sys2Proof.Machine.execShrS d a b s
  | .sar d a b => Sys2Proof.Machine.execSar d a b s
  | .sarVs d a b => Sys2Proof.Machine.execSarVs d a b s
  | .sarS d a b => Sys2Proof.Machine.execSarS d a b s
  | .rol d a b => Sys2Proof.Machine.execRol d a b s
  | .rolVs d a b => Sys2Proof.Machine.execRolVs d a b s
  | .rolS d a b => Sys2Proof.Machine.execRolS d a b s
  | .iabsd d a b => Sys2Proof.Machine.execIabsd d a b s
  | .iabsdVs d a b => Sys2Proof.Machine.execIabsdVs d a b s
  | .iabsdS d a b => Sys2Proof.Machine.execIabsdS d a b s
  | .iadds d a b => Sys2Proof.Machine.execIadds d a b s
  | .iaddsVs d a b => Sys2Proof.Machine.execIaddsVs d a b s
  | .iaddsS d a b => Sys2Proof.Machine.execIaddsS d a b s
  | .isubs d a b => Sys2Proof.Machine.execIsubs d a b s
  | .isubsVs d a b => Sys2Proof.Machine.execIsubsVs d a b s
  | .isubsS d a b => Sys2Proof.Machine.execIsubsS d a b s
  | .uadds d a b => Sys2Proof.Machine.execUadds d a b s
  | .uaddsVs d a b => Sys2Proof.Machine.execUaddsVs d a b s
  | .uaddsS d a b => Sys2Proof.Machine.execUaddsS d a b s
  | .usubs d a b => Sys2Proof.Machine.execUsubs d a b s
  | .usubsVs d a b => Sys2Proof.Machine.execUsubsVs d a b s
  | .usubsS d a b => Sys2Proof.Machine.execUsubsS d a b s
  | .popc d a => Sys2Proof.Machine.execPopc d a s
  | .popcVs d a => Sys2Proof.Machine.execPopcVs d a s
  | .popcS d a => Sys2Proof.Machine.execPopcS d a s
  | .clz d a => Sys2Proof.Machine.execClz d a s
  | .clzVs d a => Sys2Proof.Machine.execClzVs d a s
  | .clzS d a => Sys2Proof.Machine.execClzS d a s
  | .brev d a => Sys2Proof.Machine.execBrev d a s
  | .brevVs d a => Sys2Proof.Machine.execBrevVs d a s
  | .brevS d a => Sys2Proof.Machine.execBrevS d a s
  | .bfe d a b => Sys2Proof.Machine.execBfe d a b s
  | .bfeVs d a b => Sys2Proof.Machine.execBfeVs d a b s
  | .bfeS d a b => Sys2Proof.Machine.execBfeS d a b s
  | .ubfe d a b => Sys2Proof.Machine.execUbfe d a b s
  | .ubfeVs d a b => Sys2Proof.Machine.execUbfeVs d a b s
  | .ubfeS d a b => Sys2Proof.Machine.execUbfeS d a b s
  | .mov d b => Sys2Proof.Machine.execMov d b s
  | .movVs d b => Sys2Proof.Machine.execMovVs d b s
  | .movS d b => Sys2Proof.Machine.execMovS d b s
  | .isetLt d a b => Sys2Proof.Machine.execIsetLt d a b s
  | .isetLtVs d a b => Sys2Proof.Machine.execIsetLtVs d a b s
  | .isetLtS d a b => Sys2Proof.Machine.execIsetLtS d a b s
  | .isetLe d a b => Sys2Proof.Machine.execIsetLe d a b s
  | .isetLeVs d a b => Sys2Proof.Machine.execIsetLeVs d a b s
  | .isetLeS d a b => Sys2Proof.Machine.execIsetLeS d a b s
  | .isetEq d a b => Sys2Proof.Machine.execIsetEq d a b s
  | .isetEqVs d a b => Sys2Proof.Machine.execIsetEqVs d a b s
  | .isetEqS d a b => Sys2Proof.Machine.execIsetEqS d a b s
  | .isetNe d a b => Sys2Proof.Machine.execIsetNe d a b s
  | .isetNeVs d a b => Sys2Proof.Machine.execIsetNeVs d a b s
  | .isetNeS d a b => Sys2Proof.Machine.execIsetNeS d a b s
  | .usetLt d a b => Sys2Proof.Machine.execUsetLt d a b s
  | .usetLtVs d a b => Sys2Proof.Machine.execUsetLtVs d a b s
  | .usetLtS d a b => Sys2Proof.Machine.execUsetLtS d a b s
  | .usetLe d a b => Sys2Proof.Machine.execUsetLe d a b s
  | .usetLeVs d a b => Sys2Proof.Machine.execUsetLeVs d a b s
  | .usetLeS d a b => Sys2Proof.Machine.execUsetLeS d a b s
  | .mov16 d sp => Sys2Proof.Machine.execMov16 d sp s
  | .nop16 => Sys2Proof.Machine.execNop16 s
  | .iadd16 d sp => Sys2Proof.Machine.execIadd16 d sp s
  | .isub16 d sp => Sys2Proof.Machine.execIsub16 d sp s
  | .imul16 d sp => Sys2Proof.Machine.execImul16 d sp s
  | .and16 d sp => Sys2Proof.Machine.execAnd16 d sp s
  | .or16 d sp => Sys2Proof.Machine.execOr16 d sp s
  | .xor16 d sp => Sys2Proof.Machine.execXor16 d sp s
  | .shl16 d sp => Sys2Proof.Machine.execShl16 d sp s
  | .shr16 d sp => Sys2Proof.Machine.execShr16 d sp s
  | .sar16 d sp => Sys2Proof.Machine.execSar16 d sp s
  | .fadd16 d sp => Sys2Proof.Machine.execFadd16 d sp s
  | .fsub16 d sp => Sys2Proof.Machine.execFsub16 d sp s
  | .fmul16 d sp => Sys2Proof.Machine.execFmul16 d sp s
  | .fmin16 d sp => Sys2Proof.Machine.execFmin16 d sp s
  | .fmax16 d sp => Sys2Proof.Machine.execFmax16 d sp s
  | .iaddI5 d im => Sys2Proof.Machine.execIaddI5 d im s
  | .iaddD d a b => Sys2Proof.Machine.execIaddD d a b s
  | .iaddDS d a b => Sys2Proof.Machine.execIaddDS d a b s
  | .isubD d a b => Sys2Proof.Machine.execIsubD d a b s
  | .isubDS d a b => Sys2Proof.Machine.execIsubDS d a b s
  | .shlD d a b => Sys2Proof.Machine.execShlD d a b s
  | .shlDS d a b => Sys2Proof.Machine.execShlDS d a b s
  | .shrD d a b => Sys2Proof.Machine.execShrD d a b s
  | .shrDS d a b => Sys2Proof.Machine.execShrDS d a b s
  | .sarD d a b => Sys2Proof.Machine.execSarD d a b s
  | .sarDS d a b => Sys2Proof.Machine.execSarDS d a b s
  | .imulw d a b => Sys2Proof.Machine.execImulw d a b s
  | .imulwS d a b => Sys2Proof.Machine.execImulwS d a b s
  | .umulw d a b => Sys2Proof.Machine.execUmulw d a b s
  | .umulwS d a b => Sys2Proof.Machine.execUmulwS d a b s
  | .iaddw d a b => Sys2Proof.Machine.execIaddw d a b s
  | .iaddwS d a b => Sys2Proof.Machine.execIaddwS d a b s
  | .uaddw d a b => Sys2Proof.Machine.execUaddw d a b s
  | .uaddwS d a b => Sys2Proof.Machine.execUaddwS d a b s
  | .iaddi d a im => Sys2Proof.Machine.execIaddi d a im s
  | .andi d a im => Sys2Proof.Machine.execAndi d a im s
  | .ori d a im => Sys2Proof.Machine.execOri d a im s
  | .xori d a im => Sys2Proof.Machine.execXori d a im s
  | .shli d a im => Sys2Proof.Machine.execShli d a im s
  | .shri d a im => Sys2Proof.Machine.execShri d a im s
  | .sari d a im => Sys2Proof.Machine.execSari d a im s
  | .iaddiS d a im => Sys2Proof.Machine.execIaddiS d a im s
  | .andiS d a im => Sys2Proof.Machine.execAndiS d a im s
  | .oriS d a im => Sys2Proof.Machine.execOriS d a im s
  | .xoriS d a im => Sys2Proof.Machine.execXoriS d a im s
  | .shliS d a im => Sys2Proof.Machine.execShliS d a im s
  | .shriS d a im => Sys2Proof.Machine.execShriS d a im s
  | .sariS d a im => Sys2Proof.Machine.execSariS d a im s
  | .movk d k => Sys2Proof.Machine.execMovk d k s
  | .movkh d k => Sys2Proof.Machine.execMovkh d k s
  | .movkS d k => Sys2Proof.Machine.execMovkS d k s
  | .movkhS d k => Sys2Proof.Machine.execMovkhS d k s
  | .imad d a b c => Sys2Proof.Machine.execImad d a b c s
  | .imadS d a b c => Sys2Proof.Machine.execImadS d a b c s
  | .bfi d a b c => Sys2Proof.Machine.execBfi d a b c s
  | .sel d a b p g => Sys2Proof.Machine.execSel d a b p g s
  | .ssel d a b c => Sys2Proof.Machine.execSsel d a b c s
  | .fadd d a b => Sys2Proof.Machine.execFadd d a b s
  | .faddVs d a b => Sys2Proof.Machine.execFaddVs d a b s
  | .faddRz d a b => Sys2Proof.Machine.execFaddRz d a b s
  | .faddRzVs d a b => Sys2Proof.Machine.execFaddRzVs d a b s
  | .faddRd d a b => Sys2Proof.Machine.execFaddRd d a b s
  | .faddRdVs d a b => Sys2Proof.Machine.execFaddRdVs d a b s
  | .faddRu d a b => Sys2Proof.Machine.execFaddRu d a b s
  | .faddRuVs d a b => Sys2Proof.Machine.execFaddRuVs d a b s
  | .fsub d a b => Sys2Proof.Machine.execFsub d a b s
  | .fsubVs d a b => Sys2Proof.Machine.execFsubVs d a b s
  | .fmul d a b => Sys2Proof.Machine.execFmul d a b s
  | .fmulVs d a b => Sys2Proof.Machine.execFmulVs d a b s
  | .fmulRz d a b => Sys2Proof.Machine.execFmulRz d a b s
  | .fmulRzVs d a b => Sys2Proof.Machine.execFmulRzVs d a b s
  | .fmulRd d a b => Sys2Proof.Machine.execFmulRd d a b s
  | .fmulRdVs d a b => Sys2Proof.Machine.execFmulRdVs d a b s
  | .fmulRu d a b => Sys2Proof.Machine.execFmulRu d a b s
  | .fmulRuVs d a b => Sys2Proof.Machine.execFmulRuVs d a b s
  | .fmin d a b => Sys2Proof.Machine.execFmin d a b s
  | .fminVs d a b => Sys2Proof.Machine.execFminVs d a b s
  | .fmax d a b => Sys2Proof.Machine.execFmax d a b s
  | .fmaxVs d a b => Sys2Proof.Machine.execFmaxVs d a b s
  | .fminnum d a b => Sys2Proof.Machine.execFminnum d a b s
  | .fminnumVs d a b => Sys2Proof.Machine.execFminnumVs d a b s
  | .fmaxnum d a b => Sys2Proof.Machine.execFmaxnum d a b s
  | .fmaxnumVs d a b => Sys2Proof.Machine.execFmaxnumVs d a b s
  | .fabs d a => Sys2Proof.Machine.execFabs d a s
  | .fabsVs d a => Sys2Proof.Machine.execFabsVs d a s
  | .fneg d a => Sys2Proof.Machine.execFneg d a s
  | .fnegVs d a => Sys2Proof.Machine.execFnegVs d a s
  | .fcopysign d a b => Sys2Proof.Machine.execFcopysign d a b s
  | .fcopysignVs d a b => Sys2Proof.Machine.execFcopysignVs d a b s
  | .ffloor d a => Sys2Proof.Machine.execFfloor d a s
  | .ffloorVs d a => Sys2Proof.Machine.execFfloorVs d a s
  | .fceil d a => Sys2Proof.Machine.execFceil d a s
  | .fceilVs d a => Sys2Proof.Machine.execFceilVs d a s
  | .ftrunc d a => Sys2Proof.Machine.execFtrunc d a s
  | .ftruncVs d a => Sys2Proof.Machine.execFtruncVs d a s
  | .frint d a => Sys2Proof.Machine.execFrint d a s
  | .frintVs d a => Sys2Proof.Machine.execFrintVs d a s
  | .fclamp01 d a => Sys2Proof.Machine.execFclamp01 d a s
  | .fclamp01Vs d a => Sys2Proof.Machine.execFclamp01Vs d a s
  | .ffma d a b c => Sys2Proof.Machine.execFfma d a b c s
  | .ffms d a b c => Sys2Proof.Machine.execFfms d a b c s
  | .ffnma d a b c => Sys2Proof.Machine.execFfnma d a b c s
  | .ffmaRz d a b c => Sys2Proof.Machine.execFfmaRz d a b c s
  | .ffmaRd d a b c => Sys2Proof.Machine.execFfmaRd d a b c s
  | .ffmaRu d a b c => Sys2Proof.Machine.execFfmaRu d a b c s
  | .cmp p a b r t => Sys2Proof.Machine.execCmp p a b r t s
  | .cmpVs p a b r t => Sys2Proof.Machine.execCmpVs p a b r t s
  | .cmpi p r a im => Sys2Proof.Machine.execCmpi p r a im s
  | .pand d a b => Sys2Proof.Machine.execPand d a b s
  | .por d a b => Sys2Proof.Machine.execPor d a b s
  | .pxor d a b => Sys2Proof.Machine.execPxor d a b s
  | .pandn d a b => Sys2Proof.Machine.execPandn d a b s
  | .pnot d a => Sys2Proof.Machine.execPnot d a s
  | .psetPred d => Sys2Proof.Machine.execPsetPred d s
  | .pclr d => Sys2Proof.Machine.execPclr d s
  | .ballot d a => Sys2Proof.Machine.execBallot d a s
  | .pfrom d a => Sys2Proof.Machine.execPfrom d a s
  | .ptov d a => Sys2Proof.Machine.execPtov d a s
  | .vany d a => Sys2Proof.Machine.execVany d a s
  | .vall d a => Sys2Proof.Machine.execVall d a s
  | .mask d => Sys2Proof.Machine.execMask d s
  | .pload d a => Sys2Proof.Machine.execPload d a s
  | .hadd2 d a b => Sys2Proof.Machine.execHadd2 d a b s
  | .hsub2 d a b => Sys2Proof.Machine.execHsub2 d a b s
  | .hmul2 d a b => Sys2Proof.Machine.execHmul2 d a b s
  | .hmin2 d a b => Sys2Proof.Machine.execHmin2 d a b s
  | .hmax2 d a b => Sys2Proof.Machine.execHmax2 d a b s
  | .badd2 d a b => Sys2Proof.Machine.execBadd2 d a b s
  | .bsub2 d a b => Sys2Proof.Machine.execBsub2 d a b s
  | .bmul2 d a b => Sys2Proof.Machine.execBmul2 d a b s
  | .bmin2 d a b => Sys2Proof.Machine.execBmin2 d a b s
  | .bmax2 d a b => Sys2Proof.Machine.execBmax2 d a b s
  | .hfma2 d a b c => Sys2Proof.Machine.execHfma2 d a b c s
  | .bfma2 d a b c => Sys2Proof.Machine.execBfma2 d a b c s
  | .i2f d a => Sys2Proof.Machine.execI2f d a s
  | .u2f d a => Sys2Proof.Machine.execU2f d a s
  | .f2i d a => Sys2Proof.Machine.execF2i d a s
  | .f2u d a => Sys2Proof.Machine.execF2u d a s
  | .f2in d a => Sys2Proof.Machine.execF2in d a s
  | .f2un d a => Sys2Proof.Machine.execF2un d a s
  | .pkh d a b => Sys2Proof.Machine.execPkh d a b s
  | .pkb d a b => Sys2Proof.Machine.execPkb d a b s
  | .uphLo d a => Sys2Proof.Machine.execUphLo d a s
  | .uphHi d a => Sys2Proof.Machine.execUphHi d a s
  | .upbLo d a => Sys2Proof.Machine.execUpbLo d a s
  | .upbHi d a => Sys2Proof.Machine.execUpbHi d a s
  | .f2f19 d a => Sys2Proof.Machine.execF2f19 d a s
  | .fpack d a f => Sys2Proof.Machine.execFpack d a f s
  | .fpackSr d a b f => Sys2Proof.Machine.execFpackSr d a b f s
  | .funpk d a k f => Sys2Proof.Machine.execFunpk d a k f s
  | .dot4Ss d a b => Sys2Proof.Machine.execDot4Ss d a b s
  | .dot4Uu d a b => Sys2Proof.Machine.execDot4Uu d a b s
  | .dot4Su d a b => Sys2Proof.Machine.execDot4Su d a b s
  | .dot8Ss d a b => Sys2Proof.Machine.execDot8Ss d a b s
  | .dot8Uu d a b => Sys2Proof.Machine.execDot8Uu d a b s
  | .dot8Su d a b => Sys2Proof.Machine.execDot8Su d a b s
  | .dot16Ss d a b => Sys2Proof.Machine.execDot16Ss d a b s
  | .dot2Ss d a b => Sys2Proof.Machine.execDot2Ss d a b s
  | .fdot d a b f => Sys2Proof.Machine.execFdot d a b f s
  | .shflIdx d a b => Sys2Proof.Machine.execShflIdx d a b s
  | .shflUp d a b => Sys2Proof.Machine.execShflUp d a b s
  | .shflDn d a b => Sys2Proof.Machine.execShflDn d a b s
  | .shflXor d a b => Sys2Proof.Machine.execShflXor d a b s
  | .rdlane d a b => Sys2Proof.Machine.execRdlane d a b s
  | .wrlane d a b => Sys2Proof.Machine.execWrlane d a b s
  | .reduxAdd d a => Sys2Proof.Machine.execReduxAdd d a s
  | .reduxMin d a => Sys2Proof.Machine.execReduxMin d a s
  | .reduxMax d a => Sys2Proof.Machine.execReduxMax d a s
  | .reduxFadd d a => Sys2Proof.Machine.execReduxFadd d a s
  | .scanxAdd d a => Sys2Proof.Machine.execScanxAdd d a s
  | .ifP p g off => Sys2Proof.Machine.execIfP p g off s
  | .elseP off => Sys2Proof.Machine.execElseP off s
  | .endif => Sys2Proof.Machine.execEndif s
  | .loop off => Sys2Proof.Machine.execLoop off s
  | .endloop off => Sys2Proof.Machine.execEndloop off s
  | .brk p g n off => Sys2Proof.Machine.execBrk p g n off s
  | .bra p g off => Sys2Proof.Machine.execBra p g off s
  | .jmp off => Sys2Proof.Machine.execJmp off s
  | .bsc sp r off => Sys2Proof.Machine.execBsc sp r off s
  | .call off => Sys2Proof.Machine.execCall off s
  | .calli a => Sys2Proof.Machine.execCalli a s
  | .ret a => Sys2Proof.Machine.execRet a s
  | .brx a => Sys2Proof.Machine.execBrx a s
  | .join => Sys2Proof.Machine.execJoin s
  | .exit => Sys2Proof.Machine.execExit s
  | .exitc a => Sys2Proof.Machine.execExitc a s
  | .safe n => Sys2Proof.Machine.execSafe n s
  | .pset k => Sys2Proof.Machine.execPset k s
  | .psel g p k => Sys2Proof.Machine.execPsel g p k s
  | .pmov a => Sys2Proof.Machine.execPmov a s
  | .pget d => Sys2Proof.Machine.execPget d s
  | .xfer a => Sys2Proof.Machine.execXfer a s
  | .xqry d => Sys2Proof.Machine.execXqry d s
  | .xclr => Sys2Proof.Machine.execXclr s
  | .version d => Sys2Proof.Machine.execVersion d s
  | .nop => Sys2Proof.Machine.execNop s
  | .yield => Sys2Proof.Machine.execYield s
  | .sread d a b => Sys2Proof.Machine.execSread d a b s
  | .swrite d a b => Sys2Proof.Machine.execSwrite d a b s
  | .trap a b => Sys2Proof.Machine.execTrap a b s
  | .brkpt => Sys2Proof.Machine.execBrkpt s
  | .dbls => Sys2Proof.Machine.execDbls s
  | .stampOpen a => Sys2Proof.Machine.execStampOpen a s
  | .stampClose => Sys2Proof.Machine.execStampClose s
  | .dbgwait d a => Sys2Proof.Machine.execDbgwait d a s
  | .dbgrd d a => Sys2Proof.Machine.execDbgrd d a s
  | .dbgwr a b => Sys2Proof.Machine.execDbgwr a b s
  | .dbgctlResume d a => Sys2Proof.Machine.execDbgctlResume d a s
  | .dbgctlStep d a => Sys2Proof.Machine.execDbgctlStep d a s
  | .dbgctlHalt d a => Sys2Proof.Machine.execDbgctlHalt d a s
  | .dbgctlResumeall d a => Sys2Proof.Machine.execDbgctlResumeall d a s
  | .dbgctlBkset d a => Sys2Proof.Machine.execDbgctlBkset d a s
  | .dbgctlBkclr d a => Sys2Proof.Machine.execDbgctlBkclr d a s
  | .dbgctlWset d a => Sys2Proof.Machine.execDbgctlWset d a s
  | .dbgctlWclr d a => Sys2Proof.Machine.execDbgctlWclr d a s
  | .mboxw a b => Sys2Proof.Machine.execMboxw a b s

end Sys2Proof.Machine
end

