-- ==== Sys2Proof/Machine/Issue.lean ====
section
/-! DEFINITION. Issue: merging at an issue (R22), the checks made before the first pass (R36, R364,
R384), the passes of an offset (R33), and what follows its last pass (R19, R34, R98, R365, R367, R373). -/

namespace Sys2Proof.Machine

/-! ### Merging (R22) -/

/-- The resident splits of a group that are ready at a split's offset and version, and that the quad may choose. -/
noncomputable def State.sameOffset (s : State) (g : Nat) (x : Split) : List Split :=
  (([0, 1, 2, 3].map (s.group g).ent.get).filter (fun y => decide (y.mask ≠ 0 ∧ y.offset = x.offset ∧ y.version = x.version)
    && y.rest.isNone && !s.yielding g y && s.ready g y))

/-- The check made at an issue: they merge into the lowest entry; its name is the merged split's. The entries
that this frees are refilled at once (R21). -/
noncomputable def State.mergeAt (s : State) (g uid : Nat) : State × Nat :=
  let x := s.splitOf g uid
  if x.rest.isSome then (s, uid) else
  match s.sameOffset g x with
  | b :: o :: os =>
    let gone := (o :: os).map (fun y => y.uid)
    let s1 := s.onGroup g (fun k => let k1 := k.mergeAll b (o :: os) id
      { k1 with copies := k1.copies.map (fun c => if gone.contains c.uid then { c with uid := b.uid } else c) })
    let named (x : Op) : Op := if x.grp = g ∧ gone.contains x.uid then { x with uid := b.uid } else x
    (({ s1 with ops := s1.ops.map (fun e => (e.1, named e.2)) } : State).settleGroup g, b.uid)
  | _ => (s, uid)

/-! ### Before the first pass -/

/-- R46: the lane-wise words, which double-stroke mode doubles: the 16-bit forms, majors 0x01–0x22 but for
BALLOT, VANY, VALL and MASK, and majors 0x24–0x26. -/
def doubledWord (w : Nat) : Bool :=
  let m := majorOf w
  let n := w / 2 ^ 26
  m == 0x100 || (decide (0x01 ≤ m ∧ m ≤ 0x22) && !(m == 0x1B && (n == 0x07 || n == 0x0A || n == 0x0B || n == 0x0C)))
    || (decide (0x24 ≤ m ∧ m ≤ 0x26))

/-- R383: the kind of check event that a word is. -/
def checkKind (w : Nat) : Option Nat :=
  let m := majorOf w
  let n := w / 2 ^ 26 % 64
  if m = 0x7A ∧ n < 4 then some 1 else if m = 0x79 then some 2
  else if m = 0x7A ∧ n < 8 then some 3 else if m = 0x7B ∧ n = 1 then some 4 else none

/-- What the replay table gives for an event: a count, no entry, or a word of it that cannot be read. -/
inductive Expected where
  | count (n : DWord)
  | absent
  | fails (c : Cause) (detail : Nat) (a : DWord)
  deriving DecidableEq, Repr

/-- R384: a word of the replay table or of an array, read as an ordinary load of class 1 or 2 reads it. -/
def State.replayWord (s : State) (ctx : Nat) (a : DWord) (n : Nat) : Except (Cause × Nat × DWord) Nat :=
  if !canonical57 a then .error (.faultT, 0x20, a) else
  match s.agentPa ctx a .read [1, 2] with
  | .error f => .error (f.1, f.2, a)
  | .ok (pa, _) => match s.lineError (lineOf pa) with
    | some k => .error (.ecc, k, a)
    | none => match s.agentRead ctx a n [1, 2] with
      | .ok bs => .ok (joinBytes bs)
      | .error f => .error (f.1, f.2, a)

/-- R384: the count that the replay table expects at the group's next check event. -/
def State.expectedCount (s : State) (g : Nat) : Expected :=
  let l := s.launchOf g
  let b := s.blockOf g
  let k := s.group g
  let idx := b.ident * l.rec_.groups + k.index
  if l.replayEntries ≤ idx then .absent else
  let a := l.replayTable + BitVec.ofNat 64 (16 * idx)
  match s.replayWord b.ctx a 8, s.replayWord b.ctx (a + 8) 4 with
  | .ok arr, .ok len =>
    if len ≤ k.checks then .absent
    else match s.replayWord b.ctx (BitVec.ofNat 64 (arr + 8 * k.checks)) 8 with
      | .ok n => .count (BitVec.ofNat 64 n)
      | .error f => .fails f.1 f.2.1 f.2.2
  | .error f, _ => .fails f.1 f.2.1 f.2.2
  | _, .error f => .fails f.1 f.2.1 f.2.2

/-- R279: the lines that the reads of the replay table collect. -/
def State.collectReplay (s : State) (g : Nat) : State :=
  let l := s.launchOf g
  let b := s.blockOf g
  let idx := b.ident * l.rec_.groups + (s.group g).index
  if l.replayEntries ≤ idx then s else
  let a := l.replayTable + BitVec.ofNat 64 (16 * idx)
  let t := s.hubCollect b.ctx a 12
  match t.agentWord b.ctx a 8 with
  | .ok arr => t.hubCollect b.ctx (BitVec.ofNat 64 (arr + 8 * (s.group g).checks)) 8
  | .error _ => t

/-- The working field for one pass. -/
def State.focusPass (s : State) (q g uid : Nat) (len : Word) (p : Pass) (lanes : Mask) (same first : Bool) : State :=
  let x := s.splitOf g uid
  { s with focus :=
    { quad := q, grp := g, uid := uid, entry := ((s.group g).entryOf uid).getD 0, offset := x.offset
      next := x.offset + len, version := x.version, plane := p.plane, mask := p.mask, lanes := lanes
      same := same, first := first } }

/-- R384: a count that differs from the recorded one stops the group before the event; a fault of the reads is served
first (R330), and an uncorrectable error traps at the event (R332). -/
def State.diverges (s : State) (g uid : Nat) (kind : Option Nat) : Option State :=
  match kind with
  | none => none
  | some n =>
    if (s.launchOf g).replay ≠ 2 ∨ (s.splitOf g uid).skipCheck = true then none else
    let stops (entry : Bool) (expected : DWord) : Option State :=
      let f := s.focus
      let r := s.record g uid .diverge (n + (if entry then 0 else 16)) 0 expected f.offset f.lanes f.plane.toNat
      some ((s.onSplit g uid (fun x => { x with skipCheck := true })).trapHere { r with retired := r.retired + 1 })
    match s.expectedCount g with
    | .count m => if m = (s.group g).retired + 1 then none else stops true m
    | .absent => stops false 0
    | .fails .ecc k a => some (s.takeTrap .ecc k 0 a)
    | .fails c d a => some ((s.faultHere c d 0 a).stopIssue g)

/-- R33: an offset begins, with its passes; or goes on with the passes that are left, in the lanes that a
pre-emption has not doomed and parked since (R195). -/
def State.beginOffset (s : State) (g uid : Nat) (len : Nat) (ps : List (Nat × Mask × Nat × Instr)) : Issue :=
  let parked := maskOf (fun L => ((s.group g).tx.get L).parked)
  match (s.splitOf g uid).rest with
  | some c => { c with
      grp := g, uid := uid
      passes := c.passes.map (fun p => if txEndWord p.word then p else { p with mask := p.mask &&& ~~~parked }) }
  | none =>
    { grp := g, uid := uid, length := BitVec.ofNat 32 len
      passes := ps.map (fun e => ⟨BitVec.ofNat 2 e.1, e.2.1, e.2.2.1, e.2.2.2, doubledWord e.2.2.1⟩)
      lanes := ps.foldl (fun (m : Mask) e => m ||| e.2.1) 0
      same := match ps with | [] => false | e :: es => es.all (fun y => y.2.2.1 == e.2.2.1)
      first := true, fresh := true, kind := ps.findSome? (fun e => checkKind e.2.2.1)
      dstroke := (s.group g).dstroke, names := s.nextOp }

/-- A split issues: the offset begins, or a fetch fault, a breakpoint, a failing word or a divergence
takes its place. -/
noncomputable def State.issueSplit (s : State) (q g uid : Nat) : Out :=
  let m := s.mergeAt g uid
  let x := m.1.splitOf g m.2
  let p := m.1.plan g x
  let slot := g % 16
  let s1 := (p.1.onQuad q (fun k => { k with
    last := 4 * slot + ((p.1.group g).entryOf m.2).getD 0
    yields := k.yields.map (fun y => { y with left := y.left.filter (fun e => decide (e ≠ (g, m.2))) }) })).resetClock (s.group g).block
  let s2 : State := { s1 with now := s1.now + 1, lastQuad := q }
  let active := (s2.group g).active x.mask
  match p.2 with
  | .fault c d a plane held =>
    let s3 := s2.focusPass q g m.2 4 { (default : Pass) with plane := BitVec.ofNat 2 plane } active false true
    if c = .faultX ∨ c = .ecc then .next (s3.takeTrap c d 0 a)
    else
      let r := s3.record g m.2 c d 0 a x.offset active plane
      .next ((s3.onSplit g m.2 (fun y => { y.addWait (.fetch s3.nextFault) with words := held })).sendFault
        { op := none, copy := none, fetch := some (g, m.2), rec_ := r, vpage := a.toNat % 2 ^ 57 / 4096, sent := false })
  | .later => .next s2
  | .bad plane b =>
    if (s2.breakHit g m.2).isSome then exec (.breakpointStop g m.2) s2
    else exec (.wordNotInstruction b.illop b.reason b.low (BitVec.ofNat 2 plane))
      (s2.focusPass q g m.2 4 { (default : Pass) with plane := BitVec.ofNat 2 plane } active false true)
  | .passes ps len =>
    if (s2.breakHit g m.2).isSome then exec (.breakpointStop g m.2) s2
    else
      let s3 := if ps.any (fun e => txEndWord e.2.2.1) then s2.onGroup g (fun k => k.unpark x.mask) else s2
      let cur := s3.beginOffset g m.2 len ps
      let s4 := (s3.onQuad q (fun k => { k with cur := some cur })).focusPass q g m.2 cur.length (cur.passes.headD default)
        cur.lanes cur.same cur.first
      let s5 := if cur.fresh && cur.kind.isSome && decide ((s4.launchOf g).replay = 2) then s4.collectReplay g else s4
      match (if cur.fresh then s5.diverges g m.2 cur.kind else none) with
      | some t => .next t
      | none => .next s5

/-- The next split of a quad issues. -/
noncomputable def State.issueQuad (s : State) (q : Nat) : Out :=
  match s.choose q with
  | some e => s.issueSplit q e.1 e.2
  | none => .next { s with now := s.now + 1 }

/-! ### After the last pass -/

/-- WATCH, or TRAP or BRKPT, of the offset that a split has issued (R142, R367). A WATCH waits until the older
instructions are complete (R102), so that every access of the offset that hits is in it (R382). R142 and R382 do not say
what an offset makes that hits a watchpoint in one pass and executes TRAP or BRKPT in another: it makes the WATCH record
alone (DESIGN CHOICE, log entry 98). The address of a TRAP's or BRKPT's record, which no rule gives, is 0 (DESIGN CHOICE,
log entry 91). -/
def State.stopsAfter (s : State) (g uid : Nat) (lanes : Mask) : State :=
  let x := s.splitOf g uid
  match x.watch, x.stopAfter with
  | h :: hs, _ =>
    if x.out ≠ [] then s else
    let s1 := s.onSplit g uid (fun y => { y with watch := hs, stopAfter := none })
    s1.trapSplit g uid (s1.record g uid .watch h.number h.hit h.addr h.next h.lanes h.plane)
  | [], some (c, d) =>
    let s1 := s.onSplit g uid (fun y => { y with stopAfter := none })
    s1.trapSplit g uid (s1.record g uid c d.toNat 0 0 x.offset lanes x.stopPlane)
  | [], none => s

/-- The stops that follow an offset, for every split that results: those of the offset itself, and STEP for
the others after a STEP or a HALT (R144, R365). All of them stand still before any split of the group changes
place or resumes at a JOIN (R368). -/
def State.allStops (s : State) (g : Nat) (lanes : Mask) (uids : List Nat) (stepping halting : Bool) : State :=
  let own := uids.filter (fun u => (s.splitOf g u).stopping)
  let rest := if stepping || halting then uids.filter (fun u => !own.contains u) else []
  let s1 := rest.foldl (fun (st : State) u => st.onSplit g u Split.stop) s
  let s2 := own.foldl (fun (st : State) u => st.stopsAfter g u lanes) s1
  if rest = [] then s2 else s2.stopBatch g rest (if stepping then 0 else 1)

/-- R377: the check records of a group's events that have completed since are written, in the order in which they
completed. -/
def State.payOwed (s : State) (g : Nat) : State :=
  (s.group g).splits.foldl (fun (st : State) x =>
    if x.owed = [] ∨ x.waits ≠ [] ∨ st.now < x.holdAll then st else
    x.owed.foldl (fun (st : State) bs => st.traceWrite (st.ctxOf g) bs) (st.onSplit g x.uid (fun y => { y with owed := [] }))) s

/-- R383, mode 1: the check record of an event. It is written at once, or when the event's instruction completes
(R377). -/
def State.writeCheck (s : State) (g uid : Nat) (kind : Option Nat) : State :=
  match kind with
  | none => s
  | some n =>
    let mode := (s.launchOf g).replay
    if mode ≠ 1 ∧ mode ≠ 2 then s else
    let k := s.group g
    let s1 := s.onGroup g (fun y => { y with checks := y.checks + 1 })
    let bs := s1.checkBytes g n k.checks k.retired
    let x := s1.splitOf g uid
    if mode ≠ 1 then s1
    else if x.mask ≠ 0 ∧ (x.waits ≠ [] ∨ s1.now < x.holdAll) then s1.onSplit g uid (fun y => { y with owed := y.owed ++ [bs] })
    else s1.traceWrite (s.ctxOf g) bs

/-- The offset has issued: the counts of R98 and R373, the division of R19, the stops. -/
def State.finishOffset (s : State) (q : Nat) (c : Issue) : State :=
  let s0 := s.onQuad q (fun k => { k with cur := none })
  if !(s0.group c.grp).live then s0 else
  let s1 := (s0.onGroup c.grp (fun k => { k with retired := k.retired + 1 })).writeCheck c.grp c.uid c.kind
  let x := s1.splitOf c.grp c.uid
  if x.mask = 0 then s1.settleGroup c.grp else
  let s2 := s1.onSplit c.grp c.uid (fun y => { y with
    out := y.out.map (fun e => { e with left := e.left - 1 }), rest := none
    words := [], toggled := false, skipBreak := none, skipCheck := false })
  let r := s2.moveSplit c.grp c.uid c.goes (x.offset + c.length)
  (r.1.allStops c.grp c.lanes r.2 x.stepping x.halting).settleGroup c.grp

/-- After one pass: the next pass, the end of the offset, or what a trap or a stall left. -/
def State.afterPass (s : State) (q : Nat) : State :=
  let f := s.focus
  match (s.quads.get q).cur with
  | none => s
  | some c =>
    if f.trapped then s
    else if f.stalled then s.stopIssue c.grp
    else
      let c1 : Issue := { c with passes := c.passes.drop 1, goes := f.goes ++ c.goes, first := false, fresh := false }
      if c1.passes = [] then s.finishOffset q c1 else s.onQuad q (fun k => { k with cur := some c1 })

/-- An access that an earlier pass of the offset made is in a state. -/
def State.passOp (s : State) (c : Issue) (p : OpStatus) : Bool :=
  !c.fresh && s.ops.any (fun e => decide (c.names ≤ e.1 ∧ e.2.status = p) && e.2.live && e.2.grp == c.grp && e.2.uid == c.uid)

/-- A later pass of an offset waits for the translations of the accesses of the passes before it (R33, R385),
for a TXEND of them (R259), for their accesses that a logged load would pass (R171), and for a relock of the die's
clock (R380). It does not wait for an LDA, a FENCE.REL or a FENCE.SC of an earlier pass: R33 issues the passes in
consecutive cycles, and R172 and R188 do not say whether they hold it; and a barrier arrival, a FENCE or a QPUSH of a
later pass does not wait for the accesses that earlier passes of the offset made (R190; DESIGN CHOICE, log entry 79). -/
def State.passWaits (s : State) (c : Issue) : Bool :=
  s.passOp c .walking || (!c.fresh && ((s.splitOf c.grp c.uid).commitWait.isSome
    || ((s.group c.grp).txOpen != 0 && s.storeAhead c.grp (s.splitOf c.grp c.uid))))
  || s.relocking (dieOfGroup c.grp)

/-- The lanes of a pass that double-stroke mode checks: those whose partner, lane XOR 16, is in another pass
or in none (R46). -/
def strokeLanes (m : Mask) : Mask := maskOf (fun L => inMask m L && !inMask m (L ^^^ 16))

/-- One pass of the offset a quad is in the middle of. While it waits no other split of the quad issues (R33); a
fault of a pass before it is served first (R385).
`once` are the lanes whose two results would differ, and `twice` those of them that differ again when the
pass executes once more (R46). -/
noncomputable def State.runPass (s : State) (q : Nat) (once twice : Mask) : Out :=
  match (s.quads.get q).cur with
  | none => .next s
  | some c =>
    match c.passes with
    | [] => .next (s.finishOffset q c)
    | p :: _ =>
      if s.passWaits c then .next { s with now := s.now + 1 } else
      let hit := if c.dstroke && p.doubled then once &&& strokeLanes p.mask else 0
      let s0 : State := if hit = 0 then s else { s with now := s.now + 1 }
      let s1 := s0.focusPass q c.grp c.uid c.length p c.lanes c.same c.first
      if hit &&& twice ≠ 0 then
        let L := lowLane (hit &&& twice)
        .next (s1.takeTrap .dstroke (L + 32 * (L ^^^ 16)) (hit &&& twice) (s1.fetchAddr c.grp s1.focus.version p.plane.toNat s1.focus.offset))
      else match exec (refineCommand p.instr (fun r => s1.cur.sAt r.toNat)) (if c.fresh then s1 else { s1 with now := s1.now + 1 }) with
      | .next t => .next (t.afterPass q)
      | .fault f => .fault f
      | .refused r => .refused r

/-! ### After every step -/

/-- R102, R382: records whose time has come, and watchpoint hits made after the offset. -/
def State.lateStops (s : State) : State :=
  s.groups.foldl (fun (st : State) e =>
    if !e.2.live then st else
    (e.2.splits).foldl (fun (st : State) y =>
      let x := st.splitOf e.1 y.uid
      if x.spoil.isSome then st.deliverSpoil e.1 y.uid else
      match x.trap, x.watch with
      | some r, ws =>
        if x.out ≠ [] then st
        -- an access of the offset of a TRAP or BRKPT has hit a watchpoint since (log entry 98)
        else if (r.cause = .trap ∨ r.cause = .brkpt ∧ r.detail = 0) ∧ ws.any (fun h => h.next == r.offset) = true then
          (st.onSplit e.1 y.uid (fun z => { z with trap := none })).stopsAfter e.1 y.uid x.mask
        else st.deliver e.1 y.uid { r with retired := (st.group e.1).retired, time := st.claveOf (dieOfGroup e.1) }
      | none, _ :: _ =>
        if ((st.quads.get (quadOfGroup e.1)).cur.map (fun c => c.uid)) = some y.uid ∨ x.stopped = true ∨ x.rest.isSome then st
        else st.stopsAfter e.1 y.uid x.mask
      | none, [] => st) st) s

/-- R192: the word that a signal wait tests, as its core sees it. -/
def State.signalWord (s : State) (core pa : Nat) : Word :=
  let l := (s.cores.get core).l1.get (lineOf pa)
  BitVec.ofNat 32 (if l.st = .priv then lineElem l.bytes (pa % 64) 4 else s.readPa pa 4)

/-- R192: a signal wait ends when its word has reached the value: the test is an acquiring load at system scope, no
copy older than it stays in the core (R246), and the split takes the settle time of the value (R239). A test of a line
with an uncorrectable error traps (R332): one that would end the wait, or that a write of the line has brought. -/
def State.pollSignals (s : State) : State :=
  s.groups.foldl (fun (st : State) e => st.overWaits e.1 (fun st x w =>
    match w with
    | .signal a pa v last src =>
      let word := st.signalWord (coreOfGroup e.1) pa
      if st.relocking (dieOfGroup e.1) || x.trap.isSome then st else
      match st.lineError (lineOf pa) with
      | some n =>
        if v.toNat ≤ word.toNat ∨ word ≠ last then
          st.trapSplit e.1 x.uid (st.record e.1 x.uid .ecc n 0 a src.1 (st.activeLanes e.1 x.uid) src.2)
        else st
      | none =>
      if v.toNat ≤ word.toNat then
        ((((noteSettle (st.dropLeased (coreOfGroup e.1) (lineOf pa)) e.1 x.uid (st.homeLine (lineOf pa)).settle).acquireAt e.1 x.uid 3).endWait e.1 x.uid w)).onHome (lineOf pa)
          (fun h => { h with watchers := h.watchers.erase (e.1, x.uid) })
      else st
    | _ => st)) s

/-- R144, R147: the splits that a HALT found in the middle of an offset, or in a saved block, stop before
their next one. -/
def State.haltStops (s : State) : State :=
  s.groups.foldl (fun (st : State) e =>
    if !e.2.live then st else
    match (e.2.splits.filter (fun x => x.halting && !x.stopped && x.rest.isNone
        && ((st.quads.get (quadOfGroup e.1)).cur.map (fun c => c.uid)) != some x.uid)).map (fun x => x.uid) with
    | [] => st
    | us => (us.foldl (fun (st : State) u => st.onSplit e.1 u (fun y => { y with halting := false })) st).stopBatch e.1 us 1) s

/-- R366: a HALT's split goes on once the splits that it waited for have stopped. -/
def State.endHalts (s : State) : State :=
  s.groups.foldl (fun (st : State) e => st.overWaits e.1 (fun st x w =>
    match w with
    | .halt => if st.haltPending (st.blockOf e.1).launch e.1 x.uid then st else st.endWait e.1 x.uid .halt
    | _ => st)) s

/-- R385: an offset whose access has faulted keeps the passes that it has still to issue. -/
def State.faultStops (s : State) : State :=
  s.quads.foldl (fun (st : State) e =>
    match e.2.cur with
    | some c => if st.passOp c .faulted then st.stopIssue c.grp else st
    | none => st) s

/-- R325: the wait clocks run while every non-exited split of the block waits. -/
def State.runClocks (s : State) : State :=
  s.blocks.foldl (fun (st : State) e =>
    if !e.2.live then st else
    let all := e.2.groups.all (fun g => (st.group g).splits.all (fun x => st.charged g x))
    match all, e.2.waiting with
    | true, none => st.onBlock e.1 (fun y => { y with waiting := some st.now })
    | false, some t => st.onBlock e.1 (fun y => { y with waiting := none, waited := y.waited + (st.now - t) })
    | _, _ => st) s

/-- R140: a split leaves the yield set when it is no longer ready. -/
noncomputable def State.runYields (s : State) : State :=
  s.quads.foldl (fun (st : State) e =>
    if e.2.yields = [] then st else
    st.onQuad e.1 (fun k =>
      let live (y : Nat × Nat) : Bool := st.ready y.1 (st.splitOf y.1 y.2) && ((st.group y.1).entryOf y.2).isSome
      { k with yields := (k.yields.map (fun w => ({ w with left := w.left.filter live } : Yield))).filter (fun w => w.left != []) })) s

/-- R366, R377: records of the stub's queue whose stash bytes may be written now; check records of events that are
complete; and trace records whose release is complete. -/
def State.settleRecords (s : State) : State :=
  let s1 := s.launches.foldl (fun (st : State) e => if e.2.live && e.2.stubQ != [] then st.serveStub e.1 else st) s
  let s2 := s1.groups.foldl (fun (st : State) e => if e.2.live then st.payOwed e.1 else st) s1
  s2.ctxs.foldl (fun (st : State) e => if e.2.traceOut = [] then st else st.countTraces e.1) s2

/-- What follows every step. -/
noncomputable def State.settleStep (s : State) : State :=
  let s0 := s.payErrors.markTakes.settleRecords
  let s1 := s0.groups.foldl (fun (st : State) e => st.settleGroup e.1) s0.faultStops
  let s2 := s1.lateStops.haltStops.endHalts.pollSignals.serveRings
  -- a successor that waits for launch or group slots gets them as soon as they are free (R135)
  (s2.retryEnds.runClocks).runYields.trimCaches

end Sys2Proof.Machine
end

