-- ==== Sys2Proof/Machine/Step.lean ====
section
/-! DEFINITION. One step of the module: an event occurs, a pass of an offset issues, or time passes.
Which of them moves next is the list `turns` of the state; with an empty list the order is the model's
own. Then what follows every step (`settleStep`). And the placing of one instruction where the next
step fetches. -/

namespace Sys2Proof.Machine

/-- The k-th of the events under way, or after those, of the events due. One that would cross between the clocks of a
die that is relocking waits (R380). -/
def State.occur (s : State) (k : Nat) : Out :=
  match s.pending[k]? with
  | some e => if s.held e then .next { s with now := s.now + 1 } else exec e { s with pending := s.pending.eraseIdx k }
  | none =>
    match s.dueEvents[k - s.pending.length]? with
    | some e => exec e s
    | none => .next { s with now := s.now + 1 }

/-- A quad goes on with its offset, or issues one and runs its first pass; `once` and `twice` are the lanes
in which doubled results differ (R46). -/
noncomputable def State.runQuad (s : State) (q : Nat) (once twice : Mask) : Out :=
  match (s.quads.get q).cur with
  | some _ => s.runPass q once twice
  | none =>
    match s.issueQuad q with
    | .next t => t.runPass q once twice
    | .fault f => .fault f
    | .refused r => .refused r

/-- R332: a pass reads an uncorrectable error in some of its lanes and traps precisely. -/
noncomputable def State.passError (s : State) (q : Nat) (hit : Mask) (f : State → Issue → Pass → Option (State × Nat × DWord)) : Out :=
  match (match (s.quads.get q).cur with | some _ => .next s | none => s.issueQuad q : Out) with
  | .next t => .next (match (t.quads.get q).cur with
    | some c =>
      (match c.passes with
      | p :: _ =>
        if hit &&& p.mask = 0 || t.passWaits c then t else
        (match f t c p with
        | some (t1, source, a) => (t1.focusPass q c.grp c.uid c.length p c.lanes c.same c.first).takeTrap .ecc source (hit &&& p.mask) a
        | none => t)
      | [] => t)
    | none => t)
  | .fault f => .fault f
  | .refused r => .refused r

/-- An error in the register file: detail 4; the core counts it (R356). -/
noncomputable def State.registerError (s : State) (q : Nat) (hit : Mask) : Out :=
  s.passError q hit (fun t c _ => some (t.onCore (coreOfGroup c.grp) (fun k => { k with regErrors := k.regErrors + 1 }), 4, 0))

/-- An error in the stash words that a QPOP or a QTRY takes: detail 3. -/
noncomputable def State.stashPassError (s : State) (q : Nat) (hit : Mask) : Out :=
  s.passError q hit (fun t c p =>
    let at_ (k : BitVec 3) (n : Nat) : Option (State × Nat × DWord) :=
      let y := ((t.blockOf c.grp).queues.get k.toNat)
      if n = 0 ∨ y.count < n then none else some (t, 3, BitVec.ofNat 64 (y.at 0))
    match p.instr with
    | .qpop _ k => if ((t.blockOf c.grp).queues.get k.toNat).pops = [] then at_ k (laneCount p.mask) else none
    | .qtry _ k _ => at_ k (min (laneCount p.mask) ((t.blockOf c.grp).queues.get k.toNat).count)
    | _ => none)

/-- R332: an outstanding load, ATOM, stash load or MMAS finds an uncorrectable error in L1 (detail 2) or in the stash
(detail 3) where its data are consumed. -/
def State.spoiled (s : State) (i : Nat) (hit : Mask) : State :=
  let o := s.op i
  let m := hit &&& o.mask
  if !o.live || o.status == .faulted || o.status == .walking then s
  else if ((productOf o.instr).map (fun p => p.fromStash)) == some true then s.eccOp i 3 0 (o.addr.get 0)
  else if m == 0 || (destOf o.instr).isNone then s
  else if (shapeOf o.instr).isSome then s.eccOp i 2 m (o.addr.get (lowLane m))
  else if (stashShape o.instr).isSome then s.eccOp i 3 m (o.addr.get (lowLane m))
  else s

noncomputable def State.move (s : State) (t : Turn) : Out :=
  match t with
  | .event k => s.occur k
  | .issue q => s.runQuad q 0 0
  | .struck q once twice => s.runQuad q once twice
  | .early i key last => .next (s.earlyWrite i key last)
  | .read core n key => .next (s.engineRead core n key)
  | .element core key => .next (s.engineElement core key)
  | .ahead g uid plane o => .next (s.fetchAhead g uid plane o)
  | .gongError die => .next (s.gongError die)
  | .registerError q hit => s.registerError q hit
  | .spoiled i hit => .next (s.spoiled i hit)
  | .queueError q hit => s.stashPassError q hit
  | .popError b k hit => .next (s.popError b k hit)
  | .copyError g id => .next (s.copyError g id)
  | .copyWord g id k => .next (s.copyEarly g id k)
  | .classChange ctx => .next (s.classChange ctx)
  | .complexFail standby => .next (s.complexFail standby)
  | .cooled die => .next (s.cooled die)
  | .replicasAgree launch => .next (s.replicasAgree launch)
  | .flitSent port lane => .next (s.flitSent port lane)
  | .time n => .next { s with now := s.now + n }

/-- The model's own order: offsets in progress, events due, then issue and events in turn. -/
noncomputable def State.defaultTurn (s : State) : Option Turn :=
  match s.quads.find? (fun e => e.2.cur.any (fun c => !s.passWaits c)) with
  | some e => some (.issue e.1)
  | none =>
    if s.dueEvents ≠ [] then some (.event s.pending.length)
    else if s.powered = false ∧ s.pending = [] then none
    else match s.nextIssue with
      | some q => if s.now % 2 = 1 then some (.issue q) else some ((s.firstFree.map Turn.event).getD (.issue q))
      | none => some ((s.firstFree.map Turn.event).getD (.time 1))

/-- What follows every move. -/
noncomputable def settled (o : Out) : Out :=
  match o with
  | .next t => .next t.settleStep
  | .fault f => .fault f
  | .refused r => .refused r

/-- One step of the module. -/
noncomputable def step (s : State) : Host.Outcome State Fault Refusal :=
  match s.turns with
  | t :: ts => settled (({ s with turns := ts } : State).move t)
  | [] =>
    match s.defaultTurn with
    | some t => settled (s.move t)
    | none => .fault .noPower

/-! ### One instruction where the next step fetches -/

/-- The code of the program that stands for a load from outside: its base in the heap window. -/
def loadBase : Nat := 65536

/-- Its launch record: one block of one group of 32 lanes, 64 registers, every slot INT8 (code 14);
a debug launch only when the instruction is a debug operation. -/
def loadRecord (w : Nat) : Record :=
  { dieMask := 1, debug := debugWord w, regs := 64, level := 1, widths := [5, 0, 0, 0, 0, 0]
    extents := [32, 1, 1, 1, 1, 1], stash := 4096
    slots := [(0, 14), (1, 14), (2, 14), (3, 14), (4, 14), (5, 14), (6, 14), (7, 14)] }

def loadLaunch (w : Nat) : Launch :=
  { live := true, rec_ := loadRecord w, placed := 1
    entries := [(0, { codeBase := BitVec.ofNat 64 loadBase, length := 4096, stride := 4096, regs := 64, planes := 1 })] }

/-- A context whose heap window maps the low 4 GiB to themselves, cacheable (class 1), readable,
writable and executable. Nothing maps its save area: a block that is pre-empted is kept as data (log entry 43). -/
def loadContext : Context := { st := .running, heapLimit := 0x100000000, heapAttr := 0x1D, lease := 256, saveArea := 0x10000000000 }

def loadBlock : Block := { live := true, groups := [0], stash := 256, stashSize := 4096 }

/-- The instruction stands at offset 0 of plane 0 of a group that is alone on quad 0, which moves next. -/
def State.withFetchWord (s : State) (nbits w : Nat) : State :=
  if nbits = 0 then s else
  let code := (bytesLE 8 w).zipIdx.map (fun e => (loadBase + e.2, e.1))
  { s with
    powered := true, turns := [.issue 0], nextOp := s.nextOp + 1
    mem := putBytes s.mem code, home := s.home.erase (loadBase / 64)
    ctxs := s.ctxs.put 0 loadContext, launches := s.launches.put 0 (loadLaunch w)
    blocks := s.blocks.put 0 loadBlock
    groups := s.groups.put 0 (startGroup s.nextOp 0 0 32 (loadRecord w) 0 256 0 none)
    quads := s.quads.put 0 {}
    dies := s.dies.upd 0 (fun d => { d with relock := none })
    cores := s.cores.upd 0 (fun c => { c with removed := false, l1i := c.l1i.erase (loadBase / 64) }) }

end Sys2Proof.Machine
end

