-- ==== Sys2Proof/Safety.lean ====
section
/-! DEFINITION. The terms in which claims about the module are stated: an instruction that completes, what it
leaves as it was, the results of the operand forms, and the canonical form of memory. -/

namespace Sys2Proof.Machine

/-- Memory is in its canonical form: addresses strictly rising, no byte listed that an unlisted address
reads as. -/
abbrev Memory.wf (m : Store Byte) : Prop := Store.wf m = true

/-- An instruction completes: it answers a next state, of which something holds. -/
def Completes (i : Instr) (s : State) (P : State → Prop) : Prop := ∃ t, exec i s = .next t ∧ P t

/-! ### Frames -/

/-- Every byte of memory reads as before. -/
def SameBytes (s t : State) : Prop := ∀ a, t.byteAt a = s.byteAt a

/-- Only the group in focus may differ: every other group, every byte of memory and every other part of the
module is as before. -/
def OnlyCur (s t : State) : Prop :=
  { t with groups := s.groups } = s ∧ (∀ g, g ≠ s.focus.grp → t.group g = s.group g) ∧ SameBytes s t

/-- Only vector registers of the group in focus may differ. -/
def OnlyV (s t : State) : Prop := OnlyCur s t ∧ { t.cur with v := s.cur.v } = s.cur
/-- Only its scalar registers. -/
def OnlyS (s t : State) : Prop := OnlyCur s t ∧ { t.cur with s := s.cur.s } = s.cur
/-- Only its predicates. -/
def OnlyP (s t : State) : Prop := OnlyCur s t ∧ { t.cur with p := s.cur.p } = s.cur
/-- Only where lanes are sent next. -/
def OnlyGoes (s t : State) : Prop := { t with focus := { t.focus with goes := s.focus.goes } } = s ∧ SameBytes s t

/-! ### Which lanes act (R33, R113) -/

/-- Lane L is in the mask of the pass. -/
def State.inPass (s : State) (L : Nat) : Bool := inMask s.focus.mask L
/-- An instruction that executes once acts in this pass: the pass holds a lane, and when every pass holds the
same word it is the first. -/
def State.actsOnce (s : State) : Bool := s.focus.mask != 0 && (!s.focus.same || s.focus.first)
/-- The lanes it acts for: the union of the passes when every pass holds the same word, otherwise the pass. -/
def State.onceSet (s : State) : Mask := if s.focus.same then s.focus.lanes else s.focus.mask

/-! ### Results of the operand forms -/

/-- A lane-wise instruction completes in every state: v[d] of each lane of the pass holds the value, every other
register and lane keeps its own, and nothing else changes. -/
def VectorResult (i : Instr) (d : Reg) (val : State → Nat → Word) : Prop :=
  ∀ s, Completes i s (fun t => OnlyV s t ∧ ∀ r L, L < 32 →
    t.cur.vAt r L = if r = d.toNat ∧ s.inPass L = true then val s L else s.cur.vAt r L)

/-- The same for a pair: bits 31:0 in d, bits 63:32 in d + 1 (R112). -/
def PairResult (i : Instr) (d : Reg) (val : State → Nat → DWord) : Prop :=
  ∀ s, Completes i s (fun t => OnlyV s t ∧ ∀ r L, L < 32 →
    t.cur.vAt r L = if s.inPass L = true then
        (if r = d.toNat then (val s L).extractLsb' 0 32
         else if r = d.toNat + 1 then (val s L).extractLsb' 32 32 else s.cur.vAt r L)
      else s.cur.vAt r L)

/-- The same for a predicate. -/
def PredResult (i : Instr) (p : BitVec 3) (val : State → Nat → Bool) : Prop :=
  ∀ s, Completes i s (fun t => OnlyP s t ∧ ∀ q L, L < 32 →
    t.cur.pAt q L = if q = p.toNat ∧ s.inPass L = true then val s L else s.cur.pAt q L)

/-- A group-uniform instruction completes in every state: where it acts, s[d] holds the value. -/
def ScalarResult (i : Instr) (d : Reg) (val : State → Word) : Prop :=
  ∀ s, Completes i s (fun t => OnlyS s t ∧ ∀ r,
    t.cur.sAt r = if r = d.toNat ∧ s.actsOnce = true then val s else s.cur.sAt r)

/-- The same for a scalar pair. -/
def ScalarPairResult (i : Instr) (d : Reg) (val : State → DWord) : Prop :=
  ∀ s, Completes i s (fun t => OnlyS s t ∧ ∀ r,
    t.cur.sAt r = if s.actsOnce = true then
        (if r = d.toNat then (val s).extractLsb' 0 32
         else if r = d.toNat + 1 then (val s).extractLsb' 32 32 else s.cur.sAt r)
      else s.cur.sAt r)

/-- R114: one operation in its three operand forms: vectors, vector with scalar, scalars. -/
def ThreeForms (v vs sc : Reg → Reg → Reg → Instr) (op : Word → Word → Word) : Prop :=
  (∀ d a b, VectorResult (v d a b) d (fun s L => op (s.vR a L) (s.vR b L)))
  ∧ (∀ d a b, VectorResult (vs d a b) d (fun s L => op (s.vR a L) (s.sR b)))
  ∧ (∀ d a b, ScalarResult (sc d a b) d (fun s => op (s.sR a) (s.sR b)))

/-- The same for an operation of one source. -/
def ThreeFormsOf1 (v vs sc : Reg → Reg → Instr) (op : Word → Word) : Prop :=
  (∀ d a, VectorResult (v d a) d (fun s L => op (s.vR a L)))
  ∧ (∀ d a, VectorResult (vs d a) d (fun s L => op (s.vR a L)))
  ∧ (∀ d a, ScalarResult (sc d a) d (fun s => op (s.sR a)))

/-- R116: an operation with an immediate, in its two forms. -/
def WithImmediate {n : Nat} (v sc : Reg → Reg → BitVec n → Instr) (op : Word → BitVec n → Word) : Prop :=
  (∀ d a k, VectorResult (v d a k) d (fun s L => op (s.vR a L) k))
  ∧ (∀ d a k, ScalarResult (sc d a k) d (fun s => op (s.sR a) k))

/-- R150, R153: two sources, vectors, and vector with scalar. -/
def TwoForms (v vs : Reg → Reg → Reg → Instr) (op : Word → Word → Word) : Prop :=
  (∀ d a b, VectorResult (v d a b) d (fun s L => op (s.vR a L) (s.vR b L)))
  ∧ (∀ d a b, VectorResult (vs d a b) d (fun s L => op (s.vR a L) (s.sR b)))

/-- One source, vector form only in both encodings. -/
def TwoFormsOf1 (v vs : Reg → Reg → Instr) (op : Word → Word) : Prop :=
  (∀ d a, VectorResult (v d a) d (fun s L => op (s.vR a L)))
  ∧ (∀ d a, VectorResult (vs d a) d (fun s L => op (s.vR a L)))

/-- Vectors only: one, two and three sources. -/
def Vector1 (v : Reg → Reg → Instr) (op : Word → Word) : Prop :=
  ∀ d a, VectorResult (v d a) d (fun s L => op (s.vR a L))
def Vector2 (v : Reg → Reg → Reg → Instr) (op : Word → Word → Word) : Prop :=
  ∀ d a b, VectorResult (v d a b) d (fun s L => op (s.vR a L) (s.vR b L))
def Vector3 (v : Reg → Reg → Reg → Reg → Instr) (op : Word → Word → Word → Word) : Prop :=
  ∀ d a b c, VectorResult (v d a b c) d (fun s L => op (s.vR a L) (s.vR b L) (s.vR c L))
/-- The 16-bit form (R95): the destination is also the first source. -/
def Short2 (v : Reg → BitVec 5 → Instr) (op : Word → Word → Word) : Prop :=
  ∀ d b, VectorResult (v d b) d (fun s L => op (s.vR d L) (s.cur.vAt b.toNat L))

end Sys2Proof.Machine
end

