-- ==== Sys2Proof/Certificates/Slice0/Obligations.lean ====
section
/-! DEFINITION. The statements for the provers, from the numbered rules of the spec: what each instruction and
each event does, what it leaves as it was, and what every step keeps. -/

open Sys2Proof Sys2Proof.Machine

/-! ### Integer instructions -/

/-- R114, R115: the arithmetic minors complete everywhere with their values; the vector forms write the lanes of
the pass only, the scalar form acts once. -/
def Obligations.IaluArithmetic : Prop :=
  ThreeForms Instr.iadd Instr.iaddVs Instr.iaddS (fun x y => x + y)
  ∧ ThreeForms Instr.isub Instr.isubVs Instr.isubS (fun x y => x - y)
  ∧ ThreeForms Instr.imul Instr.imulVs Instr.imulS (fun x y => x * y)
  ∧ ThreeForms Instr.imulhi Instr.imulhiVs Instr.imulhiS (fun x y => BitVec.ofInt 32 ((x.toInt * y.toInt) >>> 32))
  ∧ ThreeForms Instr.umulhi Instr.umulhiVs Instr.umulhiS (fun x y => BitVec.ofNat 32 ((x.toNat * y.toNat) >>> 32))
  ∧ ThreeForms Instr.iabsd Instr.iabsdVs Instr.iabsdS (fun x y => BitVec.ofNat 32 (x.toInt - y.toInt).natAbs)

/-- R115: the smaller and the larger operand, and the saturating sums and differences. R115: logic, shifts by bits 4:0 of y, the rotate, and MOV. -/
def Obligations.IaluSelectionLogicAndShifts : Prop :=
  (ThreeForms Instr.imin Instr.iminVs Instr.iminS (fun x y => if x.toInt < y.toInt then x else y)
  ∧ ThreeForms Instr.imax Instr.imaxVs Instr.imaxS (fun x y => if y.toInt < x.toInt then x else y)
  ∧ ThreeForms Instr.umin Instr.uminVs Instr.uminS (fun x y => if x.toNat < y.toNat then x else y)
  ∧ ThreeForms Instr.umax Instr.umaxVs Instr.umaxS (fun x y => if y.toNat < x.toNat then x else y)
  ∧ ThreeForms Instr.iadds Instr.iaddsVs Instr.iaddsS
      (fun x y => BitVec.ofInt 32 (max (-2 ^ 31) (min (2 ^ 31 - 1) (x.toInt + y.toInt))))
  ∧ ThreeForms Instr.isubs Instr.isubsVs Instr.isubsS
      (fun x y => BitVec.ofInt 32 (max (-2 ^ 31) (min (2 ^ 31 - 1) (x.toInt - y.toInt))))
  ∧ ThreeForms Instr.uadds Instr.uaddsVs Instr.uaddsS (fun x y => BitVec.ofNat 32 (min (2 ^ 32 - 1) (x.toNat + y.toNat)))
  ∧ ThreeForms Instr.usubs Instr.usubsVs Instr.usubsS (fun x y => BitVec.ofNat 32 (x.toNat - y.toNat)))
  ∧ (ThreeForms Instr.and Instr.andVs Instr.andS (fun x y => x &&& y)
  ∧ ThreeForms Instr.or Instr.orVs Instr.orS (fun x y => x ||| y)
  ∧ ThreeForms Instr.xor Instr.xorVs Instr.xorS (fun x y => x ^^^ y)
  ∧ ThreeForms Instr.andn Instr.andnVs Instr.andnS (fun x y => x &&& ~~~y)
  ∧ ThreeForms Instr.shl Instr.shlVs Instr.shlS (fun x y => x <<< y.extractLsb' 0 5)
  ∧ ThreeForms Instr.shr Instr.shrVs Instr.shrS (fun x y => x >>> y.extractLsb' 0 5)
  ∧ ThreeForms Instr.sar Instr.sarVs Instr.sarS (fun x y => x.sshiftRight (y.extractLsb' 0 5).toNat)
  ∧ ThreeForms Instr.rol Instr.rolVs Instr.rolS (fun x y =>
      let n := (y.extractLsb' 0 5).toNat
      if n = 0 then x else (x <<< n) ||| (x >>> (32 - n)))
  ∧ (∀ d b, VectorResult (.mov d b) d (fun s L => s.vR b L))
  ∧ (∀ d b, VectorResult (.movVs d b) d (fun s _ => s.sR b))
  ∧ (∀ d b, ScalarResult (.movS d b) d (fun s => s.sR b)))

/-- R115: bit counts, the reversed word, and bit fields. A field is sign-extended by moving it to the top of the
word and back with copies of its top bit. R115: the compares that write 1 or 0. -/
def Obligations.IaluBitsFieldsAndCompares : Prop :=
  (let pos (y : Word) : Nat := y.toNat % 32
  let len (y : Word) : Nat := min (y.toNat / 32 % 64) (32 - pos y)
  ThreeFormsOf1 Instr.popc Instr.popcVs Instr.popcS
      (fun x => BitVec.ofNat 32 ((List.range 32).countP (fun i => x.getLsbD i)))
  ∧ (∃ clz : Word → Word, ThreeFormsOf1 Instr.clz Instr.clzVs Instr.clzS clz ∧ clz 0 = 32
      ∧ ∀ x, x ≠ 0 → (clz x).toNat < 32 ∧ x.getLsbD (31 - (clz x).toNat) = true
          ∧ ∀ i, i < (clz x).toNat → x.getLsbD (31 - i) = false)
  ∧ (∃ brev : Word → Word, ThreeFormsOf1 Instr.brev Instr.brevVs Instr.brevS brev
      ∧ ∀ x i, i < 32 → (brev x).getLsbD i = x.getLsbD (31 - i))
  ∧ ThreeForms Instr.ubfe Instr.ubfeVs Instr.ubfeS
      (fun x y => (x >>> pos y) &&& BitVec.ofNat 32 (2 ^ len y - 1))
  ∧ ThreeForms Instr.bfe Instr.bfeVs Instr.bfeS
      (fun x y => if len y = 0 then 0 else ((x >>> pos y) <<< (32 - len y)).sshiftRight (32 - len y)))
  ∧ (ThreeForms Instr.isetLt Instr.isetLtVs Instr.isetLtS (fun x y => if x.toInt < y.toInt then 1 else 0)
  ∧ ThreeForms Instr.isetLe Instr.isetLeVs Instr.isetLeS (fun x y => if x.toInt ≤ y.toInt then 1 else 0)
  ∧ ThreeForms Instr.isetEq Instr.isetEqVs Instr.isetEqS (fun x y => if x = y then 1 else 0)
  ∧ ThreeForms Instr.isetNe Instr.isetNeVs Instr.isetNeS (fun x y => if x = y then 0 else 1)
  ∧ ThreeForms Instr.usetLt Instr.usetLtVs Instr.usetLtS (fun x y => if x.toNat < y.toNat then 1 else 0)
  ∧ ThreeForms Instr.usetLe Instr.usetLeVs Instr.usetLeS (fun x y => if x.toNat ≤ y.toNat then 1 else 0))

/-- R116, R117, R95: immediates and constants. -/
def Obligations.Immediates : Prop :=
  WithImmediate Instr.iaddi Instr.iaddiS (fun x (k : BitVec 12) => x + k.signExtend 32)
  ∧ WithImmediate Instr.andi Instr.andiS (fun x (k : BitVec 12) => x &&& k.signExtend 32)
  ∧ WithImmediate Instr.ori Instr.oriS (fun x (k : BitVec 12) => x ||| k.signExtend 32)
  ∧ WithImmediate Instr.xori Instr.xoriS (fun x (k : BitVec 12) => x ^^^ k.signExtend 32)
  ∧ WithImmediate Instr.shli Instr.shliS (fun x (k : BitVec 5) => x <<< k.toNat)
  ∧ WithImmediate Instr.shri Instr.shriS (fun x (k : BitVec 5) => x >>> k.toNat)
  ∧ WithImmediate Instr.sari Instr.sariS (fun x (k : BitVec 5) => x.sshiftRight k.toNat)
  ∧ (∀ d k, VectorResult (.movk d k) d (fun _ _ => k.signExtend 32))
  ∧ (∀ d k, ScalarResult (.movkS d k) d (fun _ => k.signExtend 32))
  ∧ (∀ d k, VectorResult (.movkh d k) d (fun s L => (k.setWidth 32 <<< 14) ||| (s.vR d L &&& 0x3FFF)))
  ∧ (∀ d k, ScalarResult (.movkhS d k) d (fun s => (k.setWidth 32 <<< 14) ||| (s.sR d &&& 0x3FFF)))
  ∧ (∀ d k, VectorResult (.iaddI5 d k) d (fun s L => s.vR d L + k.signExtend 32))

/-- R118: the pair instructions; the last clause says how a pair is read (R112). -/
def Obligations.PairOperations : Prop :=
  (∀ d a b, PairResult (.iaddD d a b) d (fun s L => s.vP a L + s.vP b L))
  ∧ (∀ d a b, ScalarPairResult (.iaddDS d a b) d (fun s => s.sP a + s.sP b))
  ∧ (∀ d a b, PairResult (.isubD d a b) d (fun s L => s.vP a L - s.vP b L))
  ∧ (∀ d a b, ScalarPairResult (.isubDS d a b) d (fun s => s.sP a - s.sP b))
  ∧ (∀ d a b, PairResult (.shlD d a b) d (fun s L => s.vP a L <<< (s.vR b L).extractLsb' 0 6))
  ∧ (∀ d a b, ScalarPairResult (.shlDS d a b) d (fun s => s.sP a <<< (s.sR b).extractLsb' 0 6))
  ∧ (∀ d a b, PairResult (.shrD d a b) d (fun s L => s.vP a L >>> (s.vR b L).extractLsb' 0 6))
  ∧ (∀ d a b, ScalarPairResult (.shrDS d a b) d (fun s => s.sP a >>> (s.sR b).extractLsb' 0 6))
  ∧ (∀ d a b, PairResult (.sarD d a b) d (fun s L => (s.vP a L).sshiftRight ((s.vR b L).extractLsb' 0 6).toNat))
  ∧ (∀ d a b, ScalarPairResult (.sarDS d a b) d (fun s => (s.sP a).sshiftRight ((s.sR b).extractLsb' 0 6).toNat))
  ∧ (∀ d a b, PairResult (.imulw d a b) d (fun s L => (s.vR a L).signExtend 64 * (s.vR b L).signExtend 64))
  ∧ (∀ d a b, ScalarPairResult (.imulwS d a b) d (fun s => (s.sR a).signExtend 64 * (s.sR b).signExtend 64))
  ∧ (∀ d a b, PairResult (.umulw d a b) d (fun s L => (s.vR a L).setWidth 64 * (s.vR b L).setWidth 64))
  ∧ (∀ d a b, ScalarPairResult (.umulwS d a b) d (fun s => (s.sR a).setWidth 64 * (s.sR b).setWidth 64))
  ∧ (∀ d a b, PairResult (.iaddw d a b) d (fun s L => s.vP a L + (s.vR b L).signExtend 64))
  ∧ (∀ d a b, ScalarPairResult (.iaddwS d a b) d (fun s => s.sP a + (s.sR b).signExtend 64))
  ∧ (∀ d a b, PairResult (.uaddw d a b) d (fun s L => s.vP a L + (s.vR b L).setWidth 64))
  ∧ (∀ d a b, ScalarPairResult (.uaddwS d a b) d (fun s => s.sP a + (s.sR b).setWidth 64))
  ∧ ∀ (s : State) (a : Reg) L, s.vP a L = s.cur.vAt (a.toNat + 1) L ++ s.cur.vAt a.toNat L
      ∧ s.sP a = s.cur.sAt (a.toNat + 1) ++ s.cur.sAt a.toNat

/-- R119: IMAD, its two words in format A4, and the worked word. -/
def Obligations.MultiplyAdd : Prop :=
  Vector3 Instr.imad (fun x y z => BitVec.ofNat 32 (x.toNat * y.toNat + z.toNat))
  ∧ (∀ d a b c, ScalarResult (.imadS d a b c) d (fun s => BitVec.ofNat 32 ((s.sR a).toNat * (s.sR b).toNat + (s.sR c).toNat)))
  ∧ (∀ x y z : Word, BitVec.ofNat 32 (x.toNat * y.toNat + z.toNat) = BitVec.ofInt 32 (x.toInt * y.toInt + z.toInt))
  ∧ (∀ d a b c : Reg, decodeWord (0x0D * 2 + 1 + d.toNat * 2 ^ 8 + a.toNat * 2 ^ 14 + b.toNat * 2 ^ 20 + c.toNat * 2 ^ 26) = .ok (.imad d a b c)
      ∧ decodeWord (0x3A * 2 + 1 + d.toNat * 2 ^ 8 + a.toNat * 2 ^ 14 + b.toNat * 2 ^ 20 + c.toNat * 2 ^ 26) = .ok (.imadS d a b c))
  ∧ decodeWord 0x1C61441B = .ok (.imad 4 5 6 7)

/-- R120: the field of b goes into a; a field of no bits leaves a. -/
def Obligations.BitInsert : Prop :=
  let pos (z : Word) : Nat := z.toNat % 32
  let len (z : Word) : Nat := min (z.toNat / 32 % 64) (32 - pos z)
  let mask (z : Word) : Word := BitVec.ofNat 32 (2 ^ len z - 1) <<< pos z
  Vector3 Instr.bfi (fun x y z => (x &&& ~~~(mask z)) ||| ((y <<< pos z) &&& mask z))
  ∧ (∀ x y z : Word, len z = 0 → (x &&& ~~~(mask z)) ||| ((y <<< pos z) &&& mask z) = x)
  ∧ (∀ d a b c : Reg, decodeWord (0x0E * 2 + 1 + d.toNat * 2 ^ 8 + a.toNat * 2 ^ 14 + b.toNat * 2 ^ 20 + c.toNat * 2 ^ 26) = .ok (.bfi d a b c))

/-- R121: the two selects. -/
def Obligations.Selects : Prop :=
  (∀ d a b p neg, VectorResult (.sel d a b p neg) d (fun s L => if (s.pR p L ^^ neg) = true then s.vR a L else s.vR b L))
  ∧ (∀ d a b c, ScalarResult (.ssel d a b c) d (fun s => if s.sR c ≠ 0 then s.sR a else s.sR b))

/-- R95: the 16-bit form of the integer minors. -/
def Obligations.ShortIntegerForms : Prop :=
  (∀ d b, VectorResult (.mov16 d b) d (fun s L => s.cur.vAt b.toNat L))
  ∧ Short2 Instr.iadd16 (fun x y => x + y)
  ∧ Short2 Instr.isub16 (fun x y => x - y)
  ∧ Short2 Instr.imul16 (fun x y => x * y)
  ∧ Short2 Instr.and16 (fun x y => x &&& y)
  ∧ Short2 Instr.or16 (fun x y => x ||| y)
  ∧ Short2 Instr.xor16 (fun x y => x ^^^ y)
  ∧ Short2 Instr.shl16 (fun x y => x <<< y.extractLsb' 0 5)
  ∧ Short2 Instr.shr16 (fun x y => x >>> y.extractLsb' 0 5)
  ∧ Short2 Instr.sar16 (fun x y => x.sshiftRight (y.extractLsb' 0 5).toNat)
  ∧ ∀ s, Completes .nop16 s (fun t => OnlyV s t ∧ ∀ r L, L < 32 → t.cur.vAt r L = s.cur.vAt r L)

/-! ### Predicates -/

/-- R108: relations 0 EQ, 1 NE, 2 LT, 3 LE, 4 GT, 5 GE, from whether x is less than y and whether they are equal. -/
def relation (rel : Nat) (lt eq : Bool) : Bool :=
  match rel with
  | 0 => eq | 1 => !eq | 2 => lt | 3 => lt || eq | 4 => !lt && !eq | _ => !lt

/-- R122: the truth of a compare by type, on words and on pairs. An unordered pair of floats makes FCMP false and
FCMPU true, whatever the relation. -/
def compareTruth (type rel : Nat) (x y : Word) (x2 y2 : DWord) : Bool :=
  match type with
  | 0 => relation rel (decide (x.toInt < y.toInt)) (decide (x = y))
  | 1 => relation rel (decide (x.toNat < y.toNat)) (decide (x = y))
  | 2 => !(isNaN32 x) && !(isNaN32 y) && relation rel (Machine.Num.lt (f32 x) (f32 y)) (!Machine.Num.lt (f32 x) (f32 y) && !Machine.Num.lt (f32 y) (f32 x))
  | 3 => isNaN32 x || isNaN32 y || relation rel (Machine.Num.lt (f32 x) (f32 y)) (!Machine.Num.lt (f32 x) (f32 y) && !Machine.Num.lt (f32 y) (f32 x))
  | 4 => relation rel (decide (x2.toInt < y2.toInt)) (decide (x2 = y2))
  | _ => relation rel (decide (x2.toNat < y2.toNat)) (decide (x2 = y2))

/-- R122, R123: the compares, with the worked cases of R122. -/
def Obligations.Compares : Prop :=
  (∀ p a b rel type, rel.toNat < 6 → type.toNat < 6 → PredResult (.cmp p a b rel type) p (fun s L =>
    compareTruth type.toNat rel.toNat (s.vR a L) (s.vR b L) (s.vP a L) (s.vP b L)))
  ∧ (∀ p a b rel type, rel.toNat < 6 → type.toNat < 6 → PredResult (.cmpVs p a b rel type) p (fun s L =>
    compareTruth type.toNat rel.toNat (s.vR a L) (s.sR b) (s.vP a L) (s.sP b)))
  ∧ (∀ p a k rel, PredResult (.cmpi p rel a k) p (fun s L =>
      let x := s.vR a L
      let y : Word := k.signExtend 32
      if rel.toNat < 6 then relation rel.toNat (decide (x.toInt < y.toInt)) (decide (x = y))
      else if rel.toNat = 6 then decide (x.toNat < y.toNat) else decide (y.toNat ≤ x.toNat)))
  ∧ compareTruth 2 0 0x00000000 0x80000000 0 0 = true ∧ compareTruth 2 1 0x00000000 0x80000000 0 0 = false
  ∧ compareTruth 2 0 0x3F800000 0x7FC00000 0 0 = false ∧ compareTruth 2 1 0x3F800000 0x7FC00000 0 0 = false
  ∧ compareTruth 3 1 0x3F800000 0x7FC00000 0 0 = true ∧ compareTruth 3 2 0x3F800000 0x7FC00000 0 0 = true
  ∧ compareTruth 2 1 0x00000001 0x00000000 0 0 = true ∧ compareTruth 3 2 0x00000001 0x00000000 0 0 = false

/-- R124: the predicate operations that act lane by lane. -/
def Obligations.PredicateOperations : Prop :=
  (∀ d a b, PredResult (.pand d a b) d (fun s L => s.pR a L && s.pR b L))
  ∧ (∀ d a b, PredResult (.por d a b) d (fun s L => s.pR a L || s.pR b L))
  ∧ (∀ d a b, PredResult (.pxor d a b) d (fun s L => s.pR a L ^^ s.pR b L))
  ∧ (∀ d a b, PredResult (.pandn d a b) d (fun s L => s.pR a L && !s.pR b L))
  ∧ (∀ d a, PredResult (.pnot d a) d (fun s L => !s.pR a L))
  ∧ (∀ d, PredResult (.psetPred d) d (fun _ _ => true))
  ∧ (∀ d, PredResult (.pclr d) d (fun _ _ => false))
  ∧ (∀ d a, PredResult (.pfrom d a) d (fun s L => s.vR a L != 0))
  ∧ (∀ d a, PredResult (.pload d a) d (fun s L => (s.sR a).getLsbD L))
  ∧ (∀ d a, VectorResult (.ptov d a) d (fun s L => if s.pR a L = true then 1 else 0))

/-- R124, R125: the four minors that read the mask. -/
def Obligations.MaskOperations : Prop :=
  (∀ d p, ∃ val : State → Word, ScalarResult (.ballot d p) d val
    ∧ ∀ s L, L < 32 → (val s).getLsbD L = (inMask s.onceSet L && s.pR p L))
  ∧ (∀ d p, ScalarResult (.vany d p) d (fun s => if (List.range 32).any (fun L => inMask s.onceSet L && s.pR p L) then 1 else 0))
  ∧ (∀ d p, ScalarResult (.vall d p) d (fun s => if (List.range 32).all (fun L => !inMask s.onceSet L || s.pR p L) then 1 else 0))
  ∧ (∀ d, ScalarResult (.mask d) d (fun s => s.onceSet))
  ∧ ∀ s : State, s.onceSet = if s.focus.same = true then s.focus.lanes else s.focus.mask

/-! ### Floating point, conversions and lane operations -/

/-- R149, R150: the exact result, rounded once; the argument of the exact sum says that a zero sum is −0 under RD. -/
def Obligations.FloatArithmetic : Prop :=
  TwoForms Instr.fadd Instr.faddVs (fun x y => toF32 .rne (Machine.Num.add false (f32 x) (f32 y)))
  ∧ TwoForms Instr.faddRz Instr.faddRzVs (fun x y => toF32 .rz (Machine.Num.add false (f32 x) (f32 y)))
  ∧ TwoForms Instr.faddRd Instr.faddRdVs (fun x y => toF32 .rd (Machine.Num.add true (f32 x) (f32 y)))
  ∧ TwoForms Instr.faddRu Instr.faddRuVs (fun x y => toF32 .ru (Machine.Num.add false (f32 x) (f32 y)))
  ∧ TwoForms Instr.fsub Instr.fsubVs (fun x y => toF32 .rne (Machine.Num.add false (f32 x) (f32 y).neg))
  ∧ TwoForms Instr.fmul Instr.fmulVs (fun x y => toF32 .rne (Machine.Num.mul (f32 x) (f32 y)))
  ∧ TwoForms Instr.fmulRz Instr.fmulRzVs (fun x y => toF32 .rz (Machine.Num.mul (f32 x) (f32 y)))
  ∧ TwoForms Instr.fmulRd Instr.fmulRdVs (fun x y => toF32 .rd (Machine.Num.mul (f32 x) (f32 y)))
  ∧ TwoForms Instr.fmulRu Instr.fmulRuVs (fun x y => toF32 .ru (Machine.Num.mul (f32 x) (f32 y)))
  ∧ Short2 Instr.fadd16 (fun x y => toF32 .rne (Machine.Num.add false (f32 x) (f32 y)))
  ∧ Short2 Instr.fsub16 (fun x y => toF32 .rne (Machine.Num.add false (f32 x) (f32 y).neg))
  ∧ Short2 Instr.fmul16 (fun x y => toF32 .rne (Machine.Num.mul (f32 x) (f32 y)))

/-- R150, R151: the minors that choose an operand or change its sign, and those that round to an integral value. That
FCOPYSIGN takes the sign bit of a NaN y is the model's choice (DEDUCED, log entry 74). -/
def Obligations.FloatSelectionAndIntegral : Prop :=
  (let below (x y : Word) : Bool := Machine.Num.lt (f32 x) (f32 y) || (!Machine.Num.lt (f32 y) (f32 x) && (x.getLsbD 31 || !y.getLsbD 31))
  let least (x y : Word) : Word := if below x y = true then x else y
  let most (x y : Word) : Word := if below x y = true then y else x
  let bothOr (op : Word → Word → Word) (x y : Word) : Word := if isNaN32 x = true ∨ isNaN32 y = true then 0x7FC00000 else op x y
  let number (op : Word → Word → Word) (x y : Word) : Word :=
    if isNaN32 x = true then (if isNaN32 y = true then 0x7FC00000 else y) else if isNaN32 y = true then x else op x y
  TwoForms Instr.fmin Instr.fminVs (bothOr least)
  ∧ TwoForms Instr.fmax Instr.fmaxVs (bothOr most)
  ∧ TwoForms Instr.fminnum Instr.fminnumVs (number least)
  ∧ TwoForms Instr.fmaxnum Instr.fmaxnumVs (number most)
  ∧ Short2 Instr.fmin16 (bothOr least)
  ∧ Short2 Instr.fmax16 (bothOr most)
  ∧ TwoFormsOf1 Instr.fabs Instr.fabsVs (fun x => if isNaN32 x = true then 0x7FC00000 else x &&& 0x7FFFFFFF)
  ∧ TwoFormsOf1 Instr.fneg Instr.fnegVs (fun x => if isNaN32 x = true then 0x7FC00000 else x ^^^ 0x80000000)
  ∧ TwoForms Instr.fcopysign Instr.fcopysignVs
      (fun x y => if isNaN32 x = true then 0x7FC00000 else (x &&& 0x7FFFFFFF) ||| (y &&& 0x80000000))
  ∧ TwoFormsOf1 Instr.fclamp01 Instr.fclamp01Vs (fun x => if isNaN32 x = true then 0x7FC00000
      else if Machine.Num.lt (f32 0) (f32 x) = false then 0 else if Machine.Num.lt (f32 x) (f32 0x3F800000) = false then 0x3F800000 else x))
  ∧ (TwoFormsOf1 Instr.ffloor Instr.ffloorVs (fun x => fToIntegral .rd x 0)
  ∧ TwoFormsOf1 Instr.fceil Instr.fceilVs (fun x => fToIntegral .ru x 0)
  ∧ TwoFormsOf1 Instr.ftrunc Instr.ftruncVs (fun x => fToIntegral .rz x 0)
  ∧ TwoFormsOf1 Instr.frint Instr.frintVs (fun x => fToIntegral .rne x 0)
  ∧ (∀ r x, isNaN32 x = true → fToIntegral r x 0 = 0x7FC00000)
  ∧ (∀ r, fToIntegral r 0x7F800000 0 = 0x7F800000 ∧ fToIntegral r 0xFF800000 0 = 0xFF800000
      ∧ fToIntegral r 0 0 = 0 ∧ fToIntegral r 0x80000000 0 = 0x80000000)
  ∧ fToIntegral .ru 0xBF000000 0 = 0x80000000 ∧ fToIntegral .rd 0xBF000000 0 = 0xBF800000)

/-- R152 to R154: one exact value rounded once; packed instructions act on each half. -/
def Obligations.FusedAndPacked : Prop :=
  let low (x : Word) : Nat := x.toNat % 65536
  let high (x : Word) : Nat := x.toNat / 65536
  let halves (op : Nat → Nat → Nat) (x y : Word) : Word :=
    BitVec.ofNat 16 (op (high x) (high y)) ++ BitVec.ofNat 16 (op (low x) (low y))
  let rounded (f : Layout) (op : Machine.Num → Machine.Num → Machine.Num) (x y : Nat) : Nat := f.round .rne (op (f.value x) (f.value y))
  Vector3 Instr.ffma (fun x y z => toF32 .rne (Machine.Num.add false (Machine.Num.mul (f32 x) (f32 y)) (f32 z)))
  ∧ Vector3 Instr.ffms (fun x y z => toF32 .rne (Machine.Num.add false (Machine.Num.mul (f32 x) (f32 y)) (f32 z).neg))
  ∧ Vector3 Instr.ffnma (fun x y z => toF32 .rne (Machine.Num.add false (Machine.Num.mul (f32 x) (f32 y)).neg (f32 z)))
  ∧ Vector3 Instr.ffmaRz (fun x y z => toF32 .rz (Machine.Num.add false (Machine.Num.mul (f32 x) (f32 y)) (f32 z)))
  ∧ Vector3 Instr.ffmaRd (fun x y z => toF32 .rd (Machine.Num.add true (Machine.Num.mul (f32 x) (f32 y)) (f32 z)))
  ∧ Vector3 Instr.ffmaRu (fun x y z => toF32 .ru (Machine.Num.add false (Machine.Num.mul (f32 x) (f32 y)) (f32 z)))
  ∧ Vector2 Instr.hadd2 (halves (rounded layFP16 (Machine.Num.add false)))
  ∧ Vector2 Instr.hsub2 (halves (rounded layFP16 (fun a b => Machine.Num.add false a b.neg)))
  ∧ Vector2 Instr.hmul2 (halves (rounded layFP16 Machine.Num.mul))
  ∧ Vector2 Instr.hmin2 (halves (fMinIn layFP16))
  ∧ Vector2 Instr.hmax2 (halves (fMaxIn layFP16))
  ∧ Vector2 Instr.badd2 (halves (rounded layBF16 (Machine.Num.add false)))
  ∧ Vector2 Instr.bsub2 (halves (rounded layBF16 (fun a b => Machine.Num.add false a b.neg)))
  ∧ Vector2 Instr.bmul2 (halves (rounded layBF16 Machine.Num.mul))
  ∧ Vector2 Instr.bmin2 (halves (fMinIn layBF16))
  ∧ Vector2 Instr.bmax2 (halves (fMaxIn layBF16))
  ∧ Vector3 Instr.hfma2 (hFma2)
  ∧ Vector3 Instr.bfma2 (bFma2)
  ∧ (∀ x y z, hFma2 x y z = BitVec.ofNat 16 (fFmaIn layFP16 .rne false false (high x) (high y) (high z))
      ++ BitVec.ofNat 16 (fFmaIn layFP16 .rne false false (low x) (low y) (low z)))
  ∧ (∀ x y z, bFma2 x y z = BitVec.ofNat 16 (fFmaIn layBF16 .rne false false (high x) (high y) (high z))
      ++ BitVec.ofNat 16 (fFmaIn layBF16 .rne false false (low x) (low y) (low z)))

/-- R86: what each rounding direction does with the part that does not fit; R75: a NaN is canonical. -/
def Obligations.RoundingDirections : Prop :=
  (∀ neg m k, let q := shiftRound .rne neg m k
      2 * ((2 ^ k * q : Nat) - (m : Int)).natAbs ≤ 2 ^ k ∧ (0 < k → 2 * ((2 ^ k * q : Nat) - (m : Int)).natAbs = 2 ^ k → q % 2 = 0))
  ∧ (∀ neg m k, let q := shiftRound .rz neg m k
      2 ^ k * q ≤ m ∧ m < 2 ^ k * (q + 1))
  ∧ (∀ m k, shiftRound .rd false m k = shiftRound .rz false m k ∧ shiftRound .ru true m k = shiftRound .rz true m k)
  ∧ (∀ neg m k, let q := shiftRound (if neg then .rd else .ru) neg m k
      m ≤ 2 ^ k * q ∧ (0 < q → 2 ^ k * (q - 1) < m))
  ∧ (∀ r (w : Word), isNaN32 w = false → toF32 r (f32 w) = w)
  ∧ (∀ r (w : Word), isNaN32 w = true → toF32 r (f32 w) = 0x7FC00000)

/-- R157: the conversions between integers, FP32 and the 16-bit formats. -/
def Obligations.Conversions : Prop :=
  let saturated (lo hi : Int) (r : Rounding) (x : Word) : Word :=
    match f32 x with
    | .nan => 0
    | .inf neg => BitVec.ofInt 32 (if neg then lo else hi)
    | .fin neg m e => BitVec.ofInt 32 (max lo (min hi (roundInt r neg m e)))
  Vector1 Instr.i2f (fun x => toF32 .rne (.fin (decide (x.toInt < 0)) x.toInt.natAbs 0))
  ∧ Vector1 Instr.u2f (fun x => toF32 .rne (.fin false x.toNat 0))
  ∧ Vector1 Instr.f2i (saturated (-2 ^ 31) (2 ^ 31 - 1) .rz)
  ∧ Vector1 Instr.f2u (saturated 0 (2 ^ 32 - 1) .rz)
  ∧ Vector1 Instr.f2in (saturated (-2 ^ 31) (2 ^ 31 - 1) .rne)
  ∧ Vector1 Instr.f2un (saturated 0 (2 ^ 32 - 1) .rne)
  ∧ Vector2 Instr.pkh (fun x y => BitVec.ofNat 16 (layFP16.round .rne (f32 y)) ++ BitVec.ofNat 16 (layFP16.round .rne (f32 x)))
  ∧ Vector2 Instr.pkb (fun x y => BitVec.ofNat 16 (layBF16.round .rne (f32 y)) ++ BitVec.ofNat 16 (layBF16.round .rne (f32 x)))
  ∧ Vector1 Instr.uphLo (fun x => toF32 .rne (layFP16.value (x.toNat % 65536)))
  ∧ Vector1 Instr.uphHi (fun x => toF32 .rne (layFP16.value (x.toNat / 65536)))
  ∧ Vector1 Instr.upbLo (fun x => toF32 .rne (layBF16.value (x.toNat % 65536)))
  ∧ Vector1 Instr.upbHi (fun x => toF32 .rne (layBF16.value (x.toNat / 65536)))
  ∧ Vector1 Instr.f2f19 (fun x => BitVec.ofNat 32 (8192 * layFP19.round .rne (f32 x)))

/-- R158 to R163: slot packing and the dot products, with the worked cases of the rules. -/
def Obligations.SlotsAndDots : Prop :=
  let dot (n : Nat) (sa sb : Bool) (d x y : Word) : Word :=
    BitVec.ofInt 32 (d.toInt + ((List.range (32 / n)).map (fun k =>
      let pick (signed : Bool) (w : Word) : Int :=
        if signed then ((w >>> (n * k)).extractLsb' 0 n).toInt else ((w >>> (n * k)).extractLsb' 0 n).toNat
      pick sa x * pick sb y)).sum)
  let accumulates (i : Reg → Reg → Reg → Instr) (op : Word → Word → Word → Word) : Prop :=
    ∀ d a b, VectorResult (i d a b) d (fun s L => op (s.vR d L) (s.vR a L) (s.vR b L))
  let code (s : State) (f : BitVec 3) : Nat := ((s.launchOf s.focus.grp).rec_.slots.get f.toNat).toNat % 32
  (∀ d a f, VectorResult (.fpack d a f) d (fun s L => fpackWord (code s f) (fun k => s.cur.vAt (a.toNat + k) L)))
  ∧ (∀ d a b f, VectorResult (.fpackSr d a b f) d (fun s L => fpackSRWord (code s f) (s.vR b L) (fun k => s.cur.vAt (a.toNat + k) L)))
  ∧ (∀ d a k f, VectorResult (.funpk d a k f) d (fun s L => funpkWord (code s f) (s.vR a L) k.toNat))
  ∧ accumulates Instr.dot4Ss (dot 8 true true)
  ∧ accumulates Instr.dot4Uu (dot 8 false false)
  ∧ accumulates Instr.dot4Su (dot 8 true false)
  ∧ accumulates Instr.dot8Ss (dot 4 true true)
  ∧ accumulates Instr.dot8Uu (dot 4 false false)
  ∧ accumulates Instr.dot8Su (dot 4 true false)
  ∧ accumulates Instr.dot16Ss (dot 2 true true)
  ∧ accumulates Instr.dot2Ss (dot 16 true true)
  ∧ (∀ d a b f, VectorResult (.fdot d a b f) d (fun s L => fdotWord (code s f) (s.vR d L) (s.vR a L) (s.vR b L)))
  ∧ dot 8 true false 100 0xFF020380 0x040102FF = 0xFFFF80E8
  ∧ fpackWord 5 (fun k => ([0x3F800000, 0x41880000, 0x43FA0000, 0x7FC00000].getD k 0)) = 0x7F7E5838
  ∧ funpkWord 5 0x7F7E5838 2 = 0x43E00000 ∧ funpkWord 5 0x7F7E5838 3 = 0x7FC00000
  ∧ fdotWord 2 0x4B800000 0x3C003C00 0x3C003C00 = 0x4B800001

/-- R164: moves of values across the lanes of a group. R164: the reductions and the scan cover the lanes of the pass only. -/
def Obligations.LaneMovesAndReductions : Prop :=
  (let src (s : State) (a : Reg) (t : Nat) : Word := if inMask s.cur.exist_ t = true then s.cur.vAt a.toNat t else 0
  let k (s : State) (b : Reg) (L : Nat) : Nat := (s.cur.vAt b.toNat L).toNat % 32
  (∀ d a b, VectorResult (.shflIdx d a b) d (fun s L => src s a (k s b L)))
  ∧ (∀ d a b, VectorResult (.shflUp d a b) d (fun s L => if k s b L ≤ L then src s a (L - k s b L) else s.vR a L))
  ∧ (∀ d a b, VectorResult (.shflDn d a b) d (fun s L => if L + k s b L ≤ 31 then src s a (L + k s b L) else s.vR a L))
  ∧ (∀ d a b, VectorResult (.shflXor d a b) d (fun s L => src s a (L ^^^ k s b L)))
  ∧ (∀ d a b, VectorResult (.rdlane d a b) d (fun s _ => src s a (k s b (lowLane s.focus.mask))))
  ∧ ∀ d a b s, Completes (.wrlane d a b) s (fun t => OnlyV s t ∧ ∀ r L, L < 32 →
      t.cur.vAt r L = if r = d.toNat ∧ s.inPass L = true ∧ L = k s b (lowLane s.focus.mask)
        then s.vR a (lowLane s.focus.mask) else s.cur.vAt r L))
  ∧ ((∀ d a, VectorResult (.reduxAdd d a) d (fun s _ =>
      BitVec.ofNat 32 ((((List.range 32).filter (fun M => s.inPass M)).map (fun M => (s.vR a M).toNat)).sum)))
  ∧ (∀ d a, ∃ val, VectorResult (.reduxMin d a) d val ∧ ∀ s L, s.inPass L = true →
      (∃ M, s.inPass M = true ∧ val s L = s.vR a M) ∧ ∀ M, s.inPass M = true → (val s L).toInt ≤ (s.vR a M).toInt)
  ∧ (∀ d a, ∃ val, VectorResult (.reduxMax d a) d val ∧ ∀ s L, s.inPass L = true →
      (∃ M, s.inPass M = true ∧ val s L = s.vR a M) ∧ ∀ M, s.inPass M = true → (s.vR a M).toInt ≤ (val s L).toInt)
  ∧ (∀ d a, VectorResult (.reduxFadd d a) d (fun s _ =>
      toF32 .rne (exactSum (((List.range 32).filter (fun M => s.inPass M)).map (fun M => f32 (s.vR a M))))))
  ∧ (∀ d a, VectorResult (.scanxAdd d a) d (fun s L =>
      BitVec.ofNat 32 ((((List.range L).filter (fun M => s.inPass M)).map (fun M => (s.vR a M).toNat)).sum))))

/-- R98, R99, R155: an instruction of the correctly rounded functions becomes outstanding in the lanes of the pass
with its results, computed from the operands at issue; no register changes yet, and its data are on their way. -/
def LongIssue (i : Instr) (la : BitVec 4) (f : State → Nat → Word) : Prop :=
  ∀ s, s.focus.mask ≠ 0 → Completes i s (fun t =>
    (t.op s.nextOp).live = true ∧ (t.op s.nextOp).instr = i ∧ (t.op s.nextOp).grp = s.focus.grp
    ∧ (t.op s.nextOp).uid = s.focus.uid ∧ (t.op s.nextOp).mask = s.focus.mask ∧ (t.op s.nextOp).status = .accepted
    ∧ (∀ L, L < 32 → s.inPass L = true → (t.op s.nextOp).got.get (4 * L) = f s L)
    ∧ t.pending = s.pending ++ [.loadDataReturn s.nextOp] ∧ t.nextOp = s.nextOp + 1
    ∧ t.cur.v = s.cur.v ∧ t.cur.s = s.cur.s ∧ t.cur.p = s.cur.p ∧ SameBytes s t
    ∧ ∀ x ∈ s.cur.splits, x.uid = s.focus.uid → ∃ y ∈ t.cur.splits, y = { x with out := x.out ++ [⟨s.nextOp, la.toNat + 1⟩] })

/-- The eleven instructions of the correctly rounded functions. -/
def longForms (la : BitVec 4) (d a b : Reg) : List Instr :=
  [.fdiv la d a b, .fsqrt la d a, .frcp la d a, .frsq la d a, .fexp2 la d a, .flog2 la d a, .fsint la d a,
   .fcost la d a, .ftanh la d a, .fsigm la d a, .ferf la d a]

/-- The real number that a finite FP32 word stands for. -/
def valueOf (w : Word) : ℚ :=
  match f32 w with
  | .fin neg m e => (if neg then -1 else 1) * m * (2 : ℚ) ^ e
  | _ => 0
def isFinite (w : Word) : Bool := match f32 w with | .fin _ _ _ => true | _ => false

/-- R86, R155: the magnitude of a finite word r is the nearest to an exact magnitude of all finite magnitudes, the even
one of two: the exact one is told by which rationals are not above it and which are not below. -/
def Nearest (r : Word) (notAbove notBelow : ℚ → Prop) : Prop :=
  ∀ w : Word, isFinite w = true → let mid := (|valueOf r| + |valueOf w|) / 2
    (|valueOf w| < |valueOf r| → notAbove mid ∧ (notBelow mid → r.getLsbD 0 = false))
    ∧ (|valueOf r| < |valueOf w| → notBelow mid ∧ (notAbove mid → r.getLsbD 0 = false))

/-- R155, R156: FDIV, FRCP, FSQRT and FRSQ give the exact result rounded once, with its sign. -/
def RoundedOnce : Prop :=
  (∀ x y : Word, isFinite x = true → isFinite y = true → valueOf y ≠ 0 → isFinite (fDiv x y) = true →
    (fDiv x y).getLsbD 31 = (x.getLsbD 31 ^^ y.getLsbD 31)
    ∧ Nearest (fDiv x y) (fun t => t * |valueOf y| ≤ |valueOf x|) (fun t => |valueOf x| ≤ t * |valueOf y|))
  ∧ (∀ x : Word, isFinite x = true → valueOf x ≠ 0 → isFinite (fRcp x 0) = true →
    (fRcp x 0).getLsbD 31 = x.getLsbD 31
    ∧ Nearest (fRcp x 0) (fun t => t * |valueOf x| ≤ 1) (fun t => 1 ≤ t * |valueOf x|))
  ∧ (∀ x : Word, isFinite x = true → 0 < valueOf x →
    (isFinite (fSqrt x 0) = true ∧ (fSqrt x 0).getLsbD 31 = false
      ∧ Nearest (fSqrt x 0) (fun t => t * t ≤ valueOf x) (fun t => valueOf x ≤ t * t))
    ∧ isFinite (fRsq x 0) = true ∧ (fRsq x 0).getLsbD 31 = false
      ∧ Nearest (fRsq x 0) (fun t => t * t * valueOf x ≤ 1) (fun t => 1 ≤ t * t * valueOf x))

def isInf (w : Word) : Bool := match f32 w with | .inf _ => true | _ => false

/-- R156: the special cases, each for every operand of its row; a NaN gives the canonical NaN. An infinity over a finite
number is no row of the table: it is exact, and rounded it is the infinity of the signs' XOR (R155, R86). -/
def LongSpecials : Prop :=
  let sign (x : Word) : Word := x &&& 0x80000000
  let inf : Word := 0x7F800000
  let one : Word := 0x3F800000
  let nan : Word := 0x7FC00000
  (∀ x y : Word, isNaN32 x = true ∨ isNaN32 y = true → fDiv x y = nan)
  ∧ (∀ x : Word, isNaN32 x = true → ∀ f ∈ [fSqrt, fRcp, fRsq, fExp2, fLog2, fSinT, fCosT, fTanh, fSigm, fErf], f x 0 = 0x7FC00000)
  ∧ (∀ x : Word, (isFinite x = true ∧ valueOf x ≠ 0) ∨ isInf x = true → x.getLsbD 31 = true → ∀ f ∈ [fSqrt, fRsq, fLog2], f x 0 = nan)
  ∧ (∀ x y : Word,
      (isFinite x = true → valueOf x ≠ 0 → isFinite y = true → valueOf y = 0 → fDiv x y = sign (x ^^^ y) ||| inf)
      ∧ (isFinite x = true → valueOf x = 0 → isFinite y = true → valueOf y = 0 → fDiv x y = nan)
      ∧ (isInf x = true → isInf y = true → fDiv x y = nan)
      ∧ (isFinite x = true → isInf y = true → fDiv x y = sign (x ^^^ y))
      ∧ (isInf x = true → isFinite y = true → fDiv x y = sign (x ^^^ y) ||| inf))
  ∧ (∀ x : Word, isFinite x = true → valueOf x = 0 →
      fSqrt x 0 = x ∧ fRcp x 0 = sign x ||| inf ∧ fRsq x 0 = sign x ||| inf ∧ fExp2 x 0 = one ∧ fLog2 x 0 = 0xFF800000
      ∧ fTanh x 0 = x ∧ fErf x 0 = x ∧ fSigm x 0 = 0x3F000000)
  ∧ (∀ x : Word, isInf x = true → fRcp x 0 = sign x ∧ fSinT x 0 = nan ∧ fCosT x 0 = nan ∧ fTanh x 0 = sign x ||| one
      ∧ fErf x 0 = sign x ||| one ∧ fExp2 x 0 = (if sign x = 0 then inf else 0) ∧ fSigm x 0 = (if sign x = 0 then one else 0)
      ∧ (sign x = 0 → fSqrt x 0 = inf ∧ fRsq x 0 = 0 ∧ fLog2 x 0 = inf))
  ∧ fLog2 one 0 = 0
  ∧ (∀ (x : Word) (n : ℤ), isFinite x = true →
      (2 * valueOf x = n → fSinT x 0 = sign x)
      ∧ (valueOf x = n + 1 / 4 → fSinT x 0 = one ∧ fCosT x 0 = 0)
      ∧ (valueOf x = n - 1 / 4 → fSinT x 0 = 0xBF800000 ∧ fCosT x 0 = 0)
      ∧ (valueOf x = n → fCosT x 0 = one)
      ∧ (valueOf x = n + 1 / 2 → fCosT x 0 = 0xBF800000))

/-- R155, R156, R98, R101: FDIV, FSQRT, FRCP, FRSQ, FEXP2, FLOG2, FSINT, FCOST, FTANH, FSIGM and FERF complete in every
state: exec answers a next state, in which the instruction is outstanding with its results, or, with no lane in the
pass, nothing has changed. The finite results of FDIV and FRCP, and those of FSQRT and FRSQ for every finite positive
operand, are the exact ones rounded once, and the special cases of all are R156's, row by row; of the other seven the
model's enclosure decides the rounding, and where it decides none, the value is a free one (log entry 15): nothing is
said of it. R99: one is complete when its result is written; a word whose last write came before (R101)
is not written again. -/
def Obligations.LongFunctions : Prop :=
  RoundedOnce ∧ LongSpecials ∧ ((∀ la d a b, LongIssue (.fdiv la d a b) la (fun s L => fDiv (s.vR a L) (s.vR b L)))
  ∧ (∀ la d a, LongIssue (.fsqrt la d a) la (fun s L => fSqrt (s.vR a L) 0))
  ∧ (∀ la d a, LongIssue (.frcp la d a) la (fun s L => fRcp (s.vR a L) 0))
  ∧ (∀ la d a, LongIssue (.frsq la d a) la (fun s L => fRsq (s.vR a L) 0))
  ∧ (∀ la d a, LongIssue (.fexp2 la d a) la (fun s L => fExp2 (s.vR a L) 0))
  ∧ (∀ la d a, LongIssue (.flog2 la d a) la (fun s L => fLog2 (s.vR a L) 0))
  ∧ (∀ la d a, LongIssue (.fsint la d a) la (fun s L => fSinT (s.vR a L) 0))
  ∧ (∀ la d a, LongIssue (.fcost la d a) la (fun s L => fCosT (s.vR a L) 0))
  ∧ (∀ la d a, LongIssue (.ftanh la d a) la (fun s L => fTanh (s.vR a L) 0))
  ∧ (∀ la d a, LongIssue (.fsigm la d a) la (fun s L => fSigm (s.vR a L) 0))
  ∧ (∀ la d a, LongIssue (.ferf la d a) la (fun s L => fErf (s.vR a L) 0))
  ∧ (∀ la d a b i s, i ∈ longForms la d a b → s.focus.mask = 0 → exec i s = .next s))
  ∧ (∀ (s : State) (n : Nat) (la : BitVec 4) (d a b : Reg) (i : Instr),
    i ∈ longForms la d a b →
    (s.op n).live = true → (s.op n).instr = i → (s.op n).status = .accepted →
    Completes (.loadDataReturn n) s (fun t =>
      (∀ r L, L < 32 → (t.group (s.op n).grp).vAt r L = if r = d.toNat ∧ inMask (s.op n).mask L = true
          ∧ (s.op n).wrote.get (4 * L) = false
        then (s.op n).got.get (4 * L) else (s.group (s.op n).grp).vAt r L)
      ∧ (∀ g, g ≠ (s.op n).grp → t.group g = s.group g)
      ∧ (t.group (s.op n).grp).s = (s.group (s.op n).grp).s ∧ (t.group (s.op n).grp).p = (s.group (s.op n).grp).p
      ∧ (t.op n).live = false ∧ SameBytes s t))

/-! ### Traps -/

/-- R102, R341, R342, R385: a precise trap, its record, and the stop of the context that has no stub for it. The passes of
an offset in progress are over: the split keeps what is left of them, unless nothing of the offset has been issued. -/
def Obligations.TrapTaken : Prop :=
  ∀ (s : State) (c : Cause) (detail : Nat) (hit : Mask) (addr : DWord),
    let q := quadOfGroup s.focus.grp
    let left (x : Split) : Option Issue := match (s.quads.get q).cur with
      | some k => if k.grp = s.focus.grp ∧ k.uid = s.focus.uid ∧ k.fresh = false then some k else x.rest
      | none => x.rest
    (s.takeTrap c detail hit addr).focus.trapped = true
    ∧ ((s.splitOf s.focus.grp s.focus.uid).out ≠ [] →
        let t := s.takeTrap c detail hit addr
        t.cur.v = s.cur.v ∧ t.cur.s = s.cur.s ∧ t.cur.p = s.cur.p ∧ SameBytes s t
        ∧ ((∀ k, (s.quads.get q).cur = some k → k.grp = s.focus.grp) → (t.quads.get q).cur = none)
        ∧ ∀ x ∈ s.cur.splits, x.uid = s.focus.uid → ∃ y ∈ t.cur.splits, ∃ r, y = { x with trap := some r, rest := left x }
            ∧ r.cause = c ∧ r.detail = BitVec.ofNat 16 detail ∧ r.hit = hit ∧ r.address = addr ∧ r.offset = s.focus.offset
            ∧ r.active = s.focus.lanes ∧ r.plane = s.focus.plane.toNat ∧ r.group = s.cur.index ∧ r.ctx = s.ctxOf s.focus.grp
            ∧ r.launch = (s.launchOf s.focus.grp).id ∧ r.retired = s.cur.retired ∧ r.core = s.curCore % 32
            ∧ r.die = dieOfGroup s.focus.grp ∧ r.block = s.curBlock.number
            ∧ r.time = s.claveOf (dieOfGroup s.focus.grp))
    ∧ ((s.splitOf s.focus.grp s.focus.uid).out = [] → s.hasStub s.focus.grp c = false →
        ((s.takeTrap c detail hit addr).ctxs.get (s.ctxOf s.focus.grp)).st = .stopped)

/-! ### Structured control, branches, joining and exiting -/

/-- Lane L is a non-exited lane of the split in focus. -/
def splitLane (s : State) (L : Nat) : Bool := inMask (s.splitOf s.focus.grp s.focus.uid).mask L && !inMask s.cur.exited L
/-- The value of a lane's depth counter. -/
def depthAtLane (s : State) (L : Nat) : Nat := (s.cur.depth.get L).toNat
/-- A structured word: each lane's counter after it, whether the split jumps, and its frame: only depth counters, open
transactions' level counts and the place lanes go to may change. -/
def Structured (i : Instr) (s : State) (after : Nat → Nat) (jumps : Bool) (off : Word) : Prop :=
  Completes i s (fun t =>
    (∀ L, L < 32 → depthAtLane t L = after L)
    ∧ t.focus.goes = (if jumps = true then (BitVec.allOnes 32, s.focus.offset + 2 * off) :: s.focus.goes else s.focus.goes)
    ∧ { t with groups := s.groups, focus := s.focus } = s ∧ (∀ g, g ≠ s.focus.grp → t.group g = s.group g)
    ∧ { t.cur with depth := s.cur.depth, tx := s.cur.tx } = s.cur ∧ (s.cur.txOpen = 0 → t.cur.tx = s.cur.tx) ∧ SameBytes s t)

/-- R26, R27: the counters after IF, ELSE and ENDIF, and when the split jumps. -/
def Obligations.IfElseEndif : Prop :=
  (∀ s p neg (off : BitVec 16),
      let act (L : Nat) : Bool := s.inPass L
      let true_ (L : Nat) : Bool := act L && (s.pR p L ^^ neg)
      (∀ L, L < 32 → splitLane s L = true → act L = false → depthAtLane s L < 255) →
      Structured (.ifP p neg off) s
        (fun L => if splitLane s L = true then (if act L = true then (if true_ L = true then 0 else 1) else depthAtLane s L + 1)
                  else depthAtLane s L)
        ((List.range 32).all (fun L => !true_ L)) (off.signExtend 32))
  ∧ (∀ s p neg (off : BitVec 16) L, L < 32 → splitLane s L = true → s.inPass L = false → depthAtLane s L = 255 →
      exec (.ifP p neg off) s = .next (s.takeTrap .illop (8 * 256 + 0x40) 0
        (s.fetchAddr s.focus.grp s.focus.version s.focus.plane.toNat s.focus.offset)))
  ∧ (∀ s (off : BitVec 20),
      let after (L : Nat) : Nat := if splitLane s L = true then
          (if depthAtLane s L = 0 then 1 else if depthAtLane s L = 1 then 0 else depthAtLane s L) else depthAtLane s L
      Structured (.elseP off) s after
        ((List.range 32).all (fun L => !(splitLane s L && after L == 0 && !(s.cur.tx.get L).parked))) (off.signExtend 32))
  ∧ (∀ s, Structured .endif s (fun L => if splitLane s L = true then depthAtLane s L - 1 else depthAtLane s L) false 0)

/-- R26, R28: the counters after LOOP, ENDLOOP and BRK, and when the split jumps. -/
def Obligations.LoopEndloopBrk : Prop :=
  (∀ s (off : BitVec 20),
      (∀ L, L < 32 → splitLane s L = true → s.inPass L = false → depthAtLane s L < 255) →
      Structured (.loop off) s
        (fun L => if splitLane s L = true then (if s.inPass L = true then 0 else depthAtLane s L + 1) else depthAtLane s L)
        (s.focus.mask == 0) (off.signExtend 32))
  ∧ (∀ s (off : BitVec 20) L, L < 32 → splitLane s L = true → s.inPass L = false → depthAtLane s L = 255 →
      exec (.loop off) s = .next (s.takeTrap .illop (8 * 256 + 0x43) 0
        (s.fetchAddr s.focus.grp s.focus.version s.focus.plane.toNat s.focus.offset)))
  ∧ (∀ s (off : BitVec 20), s.focus.mask ≠ 0 → Structured (.endloop off) s (depthAtLane s) true (off.signExtend 32))
  ∧ (∀ s (off : BitVec 20), s.focus.mask = 0 → Structured (.endloop off) s
      (fun L => if splitLane s L = true then depthAtLane s L - 1 else depthAtLane s L) false (off.signExtend 32))
  ∧ (∀ s p neg n (off : BitVec 16),
      let out (L : Nat) : Bool := s.inPass L && (s.pR p L ^^ neg)
      Structured (.brk p neg n off) s (fun L => if out L = true then n.toNat + 1 else depthAtLane s L)
        ((List.range 32).all (fun L => !s.inPass L || out L)) (off.signExtend 32))

/-- A branch: it sends the lanes of a mask to an offset and, with no transaction open in the group, changes nothing
else; registers other than those of a frame and memory are as before in every case. -/
def Sends (i : Instr) (s : State) (m : Mask) (target : Word) (link : Bool) : Prop :=
  Completes i s (fun t =>
    t.focus.goes = (m, target) :: s.focus.goes ∧ SameBytes s t ∧ t.cur.v = s.cur.v ∧ t.cur.p = s.cur.p
    ∧ (∀ r, t.cur.sAt r = if link = true ∧ r = 63 then s.focus.offset + 4 else s.cur.sAt r)
    ∧ (s.cur.txOpen = 0 → OnlyCur { s with focus := t.focus } t ∧ { t.cur with s := s.cur.s } = s.cur
        ∧ { t.focus with goes := s.focus.goes } = s.focus))

/-- R128, R130, R131: branches and calls; the last clause is the case of one pass. R129: indirect branches. -/
def Obligations.Branches : Prop :=
  ((∀ s p neg (off : BitVec 16), Sends (.bra p neg off) s
      (maskOf (fun L => s.inPass L && (s.pR p L ^^ neg))) (s.focus.offset + 2 * off.signExtend 32) false)
  ∧ (∀ s (off : BitVec 20), Sends (.jmp off) s s.ownLanes (s.focus.offset + 2 * off.signExtend 32) false)
  ∧ (∀ s (off : BitVec 20), Sends (.call off) s s.ownLanes (s.focus.offset + 2 * off.signExtend 32) true)
  ∧ (∀ s a, Sends (.ret a) s s.ownLanes (s.sR a &&& 0xFFFFFFFE) false)
  ∧ (∀ s a (rel : BitVec 2) (off : BitVec 16),
      let x := s.sR a
      let holds : Bool := if rel = 0 then decide (x = 0) else if rel = 1 then decide (x ≠ 0)
        else if rel = 2 then decide (x.toInt < 0) else decide (0 ≤ x.toInt)
      if holds = true then Sends (.bsc a rel off) s s.ownLanes (s.focus.offset + 2 * off.signExtend 32) false
      else exec (.bsc a rel off) s = .next s)
  ∧ (∀ s : State, s.focus.first = true → s.focus.lanes = s.focus.mask →
      (∀ L, s.inPass L = true → (s.cur.plane.get L) = s.focus.plane) →
      ∀ L, splitLane s L = true → inMask s.ownLanes L = true))
  ∧ (let goesOf (s : State) (t : State) (a : Reg) : Prop :=
    (∀ L, L < 32 → ((t.focus.goes.find? (fun e => inMask e.1 L)).map Prod.snd)
      = if s.inPass L = true then some (s.vR a L &&& 0xFFFFFFFE) else (s.focus.goes.find? (fun e => inMask e.1 L)).map Prod.snd)
  (∀ s a, s.cur.txOpen = 0 → Completes (.brx a) s (fun t => goesOf s t a ∧ OnlyGoes s t))
  ∧ (∀ s a, s.cur.txOpen = 0 → s.focus.mask ≠ 0 → Completes (.calli a) s (fun t => goesOf s t a
      ∧ OnlyCur { s with focus := t.focus } t ∧ { t.cur with s := s.cur.s } = s.cur
      ∧ { t.focus with goes := s.focus.goes } = s.focus
      ∧ ∀ r, t.cur.sAt r = if r = 63 then s.focus.offset + 4 else s.cur.sAt r))
  ∧ (∀ s a, s.focus.mask = 0 → exec (.calli a) s = .next s))

/-- R25, R133 to R135: joining and exiting; with its last lane a group ends, and with its last group a block. A JOIN notes the lanes that park at its own offset when the offset ends. -/
def Obligations.JoinExit : Prop :=
  (∀ s, Completes .join s (fun t => t.focus.goes = (s.ownLanes, s.focus.offset) :: s.focus.goes
      ∧ t.cur.v = s.cur.v ∧ t.cur.s = s.cur.s ∧ t.cur.p = s.cur.p ∧ t.cur.depth = s.cur.depth ∧ t.cur.plane = s.cur.plane
      ∧ SameBytes s t ∧ ∀ x ∈ s.cur.splits, x.uid = s.focus.uid → { x with joins := x.joins ||| s.ownLanes } ∈ t.cur.splits))
  ∧ (∀ s, s.focus.mask = 0 → exec .exit s = .next s)
  ∧ (∀ s a, s.focus.mask = 0 → exec (.exitc a) s = .next s)
  ∧ (∀ s, s.focus.mask ≠ 0 → s.cur.exited ||| s.focus.mask ≠ s.cur.exist_ →
      Completes .exit s (fun t => t.cur.exited = s.cur.exited ||| s.focus.mask ∧ SameBytes s t))
  ∧ (∀ s, s.focus.mask ≠ 0 → s.cur.exited ||| s.focus.mask = s.cur.exist_ → s.cur.live = true → s.cur.copies = [] →
      s.cur.closed = [] → s.cur.batchTimes = [] → s.cur.stamp = none → s.curBlock.successor = none →
      let g := s.focus.grp
      let b := s.cur.block
      Completes .exit s (fun t => (t.group g).live = false ∧ g ∉ (t.blocks.get b).groups
        ∧ (s.curBlock.groups = [g] → (t.blocks.get b).live = false
            ∧ (t.launches.get s.curBlock.launch).ended = (s.launches.get s.curBlock.launch).ended + 1)))
  ∧ (∀ s a, s.focus.mask ≠ 0 → s.cur.exited ||| s.focus.mask ≠ s.cur.exist_ →
      Completes (.exitc a) s (fun t => t.cur.exited = s.cur.exited ||| s.focus.mask ∧ SameBytes s t
        ∧ (t.blocks.get s.cur.block).successor
          = (match s.curBlock.successor with | some x => some x | none => some (s.sP a))))

/-! ### Frames, and what the hub stores -/

/-- Nothing of any group differs but its splits (what they wait for and have outstanding) and its open stamp:
registers, predicates, depths, planes and the rest are as before. -/
def SameRegs (s t : State) : Prop := ∀ g,
  { t.group g with ent := (s.group g).ent, spill := (s.group g).spill, stamp := (s.group g).stamp } = s.group g

/-- Bytes laid over others: the latest of a list of (address, byte) wins. -/
def laid (bs : List (Nat × Byte)) (old : Nat → Byte) (a : Nat) : Byte :=
  match bs.reverse.find? (fun x => x.1 == a) with
  | some x => x.2
  | none => old a

/-- No stash owns the line of a physical address, and no core holds an update-only copy of it: its home answers
from memory (R243, R279). -/
def Settled (s : State) (pa : Nat) : Prop :=
  (s.home.get (lineOf pa)).owner = none ∧ s.copyHolders (lineOf pa) = []

/-- The physical address of a byte of a context’s heap window (R327). -/
def windowPa (s : State) (ctx : Nat) (a : DWord) : Nat := (windowEntry (s.ctxs.get ctx) ctx (a.toNat / 4096)).pa a

/-- The hub reaches the n bytes at an address of a context through its heap window: canonical, readable, writable,
of class 1 or 2, their lines answered by their homes from memory. -/
def HubBytes (s : State) (ctx : Nat) (a : DWord) (n : Nat) : Prop :=
  let c := s.ctxs.get ctx
  c.heapAttr.getLsbD 2 = true ∧ c.heapAttr.getLsbD 3 = true
  ∧ (c.heapAttr.extractLsb' 0 2 = 1 ∨ c.heapAttr.extractLsb' 0 2 = 2)
  ∧ ∀ i, i < n → canonical57 (a + BitVec.ofNat 64 i) = true ∧ inWindow c (a + BitVec.ofNat 64 i) = true
      ∧ Settled s (windowPa s ctx (a + BitVec.ofNat 64 i))

/-- Bytes at an address of a context's heap window, by physical address. -/
def windowBytes (s : State) (ctx : Nat) (a : DWord) (bs : List Byte) : List (Nat × Byte) :=
  bs.zipIdx.map (fun x => (windowPa s ctx (a + BitVec.ofNat 64 x.2), x.1))

/-- The hub has stored bytes there, and every other byte of memory is as before. -/
def HubStored (s t : State) (ctx : Nat) (a : DWord) (bs : List Byte) : Prop :=
  ∀ x, t.byteAt x = laid (windowBytes s ctx a bs) s.byteAt x

/-! ### Planes, versions and system instructions -/

/-- A PLANE instruction that sets planes: while every plane is below the version's count, each lane named takes its
plane and nothing else changes; otherwise no plane changes and ILLOP is taken (R32). -/
def SetsPlanes (i : Instr) (s : State) (lane : Nat → Bool) (k : Nat → BitVec 2) : Prop :=
  let count := ((s.launchOf s.focus.grp).entries.get s.focus.version).planes
  if (List.range 32).all (fun L => !lane L || decide ((k L).toNat < count)) then
    Completes i s (fun t => OnlyCur s t ∧ { t.cur with plane := s.cur.plane } = s.cur
      ∧ ∀ L, L < 32 → t.cur.plane.get L = if lane L = true then k L else s.cur.plane.get L)
  else exec i s = .next (s.takeTrap .illop (9 * 256 + 0x50) 0
      (s.fetchAddr s.focus.grp s.focus.version s.focus.plane.toNat s.focus.offset))

/-- R137, R32: the plane instructions. -/
def Obligations.PlaneInstructions : Prop :=
  (∀ s k, SetsPlanes (.pset k) s s.inPass (fun _ => k))
  ∧ (∀ s neg p k, SetsPlanes (.psel neg p k) s (fun L => s.inPass L && (s.pR p L ^^ neg)) (fun _ => k))
  ∧ (∀ s a, SetsPlanes (.pmov a) s s.inPass (fun L => (s.vR a L).extractLsb' 0 2))
  ∧ (∀ d, VectorResult (.pget d) d (fun s L => (s.cur.plane.get L).setWidth 32))

/-- R285, R301, R303: what a transfer to version a by a plan writes, where no recipe reads a special register: the
group's registers, from the values that they had before; the planes; nothing else of the group but its splits. -/
def Transfers (s t : State) (a : Nat) (plan : TransferPlan) : Prop :=
  let k := s.cur
  let value (r : Recipe) (L : Nat) (ls gs : Nat → Word) : Word := (evalRecipe
    { vreg := fun j => k.vAt j L, sreg := fun j => k.sAt j, special := fun _ => 0
      frame := fun o => plan.frame.get (o / 4), lslot := ls, gslot := gs } r.steps []).getD 0
  let exported (e L : Nat) : Word := match plan.source.recipes[e]? with
    | some r => value r L (fun _ => 0) (fun _ => 0)
    | none => 0
  let lslot (L e : Nat) : Word := if e < plan.source.laneExports + plan.source.groupExports then exported e L else 0
  let gslot (e : Nat) : Word := if e < plan.source.groupExports then exported (plan.source.laneExports + e) 0 else 0
  let imports := plan.dest.recipes.drop (plan.dest.laneExports + plan.dest.groupExports)
  (∀ r ∈ imports, (r.cls = 2 → ∀ L, L < 32 → inMask s.splitLanes L = true → t.cur.vAt r.index L = value r L (lslot L) gslot)
    ∧ (r.cls = 3 → t.cur.sAt r.index = value r 0 (lslot 0) gslot)
    ∧ (r.cls = 4 → ∀ L, L < 32 → inMask s.splitLanes L = true → t.cur.pAt r.index L = (value r L (lslot L) gslot).getLsbD 0))
  ∧ (∀ j L, L < 32 → (inMask s.splitLanes L = false ∨ ∀ r ∈ imports, ¬ (r.cls = 2 ∧ r.index = j)) → t.cur.vAt j L = k.vAt j L)
  ∧ (∀ j, (∀ r ∈ imports, ¬ (r.cls = 3 ∧ r.index = j)) → t.cur.sAt j = k.sAt j)
  ∧ (∀ j L, L < 32 → (inMask s.splitLanes L = false ∨ ∀ r ∈ imports, ¬ (r.cls = 4 ∧ r.index = j)) → t.cur.pAt j L = k.pAt j L)
  ∧ (∀ L, L < 32 → t.cur.plane.get L = if inMask s.splitLanes L = true then
      BitVec.ofNat 2 (plan.dest.importPlanes / 4 ^ (plan.source.exportPlanes / 4 ^ (k.plane.get L).toNat % 4)) else k.plane.get L)
  ∧ { t.cur with v := k.v, s := k.s, p := k.p, plane := k.plane, ent := k.ent, spill := k.spill } = k
  ∧ (t.launchOf s.focus.grp).entries.get a = plan.entry

/-- The recipes of a plan read no special register, and its imports name registers that exist, each once (R302). -/
def PlainPlan (plan : TransferPlan) : Prop :=
  let imports := plan.dest.recipes.drop (plan.dest.laneExports + plan.dest.groupExports)
  (∀ r ∈ plan.source.recipes ++ plan.dest.recipes, ∀ x ∈ r.steps, x.kind ≠ 4)
  ∧ (imports.map (fun r => (r.cls, r.index))).Nodup
  ∧ ∀ r ∈ imports, (r.cls = 2 ∧ r.index < 64) ∨ (r.cls = 3 ∧ r.index < 64) ∨ (r.cls = 4 ∧ r.index < 8)

/-- No plain store of a core is under way. -/
def NoStores (s : State) (core : Nat) : Prop :=
  ∀ x ∈ s.ops, x.2.live = true → coreOfGroup x.2.grp = core → x.2.isPlain = false
/-- None but one. -/
def NoStoresBut (s : State) (core k : Nat) : Prop :=
  ∀ x ∈ s.ops, x.2.live = true → x.1 ≠ k → coreOfGroup x.2.grp = core → x.2.isPlain = false

def isLeased (l : L1Line) : Bool := match l.st with | .leased _ => true | _ => false

/-- The core of the group in focus has nothing buffered, no store under way and no leased line, and no core holds an
update-only copy: a read of the core or of the hub changes nothing at a home (R241, R251, R279), and no copy in the core
is older than what it reads (R246). -/
def NothingGathered (s : State) : Prop :=
  (s.cores.get s.curCore).wc.held = false ∧ s.noCopies = true ∧ NoStores s s.curCore
  ∧ ∀ l ∈ (s.cores.get s.curCore).l1, isLeased l.2 = false

/-- R138: the version instructions. R136, R301–R303, R306: safe points, and what a transfer writes. That SAFE issues
again while the engine has instructions of its group is the model's choice (DEDUCED, log entry 39). -/
def Obligations.VersionsAndSafePoints : Prop :=
  (let arms (i : Instr) (v : State → Option Nat) : Prop :=
    ∀ s, Completes i s (fun t => OnlyCur s t ∧ { t.cur with armed := s.cur.armed } = s.cur
      ∧ t.cur.armed = if s.actsOnce = true then v s else s.cur.armed)
  (∀ a, arms (.xfer a) (fun s => if (s.sR a).toNat ≤ 15 then some (s.sR a).toNat else none))
  ∧ arms .xclr (fun _ => none)
  ∧ (∀ d, ScalarResult (.xqry d) d (fun s => match s.cur.armed with | some n => BitVec.ofNat 32 n | none => 0xFFFFFFFF))
  ∧ (∀ d, ScalarResult (.version d) d (fun s => BitVec.ofNat 32 s.focus.version)))
  ∧ ((∀ s n, (s.cur.armed = none ∨ s.cur.armed = some s.focus.version) → exec (.safe n) s = .next s)
  ∧ (∀ s n u plan, NothingGathered s → s.planTransfer n.toNat = .ok (u, plan) → u.focus = s.focus → u.cur = s.cur →
      s.engineBusy s.focus.grp = false →
      Completes (.safe n) s (fun t => t.focus.goes = (BitVec.allOnes 32, BitVec.ofNat 32 plan.offset) :: s.focus.goes
        ∧ ∃ a, s.cur.armed = some a ∧ a ≠ s.focus.version
          ∧ (∀ x ∈ t.cur.splits, x.uid = s.focus.uid → x.version = a)
          ∧ (PlainPlan plan → Transfers s t a plan)))
  ∧ (∀ s n u plan, NothingGathered s → s.planTransfer n.toNat = .ok (u, plan) → s.engineBusy s.focus.grp = true →
      exec (.safe n) s = .next s.stall)
  ∧ (∀ s n, NothingGathered s → s.planTransfer n.toNat = .error .abandon → Completes (.safe n) s (fun t => t.cur.armed = none)))

/-- R105, R106, R141: the special registers. -/
def Obligations.SpecialRegisters : Prop :=
  (∀ d a b, 64 * a.toNat + b.toNat ≤ 0x00A → VectorResult (.sread d a b) d
      (fun s L => s.laneSpecialAt s.focus.grp (64 * a.toNat + b.toNat) L))
  ∧ (∀ d a b s, 0x100 ≤ 64 * a.toNat + b.toNat → Completes (.sread d a b) s (fun t =>
      OnlyCur s t ∧ { t.cur with s := s.cur.s, claveCapture := s.cur.claveCapture, cycleCapture := s.cur.cycleCapture } = s.cur
      ∧ (∀ r, t.cur.sAt r = if r = d.toNat ∧ s.actsOnce = true then
          s.groupSpecialAt s.focus.grp s.focus.entry s.focus.version (64 * a.toNat + b.toNat) else s.cur.sAt r)
      ∧ t.cur.claveCapture = (if s.actsOnce = true ∧ 64 * a.toNat + b.toNat = 0x106 then some (s.claveOf (dieOfGroup s.focus.grp))
          else s.cur.claveCapture)
      ∧ t.cur.cycleCapture = (if s.actsOnce = true ∧ 64 * a.toNat + b.toNat = 0x108 then some (s.cycleCount s.curCore)
          else s.cur.cycleCapture)))
  ∧ (∀ (s : State) g L, let k := s.group g
      let r := (s.launchOf g).rec_
      let field (n : Nat) : Nat := (laneFields r (s.blockOf g).ident (32 * k.index + L)).getD n 0
      let wid : Nat := ((List.range r.widths.length).map (fun n => field n * 2 ^ (r.widths.take n).sum)).sum
      s.laneSpecialAt g 0 L = BitVec.ofNat 32 L
      ∧ (r.widths.length = 6 → r.extents.length = 6 → r.level ≤ 6 → s.laneSpecialAt g 1 L = BitVec.ofNat 32 wid
        ∧ s.laneSpecialAt g 2 L = BitVec.ofNat 32 (wid / 2 ^ 32))
      ∧ (∀ n, n < 6 → s.laneSpecialAt g (3 + n) L = BitVec.ofNat 32 (field n))
      ∧ s.laneSpecialAt g 9 L = (k.plane.get L).setWidth 32 ∧ s.laneSpecialAt g 10 L = (k.depth.get L).setWidth 32
      -- the fields: of a block-local one from the lane's index (R15), of another from the block's identifier (R41)
      ∧ (∀ n, n < r.level → r.level ≤ r.extents.length →
          field n = (32 * k.index + L) / ((r.extents.take n).prod) % r.extents.getD n 1)
      ∧ (∀ n, r.level ≤ n → n < r.widths.length → r.level ≤ r.extents.length →
          field n = (s.blockOf g).ident / 2 ^ ((r.widths.take n).drop r.level).sum % 2 ^ r.widths.getD n 0))
  ∧ (∀ (s : State) g e v, s.groupSpecialAt g e v 0x100 = BitVec.ofNat 32 (s.group g).index
      ∧ s.groupSpecialAt g e v 0x103 = (s.launchOf g).id ∧ s.groupSpecialAt g e v 0x104 = BitVec.ofNat 32 (coreOfGroup g % 32)
      ∧ s.groupSpecialAt g e v 0x105 = BitVec.ofNat 32 (dieOfGroup g)
      ∧ (∀ n, n < 8 → s.groupSpecialAt g e v (0x10A + n) = (s.launchOf g).rec_.slots.get n)
      ∧ s.groupSpecialAt g e v 0x112 = BitVec.ofNat 32 (s.blockOf g).stash)
  ∧ (∀ (s : State) g e v, s.groupSpecialAt g e v 0x107 = ((s.group g).claveCapture.getD (s.claveOf (dieOfGroup g))).extractLsb' 32 32
      ∧ s.groupSpecialAt g e v 0x109 = ((s.group g).cycleCapture.getD (s.cycleCount (coreOfGroup g))).extractLsb' 32 32
      ∧ s.groupSpecialAt g e v 0x106 = (s.claveOf (dieOfGroup g)).extractLsb' 0 32
      ∧ s.groupSpecialAt g e v 0x108 = (s.cycleCount (coreOfGroup g)).extractLsb' 0 32
      ∧ s.groupSpecialAt g e v 0x101 = BitVec.ofNat 32 e ∧ s.groupSpecialAt g e v 0x102 = BitVec.ofNat 32 v)
  ∧ (∀ d a b s, (64 * a.toNat + b.toNat = 0x108 ∨ 64 * a.toNat + b.toNat = 0x109) → Completes (.swrite d a b) s (fun t =>
      { t with cores := s.cores } = s ∧ SameBytes s t ∧ (∀ c, c ≠ s.curCore → t.cores.get c = s.cores.get c)
      ∧ { t.cores.get s.curCore with cycleOffset := (s.cores.get s.curCore).cycleOffset } = s.cores.get s.curCore
      ∧ t.cycleCount s.curCore = if s.actsOnce = true then
          (if 64 * a.toNat + b.toNat = 0x108 then (s.cycleCount s.curCore).extractLsb' 32 32 ++ s.sR d
           else s.sR d ++ (s.cycleCount s.curCore).extractLsb' 0 32)
        else s.cycleCount s.curCore))

/-- R377: what a record written to the trace ring of a context changes in memory. Without a ring, nothing. With one that
the hub can reach and whose counts say that there is room, the 64 bytes of the record's place. -/
def TraceRecorded (s t : State) (ctx : Nat) (record : List Byte) : Prop :=
  let x := s.ctxs.get ctx
  let cap := x.traceBytes / 64 - 1
  (x.traceRing = 0 → SameBytes s t)
  ∧ ∀ w0 r, x.traceRing ≠ 0 → cap ≠ 0 → s.agentWord ctx x.traceRing 4 = .ok w0 → s.agentWord ctx (x.traceRing + 4) 4 = .ok r →
      let w := (w0 + x.traceOut.length) % 2 ^ 32
      let a := x.traceRing + BitVec.ofNat 64 (64 + 64 * (w % cap))
      (w + 2 ^ 32 - r) % 2 ^ 32 < cap → a.toNat % 64 = 0 → record.length = 64 → HubBytes s ctx a 64 → HubStored s t ctx a record

/-- R139, R140, R142, R143, R148: NOP, YIELD, TRAP, BRKPT, DBLS, STAMP.OPEN, STAMP.CLOSE and MBOXW complete: exec
answers a next state, in every state but for STAMP.OPEN and STAMP.CLOSE, which are said for a pass in which they act
(R113) and, where they do not act, change nothing. Where they act, registers, predicates and everything else of every
group but its splits and the open record are as before, and memory but for the record that goes to the trace ring. -/
def Obligations.SystemInstructions : Prop :=
  (∀ s, exec .nop s = .next s)
  ∧ (∀ s, Completes .yield s (fun t => { t with quads := s.quads } = s ∧ SameBytes s t
      ∧ (∀ q, q ≠ s.focus.quad → t.quads.get q = s.quads.get q)
      ∧ (s.actsOnce = false → t = s)
      ∧ (s.actsOnce = true → ∃ y ∈ (t.quads.get s.focus.quad).yields, y.split = (s.focus.grp, s.focus.uid)
          ∧ y.until_ = s.now + s.cycles (dieOfGroup s.focus.grp) 64
          ∧ y.left = (s.quadSplits s.focus.quad).filter (fun e => e != (s.focus.grp, s.focus.uid)))))
  ∧ (∀ s a b, let r : Option (Cause × BitVec 16) := some (.trap, BitVec.ofNat 16 (64 * a.toNat + b.toNat))
      if s.actsOnce = true then Completes (.trap a b) s (fun t =>
        t.cur.v = s.cur.v ∧ t.cur.s = s.cur.s ∧ t.cur.p = s.cur.p ∧ SameBytes s t
        ∧ ∀ x ∈ s.cur.splits, x.uid = s.focus.uid → x.stopAfter = none → { x with stopAfter := r, stopPlane := s.focus.plane.toNat } ∈ t.cur.splits)
      else exec (.trap a b) s = .next s)
  ∧ (∀ s, if s.actsOnce = true then Completes .brkpt s (fun t =>
        t.cur.v = s.cur.v ∧ t.cur.s = s.cur.s ∧ t.cur.p = s.cur.p ∧ SameBytes s t
        ∧ ∀ x ∈ s.cur.splits, x.uid = s.focus.uid → x.stopAfter = none → { x with stopAfter := some (.brkpt, 0), stopPlane := s.focus.plane.toNat } ∈ t.cur.splits)
      else exec .brkpt s = .next s)
  ∧ (∀ s, Completes .dbls s (fun t => OnlyCur s t
      ∧ { t.cur with dstroke := s.cur.dstroke, ent := s.cur.ent, spill := s.cur.spill } = s.cur
      ∧ t.cur.dstroke = (s.cur.dstroke ^^ (s.actsOnce && !(s.splitOf s.focus.grp s.focus.uid).toggled))
      ∧ (s.actsOnce = true → (s.splitOf s.focus.grp s.focus.uid).toggled = false →
          ∀ x ∈ s.cur.splits, x.uid = s.focus.uid → { x with toggled := true } ∈ t.cur.splits)))
  ∧ (∀ s a, s.actsOnce = true → Completes (.stampOpen a) s (fun t => SameRegs s t
      ∧ (s.cur.stamp = none → OnlyCur s t ∧ { t.cur with stamp := none } = s.cur)
      ∧ (∀ p, s.cur.stamp = some p → s.noCopies = true → TraceRecorded s t (s.ctxOf s.focus.grp) (stampBytes p false 0 0))
      ∧ ∃ p, t.cur.stamp = some p ∧ p.tag = s.sR a
        ∧ p.openTime = s.claveOf (dieOfGroup s.focus.grp) ∧ p.retired = s.cur.retired ∧ p.copyIn = none ∧ p.compute = none))
  ∧ (∀ s a, s.actsOnce = false → exec (.stampOpen a) s = .next s)
  ∧ (∀ s, s.actsOnce = false → exec .stampClose s = .next s)
  ∧ (∀ s, s.actsOnce = true → Completes .stampClose s (fun t => SameRegs s t ∧ t.cur.stamp = none
      ∧ ∀ p, s.cur.stamp = some p → s.noCopies = true → TraceRecorded s t (s.ctxOf s.focus.grp)
          (stampBytes p true (s.claveOf (dieOfGroup s.focus.grp)) s.cur.retired)))
  ∧ (∀ s, s.cur.stamp = none → exec .stampClose s = .next s)
  ∧ (∀ s a b, Completes (.mboxw a b) s (fun t => { t with fw := s.fw } = s ∧ SameBytes s t
      ∧ { t.fw with debugBox := s.fw.debugBox } = s.fw
      ∧ ∀ k, t.fw.debugBox.get k = if s.actsOnce = true ∧ (s.sR a).toNat ≤ 15 ∧ k = (s.sR a).toNat then s.sR b else s.fw.debugBox.get k))

/-! ### Global memory: issue -/

/-- The lanes of the pass reach memory at their addresses: every address is aligned to n bytes and
canonical, its translation e is held, of a class that is asked for, and gives the rights asked for; no lane has an open
transaction; nothing else of the core is under way, and no watchpoint is set. -/
def Reaches (s : State) (n : Nat) (rd wr : Bool) (cls : BitVec 2 → Bool) (addr : Nat → DWord) (e : Nat → TlbEntry) : Prop :=
  s.focus.mask ≠ 0 ∧ s.focus.mask &&& s.cur.txOpen = 0
  ∧ (∀ x ∈ s.ops, x.2.live = true → coreOfGroup x.2.grp ≠ s.curCore)
  ∧ (s.cores.get s.curCore).wc = {} ∧ (s.launchOf s.focus.grp).watches = []
  ∧ ∀ L, L < 32 → s.inPass L = true →
      canonical57 (addr L) = true ∧ (addr L).toNat % n = 0
      ∧ s.lookup s.curCore (s.ctxOf s.focus.grp) (addr L) = .hit (e L)
      ∧ cls (e L).cls = true ∧ (rd = true → (e L).r = true)
      ∧ (wr = true → (e L).w = true ∧ (e L).cow = false)

/-- The same for pages of class 1 or 2, whose lines have a home (R228). -/
def CanAccess (s : State) (n : Nat) (rd wr : Bool) (addr : Nat → DWord) (e : Nat → TlbEntry) : Prop :=
  Reaches s n rd wr (fun c => c == 1 || c == 2) addr e

/-- The instruction is outstanding under the number s.nextOp, with its lookahead count and its lanes, their
addresses and what those translate to, all as at issue. -/
def Issued (s t : State) (i : Instr) (la : BitVec 4) (addr : Nat → DWord) (e : Nat → TlbEntry) : Prop :=
  let o := t.op s.nextOp
  t.nextOp = s.nextOp + 1 ∧ o.live = true ∧ o.instr = i ∧ o.grp = s.focus.grp ∧ o.uid = s.focus.uid
  ∧ o.mask = s.focus.mask ∧ o.offset = s.focus.offset ∧ o.status = .flying
  ∧ (∀ L, L < 32 → s.inPass L = true →
      o.addr.get L = addr L ∧ o.pa.get L = (e L).pa (addr L) ∧ o.cls.get L = (e L).cls.toNat)
  ∧ ∀ x ∈ t.cur.splits, x.uid = s.focus.uid → ⟨s.nextOp, la.toNat + 1⟩ ∈ x.out

/-- Its data registers are taken at issue (R101): word k of a lane from v[d + k]. -/
def DataTaken (s t : State) (d : Reg) (regs : Nat) : Prop :=
  ∀ L k, L < 32 → k < regs → s.inPass L = true → (t.op s.nextOp).data.get (4 * L + k) = s.cur.vAt (d.toNat + k) L

/-- The line of the core's L1 that holds a physical address. -/
def l1At (s : State) (core pa : Nat) : L1Line := (s.cores.get core).l1.get (lineOf pa)

/-- R171, R172: a load of n bytes a lane into `regs` registers. A lane whose line the L1 holds has its bytes;
the line of any other lane is being filled. -/
def LoadIssues (i : Instr) (la : BitVec 4) (n regs : Nat) (acquires : Bool) (addr : State → Nat → DWord) : Prop :=
  ∀ s e, CanAccess s n true false (addr s) e → Completes i s (fun t =>
    SameRegs s t ∧ SameBytes s t ∧ Issued s t i la (addr s) e ∧ .loadDataReturn s.nextOp ∈ t.pending
    ∧ (acquires = true → ∀ x ∈ t.cur.splits, x.uid = s.focus.uid → s.nextOp ∈ x.acquiring)
    ∧ ∀ L, L < 32 → s.inPass L = true →
        let pa := (e L).pa (addr s L)
        let l := l1At s s.curCore pa
        inMask (t.op s.nextOp).have_ L = s.l1Valid l
        ∧ (s.l1Valid l = true → ∀ k, k < regs → (t.op s.nextOp).got.get (4 * L + k)
            = BitVec.ofNat 32 (lineElem l.bytes (pa % 64 + 4 * k) (min 4 n)))
        ∧ (s.l1Valid l = false → .fillGrant s.curCore (lineOf pa) ∈ t.pending ∨ ∃ sent, l.st = .filling sent))

/-- The bytes that lanes store, n of each from its registers, lanes ascending (R171: a higher lane wins). -/
def lanesBytes (m : Mask) (pa : Nat → Nat) (n : Nat) (value : Nat → Nat) : List (Nat × Byte) :=
  (lanesOf m).flatMap (fun L => (splitBytes (value L) n).zipIdx.map (fun x => (pa L + x.2, x.1)))

/-- The value of a lane's registers from d on, the first lowest. -/
def regsValue (s : State) (d : Reg) (regs L : Nat) : Nat :=
  ((List.range regs).map (fun k => (s.cur.vAt (d.toNat + k) L).toNat * 2 ^ (32 * k))).sum

/-- R171, R237: a store that is not write-combined is on its way home; the core's own valid copies take its
bytes at once, memory does not. -/
def StoreIssues (i : Instr) (la : BitVec 4) (n regs : Nat) (d : Reg) (addr : State → Nat → DWord) : Prop :=
  ∀ s e, CanAccess s n false true (addr s) e → Completes i s (fun t =>
    SameRegs s t ∧ SameBytes s t ∧ Issued s t i la (addr s) e ∧ DataTaken s t d regs
    ∧ .storeApply s.nextOp ∈ t.pending
    ∧ ∀ line off, off < 64 → s.l1Valid (l1At s s.curCore (64 * line)) = true →
        (l1At t s.curCore (64 * line)).bytes.get off
          = laid (lanesBytes s.focus.mask (fun L => (e L).pa (addr s L)) n (regsValue s d regs))
              (fun _ => (l1At s s.curCore (64 * line)).bytes.get off) (64 * line + off))

/-- R172: a releasing store keeps its bytes until it is presented, on a page of any class. -/
def ReleaseIssues (i : Instr) (la : BitVec 4) (n regs : Nat) (d : Reg) (addr : State → Nat → DWord) : Prop :=
  ∀ s e, Reaches s n false true (fun _ => true) (addr s) e → Completes i s (fun t =>
    SameRegs s t ∧ SameBytes s t ∧ Issued s t i la (addr s) e ∧ DataTaken s t d regs
    ∧ .storeApply s.nextOp ∈ t.pending ∧ t.cores = s.cores)

/-- R186: an ATOM is on its way to the home of its first lane, or, of a class 0 page, to the core's own line. -/
def AtomIssues (i : Instr) (la : BitVec 4) (n regs : Nat) (d a : Reg) : Prop :=
  ∀ s e, Reaches s n true true (fun c => c != 3) (s.vP a) e → Completes i s (fun t =>
    SameRegs s t ∧ SameBytes s t ∧ Issued s t i la (s.vP a) e ∧ DataTaken s t d regs ∧ .atomAtHome s.nextOp ∈ t.pending)

/-- R187, R278: a RED folds into the core's L1 at once and is complete: its lines are update-only, and each
element holds the fold, from the identity, of the lanes that name it, in ascending order. -/
def RedFolds (i : Instr) (n regs : Nat) (d a : Reg) (code : Nat) : Prop :=
  ∀ s e, CanAccess s n true true (s.vP a) e →
    (∀ L, L < 32 → s.inPass L = true → updateOp (l1At s s.curCore ((e L).pa (s.vP a L))) = none) →
    Completes i s (fun t => SameRegs s t ∧ SameBytes s t ∧ (t.op s.nextOp).live = false
      ∧ ∀ L, L < 32 → s.inPass L = true →
          let pa := fun K => (e K).pa (s.vP a K)
          let l := l1At t s.curCore (pa L)
          updateOp l = some (code, n) ∧ l.touched.get (pa L % 64) = true
          ∧ lineElem l.bytes (pa L % 64) n
              = ((lanesOf s.focus.mask).filter (fun K => pa K == pa L)).foldl
                  (fun acc K => redFold code acc (regsValue s d regs K)) (redIdentity code))

/-- R229, R230: the bytes of a line of a class 0 page as a core has it: its private copy's, or memory's. -/
def privateByte (s : State) (core pa : Nat) : Byte :=
  let l := l1At s core pa
  if l.st = .priv then l.bytes.get (pa % 64) else s.mem.get pa

/-- R229, R230: a load of class 0 pages has all its data at once, and its lines are private ones of the core. -/
def PrivateLoads (i : Instr) (la : BitVec 4) (n regs : Nat) (addr : State → Nat → DWord) : Prop :=
  ∀ s e, Reaches s n true false (fun c => c == 0) (addr s) e → Completes i s (fun t =>
    SameRegs s t ∧ SameBytes s t ∧ Issued s t i la (addr s) e ∧ .loadDataReturn s.nextOp ∈ t.pending
    ∧ ∀ L, L < 32 → s.inPass L = true → let pa := (e L).pa (addr s L)
        inMask (t.op s.nextOp).have_ L = true ∧ (l1At t s.curCore pa).st = .priv
        ∧ ∀ k, k < regs → (t.op s.nextOp).got.get (4 * L + k)
            = BitVec.ofNat 32 (joinBytes ((List.range (min 4 n)).map (fun j => privateByte s s.curCore (pa + 4 * k + j)))))

/-- R230: a store to class 0 pages is complete when the core's private lines have its bytes. -/
def PrivateStores (i : Instr) (n regs : Nat) (d : Reg) (addr : State → Nat → DWord) : Prop :=
  ∀ s e, Reaches s n false true (fun c => c == 0) (addr s) e → Completes i s (fun t =>
    SameRegs s t ∧ SameBytes s t ∧ (t.op s.nextOp).live = false
    ∧ ∀ L, L < 32 → s.inPass L = true → let pa := (e L).pa (addr s L)
        (l1At t s.curCore pa).st = .priv
        ∧ ∀ off, off < 64 → privateByte t s.curCore (64 * lineOf pa + off)
            = laid (lanesBytes s.focus.mask (fun K => (e K).pa (addr s K)) n (regsValue s d regs))
                (privateByte s s.curCore) (64 * lineOf pa + off))

/-- R230: a RED on class 0 pages folds into the core's private lines, lanes ascending. -/
def PrivateReds (i : Instr) (n regs : Nat) (d a : Reg) (code : Nat) : Prop :=
  ∀ s e, Reaches s n true true (fun c => c == 0) (s.vP a) e → Completes i s (fun t =>
    SameRegs s t ∧ SameBytes s t ∧ (t.op s.nextOp).live = false
    ∧ ∀ L, L < 32 → s.inPass L = true → let pa := fun K => (e K).pa (s.vP a K)
        let elem (u : State) : Nat := joinBytes ((List.range n).map (fun j => privateByte u s.curCore (pa L + j)))
        (l1At t s.curCore (pa L)).st = .priv
        ∧ elem t = ((lanesOf s.focus.mask).filter (fun K => pa K == pa L)).foldl
            (fun acc K => redFold code acc (regsValue s d regs K)) (elem s))

/-- R231: an access to a register page is outstanding: it has read and written nothing yet. -/
def RegisterIssues (i : Instr) (la : BitVec 4) (n : Nat) (store : Bool) (addr : State → Nat → DWord) : Prop :=
  ∀ s e, Reaches s n (!store) store (fun c => c == 3) (addr s) e → Completes i s (fun t =>
    SameRegs s t ∧ SameBytes s t ∧ Issued s t i la (addr s) e ∧ (t.op s.nextOp).have_ = 0 ∧ t.cores = s.cores
    ∧ (if store then .storeApply s.nextOp else .loadDataReturn s.nextOp) ∈ t.pending)

/-- R168: an access that a register page does not carry out is FAULT.P for the class: it stays logged, and its record
names every lane and the address of the lowest. -/
def RegisterFaults (i : Instr) (n : Nat) (rd wr : Bool) (addr : State → Nat → DWord) : Prop :=
  ∀ s e, Reaches s n rd wr (fun c => c == 3) (addr s) e → Completes i s (fun t =>
    SameRegs s t ∧ SameBytes s t ∧ (t.op s.nextOp).status = .faulted ∧ .carillonFaultService s.nextFault ∈ t.pending
    ∧ ∃ f, t.faults = s.faults ++ [(s.nextFault, f)] ∧ f.op = some s.nextOp ∧ f.rec_.cause = .faultP
        ∧ f.rec_.detail = (if wr then 3 else 2) ∧ f.rec_.hit = s.focus.mask ∧ f.rec_.address = addr s (lowLane s.focus.mask))

/-- R195, R267: every lane of the pass has an open transaction and can log its access: an aligned address with a
translation e, held, of class 1 or 2 and with the right asked for; none of its words is logged, and the log has room. -/
def CanLog (s : State) (n : Nat) (write : Bool) (addr : Nat → DWord) (e : Nat → TlbEntry) : Prop :=
  s.focus.mask ≠ 0 ∧ s.focus.mask &&& ~~~s.cur.txOpen = 0
  ∧ (s.cores.get s.curCore).wc.held = false ∧ (s.launchOf s.focus.grp).watches = []
  ∧ ∀ L, L < 32 → s.inPass L = true → let t := s.cur.tx.get L
      canonical57 (addr L) = true ∧ (addr L).toNat % n = 0
      ∧ s.lookup s.curCore (s.ctxOf s.focus.grp) (addr L) = .hit (e L) ∧ ((e L).cls = 1 ∨ (e L).cls = 2)
      ∧ (if write then (e L).w = true ∧ t.writes.length + (n + 3) / 4 ≤ 8 else (e L).r = true ∧ t.reads.length + (n + 3) / 4 ≤ 16)
      ∧ ∀ w ∈ wordsOf ((e L).pa (addr L)) n, (∀ x ∈ t.reads, x.pa ≠ w) ∧ ∀ x ∈ t.writes, x.pa ≠ w

/-- Nothing of any group differs but its splits, its open stamp and its lanes' transactions. -/
def SameButLogs (s t : State) : Prop := ∀ g,
  { t.group g with ent := (s.group g).ent, spill := (s.group g).spill, stamp := (s.group g).stamp, tx := (s.group g).tx } = s.group g

/-- R195, R267: a logged load, of lines that the core holds: each lane's words enter its read log, and their values are
on their way to the registers. -/
def LoggedLoads (i : Instr) (n regs : Nat) (addr : State → Nat → DWord) : Prop :=
  ∀ s e, CanLog s n false (addr s) e →
    (∀ L, L < 32 → s.inPass L = true → let pa := (e L).pa (addr s L)
      s.l1Valid (l1At s s.curCore pa) = true ∧ s.lineError (lineOf pa) = none) →
    Completes i s (fun t => SameButLogs s t ∧ SameBytes s t ∧ .loadDataReturn s.nextOp ∈ t.pending
      ∧ (let o := t.op s.nextOp
         o.live = true ∧ o.instr = i ∧ o.mask = s.focus.mask ∧ o.have_ = s.focus.mask ∧ o.status = .accepted)
      ∧ ∀ L, L < 32 → s.inPass L = true → let pa := (e L).pa (addr s L)
          let l := l1At s s.curCore pa
          let ws := wordsOf pa n
          let value (w : Nat) : Word := BitVec.ofNat 32 (lineElem l.bytes (w % 64) 4)
          t.cur.tx.get L = { s.cur.tx.get L with reads := (s.cur.tx.get L).reads ++ ws.map (fun w => ⟨w, value w, false⟩) }
          ∧ ∀ k, k < regs → (t.op s.nextOp).got.get (4 * L + k)
              = BitVec.ofNat 32 (lineElem l.bytes (pa % 64 + 4 * k) (min 4 n)))

/-- R195, R267, R274: a logged store: each lane's words enter its write log, with the bytes that it writes and the stamp
of a group that holds the token; nothing else of the store happens. -/
def LoggedStores (i : Instr) (n regs : Nat) (d : Reg) (addr : State → Nat → DWord) : Prop :=
  ∀ s e, CanLog s n true (addr s) e → Completes i s (fun t => SameButLogs s t ∧ SameBytes s t ∧ t.ops = s.ops
    ∧ ∀ L, L < 32 → s.inPass L = true → let pa := (e L).pa (addr s L)
        let v := regsValue s d regs L
        t.cur.tx.get L = { s.cur.tx.get L with writes := (s.cur.tx.get L).writes ++ (wordsOf pa n).zipIdx.map (fun w =>
          if n < 4 then ⟨w.1, BitVec.ofNat 32 (v * 2 ^ (8 * (pa % 4))), BitVec.ofNat 4 ((2 ^ n - 1) * 2 ^ (pa % 4)), (e L).cls.toNat, s.stampFor s.focus.grp⟩
          else ⟨w.1, BitVec.ofNat 32 (v / 2 ^ (32 * w.2)), 15, (e L).cls.toNat, s.stampFor s.focus.grp⟩) })

/-- R195: an access that no transaction may hold dooms its lanes with code 5, and does nothing else. -/
def Dooms (i : Instr) : Prop :=
  ∀ s : State, s.focus.mask &&& ~~~s.cur.txOpen = 0 → exec i s = .next (s.doom s.focus.mask 5)

/-- R167: a misaligned lane, with every address canonical, is an ALIGN trap that names every such lane and
the address of the lowest. Where lanes have the access of `strong` (R195) the doom comes first. -/
def AlignTraps (i : Instr) (n : Nat) (strong : Bool) (addr : State → Nat → DWord) : Prop :=
  ∀ s L, s.focus.mask ≠ 0 → s.focus.mask &&& s.cur.txOpen = 0 →
    (∀ K, K < 32 → s.inPass K = true → canonical57 (addr s K) = true) →
    L < 32 → (s.inPass L = true ∧ (addr s L).toNat % n ≠ 0) →
    (∀ K, K < L → ¬ (s.inPass K = true ∧ (addr s K).toNat % n ≠ 0)) →
    exec i s = .next ((if strong then s.doom s.focus.mask 5 else s).takeOpenTrap .align
      (maskOf (fun K => s.inPass K && decide ((addr s K).toNat % n ≠ 0))) (addr s L))

/-- R167, R168, R171, R172, R98, R101: loads at issue; of class 0 pages (R229, R230), of register pages (R231), and in
lanes with an open transaction (R195, R267). -/
def Obligations.LoadsIssue : Prop :=
  (∀ la d a sp m p,
    let at_ := fun (s : State) L => s.addrM sp m a L
    (∀ x ∈ [(Instr.ldgSb la d a sp m p, 1, 1), (.ldgZb la d a sp m p, 1, 1), (.ldgSh la d a sp m p, 2, 1),
        (.ldgZh la d a sp m p, 2, 1), (.ldgW la d a sp m p, 4, 1), (.ldgD la d a sp m p, 8, 2), (.ldgQ la d a sp m p, 16, 4)],
      PrivateLoads x.1 la x.2.1 x.2.2 at_ ∧ LoggedLoads x.1 x.2.1 x.2.2 at_
      ∧ if x.2.1 = 16 then RegisterFaults x.1 16 true false at_ else RegisterIssues x.1 la x.2.1 false at_)
    ∧ (∀ x ∈ [(Instr.ldaW la d a sp m p, 4, 1), (.ldaD la d a sp m p, 8, 2)],
      PrivateLoads x.1 la x.2.1 x.2.2 at_ ∧ RegisterIssues x.1 la x.2.1 false at_ ∧ Dooms x.1))
  ∧
  (∀ la d a sp m p, LoadIssues (.ldgSb la d a sp m p) la 1 1 false (fun s L => s.addrM sp m a L))
  ∧ (∀ la d a sp m p, LoadIssues (.ldgZb la d a sp m p) la 1 1 false (fun s L => s.addrM sp m a L))
  ∧ (∀ la d a sp m p, LoadIssues (.ldgSh la d a sp m p) la 2 1 false (fun s L => s.addrM sp m a L))
  ∧ (∀ la d a sp m p, LoadIssues (.ldgZh la d a sp m p) la 2 1 false (fun s L => s.addrM sp m a L))
  ∧ (∀ la d a sp m p, LoadIssues (.ldgW la d a sp m p) la 4 1 false (fun s L => s.addrM sp m a L))
  ∧ (∀ la d a sp m p, LoadIssues (.ldgD la d a sp m p) la 8 2 false (fun s L => s.addrM sp m a L))
  ∧ (∀ la d a sp m p, LoadIssues (.ldgQ la d a sp m p) la 16 4 false (fun s L => s.addrM sp m a L))
  ∧ (∀ la d a sp m c, LoadIssues (.ldaW la d a sp m c) la 4 1 true (fun s L => s.addrM sp m a L))
  ∧ (∀ la d a sp m c, LoadIssues (.ldaD la d a sp m c) la 8 2 true (fun s L => s.addrM sp m a L))

/-- R167, R168, R171, R172, R178, R101: stores at issue; to class 0 pages (R230), to register pages (R231), and in
lanes with an open transaction (R195, R267). R169, R241: write-combined stores. -/
def Obligations.StoresIssue : Prop :=
  (∀ la d a sp m p,
    let at_ := fun (s : State) L => s.addrM sp m a L
    (∀ x ∈ [(Instr.stgB la d a sp m p, 1, 1), (.stgH la d a sp m p, 2, 1), (.stgW la d a sp m p, 4, 1),
        (.stgD la d a sp m p, 8, 2), (.stgQ la d a sp m p, 16, 4)],
      PrivateStores x.1 x.2.1 x.2.2 d at_ ∧ LoggedStores x.1 x.2.1 x.2.2 d at_
      ∧ if x.2.1 = 16 then RegisterFaults x.1 16 false true at_ else RegisterIssues x.1 la x.2.1 true at_)
    ∧ (∀ i ∈ [Instr.stlW la d a sp m p, .stlD la d a sp m p, .stgc la d a sp m p], Dooms i))
  ∧ ((∀ la d a sp m p, p ≠ 3 → StoreIssues (.stgB la d a sp m p) la 1 1 d (fun s L => s.addrM sp m a L))
  ∧ (∀ la d a sp m p, p ≠ 3 → StoreIssues (.stgH la d a sp m p) la 2 1 d (fun s L => s.addrM sp m a L))
  ∧ (∀ la d a sp m p, p ≠ 3 → StoreIssues (.stgW la d a sp m p) la 4 1 d (fun s L => s.addrM sp m a L))
  ∧ (∀ la d a sp m p, p ≠ 3 → StoreIssues (.stgD la d a sp m p) la 8 2 d (fun s L => s.addrM sp m a L))
  ∧ (∀ la d a sp m p, p ≠ 3 → StoreIssues (.stgQ la d a sp m p) la 16 4 d (fun s L => s.addrM sp m a L))
  ∧ (∀ la d a sp m c, ReleaseIssues (.stlW la d a sp m c) la 4 1 d (fun s L => s.addrM sp m a L))
  ∧ (∀ la d a sp m c, ReleaseIssues (.stlD la d a sp m c) la 8 2 d (fun s L => s.addrM sp m a L))
  ∧ (∀ la d a sp m p s, s.focus.mask ≠ 0 → s.focus.mask &&& s.cur.txOpen = 0 →
      (s.addrM sp m a (lowLane s.focus.mask)).toNat % 4 = 0 →
      Completes (.stgc la d a sp m p) s (fun t =>
        let o := t.op s.nextOp
        SameRegs s t ∧ SameBytes s t ∧ t.nextOp = s.nextOp + 1 ∧ o.live = true ∧ o.mask = s.focus.mask
        ∧ o.instr = .stgc la d a sp m p ∧ o.status = .flying ∧ .storeApply s.nextOp ∈ t.pending
        ∧ ∀ k, k < laneCount s.focus.mask →
            o.addr.get k = s.addrM sp m a (lowLane s.focus.mask) + BitVec.ofNat 64 (4 * k)
            ∧ o.data.get k = s.vR d ((lanesOf s.focus.mask).getD k 0))))
  ∧ (let combines (i : Reg → Instr) (n regs : Nat) (addr : State → Nat → DWord) : Prop := ∀ s e line d,
    CanAccess s n false true (addr s) e →
    (∀ L, L < 32 → s.inPass L = true → (e L).cls = 2 ∧ lineOf ((e L).pa (addr s L)) = line) →
    let bs := lanesBytes s.focus.mask (fun L => (e L).pa (addr s L)) n (regsValue s d regs)
    (∃ off, off < 64 ∧ ∀ x ∈ bs, x.1 ≠ 64 * line + off) →
    Completes (i d) s (fun t => SameRegs s t ∧ SameBytes s t ∧ (t.op s.nextOp).live = false
      ∧ let w := (t.cores.get s.curCore).wc
        w.held = true ∧ w.line = line ∧ w.ctxs = [s.ctxOf s.focus.grp] ∧ w.since = s.now
        ∧ ∀ off, off < 64 → w.mask.get off = bs.any (fun x => x.1 == 64 * line + off)
            ∧ w.bytes.get off = laid bs (fun _ => 0) (64 * line + off))
  (∀ la a sp m, combines (fun d => .stgB la d a sp m 3) 1 1 (fun s L => s.addrM sp m a L))
  ∧ (∀ la a sp m, combines (fun d => .stgH la d a sp m 3) 2 1 (fun s L => s.addrM sp m a L))
  ∧ (∀ la a sp m, combines (fun d => .stgW la d a sp m 3) 4 1 (fun s L => s.addrM sp m a L))
  ∧ (∀ la a sp m, combines (fun d => .stgD la d a sp m 3) 8 2 (fun s L => s.addrM sp m a L))
  ∧ (∀ la a sp m, combines (fun d => .stgQ la d a sp m 3) 16 4 (fun s L => s.addrM sp m a L)))

/-- The forms of ATOM: bytes, and data registers a lane. -/
def atomForms (la : BitVec 4) (d a : Reg) (c : BitVec 2) : List (Instr × Nat × Nat) :=
  [(.atomAdd la d a c, 4, 1), (.atomAnd la d a c, 4, 1), (.atomOr la d a c, 4, 1), (.atomXor la d a c, 4, 1),
   (.atomMin la d a c, 4, 1), (.atomMax la d a c, 4, 1), (.atomUmin la d a c, 4, 1), (.atomUmax la d a c, 4, 1),
   (.atomXchg la d a c, 4, 1), (.atomCas la d a c, 4, 2), (.atomFadd la d a c, 4, 1), (.atomFmin la d a c, 4, 1),
   (.atomFmax la d a c, 4, 1), (.atomAddD la d a c, 8, 2), (.atomXchgD la d a c, 8, 2), (.atomCasD la d a c, 8, 4)]
/-- The forms of RED: bytes, data registers a lane, and the code of the operation. -/
def redForms (la : BitVec 4) (d a : Reg) (c : BitVec 2) : List (Instr × Nat × Nat × Nat) :=
  [(.redAdd la d a c, 4, 1, 0), (.redAnd la d a c, 4, 1, 1), (.redOr la d a c, 4, 1, 2), (.redXor la d a c, 4, 1, 3),
   (.redMin la d a c, 4, 1, 4), (.redMax la d a c, 4, 1, 5), (.redUmin la d a c, 4, 1, 6), (.redUmax la d a c, 4, 1, 7),
   (.redFadd la d a c, 4, 1, 8), (.redFmin la d a c, 4, 1, 9), (.redFmax la d a c, 4, 1, 10), (.redAddD la d a c, 8, 2, 11)]

/-- R186, R187, R278, R180: atomics, reductions and prefetches at issue; reductions on class 0 pages (R230), what a
register page does not carry out (R168), and lanes with an open transaction (R180, R195). That a prefetch raises the
priority of a line that the core holds is the model's reading of R169 (DESIGN CHOICE, log entry 61). -/
def Obligations.AtomsIssue : Prop :=
  (∀ la d a c,
    (∀ x ∈ atomForms la d a c, AtomIssues x.1 la x.2.1 x.2.2 d a ∧ Dooms x.1 ∧ RegisterFaults x.1 x.2.1 true true (fun s => s.vP a))
    ∧ (∀ x ∈ redForms la d a c, RedFolds x.1 x.2.1 x.2.2.1 d a x.2.2.2 ∧ PrivateReds x.1 x.2.1 x.2.2.1 d a x.2.2.2
      ∧ Dooms x.1 ∧ RegisterFaults x.1 x.2.1 true true (fun s => s.vP a)))
  ∧ (∀ la a sp m p (s : State), s.focus.mask &&& ~~~s.cur.txOpen = 0 → exec (.pfg la a sp m p) s = .next s)
  ∧ (∀ la a sp m p s e, CanAccess s 1 true false (s.addrM sp m a) e →
      Completes (.pfg la a sp m p) s (fun t => SameRegs s t ∧ SameBytes s t ∧ t.ops = s.ops
        ∧ ∀ L, L < 32 → s.inPass L = true →
            let pa := (e L).pa (s.addrM sp m a L)
            if s.l1Valid (l1At s s.curCore pa) then
              l1At t s.curCore pa = { l1At s s.curCore pa with pol := raisePol (l1At s s.curCore pa).pol (polOf p) }
            else (updateOp (l1At s s.curCore pa)).isSome ∨ ∃ sent, (l1At t s.curCore pa).st = .filling sent))

/-- R167, R178, R192: alignment of every global access wider than a byte: LDG, STG, LDA, STL, ATOM, RED, STGC and
SIGWAIT. The detail of the record is the model’s free value (log entry 10). -/
def Obligations.MisalignedAccesses : Prop :=
  (∀ la d a sp m p,
    let at_ := fun (s : State) L => s.addrM sp m a L
    AlignTraps (.ldgSh la d a sp m p) 2 false at_ ∧ AlignTraps (.ldgZh la d a sp m p) 2 false at_
    ∧ AlignTraps (.ldgW la d a sp m p) 4 false at_ ∧ AlignTraps (.ldgD la d a sp m p) 8 false at_
    ∧ AlignTraps (.ldgQ la d a sp m p) 16 false at_ ∧ AlignTraps (.stgH la d a sp m p) 2 false at_
    ∧ AlignTraps (.stgW la d a sp m p) 4 false at_ ∧ AlignTraps (.stgD la d a sp m p) 8 false at_
    ∧ AlignTraps (.stgQ la d a sp m p) 16 false at_ ∧ AlignTraps (.ldaW la d a sp m p) 4 true at_
    ∧ AlignTraps (.ldaD la d a sp m p) 8 true at_ ∧ AlignTraps (.stlW la d a sp m p) 4 true at_
    ∧ AlignTraps (.stlD la d a sp m p) 8 true at_)
  ∧ (∀ la d a c,
    let at_ := fun (s : State) L => s.vP a L
    (∀ x ∈ atomForms la d a c, AlignTraps x.1 x.2.1 true at_) ∧ ∀ x ∈ redForms la d a c, AlignTraps x.1 x.2.1 true at_)
  ∧ (∀ la d a sp m p (s : State), s.focus.mask ≠ 0 → s.focus.mask &&& s.cur.txOpen = 0 →
      let base := s.addrM sp m a (lowLane s.focus.mask)
      canonical57 base = true → base.toNat % 4 ≠ 0 →
      exec (.stgc la d a sp m p) s = .next ((s.doom s.focus.mask 5).takeOpenTrap .align
        (maskOf (fun K => K == lowLane s.focus.mask)) base))
  ∧ (∀ (s : State) (a b : Reg), s.actsOnce = true → s.onceSet ≠ 0 → s.onceSet &&& s.cur.txOpen = 0 →
      canonical57 (s.sP a) = true → (s.sP a).toNat % 4 ≠ 0 →
      exec (.sigwait a b) s = .next ((s.doom s.onceSet 5).takeOpenTrap .align 0 (s.sP a)))

/-! ### Global memory: the answers -/

/-- R186: what an ATOM leaves in memory, by its operation, of the old value and its operands. -/
def atomRule (i : Instr) (old w w2 : Nat) : Nat :=
  let x : Word := BitVec.ofNat 32 old
  let y : Word := BitVec.ofNat 32 w
  match i with
  | .atomAdd .. => (old + w) % 2 ^ 32
  | .atomAddD .. => (old + w) % 2 ^ 64
  | .atomAnd .. => (x &&& y).toNat
  | .atomOr .. => (x ||| y).toNat
  | .atomXor .. => (x ^^^ y).toNat
  | .atomMin .. => if x.toInt ≤ y.toInt then old else w
  | .atomMax .. => if x.toInt ≤ y.toInt then w else old
  | .atomUmin .. => min old w
  | .atomUmax .. => max old w
  | .atomXchg .. | .atomXchgD .. => w
  | .atomCas .. | .atomCasD .. => if old = w then w2 else old
  | .atomFadd .. => (fAdd .rne x y).toNat
  | .atomFmin .. => (fMin x y).toNat
  | .atomFmax .. => (fMax x y).toNat
  | _ => old

/-- A completed instruction: it is no longer outstanding and its registers d … d + regs − 1 hold, in the lanes
it ran for, the words it received, each passed through f, but for a word whose last write came before (R101); no
other register changes, and no byte of memory. -/
def Delivers (s t : State) (k d regs : Nat) (f : Word → Word) : Prop :=
  let o := s.op k
  (t.op k).live = false ∧ SameBytes s t
  ∧ (∀ g, (t.group g).s = (s.group g).s ∧ (t.group g).p = (s.group g).p)
  ∧ ∀ g r L, L < 32 → (t.group g).vAt r L
      = if g = o.grp ∧ inMask o.mask L = true ∧ d ≤ r ∧ r < d + regs ∧ o.wrote.get (4 * L + (r - d)) = false then f (o.got.get (4 * L + (r - d)))
        else (s.group g).vAt r L

/-- What the fence of an acquiring load would collect or drain is not there: the buffer is empty, and no line of the
core is update-only (R188). -/
def NothingToRelease (s : State) (core : Nat) : Prop :=
  (s.cores.get core).wc.held = false ∧ ∀ l ∈ (s.cores.get core).l1, updateOp l.2 = none

/-- R99, R171–R173, R186, R231: the return of data; the accesses of a load to a register page, once no earlier one of
its split is unanswered, are of this instant. That a register page answers with the bytes that memory has at the address
is the model's reading (DEDUCED, log entry 28). -/
def Obligations.DataReturns : Prop :=
  (∀ s k h, shapeOf (s.op k).instr = some h → (s.op k).live = true → (s.op k).have_ = (s.op k).mask →
      ((s.op k).status = .flying ∨ (s.op k).status = .accepted) →
      (isLda (s.op k).instr = true → NothingToRelease s (coreOfGroup (s.op k).grp)) →
      (∀ L, L < 32 → inMask (s.op k).mask L = true → s.lineError (lineOf ((s.op k).pa.get L)) = none) →
      (h.move = .load → Completes (.loadDataReturn k) s (fun t => Delivers s t k h.d h.regs (fun w =>
        if h.bytes = 1 ∧ h.signed = true then (w.extractLsb' 0 8).signExtend 32
        else if h.bytes = 2 ∧ h.signed = true then (w.extractLsb' 0 16).signExtend 32 else w)))
      ∧ (h.move = .atom → Completes (.loadDataReturn k) s (fun t => Delivers s t k h.d (h.bytes / 4) id)))
  ∧ (∀ s k h, shapeOf (s.op k).instr = some h → h.move = .load → (s.op k).live = true → (s.op k).have_ = 0 → (s.op k).mask ≠ 0 →
      (s.op k).status = .flying → (∀ L, L < 32 → inMask (s.op k).mask L = true → (s.op k).cls.get L = 3) →
      (isLda (s.op k).instr = true → NothingToRelease s (coreOfGroup (s.op k).grp)) →
      (s.registerBefore k = true → exec (.loadDataReturn k) s = .next (s.later (.loadDataReturn k)))
      ∧ (s.registerBefore k = false → Completes (.loadDataReturn k) s (fun t =>
        (t.op k).live = false ∧ SameBytes s t ∧ ∀ g r L, L < 32 → (t.group g).vAt r L
          = let o := s.op k
            if g = o.grp ∧ inMask o.mask L = true ∧ h.d ≤ r ∧ r < h.d + h.regs ∧ o.wrote.get (4 * L + (r - h.d)) = false then
              extendLoad h (BitVec.ofNat 32 (s.readPa (o.pa.get L + 4 * (r - h.d)) (min 4 h.bytes)))
            else (s.group g).vAt r L)))
  ∧ (∀ s k h, shapeOf (s.op k).instr = none → stashShape (s.op k).instr = some h → h.store = false →
      (s.op k).live = true → (s.op k).status = .accepted →
      Completes (.loadDataReturn k) s (fun t => Delivers s t k h.d h.regs (fun w =>
        if h.bytes = 1 ∧ h.signed = true then (w.extractLsb' 0 8).signExtend 32
        else if h.bytes = 2 ∧ h.signed = true then (w.extractLsb' 0 16).signExtend 32 else w)))

/-- R4, R233–R235, R327, R328, R330: fills and walks; a walk runs while it is among the oldest 64 of its die. That a
grant at the home and its arrival at the core are of one instant is the model's choice (DESIGN CHOICE, log entry 63). -/
def Obligations.FillsAndWalks : Prop :=
  (∀ s core line sent k o h L,
    ((s.cores.get core).l1.get line).st = .filling sent →
    Settled s (64 * line) → outsidePa (64 * line) = false → (s.cores.get core).wc.held = false →
    s.claimed line = false → s.coreOps core = [(k, o)] → s.op k = o → shapeOf o.instr = some h → h.move = .load → o.status = .flying →
    L < 32 → inMask o.mask L = true → inMask o.have_ L = false →
    lineOf (o.pa.get L) = line → o.pa.get L % h.bytes = 0 → (o.cls.get L = 1 ∨ o.cls.get L = 2) →
    Completes (.fillGrant core line) s (fun t => SameRegs s t ∧ SameBytes s t
      ∧ (let l := (t.cores.get core).l1.get line
         let len := (s.ctxs.get ((s.cores.get core).l1.get line).ctx).lease
         l.st = .leased (sent + len) ∧ (∀ i, i < 64 → l.bytes.get i = s.byteAt (64 * line + i))
         ∧ s.now + len ≤ (t.homeLine line).lease.get (dieOfCore core))
      ∧ inMask (t.op k).have_ L = true
      ∧ ∀ j, j < (h.bytes + 3) / 4 → (t.op k).got.get (4 * L + j)
          = BitVec.ofNat 32 (s.readPa (64 * line + o.pa.get L % 64 + 4 * j) (min 4 h.bytes))))
  ∧ (∀ s core ctx vpage e, (core, ctx, vpage) ∈ (s.dies.get (dieOfCore core)).walks.take 64 → s.walk ctx vpage = .hit e →
      s.coreOps core = [] → s.noCopies = true → Completes (.pageWalkComplete core ctx vpage) s (fun t =>
        SameRegs s t ∧ SameBytes s t ∧ (core, ctx, vpage) ∉ (t.dies.get (dieOfCore core)).walks
        ∧ ∀ a, a.toNat % 2 ^ 57 / 4096 = vpage → inWindow (s.ctxs.get ctx) a = false → t.lookup core ctx a = .hit e))
  ∧ (∀ s core ctx vpage, let w := (s.dies.get (dieOfCore core)).walks
      (core, ctx, vpage) ∈ w → (core, ctx, vpage) ∉ w.take 64 →
      exec (.pageWalkComplete core ctx vpage) s = .next (s.later (.pageWalkComplete core ctx vpage)))
  ∧ (∀ s core ctx vpage c d k o h, (core, ctx, vpage) ∈ (s.dies.get (dieOfCore core)).walks.take 64 →
      s.walk ctx vpage = .fault c d → s.coreOps core = [(k, o)] → s.op k = o → o.status = .walking →
      s.ctxOf o.grp = ctx → shapeOf o.instr = some h → h.move ≠ .compress → o.have_ = 0 → o.mask ≠ 0 →
      (∀ L, L < 32 → inMask o.mask L = true → (o.addr.get L).toNat % 2 ^ 57 / 4096 = vpage
        ∧ s.lookup core ctx (o.addr.get L) = .miss) → s.noCopies = true →
      Completes (.pageWalkComplete core ctx vpage) s (fun t => SameRegs s t ∧ SameBytes s t
        ∧ (t.op k).status = .faulted ∧ .carillonFaultService s.nextFault ∈ t.pending
        ∧ ∃ f, t.faults = s.faults ++ [(s.nextFault, f)] ∧ f.op = some k ∧ f.vpage = vpage ∧ f.sent = false
          ∧ f.rec_.cause = c ∧ f.rec_.detail = BitVec.ofNat 16 d ∧ f.rec_.hit = o.mask ∧ f.rec_.offset = o.offset
          ∧ f.rec_.address = o.addr.get (lowLane o.mask)))

/-- R171, R172, R237, R238: stores at their homes. R231: a store to a register page writes the target at its turn among
the split's accesses. R230: a releasing store of class 0 is complete when the core's private lines have its bytes. That
the target of a register page is the bytes of memory at the address is the model's reading (DEDUCED, log entry 28), and
that the bytes of all lanes of a store arrive in one event is its choice (DESIGN CHOICE, log entry 7). -/
def Obligations.StoresReachMemory : Prop :=
  (∀ s k h, let o := s.op k
    shapeOf o.instr = some h → h.move = .store → isWc o.instr = false → o.live = true → o.status = .flying → o.mask ≠ 0 →
    NoStoresBut s (coreOfGroup o.grp) k → (s.cores.get (coreOfGroup o.grp)).wc.held = false →
    (isStl o.instr = true → o.next ≠ 0 ∧ s.stlReady k = true) →
    (∀ L, L < 32 → inMask o.mask L = true → (o.cls.get L = 1 ∨ o.cls.get L = 2) ∧ o.pa.get L % h.bytes = 0
      ∧ Settled s (o.pa.get L)) →
    Completes (.storeApply k) s (fun t => SameRegs s t ∧ (t.op k).status = .accepted ∧ .storeAcceptReply k ∈ t.pending
      ∧ (∀ a, t.byteAt a = laid (lanesBytes o.mask o.pa.get h.bytes (o.lane h.regs)) s.byteAt a)
      ∧ ∀ L, L < 32 → inMask o.mask L = true →
          (s.homeLine (lineOf (o.pa.get L))).leaseMax 8 ≤ s.now + (t.op k).tDevice
          ∧ (s.homeLine (lineOf (o.pa.get L))).lease.get (dieOfGroup o.grp) ≤ s.now + (t.op k).tDie
          ∧ (o.cls.get L = 2 → (s.homeLine (lineOf (o.pa.get L))).leaseMax 9 ≤ s.now + (t.op k).tSystem)))
  ∧ (∀ s k h, let o := s.op k
    shapeOf o.instr = some h → h.move = .store → o.live = true → o.status = .flying → o.mask ≠ 0 →
    (∀ L, L < 32 → inMask o.mask L = true → o.cls.get L = 3 ∧ (s.home.get (lineOf (o.pa.get L))).owner = none ∧ o.pa.get L % h.bytes = 0) →
    (s.registerBefore k = true → exec (.storeApply k) s = .next (s.later (.storeApply k)))
    ∧ (s.registerBefore k = false → isStl o.instr = false → Completes (.storeApply k) s (fun t => SameRegs s t
        ∧ (t.op k).status = .accepted ∧ .storeAcceptReply k ∈ t.pending
        ∧ ∀ a, t.byteAt a = laid (lanesBytes o.mask o.pa.get h.bytes (o.lane h.regs)) s.byteAt a)))
  ∧ (∀ s k h, let o := s.op k
    let core := coreOfGroup o.grp
    shapeOf o.instr = some h → h.move = .store → isStl o.instr = true → o.live = true → o.status = .flying → o.mask ≠ 0 →
    NoStoresBut s core k → (s.cores.get core).wc.held = false → o.next ≠ 0 → s.stlReady k = true →
    (∀ L, L < 32 → inMask o.mask L = true → o.cls.get L = 0 ∧ o.pa.get L % h.bytes = 0) →
    Completes (.storeApply k) s (fun t => SameRegs s t ∧ SameBytes s t ∧ (t.op k).live = false
      ∧ ∀ L, L < 32 → inMask o.mask L = true → let pa := o.pa.get L
          (l1At t core pa).st = .priv
          ∧ ∀ off, off < 64 → privateByte t core (64 * lineOf pa + off)
              = laid (lanesBytes o.mask o.pa.get h.bytes (o.lane h.regs)) (privateByte s core) (64 * lineOf pa + off)))
  ∧ (∀ s k, let o := s.op k
    o.live = true → o.status = .accepted → (shapeOf o.instr).isSome = true →
    Completes (.storeAcceptReply k) s (fun t => SameRegs s t ∧ SameBytes s t ∧ (t.op k).live = false
      ∧ ∀ x ∈ (t.group o.grp).splits, x.uid = o.uid → s.now + o.tDie ≤ x.cDie ∧ s.now + o.tDevice ≤ x.cDevice
          ∧ s.now + o.tSystem ≤ x.cSystem ∧ ∀ y ∈ x.out, y.op ≠ k))

/-- R186, R277: ATOM at the home; of a class 0 page (R230), at the core's own line. -/
def Obligations.AtomsAtHome : Prop :=
  ∀ s k h, let o := s.op k
    let L := lowLane (o.mask &&& ~~~o.have_)
    let pa := o.pa.get L
    let core := coreOfGroup o.grp
    shapeOf o.instr = some h → h.move = .atom → o.live = true → o.status = .flying → o.mask &&& ~~~o.have_ ≠ 0 →
    pa % h.bytes = 0 → (s.cores.get (coreOfGroup o.grp)).wc.held = false →
    (∀ K, K < 32 → inMask o.mask K = true → s.lineError (lineOf (o.pa.get K)) = none) →
    let old := s.readPa pa h.bytes
    let word := fun j => ((o.data.get (4 * L + j)).toNat)
    let w := if h.bytes = 4 then word 0 else word 0 + 2 ^ 32 * word 1
    let w2 := if h.bytes = 4 then word 1 else word 2 + 2 ^ 32 * word 3
    (o.cls.get L = 0 → let old := joinBytes ((List.range h.bytes).map (fun j => privateByte s core (pa + j)))
      Completes (.atomAtHome k) s (fun t => SameRegs s t ∧ SameBytes s t ∧ (l1At t core pa).st = .priv
        ∧ (∀ off, off < 64 → privateByte t core (64 * lineOf pa + off)
            = laid ((splitBytes (atomRule o.instr old w w2) h.bytes).zipIdx.map (fun x => (pa + x.2, x.1))) (privateByte s core) (64 * lineOf pa + off))
        ∧ inMask (t.op k).have_ L = true
        ∧ ∀ j, j < h.bytes / 4 → (t.op k).got.get (4 * L + j)
            = BitVec.ofNat 32 (joinBytes ((List.range 4).map (fun i => privateByte s core (pa + 4 * j + i))))))
    ∧ ((o.cls.get L = 1 ∨ o.cls.get L = 2) → Settled s pa → Completes (.atomAtHome k) s (fun t => SameRegs s t
      ∧ (∀ a, t.byteAt a = laid ((splitBytes (atomRule o.instr old w w2) h.bytes).zipIdx.map (fun x => (pa + x.2, x.1))) s.byteAt a)
      ∧ inMask (t.op k).have_ L = true
      ∧ ∀ j, j < h.bytes / 4 → (t.op k).got.get (4 * L + j) = BitVec.ofNat 32 (s.readPa (pa + 4 * j) 4)))

/-- R228, R229, R236, R241, R278, R280, R332: what leaves a core or a home, and what comes from outside. The partial
line of an update-only copy folds from the identity, and once more at the proxy when it is homed outside. That a frame
which no translation maps is served is the model's reading (DEDUCED, log entry 55). -/
def Obligations.LinesLeave : Prop :=
  (∀ s core, let w := (s.cores.get core).wc
    w.held = true → w.since + s.cycles (dieOfCore core) 64 ≤ s.now → Settled s (64 * w.line) →
    Completes (.wcFlushTimeout core) s (fun t => SameRegs s t ∧ (t.cores.get core).wc = {}
      ∧ ∀ a, t.byteAt a = if lineOf a = w.line ∧ w.mask.get (a % 64) = true then w.bytes.get (a % 64) else s.byteAt a))
  ∧ (∀ s core line, let l := (s.cores.get core).l1.get line
    (l.st = .priv → Settled s (64 * line) → Completes (.l1Eviction core line) s (fun t => SameRegs s t
      ∧ (t.cores.get core).l1.get line = {}
      ∧ ∀ a, t.byteAt a = if lineOf a = line ∧ l.touched.get (a % 64) = true then l.bytes.get (a % 64) else s.byteAt a))
    ∧ (∀ x, l.st = .leased x → Completes (.l1Eviction core line) s (fun t => SameRegs s t ∧ SameBytes s t
      ∧ (t.cores.get core).l1.get line = {}))
    ∧ (∀ op n, updateOp l = some (op, n) → (op < 11 ∧ n = 4 ∨ op = 11 ∧ n = 8) → core < 256 → (s.home.get line).owner = none →
      Completes (.l1Eviction core line) s (fun t => SameRegs s t ∧ (t.cores.get core).l1.get line = {}
        ∧ ∀ off, off < 64 → off % n = 0 → t.readPa (64 * line + off) n
            = let one (v : Nat) : Nat := redFold op (redIdentity op) v
              let v := one (lineElem l.bytes off n)
              if l.touched.get off = true then redFold op (s.readPa (64 * line + off) n)
                (if outsidePa (64 * line) = true then one v else v) else s.readPa (64 * line + off) n)))
  ∧ (∀ s line, listed s.home line = true → Completes (.l2Eviction line) s (fun t => SameRegs s t ∧ SameBytes s t
      ∧ (∀ d, d < (if outsidePa (64 * line) = true then 8 else 9) → (s.home.get line).lease.get d ≤ (t.homeLine line).lease.get d)
      ∧ (s.home.get line).stamp ≤ (t.homeLine line).stamp))
  ∧ (∀ s line, ((s.dies.get (homeOf line).1).errors.filter (fun e => decide ((homeOf e.1).2 = (homeOf line).2))).length < 64 →
      Completes (.uncorrectableError line) s (fun t => SameRegs s t ∧ SameBytes s t ∧ (t.lineError line).isSome = true))
  ∧ (∀ s pa size value, pa / 4096 ≠ Config.registerPage →
      (s.frameClass (pa / 4096) = none ∨ s.frameClass (pa / 4096) = some 2) → pa % 64 + size ≤ 64 → Settled s pa →
      let old := (List.range size).map (fun i => s.byteAt (pa + i))
      let stored (t : State) (v : Nat) : Prop :=
        ∀ a, t.byteAt a = laid ((splitBytes v size).zipIdx.map (fun x => (pa + x.2, x.1))) s.byteAt a
      let answers (t : State) (bs : List Byte) : Prop := (t.ports.get (s.routePort (lineOf pa))).answer = some (true, bs)
      Completes (.fabricRequest .read pa size value) s (fun t => SameRegs s t ∧ SameBytes s t ∧ answers t old)
      ∧ (s.cowFrame (pa / 4096) = false →
          Completes (.fabricRequest .write pa size value) s (fun t => SameRegs s t ∧ answers t [] ∧ stored t value)
          ∧ (∀ op c, Completes (.fabricRequest (.atom op c) pa size value) s (fun t => SameRegs s t ∧ answers t old
              ∧ stored t (fabricNew op c (s.readPa pa size) value)))
          ∧ ∀ op, Completes (.fabricRequest (.red op) pa size value) s (fun t => SameRegs s t ∧ answers t []
              ∧ stored t (redFold op (s.readPa pa size) value))))
  ∧ (∀ s kind pa size value c, pa / 4096 ≠ Config.registerPage → s.frameClass (pa / 4096) = some c → c ≠ 2 →
      exec (.fabricRequest kind pa size value) s = .next (s.answerOutside pa false []))

/-! ### The stash -/

/-- Every stash access under way of the block in focus is done, no map holds a line, and no watchpoint is set. -/
def StashQuiet (s : State) : Prop :=
  coreOfBlock s.cur.block = s.curCore ∧ s.curBlock.maps = [] ∧ (s.launchOf s.focus.grp).watches = []
  ∧ ∀ x ∈ s.ops, x.2.live = true → coreOfGroup x.2.grp ≠ s.curCore

/-- Every lane of the pass has an aligned stash offset, its bytes inside one allocation of the block. -/
def StashInside (s : State) (n : Nat) (sp : BitVec 5) (a : Reg) : Prop :=
  s.focus.mask ≠ 0 ∧ ∀ L, L < 32 → s.inPass L = true →
    s.stashAddr sp a L % n = 0 ∧ s.curBlock.holds (s.stashAddr sp a L) n = true

/-- R173, R175: a load takes the stash’s bytes, and its data are on their way to the registers. -/
def StashLoads (i : Instr) (la : BitVec 4) (n regs : Nat) (a : Reg) (sp : BitVec 5) : Prop :=
  ∀ s, StashQuiet s → StashInside s n sp a → Completes i s (fun t =>
    SameRegs s t ∧ SameBytes s t ∧ (∀ off, t.stashByte s.curCore off = s.stashByte s.curCore off)
    ∧ .loadDataReturn s.nextOp ∈ t.pending
    ∧ (let o := t.op s.nextOp
       o.live = true ∧ o.instr = i ∧ o.grp = s.focus.grp ∧ o.uid = s.focus.uid ∧ o.mask = s.focus.mask ∧ o.status = .accepted
       ∧ ∀ L k, L < 32 → k < regs → s.inPass L = true → o.got.get (4 * L + k)
           = BitVec.ofNat 32 (s.stashValue s.curCore (s.stashAddr sp a L + 4 * k) (min 4 n)))
    ∧ ∀ x ∈ t.cur.splits, x.uid = s.focus.uid → ⟨s.nextOp, la.toNat + 1⟩ ∈ x.out)

/-- R173, R175: a store writes the bytes of its lanes, a higher lane winning, and is complete. -/
def StashStores (i : Instr) (n regs : Nat) (d a : Reg) (sp : BitVec 5) : Prop :=
  ∀ s, StashQuiet s → StashInside s n sp a → Completes i s (fun t =>
    SameRegs s t ∧ (∀ p, (s.home.get (lineOf p)).owner = none → t.byteAt p = s.byteAt p) ∧ (t.op s.nextOp).live = false
    ∧ (∀ c off, c ≠ s.curCore → t.stashByte c off = s.stashByte c off)
    ∧ ∀ off, t.stashByte s.curCore off
        = laid (lanesBytes s.focus.mask (s.stashAddr sp a) n (regsValue s d regs)) (s.stashByte s.curCore) off)

/-- A stash access that is misaligned, or that touches a byte outside every allocation and guard granule,
traps: ALIGN, or FAULT.P, with the lanes that fail and the offset of the lowest. -/
def StashTraps (i : Instr) (n : Nat) (a : Reg) (sp : BitVec 5) : Prop :=
  ∀ s L, s.focus.mask ≠ 0 → L < 32 →
    let odd := fun K => s.inPass K && decide (s.stashAddr sp a K % n ≠ 0)
    let out := fun K => s.inPass K && decide (s.curBlock.place (s.stashAddr sp a K) n = .outside)
    (odd L = true → (∀ K, K < L → odd K = false) →
      exec i s = .next (s.takeOpenTrap .align (maskOf odd) (BitVec.ofNat 64 (s.stashAddr sp a L))))
    ∧ ((∀ K, K < 32 → odd K = false) → out L = true → (∀ K, K < L → out K = false) →
      exec i s = .next (s.takeOpenTrap .faultP (maskOf out) (BitVec.ofNat 64 (s.stashAddr sp a L))))

/-- R173–R175: stash accesses; the details of their traps are the model’s free values. -/
def Obligations.StashAccesses : Prop :=
  (∀ la d a sp, StashLoads (.ldsSb la d a sp) la 1 1 a sp ∧ StashLoads (.ldsZb la d a sp) la 1 1 a sp
    ∧ StashLoads (.ldsSh la d a sp) la 2 1 a sp ∧ StashLoads (.ldsZh la d a sp) la 2 1 a sp
    ∧ StashLoads (.ldsW la d a sp) la 4 1 a sp ∧ StashLoads (.ldsD la d a sp) la 8 2 a sp
    ∧ StashLoads (.ldsQ la d a sp) la 16 4 a sp)
  ∧ (∀ la d a sp, StashStores (.stsB la d a sp) 1 1 d a sp ∧ StashStores (.stsH la d a sp) 2 1 d a sp
    ∧ StashStores (.stsW la d a sp) 4 1 d a sp ∧ StashStores (.stsD la d a sp) 8 2 d a sp
    ∧ StashStores (.stsQ la d a sp) 16 4 d a sp)
  ∧ (∀ la d a sp, StashTraps (.ldsSb la d a sp) 1 a sp ∧ StashTraps (.ldsZb la d a sp) 1 a sp
    ∧ StashTraps (.ldsSh la d a sp) 2 a sp ∧ StashTraps (.ldsZh la d a sp) 2 a sp
    ∧ StashTraps (.ldsW la d a sp) 4 a sp ∧ StashTraps (.ldsD la d a sp) 8 a sp
    ∧ StashTraps (.ldsQ la d a sp) 16 a sp ∧ StashTraps (.stsB la d a sp) 1 a sp ∧ StashTraps (.stsH la d a sp) 2 a sp
    ∧ StashTraps (.stsW la d a sp) 4 a sp ∧ StashTraps (.stsD la d a sp) 8 a sp ∧ StashTraps (.stsQ la d a sp) 16 a sp)

/-- An instruction that acts once on the block in focus: where it acts, s[d] and the block are as said; no byte
of memory or of the stash and no other register changes. -/
def OnceOnBlock (i : Instr) (s : State) (scalars : Nat → Word) (block : Block → Block) : Prop :=
  Completes i s (fun t => SameBytes s t ∧ (∀ c off, t.stashByte c off = s.stashByte c off)
    ∧ { t.cur with s := s.cur.s } = s.cur ∧ (∀ g, g ≠ s.focus.grp → t.group g = s.group g)
    ∧ (∀ r, t.cur.sAt r = if s.actsOnce = true then scalars r else s.cur.sAt r)
    ∧ (∀ b, b ≠ s.cur.block → t.blocks.get b = s.blocks.get b)
    ∧ t.blocks.get s.cur.block = if s.actsOnce = true then block s.curBlock else s.curBlock)

/-- ILLOP with reason 0x0B: an argument out of range. -/
def BadArgument (i : Instr) (s : State) (major : Nat) : Prop :=
  s.actsOnce = true → exec i s = .next (s.takeTrap .illop (0x0B * 256 + major) 0
    (s.fetchAddr s.focus.grp s.focus.version s.focus.plane.toNat s.focus.offset))

/-- R176, R177, R110: stash management. That a SALLOC above 524,288 bytes is ILLOP is the model’s reading (log entry 24). -/
def Obligations.StashManagement : Prop :=
  (∀ s d a, let n := (s.sR a).toNat
    if n = 0 ∨ 524288 < n then BadArgument (.salloc d a) s 0x78
    else match stashPlace (s.coreAllocs s.curCore) n with
      | none => OnceOnBlock (.salloc d a) s (fun r => if r = d.toNat then 0xFFFFFFFF else s.cur.sAt r) id
      | some o => OnceOnBlock (.salloc d a) s (fun r => if r = d.toNat then BitVec.ofNat 32 o else s.cur.sAt r)
          (fun b => { b with allocs := b.allocs ++ [(o, n)] }))
  ∧ (∀ (s : State) (a : Reg), match s.curBlock.allocs.find? (fun x => x.1 == (s.sR a).toNat) with
    | none => BadArgument (.sfree a) s 0x78
    | some x => (∀ m ∈ s.curBlock.maps, ¬ (x.1 ≤ m.stash ∧ m.stash < x.1 + granules x.2)) →
        OnceOnBlock (.sfree a) s s.cur.sAt (fun b => { b with allocs := b.allocs.filter (fun z => decide (z ≠ x)) }))
  ∧ (∀ s a, if s.curBlock.mapOk (s.mapAsked a) then
        OnceOnBlock (.smap a) s s.cur.sAt (fun b => { b with maps := b.maps ++ [s.mapAsked a] })
      else BadArgument (.smap a) s 0x78)
  ∧ (∀ (s : State) (a : Reg), match s.mapAtStart (s.sR a).toNat with
    | none => BadArgument (.sunmap a) s 0x78
    | some m => (∀ l ∈ m.lines, (s.curBlock.mapLines.get l).owned = false) →
        OnceOnBlock (.sunmap a) s s.cur.sAt (fun b => { b with
          maps := b.maps.filter (fun x => decide (x ≠ m)), mapLines := m.lines.foldl (fun t l => t.erase l) b.mapLines }))
  ∧ (∀ s a, (s.sR a ≠ 0xFFFFFFFF → s.mapAtStart (s.sR a).toNat = none → BadArgument (.sflush a) s 0x78)
    ∧ ((s.sR a = 0xFFFFFFFF ∨ (s.mapAtStart (s.sR a).toNat).isSome = true) →
        (∀ m ∈ s.curBlock.maps, ∀ l ∈ m.lines, (s.curBlock.mapLines.get l).owned = false) →
        OnceOnBlock (.sflush a) s s.cur.sAt id))

/-- R176, R177, R243: ownership, write-backs and their waits. -/
def Obligations.StashOwnership : Prop :=
  (∀ s b sl m e k o h, let core := coreOfBlock b
    ((s.blocks.get b).mapLines.get sl).filling.isSome = true → (s.blocks.get b).mapAt (64 * sl) = some m →
    (s.blocks.get b).owns sl = false → s.stashQueue b = [(k, o)] → stashShape o.instr = some h → o.status = .flying →
    sl ∈ s.stashMissing b o h.bytes →
    let a := m.global + BitVec.ofNat 64 (64 * sl - m.stash)
    canonical57 a = true → s.lookup core (s.blocks.get b).ctx a = .hit e → ((e.cls = 1) ∨ (e.cls = 2)) → e.r = true →
    e.w = true → e.cow = false → (s.cores.get core).wc.held = false → NoStores s core → Settled s (e.pa a) →
    (s.now < (s.homeLine (lineOf (e.pa a))).leaseMax 9 →
      Completes (.stashOwnershipFill b sl) s (fun t => SameRegs s t ∧ SameBytes s t ∧ (t.blocks.get b).owns sl = false
        ∧ ((t.blocks.get b).mapLines.get sl).claim = true ∧ .stashOwnershipFill b sl ∈ t.pending))
    ∧ ((s.homeLine (lineOf (e.pa a))).leaseMax 9 ≤ s.now → s.lineError (lineOf (e.pa a)) = none →
      (∀ l ∈ s.stashMissing b o h.bytes, l = sl) → h.store = false →
      Completes (.stashOwnershipFill b sl) s (fun t => SameRegs s t
        ∧ (t.home.get (lineOf (e.pa a))).owner = some (b, sl) ∧ (t.blocks.get b).owns sl = true
        ∧ ∀ i, i < 64 → t.stashByte core (64 * sl + i) = s.mem.get (64 * lineOf (e.pa a) + i))))
  ∧ (∀ s a m sl, let b := s.cur.block
    let line := lineOf (s.curBlock.mapLines.get sl).pa
    s.actsOnce = true → s.mapAtStart (s.sR a).toNat = some m → s.sR a ≠ 0xFFFFFFFF →
    m.lines.filter (fun l => (s.curBlock.mapLines.get l).owned) = [sl] → (s.curBlock.mapLines.get sl).dirty = true →
    s.cowFrame ((s.curBlock.mapLines.get sl).pa / 4096) = false → (s.home.get line).owner = some (b, sl) →
    s.copyHolders line = [] → Completes (.sflush a) s (fun t => SameRegs s t ∧ SameBytes s t
      ∧ (∀ i, i < 64 → t.mem.get (64 * line + i) = s.stashByte (coreOfBlock b) (64 * sl + i))
      ∧ ((t.blocks.get b).mapLines.get sl).dirty = false ∧ (t.home.get line).owner = some (b, sl)
      ∧ ∃ n, s.now + 60 ≤ n ∧ .completionTimePassed n ∈ t.pending
          ∧ ∀ x ∈ t.cur.splits, x.uid = s.focus.uid → x.cond = .blocked (.flush n)))
  ∧ (∀ s n, n ≤ s.now → Completes (.completionTimePassed n) s (fun t => SameRegs s t ∧ SameBytes s t
      ∧ ∀ g, ∀ x ∈ (t.group g).splits, ∀ m, x.cond = .blocked (.flush m) → s.now < m))

/-! ### Synchronisation -/

/-- The instruction acts in this pass, and none of its lanes has an open transaction. -/
def ActsPlain (s : State) : Prop := s.actsOnce = true ∧ s.onceSet ≠ 0 ∧ s.onceSet &&& s.cur.txOpen = 0

/-- The split in focus, wherever it stands, satisfies a property. -/
def SplitIs (s t : State) (P : Split → Prop) : Prop := ∀ x ∈ t.cur.splits, x.uid = s.focus.uid → P x

/-- A release at a scope above the core: what the write-combining buffer held is in memory, the buffer is empty,
and stores, ATOM and RED of the split are held until its completion times at that scope. -/
def Releases (s t : State) (c : BitVec 2) : Prop :=
  let w := (s.cores.get s.curCore).wc
  SameRegs s t ∧ (t.cores.get s.curCore).wc.held = false
  ∧ (∀ a, t.byteAt a = if w.held = true ∧ lineOf a = w.line ∧ w.mask.get (a % 64) = true then w.bytes.get (a % 64) else s.byteAt a)
  ∧ ∀ x, t.cur.findSplit s.focus.uid = some x → x.times.at c.toNat ≤ x.holdStores

/-- What a fence needs for its effect to be stated plainly: no update-only line at the core, and the home of the
buffered line answers from memory. -/
def FenceReady (s : State) : Prop :=
  ActsPlain s ∧ (∀ l ∈ (s.cores.get s.curCore).l1, updateOp l.2 = none)
  ∧ ((s.cores.get s.curCore).wc.held = true → Settled s (64 * (s.cores.get s.curCore).wc.line))

/-- Barrier k after an arrival of the lanes m: the phase ends when the arrivals reach the expected count. -/
def arrivedBar (s : State) (k : BitVec 4) (m : Mask) : Barrier :=
  let x := s.curBlock.bars.get k.toNat
  let n := x.arrived + laneCount m
  if s.expected s.cur.block k.toNat ≤ n then { x with arrived := 0, phase := x.phase + 1 } else { x with arrived := n }

/-- No split of the block in focus waits at barrier k for the end of a phase before this one. -/
def BarReleased (s t : State) (k : BitVec 4) (phase : Word) : Prop :=
  ∀ g ∈ s.curBlock.groups, ∀ x ∈ (t.group g).splits, ∀ w, x.cond = .blocked (.barrier k.toNat w) → w = phase

/-- R174, R188–R190, R240, R241: fences and barriers. That FENCE.ACQ at system scope drains the buffer, and at the others
does not, is the model's reading (DEDUCED, log entry 70). -/
def Obligations.FencesAndBarriers : Prop :=
  (∀ s c, FenceReady s → c ≠ 0 → Completes (.fenceRel c) s (fun t => Releases s t c)
    ∧ Completes (.fenceAr c) s (fun t => Releases s t c)
    ∧ Completes (.fenceSc c) s (fun t => Releases s t c
      ∧ ∀ x, t.cur.findSplit s.focus.uid = some x → x.times.at c.toNat ≤ x.holdAll ∧ x.settle ≤ x.holdAll))
  ∧ (∀ s c, FenceReady s → c ≠ 0 → Completes (.fenceAcq c) s (fun t =>
      if c = 3 then Releases s t 3 else SameRegs s t ∧ OnlyCur s t))
  ∧ (∀ s, ActsPlain s → Completes (.fenceAcq 0) s (fun t => t.cur = s.cur ∧ OnlyCur s t)
    ∧ ∀ i, (i = .fenceRel 0 ∨ i = .fenceAr 0 ∨ i = .fenceSc 0) → Completes i s (fun t => SameRegs s t ∧ OnlyCur s t))
  ∧ (∀ s k b, ActsPlain s → s.curBlock.guard = none →
      let n := (s.sR b).toNat
      if 1024 < n ∨ (s.curBlock.bars.get k.toNat).arrived ≠ 0 then
        exec (.barInit k b) s = .next ((s.doom s.onceSet 5).illop 0x0B 0x7A)
      else Completes (.barInit k b) s (fun t => SameRegs s t ∧ SameBytes s t
        ∧ ∀ j, (t.blocks.get s.cur.block).bars.get j = if j = k.toNat then
            { (s.curBlock.bars.get j) with fixed := if n = 0 then none else some n } else s.curBlock.bars.get j))
  ∧ (∀ s d k, ActsPlain s → s.curBlock.guard = none → Completes (.barArrive d k) s (fun t => SameBytes s t
      ∧ (∀ j, (t.blocks.get s.cur.block).bars.get j = if j = k.toNat then arrivedBar s k s.onceSet else s.curBlock.bars.get j)
      ∧ (∀ r, t.cur.sAt r = if r = d.toNat then (s.curBlock.bars.get k.toNat).phase else s.cur.sAt r)
      ∧ ((arrivedBar s k s.onceSet).arrived ≠ 0 → { t.cur with s := s.cur.s } = s.cur)
      ∧ ((arrivedBar s k s.onceSet).arrived = 0 → BarReleased s t k (arrivedBar s k s.onceSet).phase)))
  ∧ (∀ s k, ActsPlain s → s.curBlock.guard = none → Completes (.barSync k) s (fun t => SameBytes s t
      ∧ (∀ j, (t.blocks.get s.cur.block).bars.get j = if j = k.toNat then arrivedBar s k s.onceSet else s.curBlock.bars.get j)
      ∧ ((arrivedBar s k s.onceSet).arrived ≠ 0 → SameRegs s t
        ∧ SplitIs s t (fun x => x.cond = .blocked (.barrier k.toNat (s.curBlock.bars.get k.toNat).phase)))
      ∧ ((arrivedBar s k s.onceSet).arrived = 0 → BarReleased s t k (arrivedBar s k s.onceSet).phase)))
  ∧ (∀ s k b, ActsPlain s → s.curBlock.guard = none → Completes (.barWait k b) s (fun t => SameRegs s t ∧ SameBytes s t
      ∧ (s.sR b = (s.curBlock.bars.get k.toNat).phase → SplitIs s t (fun x => x.cond = .blocked (.barrier k.toNat (s.sR b))))
      ∧ (s.sR b ≠ (s.curBlock.bars.get k.toNat).phase → t.cur = s.cur)))
  ∧ (∀ s k o, s.actsOnce = true → s.curBlock.guard = some o → exec (.barSync k) s =
      .next ((s.onBlock s.cur.block (fun b => { b with guard := none })).takeTrap .guard (o / 4 % 32) 0 (BitVec.ofNat 64 o)))

/-- The split in focus waits for nothing yet: no earlier pass of its offset has made it wait (R170). -/
abbrev NoWait (s : State) : Prop := ∀ x ∈ s.cur.splits, x.uid = s.focus.uid → x.waits = []

/-- The queue k of the block in focus has no operation waiting on it, and no map of the block holds a line of its ring. -/
def QueueIdle (s : State) (k : BitVec 3) : Prop :=
  (s.curBlock.queues.get k.toNat).pushes = [] ∧ (s.curBlock.queues.get k.toNat).pops = [] ∧ s.curBlock.maps = []
/-- The split in focus can wait there: it is there, stops for nothing, and waits for nothing else. -/
def QueueFree (s : State) (k : BitVec 3) : Prop :=
  QueueIdle s k ∧ (s.curBlock.queues.get k.toNat).bad = 0 ∧ ActsPlain s ∧ NoWait s
  ∧ (s.cur.findSplit s.focus.uid).map Split.trap = some none ∧ ∀ f ∈ s.faults, f.2.fetch ≠ some (s.focus.grp, s.focus.uid)

/-- The entries of a ring, oldest first: the word of entry i. -/
def ringWord (s : State) (k : BitVec 3) (i : Nat) : Word :=
  let q := s.curBlock.queues.get k.toNat
  BitVec.ofNat 32 (s.stashValue (coreOfBlock s.cur.block) (q.base + 4 * ((q.head + i) % q.capacity)) 4)

/-- The n oldest words go to the n lowest lanes acting; only v[d] of those lanes changes among vector registers. -/
def LowestLanes (s t : State) (d : Reg) (k : BitVec 3) (n : Nat) : Prop :=
  (∀ j, j < n → t.cur.vAt d.toNat ((lanesOf s.onceSet).getD j 0) = ringWord s k j)
  ∧ ∀ r L, L < 32 → ¬ (r = d.toNat ∧ L ∈ (lanesOf s.onceSet).take n) → t.cur.vAt r L = s.cur.vAt r L

/-- R191, R192: stash queues and signal waits. -/
def Obligations.QueuesAndSignals : Prop :=
  (∀ s k b, ActsPlain s → QueueIdle s k →
      let off := (s.sR b).toNat
      let cap := (s.cur.sAt (b.toNat + 1)).toNat
      if cap = 0 ∨ 65536 < cap ∨ off % 4 ≠ 0 ∨ s.curBlock.holds off (4 * cap) = false then
        exec (.qinit k b) s = .next ((s.doom s.onceSet 5).illop 0x0B 0x7A)
      else Completes (.qinit k b) s (fun t => SameRegs s t ∧ SameBytes s t
        ∧ (t.blocks.get s.cur.block).queues.get k.toNat = { base := off, capacity := cap }))
  ∧ (∀ s k b, QueueFree s k → let q := s.curBlock.queues.get k.toNat
      let n := laneCount s.onceSet
      (q.capacity < n → exec (.qpush k b) s = .next ((s.doom s.onceSet 5).illop 0x0B 0x7A))
      ∧ (n ≤ q.capacity → q.capacity < q.count + n → Completes (.qpush k b) s (fun t => SameRegs s t ∧ SameBytes s t
          ∧ SplitIs s t (fun x => x.cond = .blocked (.push k.toNat ((lanesOf s.onceSet).map (s.vR b)) s.here))
          ∧ (t.blocks.get s.cur.block).queues.get k.toNat = { q with pushes := [(s.focus.grp, s.focus.uid)] }))
      ∧ (n ≤ q.capacity → q.count + n ≤ q.capacity → Completes (.qpush k b) s (fun t => SameRegs s t
          ∧ SplitIs s t (fun x => x.cond = .runnable)
          ∧ (t.blocks.get s.cur.block).queues.get k.toNat = { q with count := q.count + n }
          ∧ (∀ j, j < q.count → ringWord t k j = ringWord s k j)
          ∧ ∀ j, j < n → ringWord t k (q.count + j) = s.vR b ((lanesOf s.onceSet).getD j 0))))
  ∧ (∀ s d k, QueueFree s k → let q := s.curBlock.queues.get k.toNat
      let n := laneCount s.onceSet
      (q.capacity < n → exec (.qpop d k) s = .next ((s.doom s.onceSet 5).illop 0x0B 0x7A))
      ∧ (n ≤ q.capacity → q.count < n → Completes (.qpop d k) s (fun t => SameRegs s t ∧ SameBytes s t
          ∧ SplitIs s t (fun x => x.cond = .blocked (.pop k.toNat d s.onceSet s.here))
          ∧ (t.blocks.get s.cur.block).queues.get k.toNat = { q with pops := [(s.focus.grp, s.focus.uid)] }))
      ∧ (n ≤ q.capacity → n ≤ q.count → Completes (.qpop d k) s (fun t => SameBytes s t ∧ LowestLanes s t d k n
          ∧ SplitIs s t (fun x => x.cond = .runnable) ∧ t.cur.s = s.cur.s ∧ t.cur.p = s.cur.p
          ∧ (t.blocks.get s.cur.block).queues.get k.toNat
              = { q with head := (q.head + n) % q.capacity, count := q.count - n })))
  ∧ (∀ s d k b, ActsPlain s → QueueIdle s k → let q := s.curBlock.queues.get k.toNat
      let n := min (laneCount s.onceSet) q.count
      (q.capacity = 0 → exec (.qtry d k b) s = .next ((s.doom s.onceSet 5).illop 0x0B 0x7A))
      ∧ (q.capacity ≠ 0 → Completes (.qtry d k b) s (fun t => SameBytes s t ∧ LowestLanes s t d k n ∧ t.cur.p = s.cur.p
          ∧ (∀ r, t.cur.sAt r = if r = b.toNat then BitVec.ofNat 32 n else s.cur.sAt r)
          ∧ (t.blocks.get s.cur.block).queues.get k.toNat
              = { q with head := (q.head + n) % q.capacity, count := q.count - n })))
  ∧ (∀ s a b e, ActsPlain s → canonical57 (s.sP a) = true → (s.sP a).toNat % 4 = 0 →
      s.lookup s.curCore (s.ctxOf s.focus.grp) (s.sP a) = .hit e → e.r = true → (e.cls = 1 ∨ e.cls = 2) →
      s.lineError (lineOf (e.pa (s.sP a))) = none → Settled s (e.pa (s.sP a)) → NothingToRelease s s.curCore →
      let w : Word := BitVec.ofNat 32 (s.readPa (e.pa (s.sP a)) 4)
      Completes (.sigwait a b) s (fun t => SameRegs s t ∧ SameBytes s t
        ∧ ((s.sR b).toNat ≤ w.toNat → SplitIs s t (fun x => x.cSystem ≤ x.holdStores
            ∧ ∃ y ∈ s.cur.splits, y.uid = x.uid ∧ x.cond = y.cond ∧ x.offset = y.offset ∧ x.mask = y.mask))
        ∧ (w.toNat < (s.sR b).toNat →
            SplitIs s t (fun x => x.cond = .blocked (.signal (s.sP a) (e.pa (s.sP a)) (s.sR b) w s.here))
            ∧ (s.focus.grp, s.focus.uid) ∈ (t.home.get (lineOf (e.pa (s.sP a)))).watchers)))

/-! ### Transactions and the matrix engine -/

/-- R193–R197, R268, R269, R273, R275: transactions and the token. TXBEGIN, TXEND, TXIRR, TXIRE, TXABORT and TXQRY
complete: exec answers a next state with their effect, under conditions on the state alone (TXBEGIN under the token
is ILLOP and has its own clause). The event TX_LANE_COMMIT completes for a lane that is not open, is doomed, has
logged nothing, or has logged one write: status 4, the code of its doom, 0, or 0 or 1 by the stamp of the line. -/
def Obligations.Transactions : Prop :=
  (∀ s, s.actsOnce = true → s.token.holder ≠ some s.focus.grp →
      (s.cur.txSlot = true ∨ s.txHolders s.curCore < 8) →
      Completes .txbegin s (fun t => SameBytes s t ∧ t.cur.v = s.cur.v ∧ t.cur.s = s.cur.s ∧ t.cur.p = s.cur.p
        ∧ t.cur.txSlot = true
        ∧ ∀ L, L < 32 → inMask s.onceSet L = true →
            ((s.cur.tx.get L).isOpen = false → (t.cur.tx.get L).isOpen = true ∧ (t.cur.tx.get L).doom = none
              ∧ (t.cur.tx.get L).reads = [] ∧ (t.cur.tx.get L).writes = []
              ∧ (t.cur.tx.get L).threshold = s.token.grants + (if s.token.holder.isSome then 0 else 1))
            ∧ ((s.cur.tx.get L).isOpen = true → (t.cur.tx.get L).isOpen = true
              ∧ (t.cur.tx.get L).doom = some ((s.cur.tx.get L).doom.getD 5))))
  ∧ (∀ s, s.actsOnce = true → s.token.holder = some s.focus.grp → exec .txbegin s = .next (s.illop 0x0B 0x7B))
  ∧ (∀ s d p, s.actsOnce = true → Completes (.txend d p) s (fun t => SameRegs s t ∧ SameBytes s t
      ∧ .txLaneCommit s.focus.grp ∈ t.pending ∧ SplitIs s t (fun x => x.cond = .blocked (.commit d p s.onceSet))))
  ∧ (∀ s g d p x, (s.group g).splits = [x] → x.mask ≠ 0 → x.stopped = false → x.also = [] → ∀ left, x.cond = .blocked (.commit d p left) → left ≠ 0 →
      let L := lowLane left
      let k := (s.group g).tx.get L
      let st : Word := if k.isOpen = false then 4 else k.doom.getD 0
      (k.isOpen = false ∨ k.doom.isSome = true ∨ (k.reads = [] ∧ k.writes = [])) →
      Completes (.txLaneCommit g) s (fun t => SameBytes s t
        ∧ (∀ r K, K < 32 → (t.group g).vAt r K = if r = d.toNat ∧ K = L then st else (s.group g).vAt r K)
        ∧ (∀ q K, K < 32 → (t.group g).pAt q K = if q = p.toNat ∧ K = L then st == 0 else (s.group g).pAt q K)
        ∧ ((t.group g).tx.get L).isOpen = false))
  ∧ (∀ s g d p x, (s.group g).splits = [x] → x.mask ≠ 0 → x.stopped = false → x.also = [] →
      (s.cores.get (coreOfGroup g)).wc.held = false → ∀ left w, x.cond = .blocked (.commit d p left) → left ≠ 0 →
      let L := lowLane left
      let k := (s.group g).tx.get L
      k.isOpen = true → k.doom = none → k.reads = [] → k.writes = [w] → w.cls ≠ 3 → w.pa % 4 = 0 →
      s.lineError (lineOf w.pa) = none → s.cowFrame (w.pa / 4096) = false → Settled s w.pa →
      if (s.homeLine (lineOf w.pa)).stamp < k.threshold then
        Completes (.txLaneCommit g) s (fun t => (t.group g).vAt d.toNat L = 0 ∧ (t.group g).pAt p.toNat L = true
          ∧ ∀ a, t.byteAt a = if a / 4 = w.pa / 4 ∧ w.bytes.getLsbD (a % 4) = true then
              BitVec.ofNat 8 (w.data.toNat / 256 ^ (a % 4)) else s.byteAt a)
      else Completes (.txLaneCommit g) s (fun t => (t.group g).vAt d.toNat L = 1 ∧ (t.group g).pAt p.toNat L = false ∧ SameBytes s t))
  ∧ (∀ s b, s.actsOnce = true → Completes (.txabort b) s (fun t => OnlyCur s t ∧ { t.cur with tx := s.cur.tx } = s.cur
      ∧ ∀ L, L < 32 → t.cur.tx.get L =
          if inMask s.onceSet L = true ∧ (s.cur.tx.get L).isOpen = true ∧ (s.cur.tx.get L).doom = none then
            { (s.cur.tx.get L) with doom := some (9 + 65536 * BitVec.ofNat 32 b.toNat), parked := true, reads := [], writes := [] }
          else s.cur.tx.get L))
  ∧ (∀ s d, s.actsOnce = true → Completes (.txqry d) s (fun t => OnlyV s t ∧ ∀ r L, L < 32 →
      t.cur.vAt r L = if r = d.toNat ∧ inMask s.onceSet L = true then
          BitVec.ofNat 32 ((if (s.cur.tx.get L).isOpen then 1 else 0) + 256 * (s.cur.tx.get L).reads.length
            + 65536 * (s.cur.tx.get L).writes.length)
        else s.cur.vAt r L))
  ∧ (∀ s, s.actsOnce = true → s.token.holder = none → s.token.queue = [] → s.cur.txOpen = 0 → NoWait s →
      Completes .txirr s (fun t => SameRegs s { t with groups := t.groups.upd s.focus.grp (fun k => { k with tokenHold := s.cur.tokenHold }) }
        ∧ SameBytes s t ∧ t.token = { grants := s.token.grants + 1, holder := some s.focus.grp, queue := [] }
        ∧ SplitIs s t (fun x => x.cond = .runnable)))
  ∧ (∀ s, s.actsOnce = true → s.token.holder = some s.focus.grp → s.token.queue = [] →
      Completes .txire s (fun t => t = { s with token := { s.token with holder := none } }))

/-- The group in focus owns the engine of its core. -/
def OwnsEngine (s : State) : Prop := s.curEngine.owner = some s.focus.grp

/-- R203: what a product is once it has the engine: an element of the tile becomes the sum of its old value, unless
it starts afresh, and of the products of A’s row and B’s column; integer products add modulo 2^32. -/
def ProductGoes (i : Instr) (stash : Option Reg) (major : Nat) : Prop :=
  ∀ s, ActsPlain s →
    let x : Word := match stash with | some r => s.sR r | none => 0
    (¬ OwnsEngine s → exec i s = .next ((s.doom s.onceSet 5).illop 7 major))
    ∧ (OwnsEngine s → s.cur.stamp = none → s.curEngine.waiting = [] → s.curEngine.pending.length < 4 → s.curBlock.maps = [] →
        (stash.isSome = true → x.toNat % 64 = 0 ∧ ∀ p, productOf i = some p →
          s.curBlock.holds x.toNat (s.operandBytes s.focus.grp p) = true) →
        Completes i s (fun t => SameRegs s t ∧ SameBytes s t ∧ (t.op s.nextOp).live = false
          ∧ (t.cores.get s.curCore).engine.waiting = [] ∧ .mmaComplete s.curCore ∈ t.pending
          ∧ (t.cores.get s.curCore).engine.acc = s.curEngine.acc
          ∧ (t.cores.get s.curCore).engine.pending
              = s.curEngine.pending ++ [{ instr := i, mask := s.onceSet, offset := x, grp := s.focus.grp }]))
    ∧ (OwnsEngine s → stash.isSome = true → x.toNat % 64 ≠ 0 →
        exec i s = .next ((s.doom s.onceSet 5).takeTrap .align 0 0 (x.setWidth 64)))

/-- R44, R199–R204, R207, R208, R90, R91: the matrix engine. -/
def Obligations.MatrixEngine : Prop :=
  (∀ s, ActsPlain s → ¬ OwnsEngine s → s.curEngine.queue = [] → s.curEngine.restoring = [] →
      (s.curEngine.owner = none → NoWait s → Completes .macq s (fun t => SameRegs s t ∧ SameBytes s t
        ∧ (t.cores.get s.curCore).engine.owner = some s.focus.grp ∧ (t.cores.get s.curCore).engine.acc = []
        ∧ SplitIs s t (fun x => x.cond = .runnable)))
      ∧ (s.curEngine.owner ≠ none → Completes .macq s (fun t => SameRegs s t ∧ SameBytes s t
        ∧ (t.cores.get s.curCore).engine.queue = [s.focus.grp] ∧ SplitIs s t (fun x => x.cond = .blocked .engine))))
  ∧ (∀ s, ActsPlain s → OwnsEngine s → exec .macq s = .next ((s.doom s.onceSet 5).illop 7 0x7F))
  ∧ (∀ s, ActsPlain s → (¬ OwnsEngine s → exec .mrel s = .next ((s.doom s.onceSet 5).illop 7 0x7F)
        ∧ exec .mwait s = .next ((s.doom s.onceSet 5).illop 7 0x7F))
      ∧ (OwnsEngine s → s.pendingProducts s.focus.grp = 0 →
          Completes .mwait s (fun t => SameRegs s t ∧ SameBytes s t ∧ t.cores = s.cores)
          ∧ (s.curEngine.queue = [] → Completes .mrel s (fun t => SameRegs s t ∧ SameBytes s t
              ∧ (t.cores.get s.curCore).engine.owner = none)))
      ∧ (OwnsEngine s → s.pendingProducts s.focus.grp ≠ 0 →
          Completes .mwait s (fun t => SameRegs s t ∧ SameBytes s t
            ∧ SplitIs s t (fun x => x.cond = .blocked (.products false (s.pendingProducts s.focus.grp))))
          ∧ Completes .mrel s (fun t => SameRegs s t ∧ SameBytes s t
            ∧ SplitIs s t (fun x => x.cond = .blocked (.products true (s.pendingProducts s.focus.grp))))))
  ∧ (∀ la x y q c a b, ProductGoes (.mma la x y q c a b) none 0x7C ∧ ProductGoes (.mmaz la x y q c a b) none 0x7C
      ∧ ProductGoes (.mmai la x y q c a b) none 0x7C ∧ ProductGoes (.mmaiz la x y q c a b) none 0x7C)
  ∧ (∀ la x r q c a b, ProductGoes (.mmas la x r q c a b) (some r) 0x7D ∧ ProductGoes (.mmasz la x r q c a b) (some r) 0x7E)
  ∧ (∀ s c, ActsPlain s → OwnsEngine s →
      (s.curEngine.waiting = [] → s.curEngine.pending.length < 4 → Completes (.mzero c) s (fun t => SameRegs s t ∧ SameBytes s t
        ∧ .mmaComplete s.curCore ∈ t.pending ∧ (t.cores.get s.curCore).engine.pending
            = s.curEngine.pending ++ [{ instr := .mzero c, mask := s.onceSet, offset := 0, grp := s.focus.grp }]))
      ∧ (s.curEngine.waiting ≠ [] ∨ 4 ≤ s.curEngine.pending.length → Completes (.mzero c) s (fun t => SameRegs s t ∧ SameBytes s t
        ∧ (t.cores.get s.curCore).engine.pending = s.curEngine.pending
        ∧ (t.cores.get s.curCore).engine.waiting = s.curEngine.waiting ++ [s.nextOp]
        ∧ (t.op s.nextOp).live = true ∧ (t.op s.nextOp).instr = .mzero c ∧ (t.op s.nextOp).mask = s.onceSet)))
  ∧ (∀ s d c g, s.focus.mask ≠ 0 → s.focus.mask &&& s.cur.txOpen = 0 → OwnsEngine s →
      Completes (.mld d c g) s (fun t => OnlyV s t ∧ ∀ r L, L < 32 → t.cur.vAt r L =
        if s.inPass L = true ∧ d.toNat ≤ r ∧ r < d.toNat + 8 then
          s.curEngine.acc.get (1024 * c.toNat + 32 * L + (8 * g.toNat + (r - d.toNat))) else s.cur.vAt r L)
      ∧ Completes (.mst d c g) s (fun t => SameRegs s t ∧ SameBytes s t ∧ ∀ r L k, r < 4 → L < 32 → k < 32 →
        (t.cores.get s.curCore).engine.acc.get (1024 * r + 32 * L + k) =
          if r = c.toNat ∧ s.inPass L = true ∧ k / 8 = g.toNat then s.cur.vAt (d.toNat + k % 8) L
          else s.curEngine.acc.get (1024 * r + 32 * L + k)))
  ∧ (∀ s core e, (s.cores.get core).engine.pending = [e] → (s.cores.get core).engine.waiting = [] →
      e.seen = [] → e.did = [] → (∀ x ∈ (s.group e.grp).splits, ∀ w ∈ x.waits, ∀ r n, w ≠ .products r n) →
      (∀ c, e.instr = .mzero c → Completes (.mmaComplete core) s (fun t => SameRegs s t ∧ SameBytes s t
        ∧ (t.cores.get core).engine.pending = []
        ∧ ∀ r j, r < 4 → j < 1024 → (t.cores.get core).engine.acc.get (1024 * r + j)
            = if r = c.toNat then 0 else (s.cores.get core).engine.acc.get (1024 * r + j)))
      ∧ (∀ la x y q c a b, (e.instr = .mma la x y q c a b ∨ e.instr = .mmaz la x y q c a b
            ∨ e.instr = .mmai la x y q c a b ∨ e.instr = .mmaiz la x y q c a b) →
          coreOfGroup e.grp = core →
          let g := s.group e.grp
          let sa := (s.launchOf e.grp).rec_.slots.get a.toNat
          let sb := (s.launchOf e.grp).rec_.slots.get b.toNat
          let n := productK sa sb
          Completes (.mmaComplete core) s (fun t => SameRegs s t ∧ SameBytes s t
            ∧ ∀ r i j, r < 4 → i < 32 → j < 32 → (t.cores.get core).engine.acc.get (1024 * r + 32 * i + j) =
              let old := (s.cores.get core).engine.acc.get (1024 * r + 32 * i + j)
              if r = c.toNat ∧ inMask e.mask i = true then
                productElem (e.instr == .mmai la x y q c a b || e.instr == .mmaiz la x y q c a b)
                  (e.instr == .mmaz la x y q c a b || e.instr == .mmaiz la x y q c a b) old
                  (factors sa n (fun k => g.vAt (16 * x.toNat + k) i) (fun k => g.vAt (4 * q.toNat + k) i))
                  (if inMask g.exist_ j = true then
                    factors sb n (fun k => g.vAt (16 * y.toNat + k) j) (fun k => g.vAt (4 * q.toNat + 2 + k) j) else [])
              else old)))

/-! ### Legacy calls and the creation of work -/

/-- R218: a GCALL takes one entry of its die’s queue and its split waits; a full queue holds the split before it. -/
def CallIssues (i : Instr) (memory : Bool) : Prop :=
  ∀ s, s.actsOnce = true → s.onceSet ≠ 0 → (memory = true → s.onceSet &&& s.cur.txOpen = 0) →
    let die := dieOfGroup s.focus.grp
    ((s.dies.get die).gong.length < 64 → Completes i s (fun t => SameRegs s t ∧ SameBytes s t
      ∧ (t.dies.get die).gong = (s.dies.get die).gong
          ++ [{ grp := s.focus.grp, uid := s.focus.uid, instr := i, mask := s.onceSet, left := s.onceSet
                offset := s.focus.offset, version := s.focus.version, plane := s.focus.plane
                stamp := s.stampFor s.focus.grp, before := s.nextOp }]
      ∧ .gongEntryExecute die ∈ t.pending ∧ SplitIs s t (fun x => x.cond = .blocked .gong)))
    ∧ (64 ≤ (s.dies.get die).gong.length → Completes i s (fun t => SameRegs s t ∧ SameBytes s t ∧ t.dies = s.dies
      ∧ t.focus.stalled = true ∧ SplitIs s t (fun x => x.cond = .blocked .gongFull)))

/-- The oldest entry of a die’s queue holds an arithmetic class: its result goes to v[d] in the lanes of the call,
the entry leaves, and the split that waits for it alone goes on. -/
def CallResult (i : Instr) (d : Reg) (val : Group → Nat → Word) : Prop :=
  ∀ s die e rest, (s.dies.get die).gong = e :: rest → e.instr = i →
    (∀ x ∈ (s.group e.grp).splits, x.uid = e.uid → x.cond = .blocked .gong ∧ x.also = []) → Completes (.gongEntryExecute die) s (fun t =>
    SameBytes s t ∧ (t.dies.get die).gong = rest
    ∧ (∀ g, (t.group g).s = (s.group g).s ∧ (t.group g).p = (s.group g).p)
    ∧ (∀ g r L, L < 32 → (t.group g).vAt r L
        = if g = e.grp ∧ r = d.toNat ∧ inMask e.mask L = true then val (s.group e.grp) L else (s.group g).vAt r L)
    ∧ ∀ x ∈ (t.group e.grp).splits, x.uid = e.uid → x.cond = .runnable)

/-- R309: a C1 operand half: a subnormal is the zero of its sign. A result below 2^−14 that is not zero is written so too. -/
def c1Flush (h : Nat) : Nat := if h / 1024 % 32 = 0 then h / 32768 * 32768 else h

/-- R308, R309: the values of the arithmetic classes, half by half: the exact sum or product of the operands, rounded once to
the nearest FP16 value; and the conversion, exact toward zero and 0x80000000 for what is out of range. -/
def C1Values : Prop :=
  let low (x : Word) : Nat := x.toNat % 65536
  let high (x : Word) : Nat := x.toNat / 65536
  let half (h : Nat) : Machine.Num := layFP16.value (c1Flush h)
  let put (v : Machine.Num) : BitVec 16 := BitVec.ofNat 16 (c1Flush (layFP16.round .rne v))
  let both (op : Machine.Num → Machine.Num → Machine.Num) (x y : Word) : Word :=
    put (op (half (high x)) (half (high y))) ++ put (op (half (low x)) (half (low y)))
  (∀ x y, c1Add x y = both (Machine.Num.add false) x y)
  ∧ (∀ x y, c1Sub x y = both (fun a b => Machine.Num.add false a b.neg) x y)
  ∧ (∀ x y, c1Mul x y = both Machine.Num.mul x y)
  ∧ (∀ x y z, c1Fma x y z =
      put (Machine.Num.add false (Machine.Num.mul (half (high x)) (half (high y))) (half (high z)))
        ++ put (Machine.Num.add false (Machine.Num.mul (half (low x)) (half (low y))) (half (low z))))
  ∧ (∀ x, isFinite x = false → c1F2I x = 0x80000000)
  ∧ (∀ (x : Word) (n : ℤ), isFinite x = true → |(n : ℚ)| ≤ |valueOf x| → |valueOf x| < |(n : ℚ)| + 1 → 0 ≤ n * valueOf x →
      c1F2I x = if -2 ^ 31 ≤ n ∧ n ≤ 2 ^ 31 - 1 then BitVec.ofInt 32 n else 0x80000000)
  ∧ c1Mul 0x2000 0x1C00 = 0 ∧ c1Add 0x0001 0x3C00 = 0x3C00

/-- R217, R218, R308–R311: legacy calls. -/
def Obligations.LegacyCalls : Prop :=
  C1Values ∧
  (∀ d a b, CallIssues (.c1hadd d a b) false ∧ CallIssues (.c1hsub d a b) false ∧ CallIssues (.c1hmul d a b) false
    ∧ CallIssues (.c1hfma d a b) false ∧ CallIssues (.c1cas d a b) true ∧ CallIssues (.c1f2i d a) false
    ∧ CallIssues (.c1bar d a) true)
  ∧ (∀ d a b, CallResult (.c1hadd d a b) d (fun g L => c1Add (g.vAt a.toNat L) (g.vAt b.toNat L))
    ∧ CallResult (.c1hsub d a b) d (fun g L => c1Sub (g.vAt a.toNat L) (g.vAt b.toNat L))
    ∧ CallResult (.c1hmul d a b) d (fun g L => c1Mul (g.vAt a.toNat L) (g.vAt b.toNat L))
    ∧ CallResult (.c1hfma d a b) d (fun g L => c1Fma (g.vAt a.toNat L) (g.vAt b.toNat L) (g.vAt d.toNat L))
    ∧ CallResult (.c1f2i d a) d (fun g L => c1F2I (g.vAt a.toNat L)))
  ∧ (∀ s die e rest d a b (m : Nat → TlbEntry), (s.dies.get die).gong = e :: rest → e.instr = .c1cas d a b → e.left ≠ 0 → e.read = false →
      let g := s.group e.grp
      let core := coreOfGroup e.grp
      let L := lowLane e.left
      (∀ K, K < 32 → inMask e.left K = true → canonical57 (g.vPair a.toNat K) = true ∧ (g.vPair a.toNat K).toNat % 4 = 0
        ∧ s.lookup core (s.ctxOf e.grp) (g.vPair a.toNat K) = .hit (m K) ∧ (m K).r = true ∧ (m K).w = true ∧ (m K).cow = false
        ∧ ((m K).cls = 1 ∨ (m K).cls = 2)) →
      let pa := (m L).pa (g.vPair a.toNat L)
      (∀ K, K < 32 → inMask e.left K = true → s.lineError (lineOf ((m K).pa (g.vPair a.toNat K))) = none) →
      (∀ o ∈ s.ops, o.2.live = true → coreOfGroup o.2.grp ≠ core) → Settled s pa → (s.cores.get core).wc.held = false →
      let same := s.readPa pa 4 == (g.vAt b.toNat L).toNat
      Completes (.gongEntryExecute die) s (fun t =>
        (∀ x, t.byteAt x = if same then laid ((splitBytes (g.vAt (b.toNat + 1) L).toNat 4).zipIdx.map (fun y => (pa + y.2, y.1))) s.byteAt x
          else s.byteAt x)
        ∧ (∀ h r K, K < 32 → (t.group h).vAt r K
            = if h = e.grp ∧ r = d.toNat ∧ K = L then (if same then 1 else 0) else (s.group h).vAt r K)
        ∧ (e.left &&& ~~~(maskOf (fun K => K == L)) ≠ 0 → ∃ f, (t.dies.get die).gong = f :: rest ∧ f.read = true
          ∧ f.left = e.left &&& ~~~(maskOf (fun K => K == L))
          ∧ ∀ K, K < 32 → inMask e.left K = true → f.pa.get K = (m K).pa (g.vPair a.toNat K) ∧ f.cls.get K = (m K).cls.toNat
              ∧ f.data.get (2 * K) = g.vAt b.toNat K ∧ f.data.get (2 * K + 1) = g.vAt (b.toNat + 1) K)))
  ∧ (∀ s die e rest d a b, (s.dies.get die).gong = e :: rest → e.instr = .c1cas d a b → e.left ≠ 0 → e.read = true →
      let core := coreOfGroup e.grp
      let L := lowLane e.left
      let pa := e.pa.get L
      (e.cls.get L = 1 ∨ e.cls.get L = 2) → pa % 4 = 0 → Settled s pa → (s.cores.get core).wc.held = false →
      let same := s.readPa pa 4 == (e.data.get (2 * L)).toNat
      Completes (.gongEntryExecute die) s (fun t =>
        (∀ x, t.byteAt x = if same then laid ((splitBytes (e.data.get (2 * L + 1)).toNat 4).zipIdx.map (fun y => (pa + y.2, y.1))) s.byteAt x
          else s.byteAt x)
        ∧ (∀ h r K, K < 32 → (t.group h).vAt r K
            = if h = e.grp ∧ r = d.toNat ∧ K = L then (if same then 1 else 0) else (s.group h).vAt r K)
        ∧ (t.dies.get die).gong = if e.left &&& ~~~(maskOf (fun K => K == L)) = 0 then rest
            else { e with left := e.left &&& ~~~(maskOf (fun K => K == L)) } :: rest))
  ∧ (∀ s die e rest d a, (s.dies.get die).gong = e :: rest → e.instr = .c1bar d a →
      let g := s.group e.grp
      let w := (g.vAt a.toNat (lowLane e.mask)).toNat
      let k := (s.blocks.get g.block).bars.get w
      let n := k.arrived + laneCount (g.exist_ &&& ~~~g.exited)
      (∀ x ∈ g.splits, x.uid = e.uid → x.cond = .blocked .gong) →
      w < 16 → k.fixed = none → n < s.expected g.block w → Completes (.gongEntryExecute die) s (fun t =>
        SameRegs s t ∧ SameBytes s t ∧ (t.dies.get die).gong = rest
        ∧ (t.blocks.get g.block).bars.get w = { k with arrived := n }
        ∧ ∀ x ∈ (t.group e.grp).splits, x.uid = e.uid → x.cond = .blocked (.c1bar w k.phase d e.mask)))

/-- A work list whose ring lies in the heap window, writable and of class 1 or 2, aligned, its lines answered by
their homes from memory. -/
def RingReady (s : State) (ctx : Nat) (w : WorkList) : Prop :=
  let c := s.ctxs.get ctx
  w.base.toNat % 256 = 0 ∧ 0 < w.capacity ∧ w.capacity ≤ 2 ^ 24 ∧ c.heapAttr.getLsbD 2 = true ∧ c.heapAttr.getLsbD 3 = true
  ∧ (c.heapAttr.extractLsb' 0 2 = 1 ∨ c.heapAttr.extractLsb' 0 2 = 2)
  ∧ ∀ n, canonical57 (w.word n) = true ∧ canonical57 (w.word n + 3) = true
      ∧ inWindow c (w.word n) = true ∧ inWindow c (w.word n + 3) = true ∧ Settled s (windowPa s ctx (w.word n))

/-- R210, R211, R213–R216, R358: work created by the cores. -/
def Obligations.WorkCreation : Prop :=
  (∀ s la d a (e : Nat → TlbEntry), ActsPlain s → (∀ L, L < 32 → inMask s.onceSet L = true → canonical57 (s.vP a L) = true ∧ (s.vP a L).toNat % 128 = 0
        ∧ s.lookup s.curCore (s.ctxOf s.focus.grp) (s.vP a L) = .hit (e L) ∧ (e L).r = true ∧ (e L).cls ≠ 3) →
      Completes (.launch la d a) s (fun t => SameRegs s t ∧ SameBytes s t
        ∧ (let o := t.op s.nextOp
           o.live = true ∧ o.instr = .launch la d a ∧ o.mask = s.onceSet ∧ o.status = .flying
           ∧ ∀ L, L < 32 → inMask s.onceSet L = true → o.addr.get L = s.vP a L)
        ∧ t.subs = s.subs ++ (lanesOf s.onceSet).zipIdx.map (fun x => (s.nextSub + x.2,
            { ctx := s.ctxOf s.focus.grp, addr := s.vP a x.1, origin := .child s.nextOp x.1
              floor := (s.launchOf s.focus.grp).rec_.priority }))
        ∧ ∀ k, k < laneCount s.onceSet → .launchAccept (s.nextSub + k) ∈ t.pending))
  ∧ (∀ s la d a b, ActsPlain s → let ctx := s.ctxOf s.focus.grp
      let n := (s.sR a).toNat
      let w := s.workList ctx n
      let m := min (laneCount s.onceSet) (w.tail - w.head)
      (s.listOk ctx (s.sR a) = false → exec (.wltake la d a b) s = .next ((s.doom s.onceSet 5).illop 0x0B 0x52))
      ∧ (s.listOk ctx (s.sR a) = true → (s.launchOf s.focus.grp).quiescent = false → w.tail = w.head →
          Completes (.wltake la d a b) s (fun t => SameRegs s t ∧ SameBytes s t ∧ (t.op s.nextOp).live = true
            ∧ (t.workList ctx n).takers = w.takers ++ [s.nextOp]))
      ∧ (∀ (val : Nat → Nat), s.listOk ctx (s.sR a) = true → (s.launchOf s.focus.grp).quiescent = false → w.tail ≠ w.head →
          (∀ k, k < m → s.agentWord ctx (w.word (w.head + k)) 4 = .ok (val k)) → s.noCopies = true →
          s.itemError ctx w m = none → Completes (.wltake la d a b) s (fun t => SameRegs s t ∧ SameBytes s t ∧ .loadDataReturn s.nextOp ∈ t.pending
            ∧ (t.workList ctx n).head = w.head + m ∧ (t.workList ctx n).tail = w.tail
            ∧ let o := t.op s.nextOp
              o.live = true ∧ o.instr = .wltake la d a b ∧ o.status = .accepted ∧ o.got.get 128 = BitVec.ofNat 32 m
              ∧ (∀ L, L < 32 → (inMask o.mask L = true ↔ L ∈ (lanesOf s.onceSet).take m))
              ∧ ∀ k, k < m → o.got.get (4 * (lanesOf s.onceSet).getD k 0) = BitVec.ofNat 32 (val k)))
      ∧ (s.listOk ctx (s.sR a) = true → (s.launchOf s.focus.grp).quiescent = true →
          Completes (.wltake la d a b) s (fun t => SameRegs s t ∧ SameBytes s t ∧ .loadDataReturn s.nextOp ∈ t.pending
            ∧ let o := t.op s.nextOp
              o.live = true ∧ o.status = .accepted ∧ o.mask = 0 ∧ o.got.get 128 = 0)))
  ∧ (∀ s k la d a b, let o := s.op k
      o.live = true → o.instr = .wltake la d a b → o.status = .accepted → NothingToRelease s (coreOfGroup o.grp) →
      Completes (.loadDataReturn k) s (fun t => SameBytes s t ∧ (t.op k).live = false
        ∧ (∀ g r, (t.group g).sAt r = if g = o.grp ∧ r = b.toNat ∧ o.wrote.get 128 = false then o.got.get 128 else (s.group g).sAt r)
        ∧ ∀ g r L, L < 32 → (t.group g).vAt r L
            = if g = o.grp ∧ r = d.toNat ∧ inMask o.mask L = true ∧ o.wrote.get (4 * L) = false then o.got.get (4 * L) else (s.group g).vAt r L))
  ∧ (∀ s la a b, s.focus.mask ≠ 0 → s.focus.mask &&& s.cur.txOpen = 0 → let ctx := s.ctxOf s.focus.grp
      let runs := fun n => ((lanesOf s.focus.mask).filter (fun L => (s.vR b L).toNat == n)).length
      ((∃ L, L < 32 ∧ s.inPass L = true ∧ s.listOk ctx (s.vR b L) = false) →
        exec (.wlapp la a b) s = .next ((s.doom s.focus.mask 5).illop 0x0B 0x52))
      ∧ ((∀ L, L < 32 → s.inPass L = true → s.listOk ctx (s.vR b L) = true) →
        (∀ n, n < 64 → runs n ≤ (s.workList ctx n).capacity) →
        Completes (.wlapp la a b) s (fun t => SameRegs s t ∧ SameBytes s t ∧ .wlappAccept s.nextOp ∈ t.pending
          ∧ let o := t.op s.nextOp
            o.live = true ∧ o.instr = .wlapp la a b ∧ o.mask = s.focus.mask
            ∧ ∀ L, L < 32 → s.inPass L = true → o.data.get (4 * L) = s.vR a L ∧ o.data.get (4 * L + 1) = s.vR b L)))
  ∧ (∀ s k n la a b, let o := s.op k
      let ctx := s.ctxOf o.grp
      let w := s.workList ctx n
      o.live = true → o.instr = .wlapp la a b → o.next = 1 → o.have_ = 0 → n < 64 →
      (∀ e ∈ (s.splitOf o.grp o.uid).out, k ≤ e.op) → (s.splitOf o.grp o.uid).cDevice ≤ s.now →
      (∀ L, L < 32 → inMask o.mask L = true → (o.data.get (4 * L + 1)).toNat = n) →
      w.tail - w.head + laneCount o.mask ≤ w.capacity → w.takers = [] → RingReady s ctx w →
      Completes (.wlappAccept k) s (fun t => SameRegs s t ∧ (t.op k).live = false
        ∧ (t.workList ctx n).tail = w.tail + laneCount o.mask ∧ (t.workList ctx n).head = w.head
        ∧ ∀ j, j < laneCount o.mask → t.readPa (windowPa s ctx (w.word (w.tail + j))) 4
            = (o.data.get (4 * (lanesOf o.mask).getD j 0)).toNat))
  ∧ (∀ s l k o la d a b, s.quiet l = true → (s.launches.get l).disagree = none → s.ops = [(k, o)] → o.live = true →
      o.instr = .wltake la d a b → (s.blockOf o.grp).launch = l →
      Completes (.knellQuiescence l) s (fun t => (t.launches.get l).quiescent = true ∧ SameRegs s t ∧ SameBytes s t
        ∧ .loadDataReturn k ∈ t.pending ∧ (t.op k).status = .accepted ∧ (t.op k).mask = 0 ∧ (t.op k).got.get 128 = 0))
  ∧ (∀ s l, (s.launches.get l).live = true → (s.launches.get l).quiescent = false →
      Completes (.knellDisagreement l) s (fun t => SameRegs s t ∧ (t.launches.get l).errorPosted = true
        ∧ (t.launches.get l).disagree = some ((s.launches.get l).disagree.getD s.now)
        ∧ (s.fw.up = false → SameBytes s t ∧ (t.launches.get l).errorDue
            = ((s.launches.get l).errorDue || !(s.launches.get l).errorPosted))))
  ∧ (∀ s l t0, s.fw.up = true → (s.launches.get l).disagree = some t0 → t0 + 10000000 ≤ s.now →
      Completes (.knellRecountTimeout l) s (fun t => SameRegs s t ∧ SameBytes s t ∧ (t.launches.get l).disagree = none
        ∧ .knellQuiescence l ∈ t.pending))

/-! ### Copies and the debug stub -/

/-- R181: an asynchronous copy whose arguments are in range and whose stash bytes lie in the block is queued, in
the open batch, with its operands as at issue; a copy of nothing is complete. -/
def CopyQueues (i : Instr) (kind : Nat) (x y n : Reg) (p : BitVec 2) : Prop :=
  ∀ s, ActsPlain s → let c := s.copyAsked kind x y n p
    (c.argsOk = false → exec i s = .next ((s.doom s.onceSet 5).illop 0x0B 0x76))
    ∧ (c.argsOk = true → s.curBlock.holdsCopy c = true → s.cur.copies.length < 32 → Completes i s (fun t =>
        SameBytes s t ∧ t.cur.v = s.cur.v ∧ t.cur.s = s.cur.s ∧ t.cur.p = s.cur.p ∧ t.cur.batchNo = s.cur.batchNo
        ∧ (c.words = 0 → t.cur.copies = s.cur.copies)
        ∧ (c.words ≠ 0 → t.cur.copies = s.cur.copies ++ [c] ∧ t.cur.nextCopy = s.cur.nextCopy + 1
            ∧ .copyComplete s.focus.grp c.id ∈ t.pending)))
    ∧ (c.argsOk = true → s.curBlock.holdsCopy c = true → 32 ≤ s.cur.copies.length → Completes i s (fun t =>
        SameRegs s t ∧ SameBytes s t ∧ t.focus.stalled = true ∧ SplitIs s t (fun z => z.cond = .blocked .copyRoom)))

/-- No closed batch of the group in focus is complete without the group knowing it. -/
def BatchesKnown (s : State) : Prop := ∀ m ∈ s.cur.closed, s.batchDone s.cur m = false

/-- R181–R183, R185: asynchronous copies. -/
def Obligations.Copies : Prop :=
  (∀ x y n p, CopyQueues (.cpyG2s x y n p) 0 x y n p ∧ CopyQueues (.cpyS2g x y n p) 1 x y n p ∧ CopyQueues (.cpyG2s2d x y n p) 2 x y n p
    ∧ CopyQueues (.cpyS2g2d x y n p) 3 x y n p ∧ CopyQueues (.cpyG2g x y n p) 4 x y n p)
  ∧ (∀ s g c e, (s.group g).copies = [c] → c.words = 1 → c.done = 0 → c.early = [] → NoStores s (coreOfGroup g) → (c.kind = 0 ∨ c.kind = 1) → (s.group g).live = true →
      (s.group g).exited ≠ (s.group g).exist_ →
      (∀ f ∈ s.faults, f.2.copy ≠ some (g, c.id)) → (s.blocks.get (s.group g).block).maps = [] →
      (s.blocks.get (s.group g).block).mapLines = [] →
      coreOfBlock (s.group g).block = coreOfGroup g →
      canonical57 c.global = true → c.global.toNat % 4 = 0 → s.lookup (coreOfGroup g) (s.ctxOf g) c.global = .hit e →
      (e.cls = 1 ∨ e.cls = 2) → e.r = true → e.w = true → e.cow = false → s.lineError (lineOf (e.pa c.global)) = none →
      Settled s (e.pa c.global) → (s.cores.get (coreOfGroup g)).wc.held = false →
      (c.kind = 0 → Completes (.copyComplete g c.id) s (fun t => (∀ p, (s.home.get (lineOf p)).owner = none → t.byteAt p = s.byteAt p) ∧ (t.group g).copies = []
        ∧ .batchComplete g ∈ t.pending
        ∧ ∀ off, t.stashByte (coreOfBlock (s.group g).block) off
            = laid ((List.range 4).map (fun k => (c.stash.toNat + k, s.byteAt (e.pa c.global + k))))
                (s.stashByte (coreOfBlock (s.group g).block)) off))
      ∧ (c.kind = 1 → Completes (.copyComplete g c.id) s (fun t => (t.group g).copies = []
        ∧ .batchComplete g ∈ t.pending
        ∧ ∀ a, t.byteAt a = laid ((List.range 4).map (fun k =>
            (e.pa c.global + k, s.stashByte (coreOfBlock (s.group g).block) (c.stash.toNat + k)))) s.byteAt a)))
  ∧ (∀ s d, ActsPlain s → BatchesKnown s →
      (s.cur.closed.length < 16 → Completes (.cbclose d) s (fun t => SameBytes s t ∧ t.cur.batchNo = s.cur.batchNo + 1
        ∧ t.cur.closed = s.cur.closed ++ [s.cur.batchNo + 1] ∧ t.cur.v = s.cur.v ∧ t.cur.p = s.cur.p
        ∧ ∀ r, t.cur.sAt r = if r = d.toNat then s.cur.batchNo + 1 else s.cur.sAt r))
      ∧ (16 ≤ s.cur.closed.length → Completes (.cbclose d) s (fun t => SameRegs s t ∧ SameBytes s t
        ∧ SplitIs s t (fun x => x.cond = .blocked (.batchClose d)))))
  ∧ (∀ s a, ActsPlain s → BatchesKnown s →
      ((∀ m ∈ s.cur.closed, 2 ^ 31 ≤ (s.sR a - m).toNat) → Completes (.cwait a) s (fun t => SameRegs s t ∧ OnlyCur s t))
      ∧ ((∃ m ∈ s.cur.closed, (s.sR a - m).toNat < 2 ^ 31) → Completes (.cwait a) s (fun t => SameRegs s t ∧ OnlyCur s t
        ∧ SplitIs s t (fun x => x.cond = .blocked (.batch (s.sR a))))))
  ∧ (∀ s d, ActsPlain s → BatchesKnown s → Completes (.cqry d) s (fun t => OnlyS s t
      ∧ ∀ r, t.cur.sAt r = if r = d.toNat then (match s.cur.closed with | m :: _ => m - 1 | [] => s.cur.batchNo) else s.cur.sAt r))
  ∧ (∀ s g m x, (s.group g).live = true → (s.group g).exited ≠ (s.group g).exist_ → (s.group g).closed = [m] →
      (∀ c ∈ (s.group g).copies, c.batch ≠ m) → (∀ e ∈ (s.group g).batchTimes, e.1 = m → e.2 ≤ s.now) →
      (s.group g).splits = [x] → x.cond = .blocked (.batch m) → x.also = [] →
      Completes (.batchComplete g) s (fun t => SameBytes s t ∧ (t.group g).closed = []
        ∧ ∀ y ∈ (t.group g).splits, y.uid = x.uid → y.cond = .runnable))

/-- A command of a stub: s[d] has the status, the group in focus is a stub group, and no byte of memory changes. -/
def Commands (i : Instr) (s : State) (d : Reg) (status : Word) (P : State → Prop) : Prop :=
  Completes i s (fun t => SameBytes s t ∧ t.cur.sAt d.toNat = status ∧ t.cur.stub = true ∧ P t)

/-- A status other than 0 changes nothing but s[d]. -/
def Declines (i : Instr) (s : State) (d : Reg) (status : Word) : Prop :=
  Commands i s d status (fun t => OnlyCur s t ∧ t.cur.v = s.cur.v ∧ t.cur.p = s.cur.p
    ∧ ∀ r, r ≠ d.toNat → t.cur.sAt r = s.cur.sAt r)

/-- The selected split of the stub group is stopped. Its group is a resident one, or, by a name of 2^20 and above,
one of a saved block. -/
def SelectsSplit (s : State) (g u : Nat) (x : Split) : Prop :=
  s.cur.selected = some (g, u) ∧ (s.anyGroup g).findSplit u = some x ∧ x.stopped = true

/-- No split of the launch of a group waits for a record of its stub. -/
def NoDebugWait (s : State) (g : Nat) : Prop :=
  ∀ h ∈ s.launchGroups (s.blockOf g).launch, ∀ y ∈ (s.group h).splits, ∀ w ∈ y.waits, ∀ r o n, w ≠ .debug r o n

/-- R144–R147, R363–R366, R368: the debug stub. The order of the statuses 2, 3 and 1, and the alignment of a watched
address to 4, are the model’s reading (log entry 24), the status of a stash range above 32 bits too (log entry 68). -/
def Obligations.DebugStub : Prop :=
  (∀ (s : State) (d a : Reg), s.actsOnce = true → let l := s.curBlock.launch
      (s.sR a).toNat % 64 = 0 → s.curBlock.holds (s.sR a).toNat 64 = true → s.curBlock.maps = [] → s.curBlock.mapLines = [] →
      s.launchGroups l = [s.focus.grp] → ∀ x, s.cur.splits = [x] → x.uid = s.focus.uid → x.mask ≠ 0 → x.waits = [] →
      ((s.launches.get l).stubQ = [] → Completes (.dbgwait d a) s (fun t => SameBytes s t ∧ t.cur.stub = true ∧ t.cur.s = s.cur.s
        ∧ SplitIs s t (fun y => y.cond = .blocked (.debug d (s.sR a) s.nextOp))))
      ∧ (∀ r, (s.launches.get l).stubQ = [r] → (s.launches.get l).stubWait = [] → s.stashQueue s.cur.block = [] → Completes (.dbgwait d a) s (fun t => (∀ p, (s.home.get (lineOf p)).owner = none → t.byteAt p = s.byteAt p)
        ∧ t.cur.stub = true ∧ t.cur.selected = (if r.gone = true then none else some (r.grp, r.uid)) ∧ (t.launches.get l).stubQ = []
        ∧ (∀ k, t.cur.sAt k = if k = d.toNat then 0 else s.cur.sAt k)
        ∧ (∀ k, k < 64 → t.stashByte (coreOfBlock s.cur.block) ((s.sR a).toNat + k) = (trapBytes r.rec_).getD k 0)
        ∧ SplitIs s t (fun y => y.cond = .runnable))))
  ∧ (∀ (s : State) (d a : Reg), (s.selectedSplit = none → Completes (.dbgrd d a) s (fun t => OnlyV s t ∧ ∀ r L, L < 32 →
        t.cur.vAt r L = if r = d.toNat ∧ s.inPass L = true then 0 else s.cur.vAt r L))
      ∧ (∀ g u x, SelectsSplit s g u x → (g < 2 ^ 20 ∨ s.noCopies = true) → let exists_ (L : Nat) : Bool := inMask (s.anyGroup g).exist_ L
          Completes (.dbgrd d a) s (fun t => OnlyV s t ∧ ∀ r L, L < 32 → t.cur.vAt r L =
          if r = d.toNat ∧ s.inPass L = true then
            let n := (s.sR a).toNat % 64
            match (s.sR a).toNat / 4096 % 16 with
            | 0 => if exists_ L then (s.anyGroup g).vAt n L else 0
            | 1 => (s.anyGroup g).sAt n
            | 2 => if exists_ L ∧ n < 8 then (if (s.anyGroup g).pAt n L then 1 else 0) else 0
            | 3 => if exists_ L ∧ n = 0 then ((s.anyGroup g).depth.get L).setWidth 32 else 0
            | 4 => if exists_ L ∧ n = 0 then ((s.anyGroup g).plane.get L).setWidth 32 else 0
            | 5 => if n = 0 then x.offset else if n = 1 then BitVec.ofNat 32 x.version else if n = 2 then x.mask else 0
            | _ => 0
          else s.cur.vAt r L)))
  ∧ (∀ (s : State) (a b : Reg), (s.selectedSplit = none → exec (.dbgwr a b) s = .next s)
      ∧ (∀ g u x, s.focus.mask ≠ 0 → SelectsSplit s g u x → g < 2 ^ 20 → Completes (.dbgwr a b) s (fun t => SameBytes s t
          ∧ (∀ h, h ≠ g → t.group h = s.group h)
          ∧ let n := (s.sR a).toNat % 64
            let cls := (s.sR a).toNat / 4096 % 16
            let acts (L : Nat) : Bool := s.inPass L && inMask (s.group g).exist_ L
            (cls = 0 → n < (s.launchOf s.focus.grp).rec_.regs → ∀ r L, L < 32 → (t.group g).vAt r L
              = if r = n ∧ acts L = true then s.vR b L else (s.group g).vAt r L)
            ∧ (cls = 1 → ∀ r, (t.group g).sAt r = if r = n then s.vR b (lowLane s.focus.mask) else (s.group g).sAt r)
            ∧ (cls = 2 → n < 8 → ∀ q L, L < 32 → (t.group g).pAt q L
              = if q = n ∧ acts L = true then (s.vR b L).getLsbD 0 else (s.group g).pAt q L)
            ∧ (cls = 3 → n = 0 → ∀ L, L < 32 → (t.group g).depth.get L
              = if acts L = true then (s.vR b L).setWidth 8 else (s.group g).depth.get L)
            ∧ (cls = 4 → n = 0 → ∀ L, L < 32 → (t.group g).plane.get L
              = if acts L = true ∧ (s.vR b L).toNat % 4 < ((s.launchOf s.focus.grp).entries.get x.version).planes
                then (s.vR b L).setWidth 2 else (s.group g).plane.get L)
            ∧ (cls = 5 → n = 0 → ∀ y ∈ (t.group g).splits, y.uid = x.uid → y.offset = s.vR b (lowLane s.focus.mask) &&& ~~~1#32)
            ∧ (5 < cls → t.group g = s.group g))))
  ∧ (∀ (s : State) (d a : Reg) (g u : Nat) (x : Split), s.actsOnce = true → SelectsSplit s g u x → g ≠ s.focus.grp → g < 2 ^ 20 →
      ((s.sR a).toNat ≤ 7 → Commands (.dbgctlResume d a) s d 0 (fun t =>
        ∀ y ∈ (t.group g).splits, y.uid = x.uid → y.stopped = false ∧ y.stepping = false))
      ∧ Commands (.dbgctlStep d a) s d 0 (fun t => ∀ y ∈ (t.group g).splits, y.uid = x.uid → y.stopped = false ∧ y.stepping = true))
  ∧ (∀ (s : State) (d a : Reg), s.actsOnce = true → s.selectedSplit = none →
      ((s.sR a).toNat ≤ 7 → Declines (.dbgctlResume d a) s d 3) ∧ Declines (.dbgctlStep d a) s d 3)
  ∧ (∀ (s : State) (d a : Reg), s.actsOnce = true → 7 < (s.sR a).toNat → Declines (.dbgctlResume d a) s d 2)
  ∧ (∀ (s : State) (d a : Reg), s.actsOnce = true → s.cur.selected = none → Declines (.dbgctlHalt d a) s d 3)
  ∧ (∀ (s : State) (d a : Reg) (g u : Nat), s.actsOnce = true → s.cur.selected = some (g, u) → g ≠ s.focus.grp → g < 2 ^ 20 → s.hasStub g .step = true →
      NoDebugWait s g → (∀ y ∈ (s.group g).splits, y.stopping = false) →
      Commands (.dbgctlHalt d a) s d 0 (fun t => (∀ y ∈ (t.group g).splits, y.stopped = true ∨ y.halting = true)
        ∧ ((∀ y ∈ (s.group g).splits, y.rest = none) → (∀ c, (s.quads.get (quadOfGroup g)).cur = some c → c.grp = g → c.fresh = true) →
            ∀ y ∈ (t.group g).splits, y.stopped = true)))
  ∧ (∀ (s : State) (d a : Reg), s.actsOnce = true → Completes (.dbgctlResumeall d a) s (fun t =>
      t.cur.sAt d.toNat = 0 ∧ t.cur.stub = true
      ∧ ((∀ v ∈ (s.ctxs.get s.curBlock.ctx).saved, v.block.launch ≠ s.curBlock.launch) → SameBytes s t)
      ∧ (∀ g ∈ s.launchGroups s.curBlock.launch, ∀ y ∈ (t.group g).splits, y.stopped = false)
      ∧ ∀ v ∈ (t.ctxs.get s.curBlock.ctx).saved, v.block.launch = s.curBlock.launch →
          ∀ e ∈ v.groups, ∀ y ∈ e.2.splits, y.stopped = false))
  ∧ (∀ (s : State) (d a : Reg), s.actsOnce = true → let o := s.debugArg a 1
      let v := (s.debugArg a 2).toNat
      let m := (s.debugArg a 3).setWidth 4
      let bs := (s.launchOf s.focus.grp).breaks
      let here := fun (b : Breakpoint) => b.offset == o && b.version == v
      if o.toNat % 2 = 1 ∨ 15 < v ∨ m = 0 then Declines (.dbgctlBkset d a) s d 2
      else if bs.any here then Commands (.dbgctlBkset d a) s d 0 (fun t =>
        (t.launchOf s.focus.grp).breaks = bs.map (fun b => if here b then { b with planes := m } else b))
      else if 8 ≤ bs.length then Declines (.dbgctlBkset d a) s d 1
      else Commands (.dbgctlBkset d a) s d 0 (fun t => (t.launchOf s.focus.grp).breaks = bs ++ [{ offset := o, version := v, planes := m }]))
  ∧ (∀ (s : State) (d a : Reg), s.actsOnce = true → let bs := (s.launchOf s.focus.grp).breaks
      let here := fun (b : Breakpoint) => b.offset == s.debugArg a 1 && b.version == (s.debugArg a 2).toNat
      if bs.any here then Commands (.dbgctlBkclr d a) s d 0 (fun t => (t.launchOf s.focus.grp).breaks = bs.filter (fun b => !here b))
      else Declines (.dbgctlBkclr d a) s d 2)
  ∧ (∀ (s : State) (d a : Reg), s.actsOnce = true → let addr := pairOf (s.debugArg a 1) (s.debugArg a 2)
      let len := (s.debugArg a 3).toNat
      let kind : BitVec 3 := (s.debugArg a 4).setWidth 3
      let ws := (s.launchOf s.focus.grp).watches
      if addr.toNat % 4 ≠ 0 ∨ len < 4 ∨ 4096 < len ∨ len % 4 ≠ 0 ∨ (kind.getLsbD 0 = true ∧ s.debugArg a 2 ≠ 0) then
        Declines (.dbgctlWset d a) s d 2
      else if kind.getLsbD 0 = true ∧ s.cur.selected.isNone = true then Declines (.dbgctlWset d a) s d 3
      else match (List.range 4).find? (fun n => ws.all (fun w => w.number != n)) with
        | none => Declines (.dbgctlWset d a) s d 1
        | some n => Commands (.dbgctlWset d a) s d 0 (fun t => (t.launchOf s.focus.grp).watches = ws ++
            [{ number := n, addr := addr, length := len, kind := kind
               block := if kind.getLsbD 0 then (match s.cur.selected with | some (g, _) => (s.anyBlock g).number | none => 0) else 0 }]))
  ∧ (∀ (s : State) (d a : Reg), s.actsOnce = true → let addr := pairOf (s.debugArg a 1) (s.debugArg a 2)
      let ws := (s.launchOf s.focus.grp).watches
      match (List.range 4).find? (fun n => ws.any (fun w => w.number == n && w.addr == addr)) with
      | none => Declines (.dbgctlWclr d a) s d 2
      | some n => Commands (.dbgctlWclr d a) s d 0 (fun t => (t.launchOf s.focus.grp).watches = ws.filter (fun w => w.number != n)))
  ∧ (∀ s g u p x, s.breakHit g u = some p → (s.group g).findSplit u = some x → x.stopped = false → x.stopping = false → x.mask ≠ 0 →
      x.out = [] → s.hasStub g .brkpt = true → (s.launchOf g).stubQ = [] → (s.launchOf g).stubWait = [] →
      NoDebugWait s g → Completes (.breakpointStop g u) s (fun t => SameRegs s t ∧ SameBytes s t
        ∧ (∀ y ∈ (t.group g).splits, y.uid = u → y.stopped = true)
        ∧ ∃ r, (t.launchOf g).stubQ = [{ rec_ := r, grp := g, uid := u }] ∧ r.cause = .brkpt ∧ r.detail = 1
          ∧ r.offset = x.offset ∧ r.plane = p ∧ r.active = s.activeLanes g u))

/-! ### Launches -/

/-- No core holds anything of a context that has still to go home. -/
def NothingHeld (s : State) (ctx : Nat) : Prop :=
  ∀ core, (s.cores.get core).wc.held = false
    ∧ ∀ e ∈ (s.cores.get core).l1, updateOp e.2 ≠ none → ctx ∉ e.2.ctxs

/-- No block waits, with its groups ended, for a launch slot for its successor. -/
def NoneAwaited (s : State) : Prop := ∀ e ∈ s.blocks, e.2.live = true → e.2.groups ≠ []

/-- R17, R41, R318, R319, R323–R326, R335: launches from acceptance to completion. -/
def Obligations.Launches : Prop :=
  (∀ (s : State) (sub run node : Nat) (x : Submission), s.subs = [(sub, x)] → x.origin = .node run node →
      (s.ctxs.get x.ctx).st = .running → s.noCopies = true →
      (∀ l r e, s.freeLaunch = some l → s.checkRecord x.ctx x.addr = .ok (r, e) → Completes (.launchAccept sub) s (fun t =>
        SameRegs s t ∧ SameBytes s t ∧ t.subs = [] ∧ .blockPlacement ∈ t.pending ∧ t.nextOrder = s.nextOrder + 1
        ∧ (∀ k, k ≠ l → t.launches.get k = s.launches.get k)
        ∧ (let y := t.launches.get l
           y.live = true ∧ y.ctx = x.ctx ∧ y.addr = x.addr ∧ y.rec_ = r ∧ y.start = r.version ∧ y.placed = 0 ∧ y.ended = 0
           ∧ y.node = some (run, node) ∧ y.order = s.nextOrder ∧ y.child = false)))
      ∧ (∀ l er, s.freeLaunch = some l → s.checkRecord x.ctx x.addr = .error er → Completes (.launchAccept sub) s (fun t =>
        t.subs = [] ∧ (∀ k, (t.launches.get k).live = (s.launches.get k).live) ∧ .graphNodeComplete run node ∈ t.pending)))
  ∧ (∀ (s : State) (l core b stash : Nat), let x := s.launches.get l
      let r := x.rec_
      s.waitingLaunches = [l] → s.waitingSaved = [] → x.child = false → r.coresident = false → s.findPlace l 0 = some (core, b, stash) →
      Completes .blockPlacement s (fun t => SameBytes s t ∧ .blockPlacement ∈ t.pending
        ∧ (t.launches.get l).placed = x.placed + 1 ∧ (t.launches.get l).lastDie = some (dieOfCore core)
        ∧ (t.dies.get (dieOfCore core)).place = (core % 32 + 1) % 32
        ∧ (let y := t.blocks.get b
           y.live = true ∧ y.launch = l ∧ y.number = x.placed ∧ y.ctx = x.ctx ∧ y.core = core ∧ y.stash = stash
           ∧ y.stashSize = r.stash ∧ y.groups.length = r.groups
           ∧ y.ident = blockIdent (r.widths.drop r.level) (r.extents.drop r.level) x.placed)
        ∧ (r.groups = 1 → let g := s.pickSlot core
            (t.blocks.get b).groups = [g] ∧ (t.group g).live = true ∧ (t.group g).block = b ∧ (t.group g).index = 0
            ∧ (t.group g).exited = 0
            ∧ (∀ L, L < 32 → inMask (t.group g).exist_ L = decide (L < r.lanes) ∧ (t.group g).plane.get L = 0
                ∧ (t.group g).depth.get L = 0
                ∧ ∀ q, (t.group g).vAt q L = if q = 0 ∧ L < r.lanes then BitVec.ofNat 32 L else 0)
            ∧ (∀ q, (t.group g).sAt q = match q with
                | 0 => r.argument.extractLsb' 0 32 | 1 => r.argument.extractLsb' 32 32 | 2 => BitVec.ofNat 32 stash
                | 4 => x.addr.extractLsb' 0 32 | 5 => x.addr.extractLsb' 32 32 | _ => 0)
            ∧ (∀ q L, L < 32 → (t.group g).pAt q L = false)
            ∧ (t.group g).armed = x.requested)))
  ∧ (∀ (s : State) (l : Nat), let x := s.launches.get l
      x.live = true → x.rec_.blocks ≤ x.ended → x.settled ≤ s.now → NothingHeld s x.ctx → NoneAwaited s →
      (x.rec_.doneAddr = 0 ∨ (x.rec_.doneAddr.toNat % 4 = 0 ∧ HubBytes s x.ctx x.rec_.doneAddr 4)) →
      Completes (.launchComplete l) s (fun t =>
        (t.launches.get l).live = false ∧ (∀ k, k ≠ l → t.launches.get k = s.launches.get k)
        ∧ (∀ r n, x.node = some (r, n) → .graphNodeComplete r n ∈ t.pending)
        ∧ (if x.rec_.doneAddr = 0 then SameBytes s t
           else HubStored s t x.ctx x.rec_.doneAddr (splitBytes x.rec_.doneValue.toNat 4))))
  ∧ (∀ (s : State) (ctx g : Nat) (v : Saved) (k : Group) (x : Split) (core b : Nat),
      (s.ctxs.get ctx).st = .running → (s.ctxs.get ctx).saved = [v] → v.block.ctx = ctx → v.block.live = true →
      v.block.groups = [g] → v.groups = [(g, k)] → k.splits = [x] → x.cond = .runnable → x.stopped = false → k.copies = [] → k.closed = [] →
      v.tiles = none → v.queued = [] → v.token = [] → v.ops = [] → v.gong = [] → x.also = [] → s.readAreas v = some v →
      (s.launches.get v.block.launch).rec_.coresident = false → (s.launches.get v.block.launch).stubQ = [] →
      s.waitingSaved = [(ctx, v)] → s.nextPlacement = none → s.outranked v = false → s.restorePlace v = some (core, b) → NoneAwaited s →
      s.noCopies = true →
      Completes (.blockRestore ctx) s (fun t => (∀ p, (s.home.get (lineOf p)).owner = none → t.byteAt p = s.byteAt p) ∧
        (t.ctxs.get ctx).saved = [] ∧ (t.blocks.get b).live = true ∧ (t.blocks.get b).core = core
        ∧ (t.blocks.get b).stash = v.block.stash ∧ (t.blocks.get b).launch = v.block.launch
        ∧ (∀ off, t.stashByte core off = laid v.stash (fun a => if v.block.regions.any (fun r => decide (r.1 ≤ a ∧ a < r.1 + r.2)) then 0 else s.stashByte core a) off)
        ∧ (let h := s.pickSlot core
           (t.blocks.get b).groups = [h] ∧ (t.group h).v = k.v ∧ (t.group h).s = k.s ∧ (t.group h).p = k.p
           ∧ (t.group h).depth = k.depth ∧ (t.group h).plane = k.plane ∧ (t.group h).retired = k.retired)))
  ∧ (∀ (s : State) (ctx t0 : Nat), (s.ctxs.get ctx).sliceStart = some t0 → t0 + (s.ctxs.get ctx).sliceNs ≤ s.now →
      ((∀ d, d < 8 → s.contended ctx d = false) → Completes (.timeSliceExpiry ctx) s (fun t => SameRegs s t ∧ SameBytes s t
        ∧ (t.ctxs.get ctx).sliceStart = some s.now ∧ t.blocks = s.blocks))
      ∧ (∀ b, s.whole (s.blocksOf ctx (fun d => decide (d < 8) && s.contended ctx d)) = [b] →
        Completes (.timeSliceExpiry ctx) s (fun t => (t.blocks.get b).live = false)))
  ∧ (∀ (s : State) (b : Nat), let y := s.blocks.get b
      y.live = true → (s.ctxs.get y.ctx).budgetNs ≤ s.clockOf b → (s.ctxs.get y.ctx).st = .running →
      (∀ e ∈ s.blocks, e.1 = b) → y.groups ≠ [] → (∀ e ∈ s.ops, e.2.live = false) → s.launches.all (fun e => e.2.live && e.2.ctx == y.ctx) = true →
      Completes (.waitbudgetExpiry b) s (fun t => (t.ctxs.get y.ctx).st = .held
        ∧ ∀ l, (t.launches.get l).live = true → (t.launches.get l).slotFree = true))

/-! ### Hardware queues, graph runs, checkpoints and faults -/

/-- R138, R314, R315, R320–R322: hardware queues and graph runs. -/
def Obligations.QueuesAndGraphs : Prop :=
  (∀ (s : State) (q t0 : Nat), let x := s.queues.get q
      let n := (t0 + 2 ^ 32 - x.head.toNat) % 2 ^ 32
      let a := x.ring + BitVec.ofNat 64 (64 * (x.head.toNat % 2 ^ x.slots))
      s.fw.up = true → x.live = true → x.stopped = false → x.packet = none → (s.ctxs.get x.ctx).st = .running →
      s.agentWord x.ctx x.tailAddr 4 = .ok t0 → s.noCopies = true →
      (n = 0 → exec (.queueTailWrite q) s = .next s)
      ∧ (2 ^ x.slots < n → Completes (.queueTailWrite q) s (fun t => (t.queues.get q).stopped = true ∧ (t.queues.get q).head = x.head))
      ∧ (∀ kind p, n ≠ 0 → n ≤ 2 ^ x.slots → s.agentWord x.ctx a 1 = .ok kind → 0x10 ≤ kind → kind ≤ 0x14 →
          s.descriptor x.ctx a kind 8 = .ok p → packetZeros kind p = true → Completes (.queueTailWrite q) s (fun t =>
            SameRegs s t ∧ SameBytes s t ∧ (t.queues.get q).packet = some p ∧ (t.queues.get q).head = x.head
            ∧ (match kind with
               | 0x10 => .graph q | 0x11 => .xferPacket q | 0x12 => .checkpoint q | 0x13 => .signal q | _ => .waitsig q) ∈ t.pending
            ∧ t.fw.journal = s.fw.journal ++ [{ queue := q, packet := x.head, time := (s.claveOf 0).toNat, complete := false }])))
  ∧ (∀ (s : State) (q ctx : Nat) (p : List Byte), s.packetNow q 0x13 = some (p, ctx) → s.fw.up = true → let a := BitVec.ofNat 64 (fieldAt p 8 8)
      a.toNat % 4 = 0 → HubBytes s ctx a 4 → Completes (.signal q) s (fun t =>
        HubStored s t ctx a (splitBytes (fieldAt p 0x18 4 % 2 ^ 32) 4) ∧ .packetComplete q ∈ t.pending
        ∧ (t.queues.get q).done = some (max s.now
            ((s.completion (lineOf (windowPa s ctx a)) ((s.ctxs.get ctx).heapAttr.extractLsb' 0 2).toNat 0).at (fieldAt p 0x1C 1 % 4)))))
  ∧ (∀ (s : State) (q ctx : Nat) (p : List Byte), s.packetNow q 0x14 = some (p, ctx) → s.fw.up = true → s.noCopies = true →
      Completes (.waitsig q) s (fun t => SameRegs s t ∧ SameBytes s t ∧ .waitsigSatisfied q 4096 ∈ t.pending)
      ∧ ∀ n, s.agentWord ctx (BitVec.ofNat 64 (fieldAt p 8 8)) 4 = .ok n →
          Completes (.waitsigSatisfied q 4096) s (fun t => SameRegs s t ∧ SameBytes s t
            ∧ if fieldAt p 0x18 4 % 2 ^ 32 ≤ n then (t.queues.get q).done = some s.now ∧ .packetComplete q ∈ t.pending
              else t.queues = s.queues ∧ .waitsigSatisfied q 4096 ∈ t.pending))
  ∧ (∀ (s : State) (q ctx : Nat) (p : List Byte), s.packetNow q 0x11 = some (p, ctx) → s.fw.up = true → s.noCopies = true → let v := fieldAt p 0xC 1 % 16
      ∀ l e, (s.launches.find? (fun k => k.2.live && k.2.ctx == ctx && k.2.id == BitVec.ofNat 32 (fieldAt p 8 4))).map Prod.fst = some l →
      s.versionNow l v = some e → (∀ w ∈ (s.ctxs.get ctx).saved, w.block.launch ≠ l) → Completes (.xferPacket q) s (fun t => SameBytes s t
        ∧ (∀ g, (s.group g).live = true → (s.blocks.get (s.group g).block).live = true → (s.blocks.get (s.group g).block).launch = l →
            t.group g = { s.group g with armed := some v })
        ∧ (t.launches.get l).requested = some v ∧ (t.launches.get l).start = v
        ∧ (t.queues.get q).done = some s.now ∧ .packetComplete q ∈ t.pending))
  ∧ (∀ (s : State) (q ctx : Nat) (p bs : List Byte), s.packetNow q 0x10 = some (p, ctx) → s.fw.up = true → s.noCopies = true → let table := BitVec.ofNat 64 (fieldAt p 8 8)
      (s.runs.any (fun e => e.2.live && (e.2.queue == q || (e.2.ctx == ctx && e.2.table == table)))) = false →
      s.readGraph ctx table = .ok [0] → s.readNode ctx table 0 = .ok bs → fieldAt bs 2 1 = 8 → fieldAt bs 8 1 = 2 →
      HubBytes s ctx (nodeAddr table 0) 64 → s.startsHeld ctx = false →
      Completes (.graph q) s (fun t => let r := t.runs.get s.freeRun
        r.live = true ∧ r.ctx = ctx ∧ r.table = table ∧ r.count = 1 ∧ r.queue = q ∧ r.running = [0] ∧ r.ready = []
        ∧ r.counters.get 0 = 0 ∧ .waitsigSatisfied s.freeRun 0 ∈ t.pending))
  ∧ (∀ (s : State) (r i : Nat), let x := s.runs.get r
      x.live = true → fieldAt (x.nodes.get i) 8 1 = 1 → x.times.get i ≤ s.now → x.bodies = [] → x.ready = [] →
      (∀ p, x.running = [i] → fieldAt (x.nodes.get i) 9 1 = 0 → (s.queues.get x.queue).packet = some p → fieldAt p 0x10 8 = 0 →
        Completes (.graphNodeComplete r i) s (fun t => SameRegs s t ∧ SameBytes s t ∧ (t.runs.get r).live = false
          ∧ (t.queues.get x.queue).done = some s.now ∧ .packetComplete x.queue ∈ t.pending))
      ∧ (∀ j n, let m := fieldAt (x.nodes.get i) 0x20 2
          x.running = [i, j] → j ≠ i → fieldAt (x.nodes.get i) 9 1 = 1 → x.counters.get m = n + 2 →
          Completes (.graphNodeComplete r i) s (fun t => (t.runs.get r).live = true ∧ (t.runs.get r).running = [j]
            ∧ (t.runs.get r).counters.get m = n + 1 ∧ ∀ k, k ≠ m → (t.runs.get r).counters.get k = x.counters.get k)))
  ∧ (∀ (s : State) (q t0 : Nat) (p : List Byte), let x := s.queues.get q
      x.packet = some p → x.done = some t0 → t0 ≤ s.now → s.fw.up = true → s.noCopies = true →
      x.headAddr.toNat % 4 = 0 → HubBytes s x.ctx x.headAddr 4 → x.tailAddr.toNat % 4 = 0 → HubBytes s x.ctx x.tailAddr 4 →
      windowPa s x.ctx x.tailAddr ≠ windowPa s x.ctx x.headAddr →
      s.readPa (windowPa s x.ctx x.tailAddr) 4 = (x.head + 1).toNat →
      Completes (.packetComplete q) s (fun t => (t.queues.get q).head = x.head + 1 ∧ (t.queues.get q).packet = none
        ∧ HubStored s t x.ctx x.headAddr (splitBytes (x.head + 1).toNat 4)))

/-- R330, R337–R339, R343: checkpoints, and the service of faults. That a FAULT.P which is no running checkpoint's stops the
context is the model’s reading (log entry 21), the place of a page's data in its slot too (log entry 49), and that faults
are served in the order of their arrival (DEDUCED, log entry 95). -/
def Obligations.CheckpointsAndFaults : Prop :=
  (∀ (s : State) (q ctx : Nat) (p : List Byte), s.packetNow q 0x12 = some (p, ctx) → s.fw.up = true →
      (∀ k ∈ (s.ctxs.get ctx).ckpts, k.queue ≠ some q) → Completes (.checkpoint q) s (fun t => SameRegs s t ∧ SameBytes s t
        ∧ .checkpointBoundary ctx ∈ t.pending
        ∧ ∃ k, (t.ctxs.get ctx).ckpts = (s.ctxs.get ctx).ckpts ++ [k] ∧ k.begun = false ∧ k.queue = some q
            ∧ k.manifest = BitVec.ofNat 64 (fieldAt p 8 8) ∧ k.target = BitVec.ofNat 64 (fieldAt p 0x10 8)
            ∧ k.slotBytes = fieldAt p 0x18 4 ∧ k.doneAddr = BitVec.ofNat 64 (fieldAt p 0x20 8)))
  ∧ (∀ (s : State) (ctx : Nat) (k : Ckpt) (rest : List Ckpt), (s.ctxs.get ctx).ckpts = k :: rest → k.begun = false → s.fw.up = true →
      s.runs = [] → (∀ e ∈ s.launches, e.2.live = true → e.2.ctx ≠ ctx) → s.noCopies = true →
      (∀ er q, s.readManifest ctx k.manifest = .error er → k.queue = some q → Completes (.checkpointBoundary ctx) s (fun t =>
        (t.ctxs.get ctx).ckpts = rest ∧ .packetComplete q ∈ t.pending))
      ∧ (∀ ranges, s.readManifest ctx k.manifest = .ok ranges → (∀ r ∈ ranges, r.2 = 0) →
        let n0 := s.slotSequence ctx k.target
        let n1 := s.slotSequence ctx (k.target + BitVec.ofNat 64 k.slotBytes)
        let slot := if n1 < n0 then k.target + BitVec.ofNat 64 k.slotBytes else k.target
        HubBytes s ctx slot 8 → slot.toNat % 8 = 0 → Completes (.checkpointBoundary ctx) s (fun t =>
          HubStored s t ctx slot (List.replicate 8 0)
          ∧ ∃ j hold, (t.ctxs.get ctx).ckpts = { k with begun := true, ranges := ranges, slot := j, sequence := BitVec.ofNat 64 (max n0 n1), hold := hold, pages := [] } :: rest
              ∧ j = (if n1 < n0 then 1 else 0) ∧ ∃ page, .checkpointPageCopy ctx page ∈ t.pending)))
  ∧ (∀ (s : State) (ctx : Nat) (k : Ckpt) (rest : List Ckpt) (pg : CkptPage), (s.ctxs.get ctx).ckpts = k :: rest → k.begun = true → s.fw.up = true →
      k.committed = none → k.hold ≤ s.now → k.streamed = [] → k.pages = [pg] → pg.leaves = [] → HubBytes s ctx (k.dataAt pg.vpage) 4096 →
      Completes (.checkpointPageCopy ctx pg.vpage) s (fun t => .checkpointCommit ctx ∈ t.pending
        ∧ (t.ctxs.get ctx).ckpts = { k with pages := [] } :: rest
        ∧ HubStored s t ctx (k.dataAt pg.vpage) ((List.range 4096).map (fun i => s.mem.get (4096 * pg.frame + i)))))
  ∧ (∀ (s : State) (ctx : Nat) (k : Ckpt) (rest : List Ckpt), (s.ctxs.get ctx).ckpts = k :: rest → k.begun = true → k.pages = [] →
      k.streamed = [] → k.hold ≤ s.now → s.fw.up = true → s.noCopies = true →
      (k.committed = none → k.failed = false → HubBytes s ctx (k.manifest + 0x10) 8 → HubBytes s ctx (k.slotAddr + 0x40) k.copyLength → HubBytes s ctx k.slotAddr 64 →
        Completes (.checkpointCommit ctx) s (fun t => .checkpointCommit ctx ∈ t.pending
          ∧ (∃ c, (t.ctxs.get ctx).ckpts = { k with committed := some c } :: rest)
          ∧ ∀ i, i < 8 → t.byteAt (windowPa s ctx (k.slotAddr + BitVec.ofNat 64 i)) = BitVec.ofNat 8 ((k.sequence + 1).toNat / 256 ^ i)))
      ∧ (∀ c q, k.committed = some c → c ≤ s.now → k.queue = some q → k.doneAddr = 0 → Completes (.checkpointCommit ctx) s (fun t =>
          SameRegs s t ∧ SameBytes s t ∧ (t.ctxs.get ctx).ckpts = rest ∧ (t.queues.get q).done = some s.now ∧ .packetComplete q ∈ t.pending)))
  ∧ (∀ (s : State) (id : Nat) (f : FaultRec), s.faults = [(id, f)] → f.sent = false → s.fw.up = true → f.rec_.cause ≠ .faultP →
      Completes (.carillonFaultService id) s (fun t => t.faults = [(id, { f with sent := true })]))
  ∧ (∀ (s : State) (id : Nat) (f : FaultRec), s.faults.find? (fun e => e.1 == id) = some (id, f) → f.sent = false →
      (s.fw.up = false ∨ ∃ e ∈ s.faults.takeWhile (fun e => e.1 != id), e.2.sent = false) →
      exec (.carillonFaultService id) s = .next (s.later (.carillonFaultService id)))
  ∧ (∀ (s : State) (id : Nat) (f : FaultRec), s.faults.find? (fun e => e.1 == id) = some (id, f) → f.sent = false → s.fw.up = true →
      (∀ e ∈ s.faults.takeWhile (fun e => e.1 != id), e.2.sent = true) → f.rec_.cause = .faultP → (f.rec_.detail ≠ 4 ∨ (s.cowFault f = false ∧ s.cowMapped f = true)) →
      Completes (.carillonFaultService id) s (fun t => (t.ctxs.get f.rec_.ctx).st = .stopped))

/-! ### The mailbox -/

/-- R345: a command of a code has been taken, whole, and the active complex is up. -/
def Taken (s : State) (code : Nat) : Prop :=
  s.fw.busy = true ∧ s.fw.up = true ∧ (s.fw.taken.get 0x80).toNat = code ∧ s.fw.taken.get 0x84 = s.fw.doorbell

/-- The reply is there: its status, its results, the reply count. -/
def Replied (s t : State) (status : Nat) (results : List Nat) : Prop :=
  t.fw.replyStatus = BitVec.ofNat 32 status ∧ t.fw.replyCount = s.fw.doorbell ∧ t.fw.busy = false
  ∧ ∀ k, t.fw.results.get k = BitVec.ofNat 64 (results.getD k 0)

/-- A command replies with a status, and changes nothing else of the module. -/
def OnlyReplies (i : Instr) (s : State) (status : Nat) (results : List Nat) : Prop :=
  Completes i s (fun t => Replied s t status results ∧ { t with fw := s.fw } = s)

/-- R312–R314, R328, R330, R332, R337, R344–R346, R348, R350, R356: the mailbox. The model’s own are: that a
pre-empted context is held until it is resumed (log entry 44), that a context record lies at a physical address (log
entry 47), the context of CHECKPOINT_NOTICE in argument 5 (log entry 48), the reply count of a torn command (log entry
50), status 7 of ROLL_BACK with no standby (log entry 97), the answer to MICROCODE at its installation (log entry 52),
status 4 for a rejected import (log entry 53), the state of a core that a spare replaces (log entry 54), and the
physical line of ERROR_ENTRY_CLEAR as a line number (log entry 80). -/
def Obligations.MailboxCommands : Prop :=
  (∀ (s : State) (o : Nat) (v : Word),
      (o ≠ 0xC0 → ¬ (0x80 ≤ o ∧ o < 0xC0 ∧ o % 4 = 0) → exec (.registerPageWrite o v) s = .next s)
      ∧ (0x80 ≤ o → o < 0xC0 → o % 4 = 0 → Completes (.registerPageWrite o v) s (fun t => { t with fw := s.fw } = s
          ∧ t.fw = { s.fw with words := t.fw.words } ∧ ∀ k, t.fw.words.get k = if k = o then v else s.fw.words.get k))
      ∧ (s.fw.replyCount ≠ s.fw.doorbell → Completes (.registerPageWrite 0xC0 v) s (fun t => t = { s with fw := { s.fw with overrun := true } }))
      ∧ (s.fw.replyCount = s.fw.doorbell → Completes (.registerPageWrite 0xC0 v) s (fun t =>
          t.fw = { s.fw with doorbell := v, taken := s.fw.words, busy := true }
          ∧ (s.fw.words.get 0x80 = 0x30 → .powerCap ∈ t.pending) ∧ (s.fw.words.get 0x80 = 1 → .contextCreate ∈ t.pending)
          ∧ ((s.fw.words.get 0x80).toNat = 9 → .unknownCommand ∈ t.pending)))
      ∧ (s.fw.replyCount ≠ s.fw.doorbell → Completes (.doorbellOverrun v) s (fun t => t = { s with fw := { s.fw with overrun := true } })))
  ∧ (∀ (s : State), Completes .statusRead s (fun t => t = { s with fw := { s.fw with overrun := false } })
      ∧ (∀ n, Taken s n → n ∉ [1, 2, 3, 4, 5, 6, 7, 8, 0x10, 0x11, 0x12, 0x20, 0x21, 0x30] → OnlyReplies .unknownCommand s 1 [])
      ∧ (s.fw.busy = true → s.fw.up = true → s.fw.taken.get 0x80 = 0x30 → s.fw.taken.get 0x84 ≠ s.fw.doorbell → OnlyReplies .powerCap s 6 []))
  ∧ (∀ (s : State), Taken s 0x01 → s.noCopies = true → let a := s.arg 0
      let bs := (List.range 128).map (fun i => s.byteAt (a + i))
      let c := parseContext bs
      (a % 64 ≠ 0 ∨ 2 ^ 52 ≤ a ∨ contextOk bs c = false ∨ s.recordTail a bs = false → OnlyReplies .contextCreate s 2 [])
      ∧ (a % 64 = 0 → a < 2 ^ 52 → contextOk bs c = true → s.recordTail a bs = true →
          ((∀ j, j < 64 → (s.ctxs.get j).st ≠ .none) ∨ s.freeQueues.length < c.queueCount) → OnlyReplies .contextCreate s 3 [])
      ∧ (∀ i qs, a % 64 = 0 → a < 2 ^ 52 → contextOk bs c = true → s.recordTail a bs = true → c.workTable = 0 → c.traceRing = 0 →
          (s.ctxs.get i).st = .none → i < 64 → (∀ j, j < i → (s.ctxs.get j).st ≠ .none) → c.queueCount ≤ s.freeQueues.length →
          ((s.onCtx i (fun _ => c)).loadTop i (fun _ => true)).readQueues i c.queueTable c.queueCount = some qs →
          Completes .contextCreate s (fun t => Replied s t 0 [i] ∧ SameRegs s t ∧ SameBytes s t
            ∧ { t.ctxs.get i with top := [] } = c ∧ (t.ctxs.get i).st = .running
            ∧ (∀ k, k < 512 → (t.ctxs.get i).top.get k = BitVec.ofNat 64 (s.readPa (c.root + 8 * k) 8))
            ∧ (∀ j, j ≠ i → t.ctxs.get j = s.ctxs.get j)
            ∧ ∀ n, n < c.queueCount → some (t.queues.get (s.freeQueues.getD n 0)) = qs[n]?)))
  ∧ (∀ (s : State) (c : Nat), s.arg 0 = c → (c < 64 → (s.ctxs.get c).st = .none) →
      (Taken s 0x02 → OnlyReplies .contextDestroy s 2 []) ∧ (Taken s 0x03 → OnlyReplies .contextResume s 2 [])
      ∧ (Taken s 0x04 → OnlyReplies .contextPreempt s 2 []) ∧ (Taken s 0x05 → OnlyReplies .translationInvalidate s 2 []))
  ∧ (∀ (s : State) (c : Nat), s.arg 0 = c → c < 64 → (s.ctxs.get c).st ≠ .none →
      (Taken s 0x02 → (∀ e ∈ s.blocks, e.2.live = true → e.2.ctx ≠ c) → Completes .contextDestroy s (fun t =>
        Replied s t 0 [] ∧ SameRegs s t ∧ SameBytes s t ∧ (t.ctxs.get c).st = .none
        ∧ (∀ l, (t.launches.get l).live = true → (t.launches.get l).ctx ≠ c)
        ∧ ∀ q, (t.queues.get q).live = true → (t.queues.get q).ctx ≠ c))
      ∧ (Taken s 0x03 → s.runs = [] → (s.ctxs.get c).st ≠ .running → Completes .contextResume s (fun t =>
        Replied s t 0 [] ∧ SameRegs s t ∧ SameBytes s t ∧ (t.ctxs.get c).st = .running
        ∧ ∀ l, (t.launches.get l).live = true → (t.launches.get l).ctx = c → (t.launches.get l).slotFree = false))
      ∧ (Taken s 0x04 → s.blocksOf c (fun _ => true) = [] → (s.ctxs.get c).st = .running → Completes .contextPreempt s (fun t =>
        Replied s t 0 [] ∧ SameRegs s t ∧ SameBytes s t ∧ (t.ctxs.get c).st = .held))
      ∧ (Taken s 0x04 → ∀ b, s.blocksOf c (fun _ => true) = [b] → Completes .contextPreempt s (fun t =>
        Replied s t 0 [] ∧ (t.blocks.get b).live = false ∧ (t.ctxs.get c).st ≠ .running))
      ∧ (Taken s 0x05 → let lo := s.arg 1 % 2 ^ 57
        let hi := lo + s.arg 2
        if s.arg 1 % 4096 = 0 ∧ s.arg 2 % 4096 = 0 then s.noCopies = true → Completes .translationInvalidate s (fun t => Replied s t 0 [] ∧ SameRegs s t ∧ SameBytes s t
            ∧ (∀ k, ∀ e ∈ (t.cores.get k).tlb, e ∈ (s.cores.get k).tlb
                ∧ ¬ (e.ctx = c ∧ lo < 4096 * (e.vpage + e.pages) ∧ 4096 * e.vpage < hi))
            ∧ (∀ k, ∀ e ∈ (t.dies.get k).tlb, e ∈ (s.dies.get k).tlb
                ∧ ¬ (e.ctx = c ∧ lo < 4096 * (e.vpage + e.pages) ∧ 4096 * e.vpage < hi))
            ∧ ∀ k, k < 512 → lo < 2 ^ 48 * (k + 1) → 2 ^ 48 * k < hi → 0 < s.arg 2 →
                (t.ctxs.get c).top.get k = BitVec.ofNat 64 (s.readPa ((s.ctxs.get c).root + 8 * k) 8))
        else OnlyReplies .translationInvalidate s 2 [])
      ∧ (Taken s 0x06 → ((∀ e ∈ s.faults, e.2.sent = false) → OnlyReplies .faultReply s 2 [])
        ∧ ∀ id f g k, s.faults = [(id, f)] → f.sent = true → f.rec_.ctx = c → f.rec_.time.toNat = s.arg 1 → s.arg 2 = 0 → f.op = none →
            f.copy = some (g, k) → Completes .faultReply s (fun t => Replied s t 0 [] ∧ SameRegs s t ∧ SameBytes s t ∧ t.faults = []
              ∧ .copyComplete g k ∈ t.pending))
      ∧ (Taken s 0x07 → ((∀ e ∈ s.queues, e.2.live = true → e.2.ctx = c → e.2.index ≠ s.arg 1) → OnlyReplies .queueRestart s 2 [])
        ∧ ∀ q, (s.queues.find? (fun e => e.2.live && e.2.ctx == c && e.2.index == s.arg 1)).map Prod.fst = some q →
            Completes .queueRestart s (fun t => Replied s t 0 [] ∧ SameRegs s t ∧ SameBytes s t ∧ (t.queues.get q).stopped = false
              ∧ .queueTailWrite q ∈ t.pending)))
  ∧ (∀ (s : State) (c : Nat), Taken s 0x08 → s.arg 5 = c → c < 64 → (s.ctxs.get c).st ≠ .none → s.arg 2 < 2 ^ 32 → s.arg 4 < 2 ^ 34 →
      Completes .checkpointNotice s (fun t => Replied s t 0 [] ∧ SameRegs s t ∧ SameBytes s t ∧ .checkpointBoundary c ∈ t.pending
        ∧ ∃ k, (t.ctxs.get c).ckpts = (s.ctxs.get c).ckpts.filter (fun y => y.begun) ++ [k] ++ (s.ctxs.get c).ckpts.filter (fun y => !y.begun)
            ∧ k.manifest = BitVec.ofNat 64 (s.arg 0) ∧ k.target = BitVec.ofNat 64 (s.arg 1) ∧ k.slotBytes = s.arg 2
            ∧ k.doneAddr = BitVec.ofNat 64 (s.arg 3) ∧ k.queue = none ∧ k.begun = false))
  ∧ (∀ (s : State), let busy := s.fw.update = .staging ∨ s.fw.update = .probation
      let version := (Config.imageVersion (s.arg 0)).1
      let accepts := fun (image : Word) => (s.sections s.fw.activeImage).accepted image
      (Taken s 0x10 → ¬ busy →
        if Config.imageVerifies (s.arg 0) (s.arg 1) = false ∨ (Config.imageVersion (s.arg 0)).2 < s.fw.minSecurity then OnlyReplies .update s 4 []
        else if accepts version = false then Completes .update s (fun t => Replied s t 4 [] ∧ t.fw.active = s.fw.active
          ∧ t.fw.activeImage = s.fw.activeImage ∧ t.fw.update = s.fw.update)
        else Completes .update s (fun t => { t with fw := s.fw, pending := s.pending } = s ∧ .update ∈ t.pending
          ∧ t.fw = { s.fw with update := .staging, staged := some version, standbyImage := version, standbyUp := true }))
      ∧ (∀ image, Taken s 0x10 → s.fw.update = .staging → s.fw.staged = some image →
        if s.fw.standbyUp = false then Completes .update s (fun t => Replied s t 4 [] ∧ { t with fw := s.fw } = s
          ∧ t.fw.active = s.fw.active ∧ t.fw.update = .none ∧ t.fw.staged = none)
        else if accepts image = false then Completes .update s (fun t => Replied s t 4 [] ∧ t.fw.active = s.fw.active ∧ t.fw.update = .none)
        else Completes .update s (fun t => Replied s t 0 [] ∧ { t with fw := s.fw } = s ∧ t.fw.active = !s.fw.active ∧ t.fw.update = .probation
          ∧ t.fw.probationStart = s.now ∧ t.fw.nextBeat = s.now + 250000000 ∧ t.fw.activeImage = image ∧ t.fw.standbyImage = s.fw.activeImage))
      ∧ (Taken s 0x10 → busy → (s.fw.update = .staging → s.fw.staged = none) → OnlyReplies .update s 7 [])
      ∧ (Taken s 0x11 → if busy ∨ s.fw.standbyUp = false then OnlyReplies .rollBack s 7 []
        else if s.fw.rollbackTable.accepted s.fw.standbyImage = false then Completes .rollBack s (fun t => Replied s t 4 []
          ∧ t.fw.active = s.fw.active ∧ t.fw.activeImage = s.fw.activeImage ∧ t.fw.standbyUp = true ∧ t.fw.update = s.fw.update)
        else s.runs = [] → s.noCopies = true → Completes .rollBack s (fun t => Replied s t 0 [] ∧ SameRegs s t ∧ SameBytes s t ∧ t.fw.active = !s.fw.active
          ∧ t.fw.standbyUp = false ∧ t.fw.update = .rolledBack ∧ t.fw.activeImage = s.fw.standbyImage ∧ t.fw.standbyImage = s.fw.activeImage))
      ∧ (Taken s 0x12 → if busy then OnlyReplies .microcode s 7 []
        else if Config.imageVerifies (s.arg 1) (s.arg 2) = false ∨ (Config.imageVersion (s.arg 1)).2 < s.fw.minMicrocode then OnlyReplies .microcode s 4 []
        else s.fw.microcode = none → Completes .microcode s (fun t => t.fw = { s.fw with microcode := some (s.arg 0, s.arg 1) }
          ∧ .microcodeWindow (s.arg 0) ∈ t.pending))
      ∧ (∀ k a, Taken s 0x12 → s.fw.microcode = some (k, a) → Completes (.microcodeWindow k) s (fun t => Replied s t 0 [] ∧ { t with fw := s.fw } = s
          ∧ t.fw.microcode = none ∧ t.fw.controllers.get k = a)))
  ∧ (∀ (s : State) (d c : Nat), d < 8 → c < 32 → (s.cores.get (32 * d + c)).removed = false → (∀ e ∈ s.blocks, e.2.live = true → e.2.core ≠ 32 * d + c) →
      let used := (s.fw.spares.filter (fun e => e.1 == d)).length
      let retired := fun (t : State) => SameRegs s t ∧ (∀ p, (s.home.get (lineOf p)).owner = none → t.byteAt p = s.byteAt p) ∧ (∀ k, k ≠ 32 * d + c → t.cores.get k = s.cores.get k)
        ∧ if used < 2 then t.cores.get (32 * d + c) = {} ∧ t.fw.spares = s.fw.spares ++ [(d, c)]
          else (t.cores.get (32 * d + c)).removed = true ∧ t.fw.spares = s.fw.spares
      (s.fw.up = true → 2 ≤ (s.cores.get (32 * d + c)).regErrors → Completes (.autoCoreRetire d c) s retired)
      ∧ (Taken s 0x20 → s.arg 0 = d → s.arg 1 = c → Completes .coreRetire s (fun t => retired t
          ∧ if used < 2 then Replied s t 0 [used] else Replied s t 5 [0xFF])))
  ∧ (∀ (s : State), Taken s 0x21 → let here := fun (e : Nat × Nat) => e.1 = s.arg 2 ∧ (homeOf e.1).2 = s.arg 1
      if s.arg 0 < 8 ∧ ∃ e ∈ (s.dies.get (s.arg 0)).errors, here e then Completes .errorEntryClear s (fun t => Replied s t 0 [] ∧ SameRegs s t ∧ SameBytes s t
          ∧ ∀ e, e ∈ (t.dies.get (s.arg 0)).errors ↔ e ∈ (s.dies.get (s.arg 0)).errors ∧ ¬ here e)
      else OnlyReplies .errorEntryClear s 2 [])
  ∧ (∀ (s : State), Taken s 0x30 → if 1000 ≤ s.arg 0 ∧ s.arg 0 ≤ 4000 then
        Completes .powerCap s (fun t => Replied s t 0 [] ∧ { t with fw := s.fw } = s ∧ t.fw.cap = BitVec.ofNat 32 (s.arg 0))
      else OnlyReplies .powerCap s 2 [])

/-! ### The module around the cores -/

/-- No context has a trace ring, so nothing is recorded in one. -/
def NoTraces (s : State) : Prop := ∀ c, (s.ctxs.get c).traceRing = 0

/-- Of the cores nothing is left but which of them are removed (R356). -/
def OnlyRemoved (s t : State) : Prop :=
  (∀ e ∈ s.cores, e.2.removed = true → t.cores.get e.1 = { removed := true })
  ∧ ∀ c, (∀ e ∈ s.cores, e.1 = c → e.2.removed = false) → t.cores.get c = {}

/-- R340, R344, R347–R349, R351–R354, R357, R359, R360, R378, R380: the module around the cores. The model’s own are: that
memory keeps its bytes over a power loss (log entry 1), the record that POWER_ON finds (log entry 11), the watchdog and
heartbeat intervals of an image that is not on probation, what a rejected import leaves, the bound that a power reading
keeps, no step up at the bound or while hot, the count of a lane’s failures and the second correctable error of a row
(log entry 53), and a measured skew within 2 ns (log entry 54). -/
def Obligations.ModuleEvents : Prop :=
  (∀ (s : State), s.fw.up = true → s.fw.update ≠ .probation → Completes .heartbeat s (fun t => t = { s with fw := { s.fw with nextBeat := s.now + 30000000 } }))
  ∧ (∀ (s : State), s.fw.update = .probation → s.fw.nextBeat < s.now → exec .heartbeat s = .next s)
  ∧ (∀ (s : State), s.fw.up = true → s.fw.update = .probation → s.now ≤ s.fw.nextBeat → Completes .heartbeat s (fun t => { t with fw := s.fw } = s ∧ t.fw.nextBeat = s.now + 10000000
      ∧ t.fw.export_.queues = s.queues ∧ t.fw.export_.runs = s.runs ∧ t.fw.update = .probation))
  ∧ (∀ (s : State), s.fw.update = .probation → s.fw.nextBeat ≤ s.now → s.fw.standbyUp = true →
      if s.fw.export_.accepted s.fw.standbyImage = true then (s.runs = [] → s.noCopies = true → Completes .watchdogMiss s (fun t => SameRegs s t ∧ SameBytes s t
        ∧ t.fw.update = .rolledBack ∧ t.fw.active = !s.fw.active ∧ t.fw.up = true ∧ t.fw.standbyUp = false
        ∧ t.fw.activeImage = s.fw.standbyImage))
      else Completes .watchdogMiss s (fun t => t.fw.update = .probation ∧ t.fw.active = s.fw.active ∧ t.fw.standbyUp = true))
  ∧ (∀ (s : State), s.fw.update = .probation → s.fw.probationStart + 60000000000 ≤ s.now → s.fw.up = true → s.now ≤ s.fw.nextBeat →
      Completes .probationEnd s (fun t => { t with fw := s.fw } = s ∧ t.fw.update = .none ∧ t.fw.active = s.fw.active))
  ∧ (∀ (s : State), s.fw.standbyUp = true → s.fw.up = false → s.fw.update ≠ .probation → s.fw.nextBeat ≤ s.now →
      if s.fw.mirror.accepted s.fw.standbyImage = true then (s.runs = [] → s.noCopies = true →
        Completes .standbyTakeover s (fun t => SameRegs s t ∧ SameBytes s t ∧ t.fw.active = !s.fw.active ∧ t.fw.up = true ∧ t.fw.standbyUp = false
          ∧ t.fw.activeImage = s.fw.standbyImage ∧ t.fw.update = if s.fw.update = .staging then .none else s.fw.update))
      else Completes .standbyTakeover s (fun t => t.fw.active = s.fw.active ∧ t.fw.up = false ∧ t.fw.standbyUp = true))
  ∧ (∀ (s : State), s.fw.up = true ∨ s.now < s.fw.nextBeat → exec .standbyTakeover s = .next s)
  ∧ (∀ (s : State), s.fw.up = true → s.fw.standbyUp = true → Completes .stateTableMirror s (fun t => { t with fw := s.fw } = s
      ∧ t.fw.lastMirror = s.now ∧ t.fw.mirror.queues = s.queues ∧ t.fw.mirror.runs = s.runs ∧ t.fw.mirror.mailbox = s.fw.doorbell))
  ∧ (∀ (s : State), (∀ e ∈ s.ctxs, ∀ k ∈ e.2.ckpts, ∀ n ∈ k.committed, n ≤ s.now) → Completes .powerLoss s (fun t => t.powered = false ∧ t.mem = s.mem ∧ t.groups = [] ∧ t.blocks = [] ∧ t.ctxs = [] ∧ t.launches = []
      ∧ t.queues = [] ∧ OnlyRemoved s t ∧ t.fw.ready = false ∧ t.fw.up = false ∧ t.fw.minSecurity = s.fw.minSecurity
      ∧ t.fw.minMicrocode = s.fw.minMicrocode ∧ t.fw.spares = s.fw.spares))
  ∧ (∀ (s : State) (ctx n : Nat) (c : Context) (k : Ckpt) (rest : List Ckpt), s.ctxs = [(ctx, c)] → c.ckpts = k :: rest →
      k.committed = some n → s.now < n → k.slotAddr.toNat % 64 = 0 → HubBytes s ctx k.slotAddr 8 → Completes .powerLoss s (fun t =>
        t.powered = false ∧ ∀ a, t.mem.get a = if windowPa s ctx k.slotAddr ≤ a ∧ a < windowPa s ctx k.slotAddr + 8 then 0 else s.mem.get a))
  ∧ (∀ (s : State), s.powered = false → Completes .powerOn s (fun t => t.powered = true ∧ t.mem = s.mem
      ∧ (∀ d, d < 8 → (t.dies.get d).origin = s.now ∧ (t.dies.get d).measuredAt = none) ∧ t.fw.active = t.fw.firstActive
      ∧ t.fw.cap = t.fw.powerLimit ∧ t.fw.up = t.fw.ready ∧ t.fw.standbyUp = t.fw.ready
      ∧ s.fw.minSecurity ≤ t.fw.minSecurity ∧ s.fw.minMicrocode ≤ t.fw.minMicrocode
      ∧ match Config.newRecord s.free with
        | none => t.fw.firstActive = s.fw.firstActive ∧ t.fw.powerLimit = s.fw.powerLimit ∧ t.fw.spares = s.fw.spares
            ∧ t.fw.minSecurity = s.fw.minSecurity ∧ t.fw.minMicrocode = s.fw.minMicrocode ∧ t.fw.moduleNumber = s.fw.moduleNumber
        | some r => t.fw.firstActive = r.firstActive ∧ t.fw.powerLimit = r.powerLimit ∧ t.fw.spares = r.spares
            ∧ r.minSecurity ≤ t.fw.minSecurity ∧ r.minMicrocode ≤ t.fw.minMicrocode ∧ t.fw.moduleNumber = r.moduleNumber))
  ∧ (∀ (s : State) (d : Nat) (up : Bool), d < 8 → (s.dies.get d).off = false → (s.dies.get d).relock = none → NoTraces s →
      let f := (s.dies.get d).freq
      let bound := min 4000 s.fw.cap.toNat
      (s.fw.up = false → exec (.frequencyStep d up) s = .next s)
      ∧ (s.fw.up = true → (up = true → (s.dies.get d).hot = true ∨ bound ≤ s.fw.power.toNat → exec (.frequencyStep d up) s = .next s)
      ∧ (up = true → 16 ≤ f → f < 40 → (s.dies.get d).hot = false → s.fw.power.toNat < bound → Completes (.frequencyStep d up) s (fun t => (t.dies.get d).freq = f + 1 ∧ (t.dies.get d).relock = some (s.now + 1200)
        ∧ (t.dies.get d).hot = false ∧ { t with dies := s.dies } = s))
      ∧ (up = false → 16 < f → f ≤ 40 → Completes (.frequencyStep d up) s (fun t => (t.dies.get d).freq = f - 1 ∧ (t.dies.get d).relock = some (s.now + 1200)
        ∧ (t.dies.get d).stepCount = s.refCount d ∧ { t with dies := s.dies } = s ∧ ∀ e, e ≠ d → t.dies.get e = s.dies.get e))
      ∧ (up = true → 40 ≤ f → exec (.frequencyStep d up) s = .next s) ∧ (up = false → f ≤ 16 → exec (.frequencyStep d up) s = .next s)))
  ∧ (∀ (s : State) (d t0 : Nat), (s.dies.get d).relock = some t0 → t0 ≤ s.now → Completes (.relockEnd d) s (fun t => (t.dies.get d).relock = none
      ∧ { t with dies := s.dies } = s))
  ∧ (∀ (s : State) (d : Nat), d < 8 → (s.dies.get d).off = false → Completes (.junction105 d) s (fun t => (t.dies.get d).hot = true
      ∧ (t.dies.get d).freq = (s.dies.get d).freq ∧ { t with dies := s.dies } = s ∧ SameBytes s t))
  ∧ (∀ (s : State), Completes .junction115 s (fun t => t.groups = [] ∧ t.blocks = [] ∧ OnlyRemoved s t ∧ (∀ d, d < 8 → (t.dies.get d).off = true)
      ∧ t.mem = s.mem ∧ t.fw = s.fw ∧ t.queues = s.queues ∧ t.token.holder = none ∧ t.token.grants = s.token.grants))
  ∧ (∀ (s : State) (w : Word), let bound := max (min 4000 s.fw.cap.toNat) s.fw.power.toNat
      (w.toNat ≤ bound → Completes (.powerRefresh w) s (fun t => t = { s with fw := { s.fw with power := w } }))
      ∧ (bound < w.toNat → exec (.powerRefresh w) s = .next s))
  ∧ (∀ (s : State) (d : Nat) (w : Word), 0 < d → d < 8 → (s.dies.get d).skew - 2 ≤ w.toInt → w.toInt ≤ (s.dies.get d).skew + 2 → NoTraces s →
      Completes (.skewMeasurement d w) s (fun t => (t.dies.get d).measured = w.toInt ∧ (t.dies.get d).skew = (s.dies.get d).skew
        ∧ (t.dies.get d).measuredAt = some (s.claveOf 0).toNat))
  ∧ (∀ (s : State) (p l : Nat), p ≤ 17 → l ≤ 3 → let x := s.ports.get p
      x.lanesOut.getLsbD l = false →
      (x.fails.get l < 7 → Completes (.flitCrcFailure p l) s (fun t => (t.ports.get p).fails.get l = x.fails.get l + 1
        ∧ (t.ports.get p).lanesOut = x.lanesOut ∧ (t.ports.get p).resent = x.resent + 1 ∧ { t with ports := s.ports } = s))
      ∧ (7 ≤ x.fails.get l → Completes (.flitCrcFailure p l) s (fun t => (t.ports.get p).lanesOut.getLsbD l = true
        ∧ (∀ k, k ≠ l → (t.ports.get p).lanesOut.getLsbD k = x.lanesOut.getLsbD k ∧ (t.ports.get p).fails.get k = x.fails.get k)
        ∧ (t.ports.get p).resent = x.resent + 1
        ∧ ∃ r, (t.ports.get p).retrain = some r ∧ s.now ≤ r ∧ r ≤ s.now + 10000)))
  ∧ (∀ (s : State) (p t0 : Nat), (s.ports.get p).retrain = some t0 → t0 ≤ s.now → Completes (.linkRetrainEnd p) s (fun t =>
      (t.ports.get p).retrain = none ∧ (t.ports.get p).lanesOut = (s.ports.get p).lanesOut ∧ { t with ports := s.ports } = s))
  ∧ (∀ (s : State) (k b r : Nat), Completes (.hbmCorrectableError k b r) s (fun t => { t with hbm := s.hbm } = s ∧ t.hbm.channels = s.hbm.channels
      ∧ ((k, b, r) ∈ t.hbm.errors ↔ (k, b, r) ∉ s.hbm.errors)
      ∧ if (k, b, r) ∈ s.hbm.errors then t.hbm.replaced = s.hbm.replaced ++ [(k, b, r)] else t.hbm.replaced = s.hbm.replaced))
  ∧ (∀ (s : State) (k c : Nat), (k, c) ∉ s.hbm.failed → Completes (.pseudoChannelFailure k c) s (fun t =>
      { t with hbm := s.hbm } = s
      ∧ if ∃ e ∈ s.hbm.channels, e.1 = k then t.hbm.failed = s.hbm.failed ++ [(k, c)] ∧ t.hbm.channels = s.hbm.channels
        else t.hbm.channels = s.hbm.channels ++ [(k, c)] ∧ t.hbm.failed = s.hbm.failed))

/-- R21, R36, R102, R109, R140, R342: events of the cores, and failing words. -/
def Obligations.CoreEvents : Prop :=
  (∀ (s : State) (g : Nat) (x : Split), s.longSpilled g = some x → let k := s.group g
      Completes (.spillRotation g) s (fun t => SameRegs { s with groups := s.groups.upd g (fun k => { k with rot := k.rot + 1 }) } t ∧ SameBytes s t
        ∧ (t.group g).rot = k.rot + 1 ∧ (t.group g).ent.get k.rot.toNat = x
        ∧ (∀ e, e ≠ k.rot.toNat → (t.group g).ent.get e = k.ent.get e)
        ∧ (t.group g).spill = k.spill.map (fun y => if y.uid = x.uid then { k.ent.get k.rot.toNat with since := s.now } else y)
        ∧ ∀ h, h ≠ g → t.group h = s.group h))
  ∧ (∀ (s : State) (q : Nat), Completes (.yieldExpiry q) s (fun t => { t with quads := s.quads } = s
      ∧ ∀ y, y ∈ (t.quads.get q).yields ↔ y ∈ (s.quads.get q).yields ∧ s.now < y.until_))
  ∧ (∀ (s : State) (illop : Bool) (reason low : Byte) (p : BitVec 2) (x : Split), s.cur.findSplit s.focus.uid = some x → x.mask ≠ 0 →
      (x.out ≠ [] → Completes (.wordNotInstruction illop reason low p) s (fun t => SameRegs s t ∧ SameBytes s t ∧ t.focus.trapped = true
        ∧ SplitIs s t (fun y => ∃ r, y.trap = some r ∧ r.cause = (if illop then .illop else .ill)
            ∧ r.detail = BitVec.ofNat 16 (256 * reason.toNat + low.toNat) ∧ r.offset = s.focus.offset ∧ r.plane = p.toNat
            ∧ r.active = s.focus.lanes)))
      ∧ (x.out = [] → Completes (.wordNotInstruction illop reason low p) s (fun t => t.focus.trapped = true
        ∧ (t.ctxs.get (s.ctxOf s.focus.grp)).st = .stopped)))

/-! ### The whole machine -/

/-- The decoder reads a word as an instruction. -/
def WordIs (w : Nat) (i : Instr) : Prop := decode (bytesLE 4 w) = .ok (i, [])

/-- R93, R95, R109, R110: the decoding of words the spec writes out. -/
def Obligations.DecodesSpecWords : Prop :=
  WordIs 0x4C718503 (.isubs 5 6 7) ∧ WordIs 0x00200111 (.shli 1 0 2) ∧ WordIs 0x1C61441B (.imad 4 5 6 7)
  ∧ WordIs 0x01003035 (.cmpi 0 6 0 16)
  ∧ WordIs 0x00040181 (.ifP 1 false 4) ∧ WordIs 0x0002108B (.brk 0 false 1 2) ∧ WordIs 0xFFFF4089 (.endloop (-12))
  ∧ WordIs 0x0006008D (.bra 0 false 6) ∧ WordIs 0x0402009D (.exitc 8) ∧ WordIs 0x0000209F (.safe 2)
  ∧ WordIs 0x041000A1 (.psel false 0 1) ∧ WordIs 0x04000BA3 (.xqry 11) ∧ WordIs 0x089007A7 (.sread 7 0 9)
  ∧ WordIs 0x086109A7 (.sread 9 4 6) ∧ WordIs 0x123100A7 (.trap 4 35) ∧ WordIs 0x2C40C223 (.fminnumVs 2 3 4)
  ∧ WordIs 0x1C614425 (.ffma 4 5 6 7) ∧ WordIs 0x2CA2483B (.hfma2 8 9 10 11) ∧ WordIs 0x06144049 (.fdiv 0 4 5 6)
  ∧ WordIs 0x001C624B (.fexp2 2 6 7) ∧ WordIs 0x1C92073F (.pkb 7 8 9) ∧ WordIs 0x05444841 (.fpackSr 8 17 20 0)
  ∧ WordIs 0x00614443 (.dot4Ss 4 5 6) ∧ WordIs 0x40614445 (.fdot 4 5 6 2) ∧ WordIs 0x0C718547 (.shflXor 5 6 7)
  ∧ WordIs 0x000443C9 (.ldgW 3 4 1 0 false 0) ∧ WordIs 0x120290F9 (.mmaz 0 1 2 2 0 0 1) ∧ WordIs 0x080000FF .mwait
  ∧ decode (bytesLE 2 0xE8FE) = .ok (.iaddI5 7 (-3), [])
  ∧ decode (bytesLE 4 0x00000001) = .error .majorZero ∧ decode (bytesLE 4 0x0000004F) = .error .major
  ∧ decode (bytesLE 4 0x18204031) = .error .code ∧ decode (bytesLE 4 0x000450CB) = .error .alignment
  ∧ decode (bytesLE 4 0x01000085) = .error .zeroField

/-- R93, R95, R108, R109: decoding inverts encoding, for every instruction and every value of its operands. -/
def Obligations.EncodeDecode : Prop :=
  (∀ (i : Instr) (c : Code) (rest : List Byte), i.wf = true → encode i = some c → decode (c.bytes ++ rest) = .ok (canonical i, rest))
  ∧ (∀ (bs rest : List Byte) (i : Instr), decode bs = .ok (i, rest) → i.wf = true ∧ ∃ c, encode i = some c ∧ c.bytes ++ rest = bs)

/-- A quad is about to issue a split of a group, alone at its offset, in one plane, with no breakpoint, no replay
and no word held from an earlier fetch; the word w of that plane stands at the offset, decodes to i, and passes every check of R109. -/
structure Fetches (s : State) (q g u p w : Nat) (i : Instr) : Prop where
  turn : s.turns = [.issue q] ∨ ∃ ts, s.turns = .issue q :: ts
  idle : (s.quads.get q).cur = none
  chosen : ({ s with turns := s.turns.tail } : State).choose q = some (g, u)
  alone : ({ s with turns := s.turns.tail } : State).mergeAt g u = ({ s with turns := s.turns.tail }, u)
  whole : (s.splitOf g u).rest = none
  unheld : (s.splitOf g u).words = []
  plane : (s.group g).planesOf (s.splitOf g u).mask = [p]
  fetched : (({ s with turns := s.turns.tail } : State).fetchWord g (s.splitOf g u).version p (s.splitOf g u).offset).2 = .word w
  decoded : decode (bytesLE (if w % 2 = 0 then 2 else 4) w) = .ok (i, [])
  allowed : wordCheck (s.launchOf g).rec_.debug (s.launchOf g).rec_.regs (s.launchOf g).rec_.slots.get w (.ok i) = none
  unplanned : (s.launchOf g).breaks = [] ∧ (s.launchOf g).replay ≠ 2 ∧ ∀ L, ((s.group g).tx.get L).parked = false

/-- R19, R33, R93, R109: the step at an issue is exec of the decoded instruction, with the working field set before it and
the end of the pass after it. That an issue takes one Clave tick, so that it acts at the next instant, is the model's
choice (DESIGN CHOICE, log entry 56). -/
def Obligations.StepRunsDecodedInstruction : Prop :=
  ∀ (s : State) (q g u p w : Nat) (i : Instr), Fetches s q g u p w i → ∃ F : State,
    step s = settled (match exec (refineCommand i (fun r => F.cur.sAt r.toNat)) F with
      | .next t => .next (t.afterPass q)
      | .fault f => .fault f
      | .refused r => .refused r)
    ∧ SameRegs s F ∧ F.pending = s.pending ∧ F.now = s.now + 1
    ∧ (let x := s.splitOf g u
       let m := (s.group g).active x.mask
       { F.focus with entry := 0 } = { quad := q, grp := g, uid := u, offset := x.offset
                                       next := x.offset + (if w % 2 = 0 then 2 else 4), version := x.version
                                       plane := BitVec.ofNat 2 p, mask := m, lanes := m, same := true, first := true })

/-- R343, R344, R359, R360, R378, R380: the state after reset. The values that the spec does not give are the model’s
own: empty memory (log entry 1), empty tables and no grant (log entry 2), the CCLK (log entry 3), and the cap, the active complex and the ready bit
(log entry 4). -/
def Obligations.ResetState : Prop :=
  Memory.wf State.reset.mem ∧ State.reset.mem = [] ∧ State.reset.powered = true
  ∧ (∀ d, d < 8 → (State.reset.dies.get d).stepCount = 0 ∧ (State.reset.dies.get d).skew = 0 ∧ (State.reset.dies.get d).freq = 40
      ∧ (State.reset.dies.get d).relock = none ∧ (State.reset.dies.get d).tlb = [])
  ∧ (∀ c, (State.reset.ctxs.get c).st = .none) ∧ (∀ l, (State.reset.launches.get l).live = false)
  ∧ (∀ g, (State.reset.group g).live = false) ∧ (∀ b, (State.reset.blocks.get b).live = false)
  ∧ State.reset.fw.up = true ∧ State.reset.fw.active = State.reset.fw.firstActive
  ∧ State.reset.fw.ready = true ∧ State.reset.fw.busy = false ∧ State.reset.fw.update = .none ∧ State.reset.fw.cap = 4000
  ∧ State.reset.fw.overrun = false ∧ State.reset.token.holder = none

/-- The canonical form of memory (12_memory_and_ordering.md gives the address space) is an invariant of every step. -/
def Obligations.StepKeepsMemoryCanonical : Prop :=
  ∀ (s t : State), Memory.wf s.mem → step s = .next t → Memory.wf t.mem
end

