-- ==== Sys2Proof/Laws/Store.lean ====
section
/-! SUPPORT. Laws of the sparse store and of lane masks: a read after a write, the canonical form kept by
every operation, and which lanes a mask names. -/

namespace Sys2Proof

namespace Store
variable {α : Type} [Inhabited α]

@[simp] theorem get_nil (k : Nat) : get ([] : Store α) k = default := rfl

/-- What a key reads as is listed, or the default. -/
theorem get_listed (m : Store α) (k : Nat) : (∃ e ∈ m, get m k = e.2) ∨ get m k = default := by
  induction m with
  | nil => exact .inr rfl
  | cons x t ih =>
    by_cases h : x.1 = k
    · exact .inl ⟨x, by simp, by simp [get, h]⟩
    · rcases ih with ⟨e, he, hv⟩ | hv
      · exact .inl ⟨e, by simp [he], by simp [get, h, hv]⟩
      · exact .inr (by simp [get, h, hv])

theorem get_erase (m : Store α) (k j : Nat) : get (erase m k) j = if j = k then default else get m j := by
  induction m with
  | nil => simp [erase]
  | cons e t ih =>
    obtain ⟨i, w⟩ := e
    by_cases h : i = k
    · subst h
      simp only [erase, if_true, ih, get]
      by_cases hj : j = i
      · simp [hj]
      · simp [hj, Ne.symm hj]
    · simp only [erase, h, if_false, get, ih]
      by_cases hi : i = j
      · subst hi; simp [h]
      · simp [hi]

theorem get_place (m : Store α) (k : Nat) (v : α) (j : Nat) (h : ∀ e ∈ m, e.1 ≠ k) :
    get (place m k v) j = if j = k then v else get m j := by
  induction m with
  | nil =>
    by_cases hj : j = k
    · simp [place, get, hj]
    · simp [place, get, hj, Ne.symm hj]
  | cons e t ih =>
    obtain ⟨i, w⟩ := e
    have hi : i ≠ k := h (i, w) (by simp)
    have ht : ∀ e ∈ t, e.1 ≠ k := fun e he => h e (by simp [he])
    unfold place
    split
    · by_cases hj : j = k
      · subst hj; simp [get]
      · simp [get, hj, Ne.symm hj]
    · simp only [get, ih ht]
      by_cases hij : i = j
      · subst hij; simp [hi]
      · simp [hij]

omit [Inhabited α] in
theorem not_mem_erase (m : Store α) (k : Nat) : ∀ e ∈ erase m k, e.1 ≠ k := by
  induction m with
  | nil => simp [erase]
  | cons e t ih =>
    obtain ⟨i, w⟩ := e
    by_cases h : i = k
    · simpa [erase, h] using ih
    · intro e he
      simp only [erase, h, if_false, List.mem_cons] at he
      rcases he with rfl | he
      · exact h
      · exact ih e he

/-- A read after a write: the value written at its key, and every other key as before. -/
theorem get_put [DecidableEq α] (m : Store α) (k : Nat) (v : α) (j : Nat) :
    get (put m k v) j = if j = k then v else get m j := by
  unfold put
  split
  · next h => rw [get_erase]; simp [h]
  · rw [get_place _ _ _ _ (not_mem_erase m k), get_erase]
    by_cases hj : j = k <;> simp [hj]

@[simp] theorem get_put_same [DecidableEq α] (m : Store α) (k : Nat) (v : α) : get (put m k v) k = v := by
  simp [get_put]

theorem get_put_ne [DecidableEq α] (m : Store α) {k j : Nat} (v : α) (h : j ≠ k) : get (put m k v) j = get m j := by
  simp [get_put, h]

theorem get_upd [DecidableEq α] (m : Store α) (k : Nat) (f : α → α) (j : Nat) :
    get (upd m k f) j = if j = k then f (get m k) else get m j := by simp [upd, get_put]

/-! ### The canonical form -/

omit [Inhabited α] in
theorem risesFrom_mono (m : Store α) {a b : Nat} (h : a ≤ b) (hm : risesFrom b m = true) : risesFrom a m = true := by
  cases m with
  | nil => rfl
  | cons e t =>
    obtain ⟨j, w⟩ := e
    simp only [risesFrom, Bool.and_eq_true, decide_eq_true_eq] at hm ⊢
    exact ⟨by omega, hm.2⟩

omit [Inhabited α] in
theorem risesFrom_erase (m : Store α) (k : Nat) : ∀ a, risesFrom a m = true → risesFrom a (erase m k) = true := by
  induction m with
  | nil => simp [erase]
  | cons e t ih =>
    obtain ⟨j, w⟩ := e
    intro a h
    simp only [risesFrom, Bool.and_eq_true, decide_eq_true_eq] at h
    unfold erase
    split
    · exact risesFrom_mono _ (by omega) (ih _ h.2)
    · simp [risesFrom, h.1, ih _ h.2]

omit [Inhabited α] in
theorem risesFrom_place (m : Store α) (k : Nat) (v : α) (hk : ∀ e ∈ m, e.1 ≠ k) :
    ∀ a, a ≤ k → risesFrom a m = true → risesFrom a (place m k v) = true := by
  induction m with
  | nil => intro a ha _; simp [place, risesFrom, ha]
  | cons e t ih =>
    obtain ⟨j, w⟩ := e
    intro a ha h
    simp only [risesFrom, Bool.and_eq_true, decide_eq_true_eq] at h
    have hj : j ≠ k := hk (j, w) (by simp)
    unfold place
    split
    · next hkj =>
      simp only [risesFrom, Bool.and_eq_true, decide_eq_true_eq]
      exact ⟨ha, by omega, h.2⟩
    · next hkj =>
      simp only [risesFrom, Bool.and_eq_true, decide_eq_true_eq]
      exact ⟨h.1, ih (fun e he => hk e (by simp [he])) _ (by omega) h.2⟩

omit [Inhabited α] in
theorem mem_erase {m : Store α} {k : Nat} {e : Nat × α} (h : e ∈ erase m k) : e ∈ m := by
  induction m with
  | nil => simp [erase] at h
  | cons x t ih =>
    obtain ⟨i, w⟩ := x
    unfold erase at h
    split at h
    · exact List.mem_cons_of_mem _ (ih h)
    · rcases List.mem_cons.1 h with h | h
      · simp [h]
      · exact List.mem_cons_of_mem _ (ih h)

omit [Inhabited α] in
theorem mem_place {m : Store α} {k : Nat} {v : α} {e : Nat × α} (h : e ∈ place m k v) : e = (k, v) ∨ e ∈ m := by
  induction m with
  | nil => simpa [place] using h
  | cons x t ih =>
    obtain ⟨i, w⟩ := x
    unfold place at h
    split at h
    · simpa using h
    · rcases List.mem_cons.1 h with h | h
      · simp [h]
      · rcases ih h with h | h <;> simp [h]

theorem wf_nil [DecidableEq α] : wf ([] : Store α) = true := rfl

theorem wf_erase [DecidableEq α] {m : Store α} (h : wf m = true) (k : Nat) : wf (erase m k) = true := by
  simp only [wf, Bool.and_eq_true, List.all_eq_true] at h ⊢
  exact ⟨risesFrom_erase m k 0 h.1, fun e he => h.2 e (mem_erase he)⟩

/-- Every write keeps the canonical form. -/
theorem wf_put [DecidableEq α] {m : Store α} (h : wf m = true) (k : Nat) (v : α) : wf (put m k v) = true := by
  unfold put
  split
  · exact wf_erase h k
  · next hv =>
    have he := wf_erase h k
    simp only [wf, Bool.and_eq_true, List.all_eq_true] at he ⊢
    refine ⟨risesFrom_place _ k v (not_mem_erase m k) 0 (Nat.zero_le _) he.1, fun e h' => ?_⟩
    rcases mem_place h' with rfl | h'
    · simpa using hv
    · exact he.2 e h'

theorem wf_upd [DecidableEq α] {m : Store α} (h : wf m = true) (k : Nat) (f : α → α) : wf (upd m k f) = true :=
  wf_put h k _

/-- The canonical form is kept by any run of writes. -/
theorem wf_foldl [DecidableEq α] {β : Type} (f : Store α → β → Store α)
    (hf : ∀ m b, wf m = true → wf (f m b) = true) (l : List β) : ∀ m, wf m = true → wf (l.foldl f m) = true := by
  induction l with
  | nil => exact fun m h => h
  | cons b t ih => exact fun m h => ih _ (hf m b h)

end Store

/-! ### Lanes of a mask -/

theorem mem_lanesOf {m : Mask} {L : Nat} : L ∈ lanesOf m ↔ L < 32 ∧ inMask m L = true := by
  simp [lanesOf]

theorem lanesOf_nodup (m : Mask) : (lanesOf m).Nodup := List.Nodup.filter _ List.nodup_range

theorem add_two_pow_testBit (n K j : Nat) (h : n.testBit K = false) :
    (n + 2 ^ K).testBit j = (n.testBit j || decide (j = K)) := by
  rw [Nat.add_comm]
  rcases Nat.lt_trichotomy j K with hj | rfl | hj
  · rw [Nat.testBit_two_pow_add_gt hj]; simp [Nat.ne_of_lt hj]
  · simp [Nat.testBit_two_pow_add_eq, h]
  · have hlow : n % 2 ^ (K + 1) < 2 ^ K := by
      apply Nat.lt_pow_two_of_testBit
      intro i hi
      rw [Nat.testBit_mod_two_pow]
      rcases Nat.eq_or_lt_of_le hi with rfl | hi
      · simp [h]
      · simp [show ¬ i < K + 1 by omega]
    have hdiv : (2 ^ K + n) / 2 ^ (K + 1) = n / 2 ^ (K + 1) := by
      have e := Nat.div_add_mod n (2 ^ (K + 1))
      have : 2 ^ K + n = (2 ^ K + n % 2 ^ (K + 1)) + 2 ^ (K + 1) * (n / 2 ^ (K + 1)) := by omega
      rw [this, Nat.add_mul_div_left _ _ (by positivity), Nat.div_eq_of_lt (by rw [Nat.pow_succ] at hlow ⊢; omega), Nat.zero_add]
    have key (x : Nat) : x.testBit j = (x / 2 ^ (K + 1)).testBit (j - (K + 1)) := by
      rw [← Nat.shiftRight_eq_div_pow, Nat.testBit_shiftRight]; congr 1; omega
    rw [key (2 ^ K + n), hdiv, ← key]; simp [show j ≠ K by omega]

theorem foldl_pow_testBit (l : List Nat) (hl : l.Nodup) (L : Nat) : ∀ n : Nat, (∀ K ∈ l, n.testBit K = false) →
    (l.foldl (fun n K => n + 2 ^ K) n).testBit L = (n.testBit L || decide (L ∈ l)) := by
  induction l with
  | nil => simp
  | cons K t ih =>
    intro n hn
    have hK : n.testBit K = false := hn K (by simp)
    have hnd := List.nodup_cons.1 hl
    rw [List.foldl_cons, ih hnd.2]
    · rw [add_two_pow_testBit n K L hK]
      simp [List.mem_cons, Bool.or_assoc]
    · intro J hJ
      have hne : J ≠ K := fun h => hnd.1 (h ▸ hJ)
      rw [add_two_pow_testBit n K J hK, hn J (by simp [hJ])]
      simp [hne]

/-- The mask of a test names exactly the lanes, of 32, that satisfy it. -/
@[simp] theorem inMask_maskOf (p : Nat → Bool) (L : Nat) : inMask (maskOf p) L = (decide (L < 32) && p L) := by
  unfold inMask maskOf
  rw [BitVec.getLsbD_ofNat, foldl_pow_testBit _ (List.Nodup.filter _ List.nodup_range) L 0 (by simp)]
  by_cases h : L < 32 <;> simp [h]

@[simp] theorem inMask_and (a b : Mask) (L : Nat) : inMask (a &&& b) L = (inMask a L && inMask b L) := by
  simp [inMask]

@[simp] theorem inMask_or (a b : Mask) (L : Nat) : inMask (a ||| b) L = (inMask a L || inMask b L) := by
  simp [inMask]

theorem inMask_not (a : Mask) (L : Nat) : inMask (~~~a) L = (decide (L < 32) && !inMask a L) := by
  simp [inMask]

theorem inMask_lt {m : Mask} {L : Nat} (h : inMask m L = true) : L < 32 := by
  rcases Nat.lt_or_ge L 32 with hl | hl
  · exact hl
  · simp [inMask, BitVec.getLsbD_of_ge m L hl] at h

end Sys2Proof
end

