-- ==== Sys2Proof/Laws/Collect.lean ====
section
/-! SUPPORT. Laws of collections before a read (R279): where no core holds an update-only copy, a walk, a read of the
hub and the reads of SAFE change nothing. -/

namespace Sys2Proof.Machine

/-- With no update-only copy, nothing is collected. -/
theorem collectAll_none (s : State) (reads : State → List Nat) (fuel : Nat) (h : s.noCopies = true) :
    s.collectAll reads fuel = s := by
  cases fuel with
  | zero => rfl
  | succ n => simp [State.collectAll, h]

theorem walkCollect_none (s : State) (ctx vpage : Nat) (h : s.noCopies = true) : s.walkCollect ctx vpage = s :=
  collectAll_none s _ _ h
theorem hubWalk_none (s : State) (ctx : Nat) (a : DWord) (n : Nat) (h : s.noCopies = true) : s.hubWalk ctx a n = s :=
  collectAll_none s _ _ h
theorem hubCollect_none (s : State) (ctx : Nat) (a : DWord) (n : Nat) (h : s.noCopies = true) : s.hubCollect ctx a n = s := by
  simp [State.hubCollect, hubWalk_none s ctx a n h, collectAll_none s _ _ h]
theorem hubCollectPa_none (s : State) (pa n : Nat) (h : s.noCopies = true) : s.hubCollectPa pa n = s :=
  collectAll_none s _ _ h

/-- A fold whose every step changes nothing changes nothing. -/
theorem foldl_fixed {α β : Type} (f : β → α → β) (b : β) (l : List α) (h : ∀ x ∈ l, f b x = b) : l.foldl f b = b := by
  induction l with
  | nil => rfl
  | cons x xs ih => simp only [List.foldl_cons, h x (by simp)]; exact ih (fun y hy => h y (by simp [hy]))

/-- Nothing happens to the lines of some regions where nothing happens to any line. -/
theorem overLines_fixed (s : State) (ctx : Nat) (rs : List (DWord × Nat)) (f : State → Nat → State) (h : ∀ l, f s l = s) :
    s.overLines ctx rs f = s := by
  refine foldl_fixed _ _ _ (fun r _ => foldl_fixed _ _ _ (fun i _ => ?_))
  dsimp only
  split
  · rfl
  · split
    · exact h _
    · rfl

theorem collect_none (s : State) (line : Nat) (h : s.noCopies = true) : s.collect line = s := by
  have hc : s.copyHolders line = [] := by
    simp only [State.copyHolders, List.map_eq_nil_iff, List.filter_eq_nil_iff]
    intro e he
    rcases Store.get_listed e.2.l1 line with ⟨l, hl, hv⟩ | hv
    · have := List.all_eq_true.1 (List.all_eq_true.1 h e he) l hl
      simp_all
    · rw [hv]; decide
  simp [State.collect, hc]

theorem landStores_none (s : State) (core line : Nat) (h : ∀ e ∈ s.coreOps core, e.2.isPlain = false) :
    s.landStores core line = s := by
  have : (s.coreOps core).filter (fun e => e.2.isPlain && e.2.storeLines != []) = [] := by
    rw [List.filter_eq_nil_iff]; intro e he; simp [h e he]
  simp [State.landStores, this, byPlace]

/-- R241, R246, R251, R279, R297: with nothing buffered at its core, no store under way there, no leased line and no
update-only copy, SAFE has nothing to prepare. -/
theorem prepareSafe_none (s : State) (n fuel : Nat) (hw : (s.cores.get (coreOfGroup s.focus.grp)).wc.held = false)
    (hs : ∀ e ∈ s.coreOps (coreOfGroup s.focus.grp), e.2.isPlain = false)
    (hl : ∀ l e, ((s.cores.get (coreOfGroup s.focus.grp)).l1.get l).st ≠ .leased e) (h : s.noCopies = true) :
    s.prepareSafe n fuel = s := by
  induction fuel with
  | zero => rfl
  | succ k ih =>
    rw [State.prepareSafe, overLines_fixed]
    · exact ih
    · intro l
      have hf : s.flushWcFor (coreOfGroup s.focus.grp) l = s := by simp [State.flushWcFor, hw]
      have hd : s.dropLeased (coreOfGroup s.focus.grp) l = s := by
        unfold State.dropLeased
        split
        · next e he => exact absurd he (hl l e)
        · rfl
      rw [hf, landStores_none s _ _ hs, hd, collect_none s l h]

end Sys2Proof.Machine
end

