-- ==== Sys2Proof/Laws/State.lean ====
section
/-! SUPPORT. Each field of the state after each update: one lemma per field and update, by computation. -/

namespace Sys2Proof.Machine

variable (s : State)

/-! ### onGroup -/
@[simp] theorem State.onGroup_now (g : Nat) (f : Group → Group) : (s.onGroup g f).now = s.now := rfl
@[simp] theorem State.onGroup_powered (g : Nat) (f : Group → Group) : (s.onGroup g f).powered = s.powered := rfl
@[simp] theorem State.onGroup_free (g : Nat) (f : Group → Group) : (s.onGroup g f).free = s.free := rfl
@[simp] theorem State.onGroup_turns (g : Nat) (f : Group → Group) : (s.onGroup g f).turns = s.turns := rfl
@[simp] theorem State.onGroup_pending (g : Nat) (f : Group → Group) : (s.onGroup g f).pending = s.pending := rfl
@[simp] theorem State.onGroup_focus (g : Nat) (f : Group → Group) : (s.onGroup g f).focus = s.focus := rfl
@[simp] theorem State.onGroup_mem (g : Nat) (f : Group → Group) : (s.onGroup g f).mem = s.mem := rfl
@[simp] theorem State.onGroup_home (g : Nat) (f : Group → Group) : (s.onGroup g f).home = s.home := rfl
@[simp] theorem State.onGroup_dies (g : Nat) (f : Group → Group) : (s.onGroup g f).dies = s.dies := rfl
@[simp] theorem State.onGroup_cores (g : Nat) (f : Group → Group) : (s.onGroup g f).cores = s.cores := rfl
@[simp] theorem State.onGroup_quads (g : Nat) (f : Group → Group) : (s.onGroup g f).quads = s.quads := rfl
@[simp] theorem State.onGroup_blocks (g : Nat) (f : Group → Group) : (s.onGroup g f).blocks = s.blocks := rfl
@[simp] theorem State.onGroup_groups (g : Nat) (f : Group → Group) : (s.onGroup g f).groups = s.groups.upd g f := rfl
@[simp] theorem State.onGroup_ops (g : Nat) (f : Group → Group) : (s.onGroup g f).ops = s.ops := rfl
@[simp] theorem State.onGroup_nextOp (g : Nat) (f : Group → Group) : (s.onGroup g f).nextOp = s.nextOp := rfl
@[simp] theorem State.onGroup_ctxs (g : Nat) (f : Group → Group) : (s.onGroup g f).ctxs = s.ctxs := rfl
@[simp] theorem State.onGroup_queues (g : Nat) (f : Group → Group) : (s.onGroup g f).queues = s.queues := rfl
@[simp] theorem State.onGroup_launches (g : Nat) (f : Group → Group) : (s.onGroup g f).launches = s.launches := rfl
@[simp] theorem State.onGroup_nextLaunch (g : Nat) (f : Group → Group) : (s.onGroup g f).nextLaunch = s.nextLaunch := rfl
@[simp] theorem State.onGroup_nextOrder (g : Nat) (f : Group → Group) : (s.onGroup g f).nextOrder = s.nextOrder := rfl
@[simp] theorem State.onGroup_subs (g : Nat) (f : Group → Group) : (s.onGroup g f).subs = s.subs := rfl
@[simp] theorem State.onGroup_nextSub (g : Nat) (f : Group → Group) : (s.onGroup g f).nextSub = s.nextSub := rfl
@[simp] theorem State.onGroup_runs (g : Nat) (f : Group → Group) : (s.onGroup g f).runs = s.runs := rfl
@[simp] theorem State.onGroup_faults (g : Nat) (f : Group → Group) : (s.onGroup g f).faults = s.faults := rfl
@[simp] theorem State.onGroup_nextFault (g : Nat) (f : Group → Group) : (s.onGroup g f).nextFault = s.nextFault := rfl
@[simp] theorem State.onGroup_token (g : Nat) (f : Group → Group) : (s.onGroup g f).token = s.token := rfl
@[simp] theorem State.onGroup_fw (g : Nat) (f : Group → Group) : (s.onGroup g f).fw = s.fw := rfl
@[simp] theorem State.onGroup_ports (g : Nat) (f : Group → Group) : (s.onGroup g f).ports = s.ports := rfl
@[simp] theorem State.onGroup_hubs (g : Nat) (f : Group → Group) : (s.onGroup g f).hubs = s.hubs := rfl
@[simp] theorem State.onGroup_hbm (g : Nat) (f : Group → Group) : (s.onGroup g f).hbm = s.hbm := rfl
@[simp] theorem State.onGroup_lastQuad (g : Nat) (f : Group → Group) : (s.onGroup g f).lastQuad = s.lastQuad := rfl

/-! ### onBlock -/
@[simp] theorem State.onBlock_now (b : Nat) (f : Block → Block) : (s.onBlock b f).now = s.now := rfl
@[simp] theorem State.onBlock_powered (b : Nat) (f : Block → Block) : (s.onBlock b f).powered = s.powered := rfl
@[simp] theorem State.onBlock_free (b : Nat) (f : Block → Block) : (s.onBlock b f).free = s.free := rfl
@[simp] theorem State.onBlock_turns (b : Nat) (f : Block → Block) : (s.onBlock b f).turns = s.turns := rfl
@[simp] theorem State.onBlock_pending (b : Nat) (f : Block → Block) : (s.onBlock b f).pending = s.pending := rfl
@[simp] theorem State.onBlock_focus (b : Nat) (f : Block → Block) : (s.onBlock b f).focus = s.focus := rfl
@[simp] theorem State.onBlock_mem (b : Nat) (f : Block → Block) : (s.onBlock b f).mem = s.mem := rfl
@[simp] theorem State.onBlock_home (b : Nat) (f : Block → Block) : (s.onBlock b f).home = s.home := rfl
@[simp] theorem State.onBlock_dies (b : Nat) (f : Block → Block) : (s.onBlock b f).dies = s.dies := rfl
@[simp] theorem State.onBlock_cores (b : Nat) (f : Block → Block) : (s.onBlock b f).cores = s.cores := rfl
@[simp] theorem State.onBlock_quads (b : Nat) (f : Block → Block) : (s.onBlock b f).quads = s.quads := rfl
@[simp] theorem State.onBlock_blocks (b : Nat) (f : Block → Block) : (s.onBlock b f).blocks = s.blocks.upd b f := rfl
@[simp] theorem State.onBlock_groups (b : Nat) (f : Block → Block) : (s.onBlock b f).groups = s.groups := rfl
@[simp] theorem State.onBlock_ops (b : Nat) (f : Block → Block) : (s.onBlock b f).ops = s.ops := rfl
@[simp] theorem State.onBlock_nextOp (b : Nat) (f : Block → Block) : (s.onBlock b f).nextOp = s.nextOp := rfl
@[simp] theorem State.onBlock_ctxs (b : Nat) (f : Block → Block) : (s.onBlock b f).ctxs = s.ctxs := rfl
@[simp] theorem State.onBlock_queues (b : Nat) (f : Block → Block) : (s.onBlock b f).queues = s.queues := rfl
@[simp] theorem State.onBlock_launches (b : Nat) (f : Block → Block) : (s.onBlock b f).launches = s.launches := rfl
@[simp] theorem State.onBlock_nextLaunch (b : Nat) (f : Block → Block) : (s.onBlock b f).nextLaunch = s.nextLaunch := rfl
@[simp] theorem State.onBlock_nextOrder (b : Nat) (f : Block → Block) : (s.onBlock b f).nextOrder = s.nextOrder := rfl
@[simp] theorem State.onBlock_subs (b : Nat) (f : Block → Block) : (s.onBlock b f).subs = s.subs := rfl
@[simp] theorem State.onBlock_nextSub (b : Nat) (f : Block → Block) : (s.onBlock b f).nextSub = s.nextSub := rfl
@[simp] theorem State.onBlock_runs (b : Nat) (f : Block → Block) : (s.onBlock b f).runs = s.runs := rfl
@[simp] theorem State.onBlock_faults (b : Nat) (f : Block → Block) : (s.onBlock b f).faults = s.faults := rfl
@[simp] theorem State.onBlock_nextFault (b : Nat) (f : Block → Block) : (s.onBlock b f).nextFault = s.nextFault := rfl
@[simp] theorem State.onBlock_token (b : Nat) (f : Block → Block) : (s.onBlock b f).token = s.token := rfl
@[simp] theorem State.onBlock_fw (b : Nat) (f : Block → Block) : (s.onBlock b f).fw = s.fw := rfl
@[simp] theorem State.onBlock_ports (b : Nat) (f : Block → Block) : (s.onBlock b f).ports = s.ports := rfl
@[simp] theorem State.onBlock_hubs (b : Nat) (f : Block → Block) : (s.onBlock b f).hubs = s.hubs := rfl
@[simp] theorem State.onBlock_hbm (b : Nat) (f : Block → Block) : (s.onBlock b f).hbm = s.hbm := rfl
@[simp] theorem State.onBlock_lastQuad (b : Nat) (f : Block → Block) : (s.onBlock b f).lastQuad = s.lastQuad := rfl

/-! ### onCore -/
@[simp] theorem State.onCore_now (c : Nat) (f : Core → Core) : (s.onCore c f).now = s.now := rfl
@[simp] theorem State.onCore_powered (c : Nat) (f : Core → Core) : (s.onCore c f).powered = s.powered := rfl
@[simp] theorem State.onCore_free (c : Nat) (f : Core → Core) : (s.onCore c f).free = s.free := rfl
@[simp] theorem State.onCore_turns (c : Nat) (f : Core → Core) : (s.onCore c f).turns = s.turns := rfl
@[simp] theorem State.onCore_pending (c : Nat) (f : Core → Core) : (s.onCore c f).pending = s.pending := rfl
@[simp] theorem State.onCore_focus (c : Nat) (f : Core → Core) : (s.onCore c f).focus = s.focus := rfl
@[simp] theorem State.onCore_mem (c : Nat) (f : Core → Core) : (s.onCore c f).mem = s.mem := rfl
@[simp] theorem State.onCore_home (c : Nat) (f : Core → Core) : (s.onCore c f).home = s.home := rfl
@[simp] theorem State.onCore_dies (c : Nat) (f : Core → Core) : (s.onCore c f).dies = s.dies := rfl
@[simp] theorem State.onCore_cores (c : Nat) (f : Core → Core) : (s.onCore c f).cores = s.cores.upd c f := rfl
@[simp] theorem State.onCore_quads (c : Nat) (f : Core → Core) : (s.onCore c f).quads = s.quads := rfl
@[simp] theorem State.onCore_blocks (c : Nat) (f : Core → Core) : (s.onCore c f).blocks = s.blocks := rfl
@[simp] theorem State.onCore_groups (c : Nat) (f : Core → Core) : (s.onCore c f).groups = s.groups := rfl
@[simp] theorem State.onCore_ops (c : Nat) (f : Core → Core) : (s.onCore c f).ops = s.ops := rfl
@[simp] theorem State.onCore_nextOp (c : Nat) (f : Core → Core) : (s.onCore c f).nextOp = s.nextOp := rfl
@[simp] theorem State.onCore_ctxs (c : Nat) (f : Core → Core) : (s.onCore c f).ctxs = s.ctxs := rfl
@[simp] theorem State.onCore_queues (c : Nat) (f : Core → Core) : (s.onCore c f).queues = s.queues := rfl
@[simp] theorem State.onCore_launches (c : Nat) (f : Core → Core) : (s.onCore c f).launches = s.launches := rfl
@[simp] theorem State.onCore_nextLaunch (c : Nat) (f : Core → Core) : (s.onCore c f).nextLaunch = s.nextLaunch := rfl
@[simp] theorem State.onCore_nextOrder (c : Nat) (f : Core → Core) : (s.onCore c f).nextOrder = s.nextOrder := rfl
@[simp] theorem State.onCore_subs (c : Nat) (f : Core → Core) : (s.onCore c f).subs = s.subs := rfl
@[simp] theorem State.onCore_nextSub (c : Nat) (f : Core → Core) : (s.onCore c f).nextSub = s.nextSub := rfl
@[simp] theorem State.onCore_runs (c : Nat) (f : Core → Core) : (s.onCore c f).runs = s.runs := rfl
@[simp] theorem State.onCore_faults (c : Nat) (f : Core → Core) : (s.onCore c f).faults = s.faults := rfl
@[simp] theorem State.onCore_nextFault (c : Nat) (f : Core → Core) : (s.onCore c f).nextFault = s.nextFault := rfl
@[simp] theorem State.onCore_token (c : Nat) (f : Core → Core) : (s.onCore c f).token = s.token := rfl
@[simp] theorem State.onCore_fw (c : Nat) (f : Core → Core) : (s.onCore c f).fw = s.fw := rfl
@[simp] theorem State.onCore_ports (c : Nat) (f : Core → Core) : (s.onCore c f).ports = s.ports := rfl
@[simp] theorem State.onCore_hubs (c : Nat) (f : Core → Core) : (s.onCore c f).hubs = s.hubs := rfl
@[simp] theorem State.onCore_hbm (c : Nat) (f : Core → Core) : (s.onCore c f).hbm = s.hbm := rfl
@[simp] theorem State.onCore_lastQuad (c : Nat) (f : Core → Core) : (s.onCore c f).lastQuad = s.lastQuad := rfl

/-! ### onQuad -/
@[simp] theorem State.onQuad_now (q : Nat) (f : Quad → Quad) : (s.onQuad q f).now = s.now := rfl
@[simp] theorem State.onQuad_powered (q : Nat) (f : Quad → Quad) : (s.onQuad q f).powered = s.powered := rfl
@[simp] theorem State.onQuad_free (q : Nat) (f : Quad → Quad) : (s.onQuad q f).free = s.free := rfl
@[simp] theorem State.onQuad_turns (q : Nat) (f : Quad → Quad) : (s.onQuad q f).turns = s.turns := rfl
@[simp] theorem State.onQuad_pending (q : Nat) (f : Quad → Quad) : (s.onQuad q f).pending = s.pending := rfl
@[simp] theorem State.onQuad_focus (q : Nat) (f : Quad → Quad) : (s.onQuad q f).focus = s.focus := rfl
@[simp] theorem State.onQuad_mem (q : Nat) (f : Quad → Quad) : (s.onQuad q f).mem = s.mem := rfl
@[simp] theorem State.onQuad_home (q : Nat) (f : Quad → Quad) : (s.onQuad q f).home = s.home := rfl
@[simp] theorem State.onQuad_dies (q : Nat) (f : Quad → Quad) : (s.onQuad q f).dies = s.dies := rfl
@[simp] theorem State.onQuad_cores (q : Nat) (f : Quad → Quad) : (s.onQuad q f).cores = s.cores := rfl
@[simp] theorem State.onQuad_quads (q : Nat) (f : Quad → Quad) : (s.onQuad q f).quads = s.quads.upd q f := rfl
@[simp] theorem State.onQuad_blocks (q : Nat) (f : Quad → Quad) : (s.onQuad q f).blocks = s.blocks := rfl
@[simp] theorem State.onQuad_groups (q : Nat) (f : Quad → Quad) : (s.onQuad q f).groups = s.groups := rfl
@[simp] theorem State.onQuad_ops (q : Nat) (f : Quad → Quad) : (s.onQuad q f).ops = s.ops := rfl
@[simp] theorem State.onQuad_nextOp (q : Nat) (f : Quad → Quad) : (s.onQuad q f).nextOp = s.nextOp := rfl
@[simp] theorem State.onQuad_ctxs (q : Nat) (f : Quad → Quad) : (s.onQuad q f).ctxs = s.ctxs := rfl
@[simp] theorem State.onQuad_queues (q : Nat) (f : Quad → Quad) : (s.onQuad q f).queues = s.queues := rfl
@[simp] theorem State.onQuad_launches (q : Nat) (f : Quad → Quad) : (s.onQuad q f).launches = s.launches := rfl
@[simp] theorem State.onQuad_nextLaunch (q : Nat) (f : Quad → Quad) : (s.onQuad q f).nextLaunch = s.nextLaunch := rfl
@[simp] theorem State.onQuad_nextOrder (q : Nat) (f : Quad → Quad) : (s.onQuad q f).nextOrder = s.nextOrder := rfl
@[simp] theorem State.onQuad_subs (q : Nat) (f : Quad → Quad) : (s.onQuad q f).subs = s.subs := rfl
@[simp] theorem State.onQuad_nextSub (q : Nat) (f : Quad → Quad) : (s.onQuad q f).nextSub = s.nextSub := rfl
@[simp] theorem State.onQuad_runs (q : Nat) (f : Quad → Quad) : (s.onQuad q f).runs = s.runs := rfl
@[simp] theorem State.onQuad_faults (q : Nat) (f : Quad → Quad) : (s.onQuad q f).faults = s.faults := rfl
@[simp] theorem State.onQuad_nextFault (q : Nat) (f : Quad → Quad) : (s.onQuad q f).nextFault = s.nextFault := rfl
@[simp] theorem State.onQuad_token (q : Nat) (f : Quad → Quad) : (s.onQuad q f).token = s.token := rfl
@[simp] theorem State.onQuad_fw (q : Nat) (f : Quad → Quad) : (s.onQuad q f).fw = s.fw := rfl
@[simp] theorem State.onQuad_ports (q : Nat) (f : Quad → Quad) : (s.onQuad q f).ports = s.ports := rfl
@[simp] theorem State.onQuad_hubs (q : Nat) (f : Quad → Quad) : (s.onQuad q f).hubs = s.hubs := rfl
@[simp] theorem State.onQuad_hbm (q : Nat) (f : Quad → Quad) : (s.onQuad q f).hbm = s.hbm := rfl
@[simp] theorem State.onQuad_lastQuad (q : Nat) (f : Quad → Quad) : (s.onQuad q f).lastQuad = s.lastQuad := rfl

/-! ### onDie -/
@[simp] theorem State.onDie_now (d : Nat) (f : Die → Die) : (s.onDie d f).now = s.now := rfl
@[simp] theorem State.onDie_powered (d : Nat) (f : Die → Die) : (s.onDie d f).powered = s.powered := rfl
@[simp] theorem State.onDie_free (d : Nat) (f : Die → Die) : (s.onDie d f).free = s.free := rfl
@[simp] theorem State.onDie_turns (d : Nat) (f : Die → Die) : (s.onDie d f).turns = s.turns := rfl
@[simp] theorem State.onDie_pending (d : Nat) (f : Die → Die) : (s.onDie d f).pending = s.pending := rfl
@[simp] theorem State.onDie_focus (d : Nat) (f : Die → Die) : (s.onDie d f).focus = s.focus := rfl
@[simp] theorem State.onDie_mem (d : Nat) (f : Die → Die) : (s.onDie d f).mem = s.mem := rfl
@[simp] theorem State.onDie_home (d : Nat) (f : Die → Die) : (s.onDie d f).home = s.home := rfl
@[simp] theorem State.onDie_dies (d : Nat) (f : Die → Die) : (s.onDie d f).dies = s.dies.upd d f := rfl
@[simp] theorem State.onDie_cores (d : Nat) (f : Die → Die) : (s.onDie d f).cores = s.cores := rfl
@[simp] theorem State.onDie_quads (d : Nat) (f : Die → Die) : (s.onDie d f).quads = s.quads := rfl
@[simp] theorem State.onDie_blocks (d : Nat) (f : Die → Die) : (s.onDie d f).blocks = s.blocks := rfl
@[simp] theorem State.onDie_groups (d : Nat) (f : Die → Die) : (s.onDie d f).groups = s.groups := rfl
@[simp] theorem State.onDie_ops (d : Nat) (f : Die → Die) : (s.onDie d f).ops = s.ops := rfl
@[simp] theorem State.onDie_nextOp (d : Nat) (f : Die → Die) : (s.onDie d f).nextOp = s.nextOp := rfl
@[simp] theorem State.onDie_ctxs (d : Nat) (f : Die → Die) : (s.onDie d f).ctxs = s.ctxs := rfl
@[simp] theorem State.onDie_queues (d : Nat) (f : Die → Die) : (s.onDie d f).queues = s.queues := rfl
@[simp] theorem State.onDie_launches (d : Nat) (f : Die → Die) : (s.onDie d f).launches = s.launches := rfl
@[simp] theorem State.onDie_nextLaunch (d : Nat) (f : Die → Die) : (s.onDie d f).nextLaunch = s.nextLaunch := rfl
@[simp] theorem State.onDie_nextOrder (d : Nat) (f : Die → Die) : (s.onDie d f).nextOrder = s.nextOrder := rfl
@[simp] theorem State.onDie_subs (d : Nat) (f : Die → Die) : (s.onDie d f).subs = s.subs := rfl
@[simp] theorem State.onDie_nextSub (d : Nat) (f : Die → Die) : (s.onDie d f).nextSub = s.nextSub := rfl
@[simp] theorem State.onDie_runs (d : Nat) (f : Die → Die) : (s.onDie d f).runs = s.runs := rfl
@[simp] theorem State.onDie_faults (d : Nat) (f : Die → Die) : (s.onDie d f).faults = s.faults := rfl
@[simp] theorem State.onDie_nextFault (d : Nat) (f : Die → Die) : (s.onDie d f).nextFault = s.nextFault := rfl
@[simp] theorem State.onDie_token (d : Nat) (f : Die → Die) : (s.onDie d f).token = s.token := rfl
@[simp] theorem State.onDie_fw (d : Nat) (f : Die → Die) : (s.onDie d f).fw = s.fw := rfl
@[simp] theorem State.onDie_ports (d : Nat) (f : Die → Die) : (s.onDie d f).ports = s.ports := rfl
@[simp] theorem State.onDie_hubs (d : Nat) (f : Die → Die) : (s.onDie d f).hubs = s.hubs := rfl
@[simp] theorem State.onDie_hbm (d : Nat) (f : Die → Die) : (s.onDie d f).hbm = s.hbm := rfl
@[simp] theorem State.onDie_lastQuad (d : Nat) (f : Die → Die) : (s.onDie d f).lastQuad = s.lastQuad := rfl

/-! ### onCtx -/
@[simp] theorem State.onCtx_now (x : Nat) (f : Context → Context) : (s.onCtx x f).now = s.now := rfl
@[simp] theorem State.onCtx_powered (x : Nat) (f : Context → Context) : (s.onCtx x f).powered = s.powered := rfl
@[simp] theorem State.onCtx_free (x : Nat) (f : Context → Context) : (s.onCtx x f).free = s.free := rfl
@[simp] theorem State.onCtx_turns (x : Nat) (f : Context → Context) : (s.onCtx x f).turns = s.turns := rfl
@[simp] theorem State.onCtx_pending (x : Nat) (f : Context → Context) : (s.onCtx x f).pending = s.pending := rfl
@[simp] theorem State.onCtx_focus (x : Nat) (f : Context → Context) : (s.onCtx x f).focus = s.focus := rfl
@[simp] theorem State.onCtx_mem (x : Nat) (f : Context → Context) : (s.onCtx x f).mem = s.mem := rfl
@[simp] theorem State.onCtx_home (x : Nat) (f : Context → Context) : (s.onCtx x f).home = s.home := rfl
@[simp] theorem State.onCtx_dies (x : Nat) (f : Context → Context) : (s.onCtx x f).dies = s.dies := rfl
@[simp] theorem State.onCtx_cores (x : Nat) (f : Context → Context) : (s.onCtx x f).cores = s.cores := rfl
@[simp] theorem State.onCtx_quads (x : Nat) (f : Context → Context) : (s.onCtx x f).quads = s.quads := rfl
@[simp] theorem State.onCtx_blocks (x : Nat) (f : Context → Context) : (s.onCtx x f).blocks = s.blocks := rfl
@[simp] theorem State.onCtx_groups (x : Nat) (f : Context → Context) : (s.onCtx x f).groups = s.groups := rfl
@[simp] theorem State.onCtx_ops (x : Nat) (f : Context → Context) : (s.onCtx x f).ops = s.ops := rfl
@[simp] theorem State.onCtx_nextOp (x : Nat) (f : Context → Context) : (s.onCtx x f).nextOp = s.nextOp := rfl
@[simp] theorem State.onCtx_ctxs (x : Nat) (f : Context → Context) : (s.onCtx x f).ctxs = s.ctxs.upd x f := rfl
@[simp] theorem State.onCtx_queues (x : Nat) (f : Context → Context) : (s.onCtx x f).queues = s.queues := rfl
@[simp] theorem State.onCtx_launches (x : Nat) (f : Context → Context) : (s.onCtx x f).launches = s.launches := rfl
@[simp] theorem State.onCtx_nextLaunch (x : Nat) (f : Context → Context) : (s.onCtx x f).nextLaunch = s.nextLaunch := rfl
@[simp] theorem State.onCtx_nextOrder (x : Nat) (f : Context → Context) : (s.onCtx x f).nextOrder = s.nextOrder := rfl
@[simp] theorem State.onCtx_subs (x : Nat) (f : Context → Context) : (s.onCtx x f).subs = s.subs := rfl
@[simp] theorem State.onCtx_nextSub (x : Nat) (f : Context → Context) : (s.onCtx x f).nextSub = s.nextSub := rfl
@[simp] theorem State.onCtx_runs (x : Nat) (f : Context → Context) : (s.onCtx x f).runs = s.runs := rfl
@[simp] theorem State.onCtx_faults (x : Nat) (f : Context → Context) : (s.onCtx x f).faults = s.faults := rfl
@[simp] theorem State.onCtx_nextFault (x : Nat) (f : Context → Context) : (s.onCtx x f).nextFault = s.nextFault := rfl
@[simp] theorem State.onCtx_token (x : Nat) (f : Context → Context) : (s.onCtx x f).token = s.token := rfl
@[simp] theorem State.onCtx_fw (x : Nat) (f : Context → Context) : (s.onCtx x f).fw = s.fw := rfl
@[simp] theorem State.onCtx_ports (x : Nat) (f : Context → Context) : (s.onCtx x f).ports = s.ports := rfl
@[simp] theorem State.onCtx_hubs (x : Nat) (f : Context → Context) : (s.onCtx x f).hubs = s.hubs := rfl
@[simp] theorem State.onCtx_hbm (x : Nat) (f : Context → Context) : (s.onCtx x f).hbm = s.hbm := rfl
@[simp] theorem State.onCtx_lastQuad (x : Nat) (f : Context → Context) : (s.onCtx x f).lastQuad = s.lastQuad := rfl

/-! ### onLaunch -/
@[simp] theorem State.onLaunch_now (l : Nat) (f : Launch → Launch) : (s.onLaunch l f).now = s.now := rfl
@[simp] theorem State.onLaunch_powered (l : Nat) (f : Launch → Launch) : (s.onLaunch l f).powered = s.powered := rfl
@[simp] theorem State.onLaunch_free (l : Nat) (f : Launch → Launch) : (s.onLaunch l f).free = s.free := rfl
@[simp] theorem State.onLaunch_turns (l : Nat) (f : Launch → Launch) : (s.onLaunch l f).turns = s.turns := rfl
@[simp] theorem State.onLaunch_pending (l : Nat) (f : Launch → Launch) : (s.onLaunch l f).pending = s.pending := rfl
@[simp] theorem State.onLaunch_focus (l : Nat) (f : Launch → Launch) : (s.onLaunch l f).focus = s.focus := rfl
@[simp] theorem State.onLaunch_mem (l : Nat) (f : Launch → Launch) : (s.onLaunch l f).mem = s.mem := rfl
@[simp] theorem State.onLaunch_home (l : Nat) (f : Launch → Launch) : (s.onLaunch l f).home = s.home := rfl
@[simp] theorem State.onLaunch_dies (l : Nat) (f : Launch → Launch) : (s.onLaunch l f).dies = s.dies := rfl
@[simp] theorem State.onLaunch_cores (l : Nat) (f : Launch → Launch) : (s.onLaunch l f).cores = s.cores := rfl
@[simp] theorem State.onLaunch_quads (l : Nat) (f : Launch → Launch) : (s.onLaunch l f).quads = s.quads := rfl
@[simp] theorem State.onLaunch_blocks (l : Nat) (f : Launch → Launch) : (s.onLaunch l f).blocks = s.blocks := rfl
@[simp] theorem State.onLaunch_groups (l : Nat) (f : Launch → Launch) : (s.onLaunch l f).groups = s.groups := rfl
@[simp] theorem State.onLaunch_ops (l : Nat) (f : Launch → Launch) : (s.onLaunch l f).ops = s.ops := rfl
@[simp] theorem State.onLaunch_nextOp (l : Nat) (f : Launch → Launch) : (s.onLaunch l f).nextOp = s.nextOp := rfl
@[simp] theorem State.onLaunch_ctxs (l : Nat) (f : Launch → Launch) : (s.onLaunch l f).ctxs = s.ctxs := rfl
@[simp] theorem State.onLaunch_queues (l : Nat) (f : Launch → Launch) : (s.onLaunch l f).queues = s.queues := rfl
@[simp] theorem State.onLaunch_launches (l : Nat) (f : Launch → Launch) : (s.onLaunch l f).launches = s.launches.upd l f := rfl
@[simp] theorem State.onLaunch_nextLaunch (l : Nat) (f : Launch → Launch) : (s.onLaunch l f).nextLaunch = s.nextLaunch := rfl
@[simp] theorem State.onLaunch_nextOrder (l : Nat) (f : Launch → Launch) : (s.onLaunch l f).nextOrder = s.nextOrder := rfl
@[simp] theorem State.onLaunch_subs (l : Nat) (f : Launch → Launch) : (s.onLaunch l f).subs = s.subs := rfl
@[simp] theorem State.onLaunch_nextSub (l : Nat) (f : Launch → Launch) : (s.onLaunch l f).nextSub = s.nextSub := rfl
@[simp] theorem State.onLaunch_runs (l : Nat) (f : Launch → Launch) : (s.onLaunch l f).runs = s.runs := rfl
@[simp] theorem State.onLaunch_faults (l : Nat) (f : Launch → Launch) : (s.onLaunch l f).faults = s.faults := rfl
@[simp] theorem State.onLaunch_nextFault (l : Nat) (f : Launch → Launch) : (s.onLaunch l f).nextFault = s.nextFault := rfl
@[simp] theorem State.onLaunch_token (l : Nat) (f : Launch → Launch) : (s.onLaunch l f).token = s.token := rfl
@[simp] theorem State.onLaunch_fw (l : Nat) (f : Launch → Launch) : (s.onLaunch l f).fw = s.fw := rfl
@[simp] theorem State.onLaunch_ports (l : Nat) (f : Launch → Launch) : (s.onLaunch l f).ports = s.ports := rfl
@[simp] theorem State.onLaunch_hubs (l : Nat) (f : Launch → Launch) : (s.onLaunch l f).hubs = s.hubs := rfl
@[simp] theorem State.onLaunch_hbm (l : Nat) (f : Launch → Launch) : (s.onLaunch l f).hbm = s.hbm := rfl
@[simp] theorem State.onLaunch_lastQuad (l : Nat) (f : Launch → Launch) : (s.onLaunch l f).lastQuad = s.lastQuad := rfl

/-! ### onQueue -/
@[simp] theorem State.onQueue_now (q : Nat) (f : HQueue → HQueue) : (s.onQueue q f).now = s.now := rfl
@[simp] theorem State.onQueue_powered (q : Nat) (f : HQueue → HQueue) : (s.onQueue q f).powered = s.powered := rfl
@[simp] theorem State.onQueue_free (q : Nat) (f : HQueue → HQueue) : (s.onQueue q f).free = s.free := rfl
@[simp] theorem State.onQueue_turns (q : Nat) (f : HQueue → HQueue) : (s.onQueue q f).turns = s.turns := rfl
@[simp] theorem State.onQueue_pending (q : Nat) (f : HQueue → HQueue) : (s.onQueue q f).pending = s.pending := rfl
@[simp] theorem State.onQueue_focus (q : Nat) (f : HQueue → HQueue) : (s.onQueue q f).focus = s.focus := rfl
@[simp] theorem State.onQueue_mem (q : Nat) (f : HQueue → HQueue) : (s.onQueue q f).mem = s.mem := rfl
@[simp] theorem State.onQueue_home (q : Nat) (f : HQueue → HQueue) : (s.onQueue q f).home = s.home := rfl
@[simp] theorem State.onQueue_dies (q : Nat) (f : HQueue → HQueue) : (s.onQueue q f).dies = s.dies := rfl
@[simp] theorem State.onQueue_cores (q : Nat) (f : HQueue → HQueue) : (s.onQueue q f).cores = s.cores := rfl
@[simp] theorem State.onQueue_quads (q : Nat) (f : HQueue → HQueue) : (s.onQueue q f).quads = s.quads := rfl
@[simp] theorem State.onQueue_blocks (q : Nat) (f : HQueue → HQueue) : (s.onQueue q f).blocks = s.blocks := rfl
@[simp] theorem State.onQueue_groups (q : Nat) (f : HQueue → HQueue) : (s.onQueue q f).groups = s.groups := rfl
@[simp] theorem State.onQueue_ops (q : Nat) (f : HQueue → HQueue) : (s.onQueue q f).ops = s.ops := rfl
@[simp] theorem State.onQueue_nextOp (q : Nat) (f : HQueue → HQueue) : (s.onQueue q f).nextOp = s.nextOp := rfl
@[simp] theorem State.onQueue_ctxs (q : Nat) (f : HQueue → HQueue) : (s.onQueue q f).ctxs = s.ctxs := rfl
@[simp] theorem State.onQueue_queues (q : Nat) (f : HQueue → HQueue) : (s.onQueue q f).queues = s.queues.upd q f := rfl
@[simp] theorem State.onQueue_launches (q : Nat) (f : HQueue → HQueue) : (s.onQueue q f).launches = s.launches := rfl
@[simp] theorem State.onQueue_nextLaunch (q : Nat) (f : HQueue → HQueue) : (s.onQueue q f).nextLaunch = s.nextLaunch := rfl
@[simp] theorem State.onQueue_nextOrder (q : Nat) (f : HQueue → HQueue) : (s.onQueue q f).nextOrder = s.nextOrder := rfl
@[simp] theorem State.onQueue_subs (q : Nat) (f : HQueue → HQueue) : (s.onQueue q f).subs = s.subs := rfl
@[simp] theorem State.onQueue_nextSub (q : Nat) (f : HQueue → HQueue) : (s.onQueue q f).nextSub = s.nextSub := rfl
@[simp] theorem State.onQueue_runs (q : Nat) (f : HQueue → HQueue) : (s.onQueue q f).runs = s.runs := rfl
@[simp] theorem State.onQueue_faults (q : Nat) (f : HQueue → HQueue) : (s.onQueue q f).faults = s.faults := rfl
@[simp] theorem State.onQueue_nextFault (q : Nat) (f : HQueue → HQueue) : (s.onQueue q f).nextFault = s.nextFault := rfl
@[simp] theorem State.onQueue_token (q : Nat) (f : HQueue → HQueue) : (s.onQueue q f).token = s.token := rfl
@[simp] theorem State.onQueue_fw (q : Nat) (f : HQueue → HQueue) : (s.onQueue q f).fw = s.fw := rfl
@[simp] theorem State.onQueue_ports (q : Nat) (f : HQueue → HQueue) : (s.onQueue q f).ports = s.ports := rfl
@[simp] theorem State.onQueue_hubs (q : Nat) (f : HQueue → HQueue) : (s.onQueue q f).hubs = s.hubs := rfl
@[simp] theorem State.onQueue_hbm (q : Nat) (f : HQueue → HQueue) : (s.onQueue q f).hbm = s.hbm := rfl
@[simp] theorem State.onQueue_lastQuad (q : Nat) (f : HQueue → HQueue) : (s.onQueue q f).lastQuad = s.lastQuad := rfl

/-! ### onOp -/
@[simp] theorem State.onOp_now (i : Nat) (f : Op → Op) : (s.onOp i f).now = s.now := rfl
@[simp] theorem State.onOp_powered (i : Nat) (f : Op → Op) : (s.onOp i f).powered = s.powered := rfl
@[simp] theorem State.onOp_free (i : Nat) (f : Op → Op) : (s.onOp i f).free = s.free := rfl
@[simp] theorem State.onOp_turns (i : Nat) (f : Op → Op) : (s.onOp i f).turns = s.turns := rfl
@[simp] theorem State.onOp_pending (i : Nat) (f : Op → Op) : (s.onOp i f).pending = s.pending := rfl
@[simp] theorem State.onOp_focus (i : Nat) (f : Op → Op) : (s.onOp i f).focus = s.focus := rfl
@[simp] theorem State.onOp_mem (i : Nat) (f : Op → Op) : (s.onOp i f).mem = s.mem := rfl
@[simp] theorem State.onOp_home (i : Nat) (f : Op → Op) : (s.onOp i f).home = s.home := rfl
@[simp] theorem State.onOp_dies (i : Nat) (f : Op → Op) : (s.onOp i f).dies = s.dies := rfl
@[simp] theorem State.onOp_cores (i : Nat) (f : Op → Op) : (s.onOp i f).cores = s.cores := rfl
@[simp] theorem State.onOp_quads (i : Nat) (f : Op → Op) : (s.onOp i f).quads = s.quads := rfl
@[simp] theorem State.onOp_blocks (i : Nat) (f : Op → Op) : (s.onOp i f).blocks = s.blocks := rfl
@[simp] theorem State.onOp_groups (i : Nat) (f : Op → Op) : (s.onOp i f).groups = s.groups := rfl
@[simp] theorem State.onOp_ops (i : Nat) (f : Op → Op) : (s.onOp i f).ops = s.ops.upd i f := rfl
@[simp] theorem State.onOp_nextOp (i : Nat) (f : Op → Op) : (s.onOp i f).nextOp = s.nextOp := rfl
@[simp] theorem State.onOp_ctxs (i : Nat) (f : Op → Op) : (s.onOp i f).ctxs = s.ctxs := rfl
@[simp] theorem State.onOp_queues (i : Nat) (f : Op → Op) : (s.onOp i f).queues = s.queues := rfl
@[simp] theorem State.onOp_launches (i : Nat) (f : Op → Op) : (s.onOp i f).launches = s.launches := rfl
@[simp] theorem State.onOp_nextLaunch (i : Nat) (f : Op → Op) : (s.onOp i f).nextLaunch = s.nextLaunch := rfl
@[simp] theorem State.onOp_nextOrder (i : Nat) (f : Op → Op) : (s.onOp i f).nextOrder = s.nextOrder := rfl
@[simp] theorem State.onOp_subs (i : Nat) (f : Op → Op) : (s.onOp i f).subs = s.subs := rfl
@[simp] theorem State.onOp_nextSub (i : Nat) (f : Op → Op) : (s.onOp i f).nextSub = s.nextSub := rfl
@[simp] theorem State.onOp_runs (i : Nat) (f : Op → Op) : (s.onOp i f).runs = s.runs := rfl
@[simp] theorem State.onOp_faults (i : Nat) (f : Op → Op) : (s.onOp i f).faults = s.faults := rfl
@[simp] theorem State.onOp_nextFault (i : Nat) (f : Op → Op) : (s.onOp i f).nextFault = s.nextFault := rfl
@[simp] theorem State.onOp_token (i : Nat) (f : Op → Op) : (s.onOp i f).token = s.token := rfl
@[simp] theorem State.onOp_fw (i : Nat) (f : Op → Op) : (s.onOp i f).fw = s.fw := rfl
@[simp] theorem State.onOp_ports (i : Nat) (f : Op → Op) : (s.onOp i f).ports = s.ports := rfl
@[simp] theorem State.onOp_hubs (i : Nat) (f : Op → Op) : (s.onOp i f).hubs = s.hubs := rfl
@[simp] theorem State.onOp_hbm (i : Nat) (f : Op → Op) : (s.onOp i f).hbm = s.hbm := rfl
@[simp] theorem State.onOp_lastQuad (i : Nat) (f : Op → Op) : (s.onOp i f).lastQuad = s.lastQuad := rfl

/-! ### onRun -/
@[simp] theorem State.onRun_now (r : Nat) (f : GraphRun → GraphRun) : (s.onRun r f).now = s.now := rfl
@[simp] theorem State.onRun_powered (r : Nat) (f : GraphRun → GraphRun) : (s.onRun r f).powered = s.powered := rfl
@[simp] theorem State.onRun_free (r : Nat) (f : GraphRun → GraphRun) : (s.onRun r f).free = s.free := rfl
@[simp] theorem State.onRun_turns (r : Nat) (f : GraphRun → GraphRun) : (s.onRun r f).turns = s.turns := rfl
@[simp] theorem State.onRun_pending (r : Nat) (f : GraphRun → GraphRun) : (s.onRun r f).pending = s.pending := rfl
@[simp] theorem State.onRun_focus (r : Nat) (f : GraphRun → GraphRun) : (s.onRun r f).focus = s.focus := rfl
@[simp] theorem State.onRun_mem (r : Nat) (f : GraphRun → GraphRun) : (s.onRun r f).mem = s.mem := rfl
@[simp] theorem State.onRun_home (r : Nat) (f : GraphRun → GraphRun) : (s.onRun r f).home = s.home := rfl
@[simp] theorem State.onRun_dies (r : Nat) (f : GraphRun → GraphRun) : (s.onRun r f).dies = s.dies := rfl
@[simp] theorem State.onRun_cores (r : Nat) (f : GraphRun → GraphRun) : (s.onRun r f).cores = s.cores := rfl
@[simp] theorem State.onRun_quads (r : Nat) (f : GraphRun → GraphRun) : (s.onRun r f).quads = s.quads := rfl
@[simp] theorem State.onRun_blocks (r : Nat) (f : GraphRun → GraphRun) : (s.onRun r f).blocks = s.blocks := rfl
@[simp] theorem State.onRun_groups (r : Nat) (f : GraphRun → GraphRun) : (s.onRun r f).groups = s.groups := rfl
@[simp] theorem State.onRun_ops (r : Nat) (f : GraphRun → GraphRun) : (s.onRun r f).ops = s.ops := rfl
@[simp] theorem State.onRun_nextOp (r : Nat) (f : GraphRun → GraphRun) : (s.onRun r f).nextOp = s.nextOp := rfl
@[simp] theorem State.onRun_ctxs (r : Nat) (f : GraphRun → GraphRun) : (s.onRun r f).ctxs = s.ctxs := rfl
@[simp] theorem State.onRun_queues (r : Nat) (f : GraphRun → GraphRun) : (s.onRun r f).queues = s.queues := rfl
@[simp] theorem State.onRun_launches (r : Nat) (f : GraphRun → GraphRun) : (s.onRun r f).launches = s.launches := rfl
@[simp] theorem State.onRun_nextLaunch (r : Nat) (f : GraphRun → GraphRun) : (s.onRun r f).nextLaunch = s.nextLaunch := rfl
@[simp] theorem State.onRun_nextOrder (r : Nat) (f : GraphRun → GraphRun) : (s.onRun r f).nextOrder = s.nextOrder := rfl
@[simp] theorem State.onRun_subs (r : Nat) (f : GraphRun → GraphRun) : (s.onRun r f).subs = s.subs := rfl
@[simp] theorem State.onRun_nextSub (r : Nat) (f : GraphRun → GraphRun) : (s.onRun r f).nextSub = s.nextSub := rfl
@[simp] theorem State.onRun_runs (r : Nat) (f : GraphRun → GraphRun) : (s.onRun r f).runs = s.runs.upd r f := rfl
@[simp] theorem State.onRun_faults (r : Nat) (f : GraphRun → GraphRun) : (s.onRun r f).faults = s.faults := rfl
@[simp] theorem State.onRun_nextFault (r : Nat) (f : GraphRun → GraphRun) : (s.onRun r f).nextFault = s.nextFault := rfl
@[simp] theorem State.onRun_token (r : Nat) (f : GraphRun → GraphRun) : (s.onRun r f).token = s.token := rfl
@[simp] theorem State.onRun_fw (r : Nat) (f : GraphRun → GraphRun) : (s.onRun r f).fw = s.fw := rfl
@[simp] theorem State.onRun_ports (r : Nat) (f : GraphRun → GraphRun) : (s.onRun r f).ports = s.ports := rfl
@[simp] theorem State.onRun_hubs (r : Nat) (f : GraphRun → GraphRun) : (s.onRun r f).hubs = s.hubs := rfl
@[simp] theorem State.onRun_hbm (r : Nat) (f : GraphRun → GraphRun) : (s.onRun r f).hbm = s.hbm := rfl
@[simp] theorem State.onRun_lastQuad (r : Nat) (f : GraphRun → GraphRun) : (s.onRun r f).lastQuad = s.lastQuad := rfl

/-! ### onHome -/
@[simp] theorem State.onHome_now (n : Nat) (f : HomeLine → HomeLine) : (s.onHome n f).now = s.now := rfl
@[simp] theorem State.onHome_powered (n : Nat) (f : HomeLine → HomeLine) : (s.onHome n f).powered = s.powered := rfl
@[simp] theorem State.onHome_free (n : Nat) (f : HomeLine → HomeLine) : (s.onHome n f).free = s.free := rfl
@[simp] theorem State.onHome_turns (n : Nat) (f : HomeLine → HomeLine) : (s.onHome n f).turns = s.turns := rfl
@[simp] theorem State.onHome_pending (n : Nat) (f : HomeLine → HomeLine) : (s.onHome n f).pending = s.pending := rfl
@[simp] theorem State.onHome_focus (n : Nat) (f : HomeLine → HomeLine) : (s.onHome n f).focus = s.focus := rfl
@[simp] theorem State.onHome_mem (n : Nat) (f : HomeLine → HomeLine) : (s.onHome n f).mem = s.mem := rfl
@[simp] theorem State.onHome_home (n : Nat) (f : HomeLine → HomeLine) : (s.onHome n f).home = s.home.put n (f (s.homeLine n)) := rfl
@[simp] theorem State.onHome_dies (n : Nat) (f : HomeLine → HomeLine) : (s.onHome n f).dies = s.dies := rfl
@[simp] theorem State.onHome_cores (n : Nat) (f : HomeLine → HomeLine) : (s.onHome n f).cores = s.cores := rfl
@[simp] theorem State.onHome_quads (n : Nat) (f : HomeLine → HomeLine) : (s.onHome n f).quads = s.quads := rfl
@[simp] theorem State.onHome_blocks (n : Nat) (f : HomeLine → HomeLine) : (s.onHome n f).blocks = s.blocks := rfl
@[simp] theorem State.onHome_groups (n : Nat) (f : HomeLine → HomeLine) : (s.onHome n f).groups = s.groups := rfl
@[simp] theorem State.onHome_ops (n : Nat) (f : HomeLine → HomeLine) : (s.onHome n f).ops = s.ops := rfl
@[simp] theorem State.onHome_nextOp (n : Nat) (f : HomeLine → HomeLine) : (s.onHome n f).nextOp = s.nextOp := rfl
@[simp] theorem State.onHome_ctxs (n : Nat) (f : HomeLine → HomeLine) : (s.onHome n f).ctxs = s.ctxs := rfl
@[simp] theorem State.onHome_queues (n : Nat) (f : HomeLine → HomeLine) : (s.onHome n f).queues = s.queues := rfl
@[simp] theorem State.onHome_launches (n : Nat) (f : HomeLine → HomeLine) : (s.onHome n f).launches = s.launches := rfl
@[simp] theorem State.onHome_nextLaunch (n : Nat) (f : HomeLine → HomeLine) : (s.onHome n f).nextLaunch = s.nextLaunch := rfl
@[simp] theorem State.onHome_nextOrder (n : Nat) (f : HomeLine → HomeLine) : (s.onHome n f).nextOrder = s.nextOrder := rfl
@[simp] theorem State.onHome_subs (n : Nat) (f : HomeLine → HomeLine) : (s.onHome n f).subs = s.subs := rfl
@[simp] theorem State.onHome_nextSub (n : Nat) (f : HomeLine → HomeLine) : (s.onHome n f).nextSub = s.nextSub := rfl
@[simp] theorem State.onHome_runs (n : Nat) (f : HomeLine → HomeLine) : (s.onHome n f).runs = s.runs := rfl
@[simp] theorem State.onHome_faults (n : Nat) (f : HomeLine → HomeLine) : (s.onHome n f).faults = s.faults := rfl
@[simp] theorem State.onHome_nextFault (n : Nat) (f : HomeLine → HomeLine) : (s.onHome n f).nextFault = s.nextFault := rfl
@[simp] theorem State.onHome_token (n : Nat) (f : HomeLine → HomeLine) : (s.onHome n f).token = s.token := rfl
@[simp] theorem State.onHome_fw (n : Nat) (f : HomeLine → HomeLine) : (s.onHome n f).fw = s.fw := rfl
@[simp] theorem State.onHome_ports (n : Nat) (f : HomeLine → HomeLine) : (s.onHome n f).ports = s.ports := rfl
@[simp] theorem State.onHome_hubs (n : Nat) (f : HomeLine → HomeLine) : (s.onHome n f).hubs = s.hubs := rfl
@[simp] theorem State.onHome_hbm (n : Nat) (f : HomeLine → HomeLine) : (s.onHome n f).hbm = s.hbm := rfl
@[simp] theorem State.onHome_lastQuad (n : Nat) (f : HomeLine → HomeLine) : (s.onHome n f).lastQuad = s.lastQuad := rfl

/-! ### onFocus -/
@[simp] theorem State.onFocus_now (f : Focus → Focus) : (s.onFocus f).now = s.now := rfl
@[simp] theorem State.onFocus_powered (f : Focus → Focus) : (s.onFocus f).powered = s.powered := rfl
@[simp] theorem State.onFocus_free (f : Focus → Focus) : (s.onFocus f).free = s.free := rfl
@[simp] theorem State.onFocus_turns (f : Focus → Focus) : (s.onFocus f).turns = s.turns := rfl
@[simp] theorem State.onFocus_pending (f : Focus → Focus) : (s.onFocus f).pending = s.pending := rfl
@[simp] theorem State.onFocus_focus (f : Focus → Focus) : (s.onFocus f).focus = f s.focus := rfl
@[simp] theorem State.onFocus_mem (f : Focus → Focus) : (s.onFocus f).mem = s.mem := rfl
@[simp] theorem State.onFocus_home (f : Focus → Focus) : (s.onFocus f).home = s.home := rfl
@[simp] theorem State.onFocus_dies (f : Focus → Focus) : (s.onFocus f).dies = s.dies := rfl
@[simp] theorem State.onFocus_cores (f : Focus → Focus) : (s.onFocus f).cores = s.cores := rfl
@[simp] theorem State.onFocus_quads (f : Focus → Focus) : (s.onFocus f).quads = s.quads := rfl
@[simp] theorem State.onFocus_blocks (f : Focus → Focus) : (s.onFocus f).blocks = s.blocks := rfl
@[simp] theorem State.onFocus_groups (f : Focus → Focus) : (s.onFocus f).groups = s.groups := rfl
@[simp] theorem State.onFocus_ops (f : Focus → Focus) : (s.onFocus f).ops = s.ops := rfl
@[simp] theorem State.onFocus_nextOp (f : Focus → Focus) : (s.onFocus f).nextOp = s.nextOp := rfl
@[simp] theorem State.onFocus_ctxs (f : Focus → Focus) : (s.onFocus f).ctxs = s.ctxs := rfl
@[simp] theorem State.onFocus_queues (f : Focus → Focus) : (s.onFocus f).queues = s.queues := rfl
@[simp] theorem State.onFocus_launches (f : Focus → Focus) : (s.onFocus f).launches = s.launches := rfl
@[simp] theorem State.onFocus_nextLaunch (f : Focus → Focus) : (s.onFocus f).nextLaunch = s.nextLaunch := rfl
@[simp] theorem State.onFocus_nextOrder (f : Focus → Focus) : (s.onFocus f).nextOrder = s.nextOrder := rfl
@[simp] theorem State.onFocus_subs (f : Focus → Focus) : (s.onFocus f).subs = s.subs := rfl
@[simp] theorem State.onFocus_nextSub (f : Focus → Focus) : (s.onFocus f).nextSub = s.nextSub := rfl
@[simp] theorem State.onFocus_runs (f : Focus → Focus) : (s.onFocus f).runs = s.runs := rfl
@[simp] theorem State.onFocus_faults (f : Focus → Focus) : (s.onFocus f).faults = s.faults := rfl
@[simp] theorem State.onFocus_nextFault (f : Focus → Focus) : (s.onFocus f).nextFault = s.nextFault := rfl
@[simp] theorem State.onFocus_token (f : Focus → Focus) : (s.onFocus f).token = s.token := rfl
@[simp] theorem State.onFocus_fw (f : Focus → Focus) : (s.onFocus f).fw = s.fw := rfl
@[simp] theorem State.onFocus_ports (f : Focus → Focus) : (s.onFocus f).ports = s.ports := rfl
@[simp] theorem State.onFocus_hubs (f : Focus → Focus) : (s.onFocus f).hubs = s.hubs := rfl
@[simp] theorem State.onFocus_hbm (f : Focus → Focus) : (s.onFocus f).hbm = s.hbm := rfl
@[simp] theorem State.onFocus_lastQuad (f : Focus → Focus) : (s.onFocus f).lastQuad = s.lastQuad := rfl

/-! ### onFw -/
@[simp] theorem State.onFw_now (f : Firmware → Firmware) : (s.onFw f).now = s.now := rfl
@[simp] theorem State.onFw_powered (f : Firmware → Firmware) : (s.onFw f).powered = s.powered := rfl
@[simp] theorem State.onFw_free (f : Firmware → Firmware) : (s.onFw f).free = s.free := rfl
@[simp] theorem State.onFw_turns (f : Firmware → Firmware) : (s.onFw f).turns = s.turns := rfl
@[simp] theorem State.onFw_pending (f : Firmware → Firmware) : (s.onFw f).pending = s.pending := rfl
@[simp] theorem State.onFw_focus (f : Firmware → Firmware) : (s.onFw f).focus = s.focus := rfl
@[simp] theorem State.onFw_mem (f : Firmware → Firmware) : (s.onFw f).mem = s.mem := rfl
@[simp] theorem State.onFw_home (f : Firmware → Firmware) : (s.onFw f).home = s.home := rfl
@[simp] theorem State.onFw_dies (f : Firmware → Firmware) : (s.onFw f).dies = s.dies := rfl
@[simp] theorem State.onFw_cores (f : Firmware → Firmware) : (s.onFw f).cores = s.cores := rfl
@[simp] theorem State.onFw_quads (f : Firmware → Firmware) : (s.onFw f).quads = s.quads := rfl
@[simp] theorem State.onFw_blocks (f : Firmware → Firmware) : (s.onFw f).blocks = s.blocks := rfl
@[simp] theorem State.onFw_groups (f : Firmware → Firmware) : (s.onFw f).groups = s.groups := rfl
@[simp] theorem State.onFw_ops (f : Firmware → Firmware) : (s.onFw f).ops = s.ops := rfl
@[simp] theorem State.onFw_nextOp (f : Firmware → Firmware) : (s.onFw f).nextOp = s.nextOp := rfl
@[simp] theorem State.onFw_ctxs (f : Firmware → Firmware) : (s.onFw f).ctxs = s.ctxs := rfl
@[simp] theorem State.onFw_queues (f : Firmware → Firmware) : (s.onFw f).queues = s.queues := rfl
@[simp] theorem State.onFw_launches (f : Firmware → Firmware) : (s.onFw f).launches = s.launches := rfl
@[simp] theorem State.onFw_nextLaunch (f : Firmware → Firmware) : (s.onFw f).nextLaunch = s.nextLaunch := rfl
@[simp] theorem State.onFw_nextOrder (f : Firmware → Firmware) : (s.onFw f).nextOrder = s.nextOrder := rfl
@[simp] theorem State.onFw_subs (f : Firmware → Firmware) : (s.onFw f).subs = s.subs := rfl
@[simp] theorem State.onFw_nextSub (f : Firmware → Firmware) : (s.onFw f).nextSub = s.nextSub := rfl
@[simp] theorem State.onFw_runs (f : Firmware → Firmware) : (s.onFw f).runs = s.runs := rfl
@[simp] theorem State.onFw_faults (f : Firmware → Firmware) : (s.onFw f).faults = s.faults := rfl
@[simp] theorem State.onFw_nextFault (f : Firmware → Firmware) : (s.onFw f).nextFault = s.nextFault := rfl
@[simp] theorem State.onFw_token (f : Firmware → Firmware) : (s.onFw f).token = s.token := rfl
@[simp] theorem State.onFw_fw (f : Firmware → Firmware) : (s.onFw f).fw = f s.fw := rfl
@[simp] theorem State.onFw_ports (f : Firmware → Firmware) : (s.onFw f).ports = s.ports := rfl
@[simp] theorem State.onFw_hubs (f : Firmware → Firmware) : (s.onFw f).hubs = s.hubs := rfl
@[simp] theorem State.onFw_hbm (f : Firmware → Firmware) : (s.onFw f).hbm = s.hbm := rfl
@[simp] theorem State.onFw_lastQuad (f : Firmware → Firmware) : (s.onFw f).lastQuad = s.lastQuad := rfl

/-! ### post -/
@[simp] theorem State.post_now (e : Instr) : (s.post e).now = s.now := rfl
@[simp] theorem State.post_powered (e : Instr) : (s.post e).powered = s.powered := rfl
@[simp] theorem State.post_free (e : Instr) : (s.post e).free = s.free := rfl
@[simp] theorem State.post_turns (e : Instr) : (s.post e).turns = s.turns := rfl
@[simp] theorem State.post_pending (e : Instr) : (s.post e).pending = s.pending ++ [e] := rfl
@[simp] theorem State.post_focus (e : Instr) : (s.post e).focus = s.focus := rfl
@[simp] theorem State.post_mem (e : Instr) : (s.post e).mem = s.mem := rfl
@[simp] theorem State.post_home (e : Instr) : (s.post e).home = s.home := rfl
@[simp] theorem State.post_dies (e : Instr) : (s.post e).dies = s.dies := rfl
@[simp] theorem State.post_cores (e : Instr) : (s.post e).cores = s.cores := rfl
@[simp] theorem State.post_quads (e : Instr) : (s.post e).quads = s.quads := rfl
@[simp] theorem State.post_blocks (e : Instr) : (s.post e).blocks = s.blocks := rfl
@[simp] theorem State.post_groups (e : Instr) : (s.post e).groups = s.groups := rfl
@[simp] theorem State.post_ops (e : Instr) : (s.post e).ops = s.ops := rfl
@[simp] theorem State.post_nextOp (e : Instr) : (s.post e).nextOp = s.nextOp := rfl
@[simp] theorem State.post_ctxs (e : Instr) : (s.post e).ctxs = s.ctxs := rfl
@[simp] theorem State.post_queues (e : Instr) : (s.post e).queues = s.queues := rfl
@[simp] theorem State.post_launches (e : Instr) : (s.post e).launches = s.launches := rfl
@[simp] theorem State.post_nextLaunch (e : Instr) : (s.post e).nextLaunch = s.nextLaunch := rfl
@[simp] theorem State.post_nextOrder (e : Instr) : (s.post e).nextOrder = s.nextOrder := rfl
@[simp] theorem State.post_subs (e : Instr) : (s.post e).subs = s.subs := rfl
@[simp] theorem State.post_nextSub (e : Instr) : (s.post e).nextSub = s.nextSub := rfl
@[simp] theorem State.post_runs (e : Instr) : (s.post e).runs = s.runs := rfl
@[simp] theorem State.post_faults (e : Instr) : (s.post e).faults = s.faults := rfl
@[simp] theorem State.post_nextFault (e : Instr) : (s.post e).nextFault = s.nextFault := rfl
@[simp] theorem State.post_token (e : Instr) : (s.post e).token = s.token := rfl
@[simp] theorem State.post_fw (e : Instr) : (s.post e).fw = s.fw := rfl
@[simp] theorem State.post_ports (e : Instr) : (s.post e).ports = s.ports := rfl
@[simp] theorem State.post_hubs (e : Instr) : (s.post e).hubs = s.hubs := rfl
@[simp] theorem State.post_hbm (e : Instr) : (s.post e).hbm = s.hbm := rfl
@[simp] theorem State.post_lastQuad (e : Instr) : (s.post e).lastQuad = s.lastQuad := rfl

/-! ### later -/
@[simp] theorem State.later_now (e : Instr) : (s.later e).now = s.now + 1 := rfl
@[simp] theorem State.later_powered (e : Instr) : (s.later e).powered = s.powered := rfl
@[simp] theorem State.later_free (e : Instr) : (s.later e).free = s.free := rfl
@[simp] theorem State.later_turns (e : Instr) : (s.later e).turns = s.turns := rfl
@[simp] theorem State.later_pending (e : Instr) : (s.later e).pending = s.pending ++ [e] := rfl
@[simp] theorem State.later_focus (e : Instr) : (s.later e).focus = s.focus := rfl
@[simp] theorem State.later_mem (e : Instr) : (s.later e).mem = s.mem := rfl
@[simp] theorem State.later_home (e : Instr) : (s.later e).home = s.home := rfl
@[simp] theorem State.later_dies (e : Instr) : (s.later e).dies = s.dies := rfl
@[simp] theorem State.later_cores (e : Instr) : (s.later e).cores = s.cores := rfl
@[simp] theorem State.later_quads (e : Instr) : (s.later e).quads = s.quads := rfl
@[simp] theorem State.later_blocks (e : Instr) : (s.later e).blocks = s.blocks := rfl
@[simp] theorem State.later_groups (e : Instr) : (s.later e).groups = s.groups := rfl
@[simp] theorem State.later_ops (e : Instr) : (s.later e).ops = s.ops := rfl
@[simp] theorem State.later_nextOp (e : Instr) : (s.later e).nextOp = s.nextOp := rfl
@[simp] theorem State.later_ctxs (e : Instr) : (s.later e).ctxs = s.ctxs := rfl
@[simp] theorem State.later_queues (e : Instr) : (s.later e).queues = s.queues := rfl
@[simp] theorem State.later_launches (e : Instr) : (s.later e).launches = s.launches := rfl
@[simp] theorem State.later_nextLaunch (e : Instr) : (s.later e).nextLaunch = s.nextLaunch := rfl
@[simp] theorem State.later_nextOrder (e : Instr) : (s.later e).nextOrder = s.nextOrder := rfl
@[simp] theorem State.later_subs (e : Instr) : (s.later e).subs = s.subs := rfl
@[simp] theorem State.later_nextSub (e : Instr) : (s.later e).nextSub = s.nextSub := rfl
@[simp] theorem State.later_runs (e : Instr) : (s.later e).runs = s.runs := rfl
@[simp] theorem State.later_faults (e : Instr) : (s.later e).faults = s.faults := rfl
@[simp] theorem State.later_nextFault (e : Instr) : (s.later e).nextFault = s.nextFault := rfl
@[simp] theorem State.later_token (e : Instr) : (s.later e).token = s.token := rfl
@[simp] theorem State.later_fw (e : Instr) : (s.later e).fw = s.fw := rfl
@[simp] theorem State.later_ports (e : Instr) : (s.later e).ports = s.ports := rfl
@[simp] theorem State.later_hubs (e : Instr) : (s.later e).hubs = s.hubs := rfl
@[simp] theorem State.later_hbm (e : Instr) : (s.later e).hbm = s.hbm := rfl
@[simp] theorem State.later_lastQuad (e : Instr) : (s.later e).lastQuad = s.lastQuad := rfl

/-! ### regWrite -/
@[simp] theorem State.regWrite_now (bs : List (Nat × Byte)) : (s.regWrite bs).now = s.now := rfl
@[simp] theorem State.regWrite_powered (bs : List (Nat × Byte)) : (s.regWrite bs).powered = s.powered := rfl
@[simp] theorem State.regWrite_free (bs : List (Nat × Byte)) : (s.regWrite bs).free = s.free := rfl
@[simp] theorem State.regWrite_turns (bs : List (Nat × Byte)) : (s.regWrite bs).turns = s.turns := rfl
@[simp] theorem State.regWrite_pending (bs : List (Nat × Byte)) : (s.regWrite bs).pending = s.pending := rfl
@[simp] theorem State.regWrite_focus (bs : List (Nat × Byte)) : (s.regWrite bs).focus = s.focus := rfl
@[simp] theorem State.regWrite_mem (bs : List (Nat × Byte)) : (s.regWrite bs).mem = putBytes s.mem bs := rfl
@[simp] theorem State.regWrite_home (bs : List (Nat × Byte)) : (s.regWrite bs).home = s.home := rfl
@[simp] theorem State.regWrite_dies (bs : List (Nat × Byte)) : (s.regWrite bs).dies = s.dies := rfl
@[simp] theorem State.regWrite_cores (bs : List (Nat × Byte)) : (s.regWrite bs).cores = s.cores := rfl
@[simp] theorem State.regWrite_quads (bs : List (Nat × Byte)) : (s.regWrite bs).quads = s.quads := rfl
@[simp] theorem State.regWrite_blocks (bs : List (Nat × Byte)) : (s.regWrite bs).blocks = s.blocks := rfl
@[simp] theorem State.regWrite_groups (bs : List (Nat × Byte)) : (s.regWrite bs).groups = s.groups := rfl
@[simp] theorem State.regWrite_ops (bs : List (Nat × Byte)) : (s.regWrite bs).ops = s.ops := rfl
@[simp] theorem State.regWrite_nextOp (bs : List (Nat × Byte)) : (s.regWrite bs).nextOp = s.nextOp := rfl
@[simp] theorem State.regWrite_ctxs (bs : List (Nat × Byte)) : (s.regWrite bs).ctxs = s.ctxs := rfl
@[simp] theorem State.regWrite_queues (bs : List (Nat × Byte)) : (s.regWrite bs).queues = s.queues := rfl
@[simp] theorem State.regWrite_launches (bs : List (Nat × Byte)) : (s.regWrite bs).launches = s.launches := rfl
@[simp] theorem State.regWrite_nextLaunch (bs : List (Nat × Byte)) : (s.regWrite bs).nextLaunch = s.nextLaunch := rfl
@[simp] theorem State.regWrite_nextOrder (bs : List (Nat × Byte)) : (s.regWrite bs).nextOrder = s.nextOrder := rfl
@[simp] theorem State.regWrite_subs (bs : List (Nat × Byte)) : (s.regWrite bs).subs = s.subs := rfl
@[simp] theorem State.regWrite_nextSub (bs : List (Nat × Byte)) : (s.regWrite bs).nextSub = s.nextSub := rfl
@[simp] theorem State.regWrite_runs (bs : List (Nat × Byte)) : (s.regWrite bs).runs = s.runs := rfl
@[simp] theorem State.regWrite_faults (bs : List (Nat × Byte)) : (s.regWrite bs).faults = s.faults := rfl
@[simp] theorem State.regWrite_nextFault (bs : List (Nat × Byte)) : (s.regWrite bs).nextFault = s.nextFault := rfl
@[simp] theorem State.regWrite_token (bs : List (Nat × Byte)) : (s.regWrite bs).token = s.token := rfl
@[simp] theorem State.regWrite_fw (bs : List (Nat × Byte)) : (s.regWrite bs).fw = s.fw := rfl
@[simp] theorem State.regWrite_ports (bs : List (Nat × Byte)) : (s.regWrite bs).ports = s.ports := rfl
@[simp] theorem State.regWrite_hubs (bs : List (Nat × Byte)) : (s.regWrite bs).hubs = s.hubs := rfl
@[simp] theorem State.regWrite_hbm (bs : List (Nat × Byte)) : (s.regWrite bs).hbm = s.hbm := rfl
@[simp] theorem State.regWrite_lastQuad (bs : List (Nat × Byte)) : (s.regWrite bs).lastQuad = s.lastQuad := rfl

end Sys2Proof.Machine
end

