-- ==== Sys2Proof/Laws/Memory.lean ====
section
/-! SUPPORT. Laws of memory: every operation that writes it keeps its canonical form, reset has that form, and
what a read gives after a write. -/

namespace Sys2Proof.Machine

/-! ### The canonical form -/

theorem putBytes_wf {m : Store Byte} (h : Memory.wf m) (bs : List (Nat × Byte)) : Memory.wf (putBytes m bs) := by
  induction bs generalizing m with
  | nil => exact h
  | cons b t ih => exact ih (Store.wf_put h b.1 b.2)

/-- A step that keeps the canonical form of memory. -/
def KeepsWf (f : State → State) : Prop := ∀ s, Memory.wf s.mem → Memory.wf (f s).mem

theorem foldl_wf {α : Type} (f : State → α → State) (hf : ∀ s a, Memory.wf s.mem → Memory.wf (f s a).mem) (l : List α) :
    ∀ s : State, Memory.wf s.mem → Memory.wf (l.foldl f s).mem := by
  induction l with
  | nil => exact fun _ h => h
  | cons a t ih => exact fun s h => ih _ (hf s a h)

theorem foldl_fst_wf {α β : Type} (f : State × β → α → State × β)
    (hf : ∀ x a, Memory.wf x.1.mem → Memory.wf (f x a).1.mem) (l : List α) :
    ∀ x : State × β, Memory.wf x.1.mem → Memory.wf (l.foldl f x).1.mem := by
  induction l with
  | nil => exact fun _ h => h
  | cons a t ih => exact fun x h => ih _ (hf x a h)

theorem reset_wf : Memory.wf State.reset.mem := rfl

@[simp] theorem State.clearError_mem (s : State) (n : Nat) : (s.clearError n).mem = s.mem := by
  unfold State.clearError; split <;> rfl
@[simp] theorem State.raiseSettled_mem (s : State) (l : Nat) (t : Times) : (s.raiseSettled l t).mem = s.mem := by
  unfold State.raiseSettled; dsimp only; split <;> rfl
@[simp] theorem State.onSplit_mem (s : State) (g u : Nat) (f : Split → Split) : (s.onSplit g u f).mem = s.mem := rfl
@[simp] theorem State.noteTimes_mem (s : State) (g u : Nat) (t : Times) : (s.noteTimes g u t).mem = s.mem := by
  simp [State.noteTimes]
/-- A fold of steps that leave memory leaves it. -/
theorem foldl_mem {α : Type} (f : State → α → State) (hf : ∀ s a, (f s a).mem = s.mem) (l : List α) :
    ∀ s : State, (l.foldl f s).mem = s.mem := by
  induction l with
  | nil => exact fun _ => rfl
  | cons a t ih => exact fun s => (ih _).trans (hf s a)

@[simp] theorem State.noteGathered_mem (s : State) (core n : Nat) (red : Bool) (t : Times) :
    (s.noteGathered core n red t).mem = s.mem := by
  unfold State.noteGathered
  exact foldl_mem (fun (st : State) g => st.onGroup g (fun k => k.mapSplits (fun x => x.ungather n red t))) (fun _ _ => rfl) _ s
@[simp] theorem State.applyAt_mem (s : State) (n c d k : Nat) (bs : List (Nat × Byte)) :
    (s.applyAt n c d k bs).1.mem = putBytes s.mem bs := rfl

theorem applyAt_wf (s : State) (n c d k : Nat) (bs : List (Nat × Byte)) (h : Memory.wf s.mem) :
    Memory.wf (s.applyAt n c d k bs).1.mem := by
  rw [State.applyAt_mem]; exact putBytes_wf h bs

theorem regWrite_wf (s : State) (bs : List (Nat × Byte)) (h : Memory.wf s.mem) : Memory.wf (s.regWrite bs).mem :=
  putBytes_wf h bs

theorem evictPrivate_wf (s : State) (core n : Nat) (h : Memory.wf s.mem) : Memory.wf (s.evictPrivate core n).mem :=
  putBytes_wf h _

@[simp] theorem State.wakeSignals_mem (s : State) (n : Nat) : (s.wakeSignals n).mem = s.mem := by
  unfold State.wakeSignals
  refine foldl_mem _ (fun st w => foldl_mem _ (fun u v => ?_) _ st) _ s
  cases v with
  | signal a pa k last => dsimp only; split <;> (try split) <;> simp
  | _ => rfl

theorem takePages_wf (s : State) (ctx : Nat) (p : CkptPage → Bool) (h : Memory.wf s.mem) : Memory.wf (s.takePages ctx p).mem := by
  unfold State.takePages
  split
  · exact h
  · dsimp only
    split
    · exact h
    · exact Store.wf_foldl clearCow (fun m e hm => Store.wf_upd hm _ _) _ _ h

theorem setCow_wf (l : List Nat) (m : Store Byte) (h : Memory.wf m) : Memory.wf (l.foldl setCow m) :=
  Store.wf_foldl setCow (fun _ _ hm => Store.wf_upd hm _ _) l m h

theorem cowFirst_wf (s : State) (frame : Nat) (h : Memory.wf s.mem) : Memory.wf (s.cowFirst frame).mem := by
  unfold State.cowFirst
  split
  · exact foldl_wf _ (fun st e hs => takePages_wf st _ _ hs) _ s h
  · exact h

theorem takeLeaf_wf (s : State) (ctx vpage : Nat) (h : Memory.wf s.mem) : Memory.wf (s.takeLeaf ctx vpage).mem :=
  takePages_wf _ _ _ h

theorem writeBackLine_wf (s : State) (b sl : Nat) (drop : Bool) (h : Memory.wf s.mem) :
    Memory.wf (s.writeBackLine b sl drop).1.mem := by
  unfold State.writeBackLine
  dsimp only
  split
  · exact h
  · simp only [State.raiseSettled_mem, State.wakeSignals_mem, State.onBlock_mem, State.onHome_mem]
    split
    · exact applyAt_wf _ _ _ _ _ _ (by simpa using cowFirst_wf s _ h)
    · exact h

theorem recall_wf (s : State) (n : Nat) (h : Memory.wf s.mem) : Memory.wf (s.recall n).mem := by
  unfold State.recall
  split
  · exact h
  · exact writeBackLine_wf _ _ _ _ h

theorem mergePartial_wf (s : State) (n d op k : Nat) (a : L1Line) (h : Memory.wf s.mem) :
    Memory.wf (s.mergePartial n d op k a).1.mem :=
  applyAt_wf _ _ _ _ _ _ h

theorem mergeDie_wf (s : State) (n : Nat) (p : Partial) (h : Memory.wf s.mem) : Memory.wf (s.mergeDie n p).1.mem := by
  unfold State.mergeDie
  dsimp only
  rw [State.wakeSignals_mem]
  exact foldl_wf _ (fun st l hs => by simpa using hs) _ _
    (foldl_wf _ (fun st c hs => by simpa using hs) _ _ (mergePartial_wf _ _ _ _ _ _ (recall_wf _ _ h)))

theorem collectFrom_wf (s : State) (n : Nat) (cores : List Nat) (h : Memory.wf s.mem) :
    Memory.wf (s.collectFrom n cores).1.mem := by
  unfold State.collectFrom
  dsimp only
  refine foldl_fst_wf (fun (st : State × Times) p => let m := st.1.mergeDie n p; (m.1, st.2.join m.2))
    (fun x p hx => mergeDie_wf _ _ _ hx) _ _ ?_
  refine foldl_wf _ (fun st c hs => ?_) _ _ h
  split
  · exact hs
  · exact hs

theorem collect_wf (s : State) (n : Nat) (h : Memory.wf s.mem) : Memory.wf (s.collect n).mem := by
  unfold State.collect
  split
  · exact h
  · exact collectFrom_wf _ _ _ h

theorem collectCore_wf (s : State) (core : Nat) (keep : Nat → Bool) (h : Memory.wf s.mem) :
    Memory.wf (s.collectCore core keep).1.mem := by
  unfold State.collectCore
  exact foldl_fst_wf (fun (st : State × Times) l => let r := st.1.collectFrom l [core]; (r.1, st.2.join r.2))
    (fun x l hx => collectFrom_wf _ _ _ hx) _ (s, {}) h

theorem writeBack_wf (s : State) (b sl : Nat) (drop : Bool) (h : Memory.wf s.mem) : Memory.wf (s.writeBack b sl drop).1.mem := by
  unfold State.writeBack
  dsimp only
  split
  · exact collect_wf _ _ (writeBackLine_wf _ _ _ _ h)
  · exact writeBackLine_wf _ _ _ _ h

/-- A store that reaches its home keeps the canonical form. -/
theorem homeWrite_wf (s : State) (n c d k : Nat) (bs : List (Nat × Byte)) (h : Memory.wf s.mem) :
    Memory.wf (s.homeWrite n c d k bs).1.mem := by
  unfold State.homeWrite
  dsimp only
  rw [State.wakeSignals_mem]
  exact applyAt_wf _ _ _ _ _ _ (collect_wf _ _ (recall_wf _ _ h))

theorem flushWc_wf (s : State) (core : Nat) (h : Memory.wf s.mem) : Memory.wf (s.flushWc core).mem := by
  unfold State.flushWc
  dsimp only
  split
  · exact h
  · refine foldl_wf _ (fun st o hs => by simpa using hs) _ _ ?_
    rw [State.noteGathered_mem, State.onCore_mem]
    exact homeWrite_wf _ _ _ _ _ _ h

theorem withFetchWord_wf (s : State) (nbits w : Nat) (h : Memory.wf s.mem) : Memory.wf (s.withFetchWord nbits w).mem := by
  unfold State.withFetchWord
  split
  · exact h
  · exact putBytes_wf h _

/-! ### Reads after writes -/

/-- A byte read after a write of it is the byte written; every other byte is as before. -/
theorem get_putBytes_one (m : Store Byte) (a : Nat) (b : Byte) (x : Nat) :
    (putBytes m [(a, b)]).get x = if x = a then b else m.get x := by
  simp [putBytes, Store.get_put]

theorem get_putBytes_other (m : Store Byte) (bs : List (Nat × Byte)) (x : Nat) (h : ∀ e ∈ bs, e.1 ≠ x) :
    (putBytes m bs).get x = m.get x := by
  induction bs generalizing m with
  | nil => rfl
  | cons e t ih =>
    have he := h e (by simp)
    rw [show putBytes m (e :: t) = putBytes (Store.put m e.1 e.2) t from rfl, ih _ (fun y hy => h y (by simp [hy])), Store.get_put_ne _ _ (Ne.symm he)]

/-- Where no stash owns the line, a home answers from memory. -/
theorem byteAt_of_no_owner (s : State) (pa : Nat) (h : (s.home.get (lineOf pa)).owner = none) : s.byteAt pa = s.mem.get pa := by
  simp [State.byteAt, h]

end Sys2Proof.Machine
end

