-- ==== Sys2Proof/Laws/Operands.lean ====
section
/-! SUPPORT. Laws of the operand forms: what a write of lanes, of a scalar or of a predicate leaves in the
registers, and the frames of the execution forms. -/

namespace Sys2Proof.Machine

/-! ### Changing a group -/

theorem group_onGroup (s : State) (g : Nat) (f : Group → Group) (h : Nat) :
    (s.onGroup g f).group h = if h = g then f (s.group g) else s.group h := by
  simp [State.group, State.onGroup, Store.get_upd]

theorem cur_onCur (s : State) (f : Group → Group) : (s.onCur f).cur = f s.cur := by
  simp [State.cur, State.onCur, State.onGroup, Store.get_upd]

/-- A change of the group in focus changes nothing else. -/
theorem onlyCur_onCur (s : State) (f : Group → Group) : OnlyCur s (s.onCur f) :=
  ⟨rfl, fun g hg => by simp [State.onCur, group_onGroup, hg], fun _ => rfl⟩

/-! ### Vector registers -/

theorem vKey_inj {r q L K : Nat} (hL : L < 32) (hK : K < 32) : vKey r L = vKey q K ↔ r = q ∧ L = K := by
  unfold vKey; omega

theorem get_putLanes_list (l : List Nat) (r : Nat) (f : Nat → Word) (q L : Nat) (hL : L < 32) (hl : ∀ K ∈ l, K < 32) :
    ∀ v : Store Word, (l.foldl (fun acc K => acc.put (vKey r K) (f K)) v).get (vKey q L)
      = if q = r ∧ L ∈ l then f L else v.get (vKey q L) := by
  induction l with
  | nil => simp
  | cons K t ih =>
    intro v
    rw [List.foldl_cons, ih (fun J hJ => hl J (by simp [hJ])), Store.get_put]
    have hK : K < 32 := hl K (by simp)
    simp only [vKey_inj hL hK, List.mem_cons]
    by_cases hq : q = r <;> by_cases hLK : L = K <;> by_cases ht : L ∈ t <;> simp [hq, hLK, ht]

/-- A write of the lanes of a mask, read back. -/
theorem get_putLanes (v : Store Word) (r : Nat) (m : Mask) (f : Nat → Word) (q L : Nat) (hL : L < 32) :
    (putLanes v r m f).get (vKey q L) = if q = r ∧ inMask m L = true then f L else v.get (vKey q L) := by
  rw [putLanes, get_putLanes_list _ _ _ _ _ hL (fun K hK => (mem_lanesOf.1 hK).1)]
  simp [mem_lanesOf, hL]

theorem vAt_setV (g : Group) (r : Nat) (m : Mask) (f : Nat → Word) (q L : Nat) (hL : L < 32) :
    (g.setV r m f).vAt q L = if q = r ∧ inMask m L = true then f L else g.vAt q L :=
  get_putLanes _ _ _ _ _ _ hL

theorem sAt_setS (g : Group) (r : Nat) (w : Word) (q : Nat) : (g.setS r w).sAt q = if q = r then w else g.sAt q := by
  simp [Group.setS, Group.sAt, Store.get_put]

theorem pAt_setP (g : Group) (p : Nat) (m : Mask) (f : Nat → Bool) (q L : Nat) (hL : L < 32) :
    (g.setP p m f).pAt q L = if q = p ∧ inMask m L = true then f L else g.pAt q L := by
  simp only [Group.setP, Group.pAt, Store.get_put]
  by_cases hq : q = p
  · subst hq
    by_cases hm : inMask m L = true <;> simp [hm, inMask_not, hL]
  · simp [hq]

/-! ### The execution forms -/

/-- R112: the lane-wise form writes its lanes and nothing else. -/
theorem lanewise_result (s : State) (d : Reg) (f : Nat → Word) :
    ∃ t, lanewise s d f = .next t ∧ OnlyV s t ∧ ∀ r L, L < 32 →
      t.cur.vAt r L = if r = d.toNat ∧ s.inPass L = true then f L else s.cur.vAt r L :=
  ⟨_, rfl, ⟨onlyCur_onCur s _, by rw [State.setV, cur_onCur]; rfl⟩,
    fun r L hL => by rw [State.setV, cur_onCur, vAt_setV _ _ _ _ _ _ hL, State.inPass]⟩

theorem loWord_eq (x : DWord) : loWord x = x.extractLsb' 0 32 := by
  ext i; simp [loWord, BitVec.getElem_extractLsb']

theorem hiWord_eq (x : DWord) : hiWord x = x.extractLsb' 32 32 := by
  ext i; simp [hiWord, BitVec.getElem_extractLsb']

/-- The same for pairs. -/
theorem lanewisePair_result (s : State) (d : Reg) (f : Nat → DWord) :
    ∃ t, lanewisePair s d f = .next t ∧ OnlyV s t ∧ ∀ r L, L < 32 →
      t.cur.vAt r L = if s.inPass L = true then
        (if r = d.toNat then (f L).extractLsb' 0 32 else if r = d.toNat + 1 then (f L).extractLsb' 32 32 else s.cur.vAt r L)
      else s.cur.vAt r L := by
  refine ⟨_, rfl, ⟨onlyCur_onCur s _, by rw [State.setVP, cur_onCur]; rfl⟩, fun r L hL => ?_⟩
  rw [State.setVP, cur_onCur, vAt_setV _ _ _ _ _ _ hL, vAt_setV _ _ _ _ _ _ hL]
  by_cases hm : s.inPass L = true
  · have hm' : inMask s.focus.mask L = true := hm
    by_cases h0 : r = d.toNat
    · simp [hm, hm', h0, loWord_eq]
    · by_cases h1 : r = d.toNat + 1
      · subst h1; simp [hm, hm', hiWord_eq]
      · simp [hm, h0, h1]
  · have hm' : ¬ inMask s.focus.mask L = true := hm
    simp [hm, hm']

/-- The same for predicates. -/
theorem lanewisePred_result (s : State) (p : BitVec 3) (f : Nat → Bool) :
    ∃ t, lanewisePred s p f = .next t ∧ OnlyP s t ∧ ∀ q L, L < 32 →
      t.cur.pAt q L = if q = p.toNat ∧ s.inPass L = true then f L else s.cur.pAt q L :=
  ⟨_, rfl, ⟨onlyCur_onCur s _, by rw [State.setP, cur_onCur]; rfl⟩,
    fun q L hL => by rw [State.setP, cur_onCur, pAt_setP _ _ _ _ _ _ hL, State.inPass]⟩

/-- R33, R113: when an instruction that executes once acts, and for which lanes. -/
theorem onceMask_eq (s : State) : s.onceMask = if s.actsOnce = true then some s.onceSet else none := by
  unfold State.onceMask State.actsOnce State.onceSet
  by_cases hm : s.focus.mask = 0 <;> by_cases hs : s.focus.same = true <;> by_cases hf : s.focus.first = true <;>
    simp [hm, hs, hf]

theorem onlyS_refl (s : State) : OnlyS s s := ⟨⟨rfl, fun _ _ => rfl, fun _ => rfl⟩, rfl⟩

/-- R113: the group-uniform form writes one scalar, where it acts. -/
theorem scalar_result (s : State) (d : Reg) (w : Word) :
    ∃ t, scalar s d w = .next t ∧ OnlyS s t ∧ ∀ r,
      t.cur.sAt r = if r = d.toNat ∧ s.actsOnce = true then w else s.cur.sAt r := by
  unfold scalar uniform
  rw [onceMask_eq]
  by_cases h : s.actsOnce = true
  · simp only [h, if_true]
    refine ⟨_, rfl, ⟨onlyCur_onCur s _, by rw [State.setS, cur_onCur]; rfl⟩, fun r => ?_⟩
    rw [State.setS, cur_onCur, sAt_setS]; simp
  · simp only [h]
    exact ⟨s, rfl, onlyS_refl s, fun r => by simp⟩

theorem scalarPair_result (s : State) (d : Reg) (x : DWord) :
    ∃ t, scalarPair s d x = .next t ∧ OnlyS s t ∧ ∀ r,
      t.cur.sAt r = if s.actsOnce = true then
        (if r = d.toNat then x.extractLsb' 0 32 else if r = d.toNat + 1 then x.extractLsb' 32 32 else s.cur.sAt r)
      else s.cur.sAt r := by
  unfold scalarPair uniform
  rw [onceMask_eq]
  by_cases h : s.actsOnce = true
  · simp only [h, if_true]
    refine ⟨_, rfl, ⟨onlyCur_onCur s _, by rw [State.setSP, cur_onCur]; rfl⟩, fun r => ?_⟩
    rw [State.setSP, cur_onCur, sAt_setS, sAt_setS, loWord_eq, hiWord_eq]
    by_cases h0 : r = d.toNat
    · simp [h0]
    · simp [h0]
  · simp only [h]
    exact ⟨s, rfl, onlyS_refl s, fun r => by simp⟩

end Sys2Proof.Machine
end

