-- ==== Sys2Proof/Laws/Ops.lean ====
section
/-! SUPPORT. Laws of the shared operations of Machine/Ops.lean: execution once, the lanes that a transaction
takes out, blocking, stalling, and making an instruction outstanding. -/

namespace Sys2Proof.Machine

/-- R33, R170: an instruction that executes once runs for its lanes where it acts, and does nothing elsewhere. -/
theorem once170_eq (s : State) (f : Mask → Out) : once170 s f = if s.actsOnce = true then f s.onceSet else .next s := by
  unfold once170
  rw [onceMask_eq]
  by_cases h : s.actsOnce = true <;> simp [h]

/-! ### Transactions taken out (R195) -/

theorem doomLanes_v (g : Group) (m : Mask) (c : Word) : (g.doomLanes m c).v = g.v := rfl
theorem doomLanes_s (g : Group) (m : Mask) (c : Word) : (g.doomLanes m c).s = g.s := rfl
theorem doomLanes_p (g : Group) (m : Mask) (c : Word) : (g.doomLanes m c).p = g.p := rfl
theorem doomLanes_tx (g : Group) (m : Mask) (c : Word) : { g.doomLanes m c with tx := g.tx } = g := rfl

theorem lanesOf_zero : lanesOf 0#32 = [] := by
  simp [lanesOf, inMask]

/-- Without an open transaction in the lanes nothing is doomed. -/
theorem doomLanes_none (g : Group) (m : Mask) (c : Word) (h : m &&& g.txOpen = 0) : g.doomLanes m c = g := by
  unfold Group.doomLanes
  rw [h]
  simp [lanesOf_zero]

/-- Dooming changes only the transactions of the group in focus. -/
theorem onlyCur_doom (s : State) (m : Mask) (c : Word) : OnlyCur s (s.doom m c) := onlyCur_onCur s _
theorem cur_doom (s : State) (m : Mask) (c : Word) : (s.doom m c).cur = s.cur.doomLanes m c := cur_onCur s _

/-- R195: with lanes left, none of which has an open transaction, the instruction acts in them. -/
theorem plainLanes_eq (s : State) (m : Mask) (f : State → Mask → Out) (hm : m ≠ 0) (h : m &&& s.cur.txOpen = 0) :
    plainLanes s m f = f (s.doom m 5) m := by
  have h2 : m &&& ~~~s.cur.txOpen = m := by
    ext i hi
    have := congrArg (fun x => x.getLsbD i) h
    simp [hi] at this ⊢
    exact this
  have hm' : ¬ m = 0#32 := hm
  unfold plainLanes State.doom5
  simp [h2, hm']

/-- The same for an instruction that executes once. -/
theorem onceLanes_eq (s : State) (f : State → Mask → Out) (ha : s.actsOnce = true) (hm : s.onceSet ≠ 0)
    (h : s.onceSet &&& s.cur.txOpen = 0) : onceLanes s f = f (s.doom s.onceSet 5) s.onceSet := by
  rw [onceLanes, once170_eq, if_pos ha, plainLanes_eq _ _ _ hm h]

/-! ### Splits, blocking and stalling -/

/-- A change of a split changes no register, and nothing outside its group. -/
theorem onSplit_regs (s : State) (g u : Nat) (f : Split → Split) (h : Nat) :
    { (s.onSplit g u f).group h with ent := (s.group h).ent, spill := (s.group h).spill } = s.group h := by
  unfold State.onSplit
  rw [group_onGroup]
  by_cases hg : h = g
  · subst hg; simp [Group.onSplit]
  · simp [hg]

theorem onlyCur_block (s : State) (w : Wait) : OnlyCur s (s.block w) :=
  ⟨rfl, fun g hg => by simp [State.block, State.onSplit, group_onGroup, hg], fun _ => rfl⟩

theorem stall_eq (s : State) : { s.stall with focus := s.focus } = s ∧ s.stall.focus.stalled = true := ⟨rfl, rfl⟩

/-! ### Making an instruction outstanding (R98) -/

/-- The operation stands under the next name, live; memory, blocks and launches are as before. -/
theorem newOp_op (s : State) (o : Op) (la : Nat) :
    (s.newOp o la).1.op s.nextOp = { o with live := true } ∧ (s.newOp o la).2 = s.nextOp
    ∧ (s.newOp o la).1.nextOp = s.nextOp + 1 ∧ (s.newOp o la).1.mem = s.mem ∧ (s.newOp o la).1.home = s.home := by
  refine ⟨?_, rfl, rfl, rfl, rfl⟩
  show (s.ops.put s.nextOp { o with live := true }).get s.nextOp = _
  exact Store.get_put_same _ _ _

theorem newOp_regs (s : State) (o : Op) (la h : Nat) :
    { (s.newOp o la).1.group h with ent := (s.group h).ent, spill := (s.group h).spill } = s.group h :=
  onSplit_regs _ _ _ _ _

end Sys2Proof.Machine
end

