-- ==== Sys2Proof/Tests/Slice0.lean ====
section
/-! SUPPORT. The model's own tests: ill-formed terms, words written out from the encodings of the spec (every
row of the opcode table that has a word), concrete states and operands that meet the hypotheses of the
statements, and a few results taken from the rules. -/

-- one theorem after another: each is decided by the kernel
set_option Elab.async false

namespace Sys2Proof.Tests
open Sys2Proof Sys2Proof.Machine

/-! ### A small state -/

/-- A group of 32 lanes alone on quad 0, with the lanes m of its split in the pass; its code and its data lie in
the heap window. -/
def small (m : Mask) : State := { State.reset with
  nextOp := 1, ctxs := [(0, loadContext)], launches := [(0, loadLaunch 0)], blocks := [(0, loadBlock)]
  groups := [(0, startGroup 0 0 0 32 (loadRecord 0) 0 256 0 none)]
  focus := { next := 4, mask := m, lanes := m, same := true, first := true } }

/-- What the next state of an instruction satisfies, as a Bool. -/
def after (i : Instr) (s : State) (p : State → Bool) : Bool :=
  match exec i s with
  | .next t => p t
  | _ => false

/-- The words that lanes 0, 1, … of the group in focus hold in v[r]. -/
def lanes (s : State) (r n : Nat) : List Word := (List.range n).map (s.cur.vAt r)

/-- Lane L of v[r] set before an instruction. -/
def withV (s : State) (r L : Nat) (w : Word) : State := s.onCur (fun g => g.setV r (maskOf (· == L)) (fun _ => w))
def withS (s : State) (r : Nat) (w : Word) : State := s.onCur (fun g => g.setS r w)
/-- The split of the group in focus, changed. -/
def withSplit (s : State) (f : Split → Split) : State := s.onSplit 0 0 f
/-- One operation under way. -/
def withOp (s : State) (o : Op) : State := { s with ops := [(1, o)], nextOp := 2 }

/-! ### Witnesses of BitInsert, IaluBitsFieldsAndCompares, Compares, RoundingDirections, FloatSelectionAndIntegral,
LaneMovesAndReductions, LongFunctions, TrapTaken -/

theorem met_BitInsert : min ((0x1F : Word).toNat / 32 % 64) (32 - (0x1F : Word).toNat % 32) = 0 := by decide
theorem met_Bits : (0x80000000 : Word) ≠ 0 ∧ (31 : Nat) < 32 := by decide
theorem met_Compares : (5 : BitVec 3).toNat < 6 ∧ (5 : BitVec 3).toNat < 6 := by decide
theorem met_Nans : isNaN32 0x7F800001 = true ∧ isNaN32 0xFFFFFFFF = true ∧ isNaN32 0x7F800000 = false := by decide +kernel
theorem met_RoundingDirections : let q := shiftRound .rne false 3 1
    0 < 1 ∧ 2 * ((2 ^ 1 * q : Nat) - (3 : Int)).natAbs = 2 ^ 1 ∧ 0 < q ∧ 0 < shiftRound .rd true 1 1 := by decide +kernel
theorem met_Reductions : (small 0x80000001).inPass 31 = true ∧ (31 : Nat) < 32 := by decide +kernel
theorem met_LongFunctions_issue : (small 0x80000000).focus.mask ≠ 0 ∧ (small 0).focus.mask = 0 := by decide
theorem met_LongFunctions_return : let i : Instr := .fdiv 15 63 1 2
    let s := withOp (small 1) { live := true, instr := i, mask := 1, status := .accepted }
    i ∈ longForms 15 63 1 2 ∧ (s.op 1).live = true ∧ (s.op 1).instr = i ∧ (s.op 1).status = .accepted := by decide +kernel

/-- The exact value of a finite word of a magnitude other than 0. -/
theorem valueOf_fin (w : Word) (neg : Bool) (m : Nat) (e : Int) (h : f32 w = .fin neg m e) :
    valueOf w = (if neg then -1 else 1) * m * (2 : ℚ) ^ e := by simp only [valueOf, h]
theorem valueOf_pos (w : Word) (m : Nat) (e : Int) (h : f32 w = .fin false m e) (hm : 0 < m) : 0 < valueOf w := by
  have : (0 : ℚ) < m := Nat.cast_pos.mpr hm
  rw [valueOf_fin w _ _ _ h, if_neg (by decide), one_mul]; positivity
theorem valueOf_nonzero (w : Word) (neg : Bool) (m : Nat) (e : Int) (h : f32 w = .fin neg m e) (hm : 0 < m) : valueOf w ≠ 0 := by
  have : (m : ℚ) ≠ 0 := Nat.cast_ne_zero.mpr (Nat.ne_of_gt hm)
  have p : (2 : ℚ) ^ e ≠ 0 := zpow_ne_zero e (by decide)
  rw [valueOf_fin w _ _ _ h]; cases neg <;> simp [this, p]
theorem valueOf_less (w x : Word) (m n : Nat) (e : Int) (hw : f32 w = .fin false m e) (hx : f32 x = .fin false n e) (h : m < n) :
    |valueOf w| < |valueOf x| := by
  have : (m : ℚ) < n := Nat.cast_lt.mpr h
  have p : (0 : ℚ) < 2 ^ e := by positivity
  rw [valueOf_fin w _ _ _ hw, valueOf_fin x _ _ _ hx, if_neg (by decide), one_mul, one_mul, abs_of_nonneg (by positivity),
    abs_of_nonneg (by positivity)]
  exact mul_lt_mul_of_pos_right this p
theorem met_RoundedOnce : isFinite 0x80000001 = true ∧ isFinite 0x7F7FFFFF = true ∧ isFinite 0x40400000 = true
    ∧ isFinite (fDiv 0x3F800000 0x40400000) = true ∧ isFinite (fRcp 0x40400000 0) = true
    ∧ isFinite (fSqrt 0x40400000 0) = true ∧ (0x80000001 : Word).getLsbD 31 = true := by decide +kernel
theorem met_RoundedOnce_values : 0 < valueOf 0x40400000 ∧ valueOf 0x80000001 ≠ 0 :=
  ⟨valueOf_pos _ 12582912 (-22) (by decide +kernel) (by decide), valueOf_nonzero _ true 1 (-149) (by decide +kernel) (by decide)⟩
/-- Operands of every row: finite ones of both signs, zeros, infinities, and the quarters from −2 to 2. -/
theorem met_LongSpecials : [(0x3F800000 : Word), 0x80000001, 0, 0x80000000].all (fun x => isFinite x && !isInf x) = true
    ∧ [(0x7F800000 : Word), 0xFF800000].all isInf = true ∧ (0xFF800000 : Word).getLsbD 31 = true := by decide +kernel
theorem valueOf_zero (w : Word) (neg : Bool) (e : Int) (h : f32 w = .fin neg 0 e) : valueOf w = 0 := by simp [valueOf_fin w _ _ _ h]
theorem met_LongSpecials_zero : valueOf 0 = 0 ∧ valueOf 0x80000000 = 0 :=
  ⟨valueOf_zero _ false (-149) (by decide +kernel), valueOf_zero _ true (-149) (by decide +kernel)⟩
/-- −0.75 is a quarter above −1, 1.5 a half above 1, 0.75 a quarter below 1, and 2 is whole. -/
theorem met_LongSpecials_quarters : valueOf 0xBF400000 = (-1 : ℤ) + 1 / 4 ∧ valueOf 0x3FC00000 = (1 : ℤ) + 1 / 2
    ∧ valueOf 0x3F400000 = (1 : ℤ) - 1 / 4 ∧ valueOf 0x40000000 = (2 : ℤ) := by
  refine ⟨?_, ?_, ?_, ?_⟩
  · rw [valueOf_fin _ true 12582912 (-24) (by decide +kernel)]; norm_num
  · rw [valueOf_fin _ false 12582912 (-23) (by decide +kernel)]; norm_num
  · rw [valueOf_fin _ false 12582912 (-24) (by decide +kernel)]; norm_num
  · rw [valueOf_fin _ false 8388608 (-22) (by decide +kernel)]; norm_num
/-- Below a third rounded there is a finite magnitude. -/
theorem met_Nearest : fRcp 0x40400000 0 = 0x3EAAAAAB ∧ isFinite 0x3EAAAAAA = true ∧ |valueOf 0x3EAAAAAA| < |valueOf 0x3EAAAAAB| :=
  ⟨by decide +kernel, by decide +kernel, valueOf_less _ _ 11184810 11184811 (-25) (by decide +kernel) (by decide +kernel) (by decide)⟩

/-- An older access of the split is outstanding, and no offset, a whole one, or one with a pass behind it is in progress. -/
def older (k : Option Issue) : State :=
  { withSplit (small 1) (fun x => { x with out := [⟨1, 16⟩] }) with quads := [(0, { cur := k })] }
def inProgress (fresh : Bool) : Issue := { grp := 0, uid := 0, length := 4, fresh := fresh }
theorem met_TrapTaken_older : ∀ k ∈ [none, some (inProgress true), some (inProgress false)], let s := older k
    (s.splitOf s.focus.grp s.focus.uid).out ≠ [] ∧ (s.quads.get (quadOfGroup s.focus.grp)).cur = k
    ∧ (s.cur.splits.map Split.uid) = [s.focus.uid] ∧ ∀ c ∈ k, c.grp = s.focus.grp := by decide +kernel
theorem met_TrapTaken_stops : ∀ k ∈ [none, some (inProgress false)], let s : State := { small 1 with quads := [(0, { cur := k })] }
    (s.splitOf s.focus.grp s.focus.uid).out = [] ∧ s.hasStub s.focus.grp .trap = false := by decide +kernel

/-! ### Witnesses of IfElseEndif, LoopEndloopBrk, Branches, JoinExit -/

/-- Lanes 0 and 1 in the pass, lane 2 one level out, lane 3 at the limit of R26. -/
def depths : State := (small 3).onCur (fun g => { g with depth := (g.depth.put 2 1).put 3 255, exited := 0xFFFFFFF0 })

theorem met_IfElseEndif : let s := depths.onCur (fun g => { g with depth := g.depth.put 3 254 })
    (∀ L, L < 32 → splitLane s L = true → s.inPass L = false → depthAtLane s L < 255) := by decide +kernel
theorem met_IfElseEndif_deep : splitLane depths 3 = true ∧ depths.inPass 3 = false ∧ depthAtLane depths 3 = 255 := by decide +kernel
theorem met_Endloop : (small 1).focus.mask ≠ 0 ∧ (small 0).focus.mask = 0 := by decide
theorem met_Branches_one_pass : let s := small (BitVec.allOnes 32)
    s.focus.first = true ∧ s.focus.lanes = s.focus.mask
    ∧ (∀ L, L < 32 → s.inPass L = true → (s.cur.plane.get L) = s.focus.plane) ∧ splitLane s 31 = true := by decide +kernel
theorem met_Indirect : (small 1).cur.txOpen = 0 ∧ (small 1).focus.mask ≠ 0 ∧ (small 0).focus.mask = 0 := by decide +kernel
theorem met_Sends : (small 1).cur.txOpen = 0 := by decide +kernel
theorem met_Exit : (small 1).focus.mask ≠ 0 ∧ (small 1).cur.exited ||| (small 1).focus.mask ≠ (small 1).cur.exist_ := by decide +kernel

/-! ### Witnesses of VersionsAndSafePoints, SpecialRegisters, SystemInstructions -/

theorem met_Safe_stays : (small 1).cur.armed = none
    ∧ ((small 1).onCur (fun g => { g with armed := some 0 })).cur.armed = some (small 1).focus.version := by decide +kernel
theorem met_SpecialRegisters : 64 * (0 : Reg).toNat + (10 : Reg).toNat ≤ 0x00A ∧ 0x100 ≤ 64 * (4 : Reg).toNat + (0 : Reg).toNat
    ∧ (64 * (4 : Reg).toNat + (8 : Reg).toNat = 0x108 ∧ 64 * (4 : Reg).toNat + (9 : Reg).toNat = 0x109) := by decide
theorem met_SystemInstructions : (small 1).actsOnce = true ∧ (small 0).actsOnce = false ∧ (small 1).cur.stamp = none
    ∧ ((small 1).splitOf (small 1).focus.grp (small 1).focus.uid).toggled = false := by decide +kernel

/-- A stamp is open, and the trace ring of two places in the heap window is empty. -/
def stamping : State := { (small 1).onCur (fun g => { g with stamp := some { tag := 7 } }) with
  ctxs := [(0, { loadContext with traceRing := 0x80000, traceBytes := 192 })] }
theorem met_Stamp_record : stamping.noCopies = true ∧ stamping.actsOnce = true
    ∧ stamping.agentWord 0 0x80000 4 = .ok 0 ∧ stamping.agentWord 0 (0x80000 + 4) 4 = .ok 0 ∧ HubBytes stamping 0 (0x80000 + 64) 64
    ∧ stamping.cur.stamp.map (fun p => (stampBytes p false 0 0).length) = some 64
    ∧ stamping.cur.stamp.map (fun p => (stampBytes p true 9 9).length) = some 64 ∧ (small 1).cur.stamp = none := by
  unfold HubBytes Settled; decide +kernel

/-! ### Witnesses of LoadsIssue, StoresIssue, AtomsIssue, MisalignedAccesses, DataReturns, FillsAndWalks,
StoresReachMemory, AtomsAtHome, LinesLeave -/

/-- What a window address translates to. -/
def entryAt (s : State) (a : DWord) : TlbEntry := windowEntry (s.ctxs.get 0) 0 (a.toNat / 4096)

/-- Lanes 0 and 16 in the pass, v0 holding their numbers as everywhere: aligned to every width. -/
def acc : State := withV (small 0x10001) 2 16 0xFF0

theorem met_CanAccess : ∀ n ∈ [1, 2, 4, 8, 16], ∀ am ∈ [false, true],
    CanAccess acc n true true (fun L => acc.addrM 31 am 2 L) (fun L => entryAt acc (acc.addrM 31 am 2 L)) := by
  intro n hn am ha
  refine ⟨by decide +kernel, by decide +kernel, by decide +kernel, by decide +kernel, by decide +kernel, ?_⟩
  revert n am
  decide +kernel
theorem met_CanAccess_pairs : ∀ n ∈ [4, 8], CanAccess acc n true true (acc.vP 2) (fun L => entryAt acc (acc.vP 2 L)) := by
  intro n hn
  refine ⟨by decide +kernel, by decide +kernel, by decide +kernel, by decide +kernel, by decide +kernel, ?_⟩
  revert n
  decide +kernel
theorem met_RedFolds : ∀ L, L < 32 → acc.inPass L = true →
    updateOp (l1At acc acc.curCore ((entryAt acc (acc.vP 2 L)).pa (acc.vP 2 L))) = none := by decide +kernel
theorem met_plane_hint : (2 : BitVec 2) ≠ 3 := by decide
theorem met_Stgc : (small 1).focus.mask ≠ 0 ∧ (small 1).focus.mask &&& (small 1).cur.txOpen = 0
    ∧ ((small 1).addrM 31 true 2 (lowLane (small 1).focus.mask)).toNat % 4 = 0 := by decide +kernel

/-- Lanes 0 and 16 at the ends of one line of class 2. -/
def oneLine : State := { withV (small 0x10001) 2 16 48 with ctxs := [(0, { loadContext with heapAttr := 0x1E })] }
def oneLineAt (L : Nat) : DWord := oneLine.addrM 31 false 2 L
def oneLineEntry (L : Nat) : TlbEntry := entryAt oneLine (oneLineAt L)

theorem met_WriteCombined : ∀ n ∈ [1, 2, 4, 8, 16], CanAccess oneLine n false true oneLineAt oneLineEntry := by
  intro n hn
  refine ⟨by decide +kernel, by decide +kernel, by decide +kernel, by decide +kernel, by decide +kernel, ?_⟩
  revert n
  decide +kernel
theorem met_WriteCombined_line : (∀ L, L < 32 → oneLine.inPass L = true → (oneLineEntry L).cls = 2
      ∧ lineOf ((oneLineEntry L).pa (oneLineAt L)) = 0)
    ∧ 16 < 64 ∧ ∀ x ∈ lanesBytes oneLine.focus.mask (fun L => (oneLineEntry L).pa (oneLineAt L)) 16 (regsValue oneLine 4 4),
        x.1 ≠ 64 * 0 + 16 := by decide +kernel

/-- Lane 3 is the lowest misaligned lane: v2 holds the odd number 4095 there and in lane 31. -/
def odd : State := withV (withV (small 0xFFFFFFFF) 2 3 4095) 2 31 4095

theorem met_AlignTraps : ∀ n ∈ [2, 4, 8, 16], odd.focus.mask ≠ 0 ∧ odd.focus.mask &&& odd.cur.txOpen = 0
    ∧ (∀ K, K < 32 → odd.inPass K = true → canonical57 (odd.addrM 31 false 2 K) = true)
    ∧ (3 < 32 ∧ odd.inPass 3 = true ∧ (odd.addrM 31 false 2 3).toNat % n ≠ 0)
    ∧ (∀ K, K < 3 → ¬ (odd.inPass K = true ∧ (odd.addrM 31 false 2 K).toNat % n ≠ 0)) := by decide +kernel
theorem met_AlignTraps_pairs : ∀ n ∈ [4, 8], (∀ K, K < 32 → odd.inPass K = true → canonical57 (odd.vP 2 K) = true)
    ∧ (odd.inPass 3 = true ∧ (odd.vP 2 3).toNat % n ≠ 0)
    ∧ (∀ K, K < 3 → ¬ (odd.inPass K = true ∧ (odd.vP 2 K).toNat % n ≠ 0)) := by decide +kernel

/-- An operation of lanes 0 and 31 under way to two lines, of class 1 and 2, at their last words. -/
def under (i : Instr) (status : OpStatus) : State :=
  withOp (small 0x80000001) { live := true, instr := i, mask := 0x80000001, status := status, next := 1
                              pa := [(0, 0x3C), (31, 0x7C)], cls := [(0, 1), (31, 2)] }
/-- The same with every lane served. -/
def served (i : Instr) (status : OpStatus) : State :=
  let s := under i status
  { s with ops := s.ops.upd 1 (fun o => { o with have_ := o.mask }) }

theorem met_DataReturns : ∀ i ∈ [Instr.ldgW 0 63 0 0 false 0, .atomAdd 0 63 0 0], ∀ st ∈ [OpStatus.flying, .accepted],
    ((served i st).op 1).live = true ∧ ((served i st).op 1).have_ = ((served i st).op 1).mask ∧ ((served i st).op 1).status = st
    ∧ (∀ L, L < 32 → inMask ((served i st).op 1).mask L = true → (served i st).lineError (lineOf (((served i st).op 1).pa.get L)) = none)
    ∧ (shapeOf i).isSome = true := by decide +kernel
theorem met_DataReturns_moves : (shapeOf (.ldgW 0 63 0 0 false 0)).map (fun h => h.move) = some .load
    ∧ (shapeOf (.atomAdd 0 63 0 0)).map (fun h => h.move) = some .atom
    ∧ shapeOf (.ldsQ 0 60 0 0) = none ∧ (stashShape (.ldsQ 0 60 0 0)).map (fun h => h.store) = some false
    ∧ ((under (.ldsQ 0 60 0 0) .accepted).op 1).status = .accepted := by decide +kernel

/-- The same with the line of lane 0 being filled. -/
def filling : State := { under (.ldgW 0 63 0 0 false 0) .flying with cores := [(0, { l1 := [(0, { st := .filling 7 })] })] }

theorem met_FillsAndWalks_fill : let s := filling
    ((s.cores.get 0).l1.get 0).st = .filling 7 ∧ (s.home.get (lineOf 0)).owner = none ∧ s.copyHolders (lineOf 0) = []
    ∧ outsidePa 0 = false ∧ (s.cores.get 0).wc.held = false ∧ s.claimed 0 = false
    ∧ s.coreOps 0 = [(1, s.op 1)] ∧ (shapeOf (s.op 1).instr).map (fun h => (h.move, h.bytes)) = some (.load, 4)
    ∧ (s.op 1).status = .flying ∧ inMask (s.op 1).mask 0 = true ∧ inMask (s.op 1).have_ 0 = false
    ∧ lineOf ((s.op 1).pa.get 0) = 0 ∧ (s.op 1).pa.get 0 % 4 = 0 ∧ (s.op 1).cls.get 0 = 1 := by decide +kernel

/-- Page 0x100000 of context 0, the first past the heap window, is being walked: a leaf of the third level. -/
def walking (top : DWord) : State := { small 1 with
  dies := [(0, { walks := [(0, 0, 0x100000)] })]
  ctxs := [(0, { loadContext with top := [(0, top)] })]
  mem := putBytes [] (((splitBytes 0x2001 8).zipIdx.map (fun x => (0x1000 + x.2, x.1)))
    ++ ((splitBytes 0x040000004000001B 8).zipIdx.map (fun x => (0x2000 + 32 + x.2, x.1)))) }

theorem met_FillsAndWalks_walk : let s := walking 0x1001
    (0, 0, 0x100000) ∈ (s.dies.get (dieOfCore 0)).walks.take 64 ∧ s.coreOps 0 = []
    ∧ s.walk 0 0x100000 = .hit ⟨0, 0x100000, 0x40000, 262144, 1, true, true, false, false⟩ := by decide +kernel
/-- The walk that waits for one of 64 others to end. -/
theorem met_FillsAndWalks_waits : let w := ({ small 1 with dies := [(0, { walks := (List.range 65).map (fun n => (0, 0, n)) })] } : State).dies.get (dieOfCore 0)
    (0, 0, 64) ∈ w.walks ∧ (0, 0, 64) ∉ w.walks.take 64 := by decide +kernel

def walkFaults : State := withOp (walking 0) { live := true, instr := .ldgW 0 63 0 0 false 0, mask := 0x80000000, status := .walking, addr := [(31, 0x100000FFC)] }

theorem met_FillsAndWalks_fault : let s := walkFaults
    (0, 0, 0x100000) ∈ (s.dies.get (dieOfCore 0)).walks.take 64 ∧ s.walk 0 0x100000 = .fault .faultT 1
    ∧ s.coreOps 0 = [(1, s.op 1)] ∧ (s.op 1).status = .walking ∧ s.ctxOf (s.op 1).grp = 0
    ∧ (shapeOf (s.op 1).instr).map (fun h => decide (h.move ≠ .compress)) = some true ∧ (s.op 1).have_ = 0 ∧ (s.op 1).mask ≠ 0
    ∧ (∀ L, L < 32 → inMask (s.op 1).mask L = true → ((s.op 1).addr.get L).toNat % 2 ^ 57 / 4096 = 0x100000
        ∧ s.lookup 0 0 ((s.op 1).addr.get L) = .miss) := by decide +kernel

theorem met_StoresReachMemory : ∀ i ∈ [Instr.stgW 0 63 0 0 false 0, .stlW 0 63 0 0 false 1], let s := under i .flying
    (shapeOf (s.op 1).instr).map (fun h => (h.move, h.bytes)) = some (.store, 4) ∧ isWc (s.op 1).instr = false
    ∧ (s.op 1).live = true ∧ (s.op 1).status = .flying ∧ (s.op 1).mask ≠ 0
    ∧ NoStoresBut s (coreOfGroup (s.op 1).grp) 1
    ∧ (s.cores.get (coreOfGroup (s.op 1).grp)).wc.held = false
    ∧ (isStl (s.op 1).instr = true → (s.op 1).next ≠ 0 ∧ s.stlReady 1 = true)
    ∧ (∀ L, L < 32 → inMask (s.op 1).mask L = true → ((s.op 1).cls.get L = 1 ∨ (s.op 1).cls.get L = 2)
        ∧ (s.op 1).pa.get L % 4 = 0 ∧ (s.home.get (lineOf ((s.op 1).pa.get L))).owner = none
        ∧ s.copyHolders (lineOf ((s.op 1).pa.get L)) = []) := by unfold NoStoresBut; decide +kernel
theorem met_StoresReachMemory_reply : ((under (.stgW 0 63 0 0 false 0) .accepted).op 1).live = true
    ∧ ((under (.stgW 0 63 0 0 false 0) .accepted).op 1).status = .accepted
    ∧ (shapeOf (.stgW 0 63 0 0 false 0)).isSome = true := by decide +kernel

theorem met_AtomsAtHome : ∀ i ∈ [Instr.atomAdd 0 63 0 0, .atomCas 0 62 0 0], let s := under i .flying
    let L := lowLane ((s.op 1).mask &&& ~~~(s.op 1).have_)
    (shapeOf i).map (fun h => (h.move, h.bytes)) = some (.atom, 4) ∧ (s.op 1).live = true ∧ (s.op 1).status = .flying
    ∧ (s.op 1).mask &&& ~~~(s.op 1).have_ ≠ 0 ∧ (s.op 1).cls.get L = 1 ∧ (s.op 1).pa.get L % 4 = 0
    ∧ (s.home.get (lineOf ((s.op 1).pa.get L))).owner = none ∧ s.copyHolders (lineOf ((s.op 1).pa.get L)) = []
    ∧ (s.cores.get (coreOfGroup (s.op 1).grp)).wc.held = false
    ∧ (∀ K, K < 32 → inMask (s.op 1).mask K = true → s.lineError (lineOf ((s.op 1).pa.get K)) = none) := by decide +kernel

/-- What core 255 holds: a write-combining buffer 64 cycles old, a dirty line, a leased line, an update-only line. -/
def held : State := { small 1 with
  now := 16
  cores := [(255, { wc := { held := true, line := 5, bytes := [(63, 7)], mask := [(63, true)] }
                    l1 := [(6, { st := .priv }), (7, { st := .leased 1000 }), (8, { st := .updateOnly 11 8 }), (9, { st := .updateOnly 10 4 })] })] }

theorem met_LinesLeave_buffer : (held.cores.get 255).wc.held = true
    ∧ (held.cores.get 255).wc.since + held.cycles (dieOfCore 255) 64 ≤ held.now
    ∧ (held.home.get (lineOf (64 * 5))).owner = none ∧ held.copyHolders (lineOf (64 * 5)) = [] := by decide +kernel
theorem met_LinesLeave_lines : ((held.cores.get 255).l1.get 6).st = .priv ∧ held.copyHolders (lineOf (64 * 6)) = []
    ∧ ((held.cores.get 255).l1.get 7).st = .leased 1000
    ∧ updateOp ((held.cores.get 255).l1.get 8) = some (11, 8) ∧ updateOp ((held.cores.get 255).l1.get 9) = some (10, 4)
    ∧ 255 < 256 ∧ (held.home.get 8).owner = none := by decide +kernel
theorem met_LinesLeave_home : listed ({ held with home := [(9, { stamp := 1 })] } : State).home 9 = true := by decide +kernel
theorem met_LinesLeave_error : ((({ held with dies := [] } : State).dies.get (homeOf 9).1).errors.filter
    (fun e => decide ((homeOf e.1).2 = (homeOf 9).2))).length < 64 := by
  change (List.filter _ []).length < 64
  simp
/-- The page after the host register page, which nothing maps, or which a translation of class 1 maps. -/
def nextPage : Nat := 4096 * (Config.registerPage + 1)
theorem nextPage_frame : nextPage / 4096 = Config.registerPage + 1 := by unfold nextPage; omega
theorem met_LinesLeave_outside : nextPage / 4096 ≠ Config.registerPage ∧ State.reset.frameClass (nextPage / 4096) = none
    ∧ State.reset.cowFrame (nextPage / 4096) = false ∧ nextPage % 64 + 64 ≤ 64 ∧ Settled State.reset nextPage := by
  refine ⟨by rw [nextPage_frame]; omega, rfl, rfl, by unfold nextPage; omega, rfl, rfl⟩
theorem met_LinesLeave_refused : ({ State.reset with dies := [(0, { tlb := [⟨0, 0, 0, Config.registerPage + 2, 1, true, true, false, false⟩] })] } : State).frameClass
    (nextPage / 4096) = some 1 := by
  rw [nextPage_frame]
  simp [State.frameClass, State.reset, TlbEntry.maps]

/-! ### Witnesses of StashAccesses, StashManagement, StashOwnership -/

/-- Lanes 0 and 16 at the first and last 16 bytes of the block's 4,096 bytes of stash, which begin at s2 = 256. -/
def inStash : State := withV (withV (small 0x10001) 2 0 0) 2 16 4080

theorem met_StashQuiet : StashQuiet inStash := by unfold StashQuiet; decide +kernel
theorem met_StashInside : ∀ n ∈ [1, 2, 4, 8, 16], StashInside inStash n 2 2 := by unfold StashInside; decide +kernel
theorem met_StashTraps_odd : let s := withV (small 0x80000000) 2 31 4095
    ∀ n ∈ [2, 4, 8, 16], s.focus.mask ≠ 0 ∧ 31 < 32 ∧ s.inPass 31 = true ∧ s.stashAddr 2 2 31 % n ≠ 0
      ∧ ∀ K, K < 31 → (s.inPass K && decide (s.stashAddr 2 2 K % n ≠ 0)) = false := by decide +kernel
/-- The first byte past the guard granule after the allocation. -/
theorem met_StashTraps_outside : let s := withV (small 0x80000000) 2 31 4352
    (∀ K, K < 32 → (s.inPass K && decide (s.stashAddr 2 2 K % 16 ≠ 0)) = false)
    ∧ s.inPass 31 = true ∧ s.curBlock.place (s.stashAddr 2 2 31) 16 = .outside
    ∧ s.curBlock.place (s.stashAddr 2 2 31 - 16) 16 = .inGuard := by decide +kernel
theorem met_StashManagement_sizes : let s := small 1
    s.actsOnce = true ∧ stashPlace (s.coreAllocs s.curCore) 1 = some 4608 ∧ stashPlace (s.coreAllocs s.curCore) 524288 = none := by
  decide +kernel
/-- The block with an allocation of 128 bytes, mapped, and s10 to s13 asking for a map of another 64 bytes. -/
def mapped : State := withS (withS (withS ((small 1).onBlock 0 (fun b => { b with
    allocs := [(4608, 128)], maps := [{ stash := 4608, length := 64, global := 0x10000 }] })) 10 4672) 11 64) 12 0x10040

theorem met_StashManagement_maps : mapped.actsOnce = true ∧ mapped.curBlock.mapOk (mapped.mapAsked 10) = true
    ∧ mapped.mapAtStart 4608 = some { stash := 4608, length := 64, global := 0x10000 } ∧ mapped.mapAtStart 4672 = none
    ∧ (∀ m ∈ mapped.curBlock.maps, ∀ l ∈ m.lines, (mapped.curBlock.mapLines.get l).owned = false)
    ∧ (withS mapped 20 4608).sR 20 ≠ 0xFFFFFFFF ∧ (withS mapped 20 0xFFFFFFFF).sR 20 = 0xFFFFFFFF := by decide +kernel
theorem met_StashManagement_free : let s := (small 1).onBlock 0 (fun b => { b with allocs := [(4608, 128)] })
    s.curBlock.allocs.find? (fun x => x.1 == ((withS s 20 4608).sR 20).toNat) = some (4608, 128)
    ∧ (∀ m ∈ s.curBlock.maps, ¬ (4608 ≤ m.stash ∧ m.stash < 4608 + granules 128)) := by decide +kernel

/-- A load of the mapped line, which the stash does not own. -/
def fillingStash : State := withOp (mapped.onBlock 0 (fun b => { b with mapLines := [(72, { filling := some 0 })] }))
  { live := true, instr := .ldsW 0 5 0 0, mask := 1, status := .flying, addr := [(0, 4668)] }

theorem met_StashOwnership_fill : let s := fillingStash
    ((s.blocks.get 0).mapLines.get 72).filling.isSome = true
    ∧ (s.blocks.get 0).mapAt (64 * 72) = some { stash := 4608, length := 64, global := 0x10000 } ∧ (s.blocks.get 0).owns 72 = false
    ∧ s.stashQueue 0 = [(1, s.op 1)] ∧ (stashShape (s.op 1).instr).map (fun h => (h.bytes, h.store)) = some (4, false)
    ∧ (s.op 1).status = .flying ∧ s.stashMissing 0 (s.op 1) 4 = [72]
    ∧ canonical57 0x10000 = true ∧ s.lookup 0 (s.blocks.get 0).ctx 0x10000 = .hit (entryAt s 0x10000) := by decide +kernel
theorem met_StashOwnership_home : let s := fillingStash
    let e := entryAt s 0x10000
    e.cls = 1 ∧ e.r = true ∧ e.w = true ∧ e.cow = false ∧ (s.cores.get 0).wc.held = false ∧ NoStores s 0
    ∧ (s.home.get (lineOf (e.pa 0x10000))).owner = none ∧ s.copyHolders (lineOf (e.pa 0x10000)) = []
    ∧ s.lineError (lineOf (e.pa 0x10000)) = none := by unfold NoStores; decide +kernel
/-- A core outside has the line until 5, or had. -/
theorem met_StashOwnership_lease : let s (n : Nat) : State := { fillingStash with now := n, home := [(1024, { lease := [(8, 5)] })] }
    lineOf ((entryAt (s 0) 0x10000).pa 0x10000) = 1024 ∧ (s 4).now < ((s 4).homeLine 1024).leaseMax 9
    ∧ ((s 5).homeLine 1024).leaseMax 9 ≤ (s 5).now ∧ ((s 5).home.get 1024).owner = none := by decide +kernel
theorem met_StashOwnership_flush : let s := { withS (mapped.onBlock 0 (fun b => { b with mapLines := [(72, { owned := true, dirty := true, pa := 0x10000 })] })) 20 4608
      with home := [(1024, { owner := some (0, 72) })] }
    s.actsOnce = true ∧ s.sR 20 ≠ 0xFFFFFFFF
    ∧ s.mapAtStart (s.sR 20).toNat = some { stash := 4608, length := 64, global := 0x10000 }
    ∧ ({ stash := 4608, length := 64, global := 0x10000 } : StashMap).lines.filter (fun l => (s.curBlock.mapLines.get l).owned) = [72]
    ∧ (s.curBlock.mapLines.get 72).dirty = true ∧ s.cowFrame ((s.curBlock.mapLines.get 72).pa / 4096) = false
    ∧ (s.home.get (lineOf (s.curBlock.mapLines.get 72).pa)).owner = some (0, 72)
    ∧ s.copyHolders (lineOf (s.curBlock.mapLines.get 72).pa) = [] := by decide +kernel
theorem met_CompletionTime : 0 ≤ (small 1).now := by decide

/-! ### Witnesses of FencesAndBarriers, QueuesAndSignals -/

theorem met_ActsPlain : ActsPlain (small 1) ∧ ActsPlain (small 0xFFFFFFFF) := by unfold ActsPlain; decide +kernel
theorem met_FenceReady : FenceReady { small 1 with cores := [(0, { wc := { held := true, line := 5 } })] }
    ∧ (1 : BitVec 2) ≠ 0 := by
  unfold FenceReady ActsPlain Settled; decide +kernel
theorem met_Barriers : (small 1).curBlock.guard = none ∧ ((small 1).curBlock.bars.get 15).arrived = 0
    ∧ (arrivedBar (small 1) 15 1).arrived ≠ 0 ∧ (arrivedBar (small 0xFFFFFFFF) 15 0xFFFFFFFF).arrived = 0
    ∧ (1024 : Word).toNat ≤ 1024 := by decide +kernel
theorem met_BarWait : (small 1).sR 0 = ((small 1).curBlock.bars.get 15).phase ∧ (small 1).sR 2 ≠ ((small 1).curBlock.bars.get 15).phase := by
  decide +kernel
theorem met_Guard : ((small 1).onBlock 0 (fun b => { b with guard := some 252 })).curBlock.guard = some 252 := by decide +kernel

/-- Queue 7 of two words with one waiting, and two lanes in the pass. -/
def queued : State := (small 3).onBlock 0 (fun b => { b with queues := [(7, { base := 256, capacity := 2, head := 1, count := 1 })] })

theorem met_QueueFree : QueueFree queued 7 ∧ QueueFree (small 0xFFFFFFFF) 7 := by
  unfold QueueFree QueueIdle ActsPlain; decide +kernel
theorem met_NoWait : NoWait (small 1) := by decide +kernel
theorem met_Queues : let q := queued.curBlock.queues.get 7
    laneCount queued.onceSet ≤ q.capacity ∧ q.capacity < q.count + laneCount queued.onceSet ∧ q.count < laneCount queued.onceSet
    ∧ q.capacity ≠ 0 ∧ ((small 3).curBlock.queues.get 7).capacity < laneCount (small 3).onceSet
    ∧ ((small 3).curBlock.queues.get 7).capacity = 0 := by decide +kernel
theorem met_Queues_room : let s := (small 1).onBlock 0 (fun b => { b with queues := [(7, { base := 256, capacity := 2, head := 1, count := 1 })] })
    let q := s.curBlock.queues.get 7
    laneCount s.onceSet ≤ q.capacity ∧ q.count + laneCount s.onceSet ≤ q.capacity ∧ laneCount s.onceSet ≤ q.count := by decide +kernel
/-- s8 holds the address of the last word of a line, s10 the value awaited. -/
theorem met_Signal : let s := withS (withS (small 1) 8 0x1003C) 10 1
    ActsPlain s ∧ canonical57 (s.sP 8) = true ∧ (s.sP 8).toNat % 4 = 0
    ∧ s.lookup s.curCore (s.ctxOf s.focus.grp) (s.sP 8) = .hit (entryAt s (s.sP 8)) ∧ (entryAt s (s.sP 8)).r = true
    ∧ (entryAt s (s.sP 8)).cls = 1 ∧ s.lineError (lineOf ((entryAt s (s.sP 8)).pa (s.sP 8))) = none
    ∧ Settled s ((entryAt s (s.sP 8)).pa (s.sP 8)) ∧ (s.cores.get s.curCore).wc.held = false
    ∧ s.readPa ((entryAt s (s.sP 8)).pa (s.sP 8)) 4 < (s.sR 10).toNat ∧ (s.sR 63).toNat ≤ s.readPa ((entryAt s (s.sP 8)).pa (s.sP 8)) 4 := by
  unfold ActsPlain Settled; decide +kernel

/-! ### Witnesses of Transactions, MatrixEngine -/

theorem met_Transactions_begin : let s := small 0x80000000
    s.actsOnce = true ∧ s.token.holder ≠ some s.focus.grp ∧ s.txHolders s.curCore < 8 ∧ inMask s.onceSet 31 = true
    ∧ (s.cur.tx.get 31).isOpen = false := by decide +kernel
/-- The group in focus holds the token. -/
def holder : State := { small 1 with token := { grants := 1, holder := some 0 } }
theorem met_Transactions_token : holder.actsOnce = true ∧ holder.token.holder = some holder.focus.grp ∧ holder.token.queue = []
    ∧ (small 1).token.holder = none ∧ (small 1).token.queue = [] ∧ (small 1).cur.txOpen = 0 := by decide +kernel
/-- Lane 31 commits, with one byte to write to the last word of a line. -/
def committing (t : TxLane) : State :=
  withSplit ((small 1).onCur (fun g => { g with tx := g.tx.put 31 t })) (fun x => { x with cond := .blocked (.commit 5 2 0x80000000) })
def written : WriteEntry := { pa := 0x1003C, data := 0xAA00, bytes := 2, cls := 1 }
theorem met_Transactions_commit : ∀ t ∈ [({ } : TxLane), { isOpen := true, doom := some 5 }, { isOpen := true }],
    ((committing t).group 0).splits.map (fun x => (decide (x.mask ≠ 0), x.stopped, x.also, x.cond)) = [(true, false, [], .blocked (.commit 5 2 0x80000000))]
    ∧ lowLane 0x80000000 = 31 ∧ (t.isOpen = false ∨ t.doom.isSome = true ∨ (t.reads = [] ∧ t.writes = [])) := by decide +kernel
theorem met_Transactions_write : let s := committing { isOpen := true, writes := [written], threshold := 1 }
    let k := (s.group 0).tx.get 31
    k.isOpen = true ∧ k.doom = none ∧ k.reads = [] ∧ k.writes = [written] ∧ written.cls ≠ 3 ∧ written.pa % 4 = 0
    ∧ s.lineError (lineOf written.pa) = none ∧ s.cowFrame (written.pa / 4096) = false ∧ Settled s written.pa
    ∧ (s.cores.get (coreOfGroup 0)).wc.held = false := by unfold Settled; decide +kernel

/-- The group in focus owns its core's engine, with or without a product under way. -/
def owning (p : List EngineOp) : State := { small 1 with cores := [(0, { engine := { owner := some 0, pending := p } })] }
def zeroing : EngineOp := { instr := .mzero 3, mask := 1, offset := 0, grp := 0 }
theorem met_Engine : ActsPlain (small 1) ∧ (small 1).curEngine.owner = none ∧ (small 1).curEngine.queue = [] ∧ (small 1).curEngine.restoring = []
    ∧ ActsPlain (owning []) ∧ OwnsEngine (owning []) ∧ (owning []).focus.mask ≠ 0 ∧ (owning []).focus.mask &&& (owning []).cur.txOpen = 0 ∧ (owning []).pendingProducts 0 = 0 ∧ (owning [zeroing]).pendingProducts 0 ≠ 0
    ∧ (owning []).curEngine.queue = [] := by unfold ActsPlain OwnsEngine; decide +kernel
theorem met_Engine_other : let s := { small 1 with cores := [(0, { engine := { owner := some 1 } })] }
    ¬ OwnsEngine s ∧ s.curEngine.owner ≠ none ∧ s.curEngine.queue = [] := by unfold OwnsEngine; decide +kernel
theorem met_Products : (owning []).cur.stamp = none ∧ (owning []).curEngine.waiting = [] ∧ (owning [zeroing, zeroing, zeroing]).curEngine.pending.length < 4
    ∧ (owning []).curBlock.maps = []
    ∧ ((owning []).sR 2).toNat % 64 = 0
    ∧ (productOf (.mmas 0 3 2 0 3 7 7)).map (fun p => (owning []).curBlock.holds ((owning []).sR 2).toNat ((owning []).operandBytes 0 p)) = some true
    ∧ ((withS (owning []) 20 257).sR 20).toNat % 64 ≠ 0 := by decide +kernel
theorem met_Engine_full : 4 ≤ (owning (List.replicate 4 zeroing)).curEngine.pending.length := by decide +kernel
theorem met_EngineCompletes : ∀ e ∈ [zeroing, { zeroing with instr := .mma 0 0 0 0 3 7 7 }],
    ((owning [e]).cores.get 0).engine.pending = [e] ∧ ((owning [e]).cores.get 0).engine.waiting = [] ∧ e.seen = [] ∧ e.did = []
    ∧ ((owning [e]).group 0).splits.map (fun x => x.waits) = [[]] ∧ coreOfGroup e.grp = 0 := by decide +kernel

/-! ### Witnesses of LegacyCalls, WorkCreation -/

/-- Die 0's Gong holds one call of group 0, lanes 0 and 31. -/
def calling (i : Instr) (s : State) : State :=
  withSplit { s with dies := [(0, { gong := [{ grp := 0, uid := 0, instr := i, mask := 0x80000001, left := 0x80000001 }] })] }
    (fun x => { x with cond := .blocked .gong })
theorem met_Calls : (small 1).actsOnce = true ∧ (small 1).onceSet ≠ 0 ∧ (small 1).onceSet &&& (small 1).cur.txOpen = 0
    ∧ (((small 1).dies.get 0).gong).length < 64
    ∧ 64 ≤ ((({ small 1 with dies := [(0, { gong := List.replicate 64 { grp := 0, uid := 0, instr := .c1bar 0 0, mask := 1, left := 1 } })] } : State).dies.get 0).gong).length
    ∧ (((calling (.c1hfma 5 6 7) (small 1)).dies.get 0).gong)
        = [{ grp := 0, uid := 0, instr := .c1hfma 5 6 7, mask := 0x80000001, left := 0x80000001 }]
    ∧ (∀ x ∈ ((calling (.c1hfma 5 6 7) (small 1)).group 0).splits, x.cond = .blocked .gong ∧ x.also = []) := by decide +kernel
theorem met_Calls_cas : let s := calling (.c1cas 5 6 8) (small 1)
    ∀ K, K < 32 → inMask (0x80000001 : Mask) K = true → canonical57 ((s.group 0).vPair 6 K) = true ∧ ((s.group 0).vPair 6 K).toNat % 4 = 0
      ∧ s.lookup 0 (s.ctxOf 0) ((s.group 0).vPair 6 K) = .hit (entryAt s ((s.group 0).vPair 6 K))
      ∧ (entryAt s ((s.group 0).vPair 6 K)).r = true ∧ (entryAt s ((s.group 0).vPair 6 K)).w = true
      ∧ (entryAt s ((s.group 0).vPair 6 K)).cow = false ∧ (entryAt s ((s.group 0).vPair 6 K)).cls = 1
      ∧ s.lineError (lineOf ((entryAt s ((s.group 0).vPair 6 K)).pa ((s.group 0).vPair 6 K))) = none ∧ s.ops = [] := by decide +kernel
theorem met_Calls_barrier : let s := calling (.c1bar 5 6) ((withV (small 1) 6 0 15).onBlock 0 (fun b => { b with groups := [0, 1] }))
    let t := { s with groups := s.groups ++ [(1, startGroup 1 0 1 64 (loadRecord 0) 0 256 0 none)] }
    (∀ x ∈ (t.group 0).splits, x.cond = .blocked .gong) ∧ ((t.group 0).vAt 6 0).toNat < 16 ∧ ((t.blocks.get 0).bars.get 15).fixed = none
    ∧ ((t.blocks.get 0).bars.get 15).arrived + laneCount ((t.group 0).exist_ &&& ~~~(t.group 0).exited) < t.expected 0 15 := by decide +kernel

/-- R309: −0.75 is cut to 0, and 1.5 to 1. -/
theorem met_Calls_cut : |((0 : ℤ) : ℚ)| ≤ |valueOf 0xBF400000| ∧ |valueOf 0xBF400000| < |((0 : ℤ) : ℚ)| + 1
    ∧ |((1 : ℤ) : ℚ)| ≤ |valueOf 0x3FC00000| ∧ |valueOf 0x3FC00000| < |((1 : ℤ) : ℚ)| + 1 ∧ (0 : ℚ) ≤ (1 : ℤ) * valueOf 0x3FC00000 := by
  rw [valueOf_fin 0xBF400000 true 12582912 (-24) (by decide +kernel), valueOf_fin 0x3FC00000 false 12582912 (-23) (by decide +kernel)]
  norm_num

theorem met_Launch : let s := small 0x80000001
    ActsPlain s ∧ (∀ L, L < 32 → inMask s.onceSet L = true → canonical57 (s.vP 2 L) = true ∧ (s.vP 2 L).toNat % 128 = 0
      ∧ s.lookup s.curCore (s.ctxOf s.focus.grp) (s.vP 2 L) = .hit (entryAt s (s.vP 2 L)) ∧ (entryAt s (s.vP 2 L)).r = true
      ∧ (entryAt s (s.vP 2 L)).cls ≠ 3) := by unfold ActsPlain; decide +kernel

/-- Work list 63 of context 0: a ring of one word, with or without an item. -/
def listed63 (tail : Nat) : State :=
  withS { small 1 with ctxs := [(0, { loadContext with lists := [(63, { capacity := 1, base := 0x1FF00, tail := tail })] })] } 20 63
theorem met_Take : ActsPlain (listed63 1) ∧ (listed63 1).listOk 0 ((listed63 1).sR 20) = true ∧ (listed63 1).listOk 0 ((listed63 1).sR 2) = false
    ∧ ((listed63 1).launchOf 0).quiescent = false ∧ ((listed63 0).workList 0 63).tail = ((listed63 0).workList 0 63).head
    ∧ ((listed63 1).workList 0 63).tail ≠ ((listed63 1).workList 0 63).head
    ∧ (listed63 1).agentWord 0 (((listed63 1).workList 0 63).word (((listed63 1).workList 0 63).head + 0)) 4 = .ok 0 := by
  unfold ActsPlain; decide +kernel
theorem met_Append : let s := withV (listed63 0) 7 0 63
    s.focus.mask ≠ 0 ∧ s.focus.mask &&& s.cur.txOpen = 0
    ∧ (∀ L, L < 32 → s.inPass L = true → s.listOk 0 (s.vR 7 L) = true)
    ∧ (∀ n, n < 64 → ((lanesOf s.focus.mask).filter (fun L => (s.vR 7 L).toNat == n)).length ≤ (s.workList 0 n).capacity)
    ∧ (0 < 32 ∧ s.inPass 0 = true ∧ s.listOk 0 (s.vR 8 0) = false) := by decide +kernel
def appending : State := withOp (listed63 0) { live := true, instr := .wlapp 0 6 7, mask := 1, next := 1, data := [(0, 9), (1, 63)] }
theorem met_AppendAccept : let s := appending
    let w := s.workList 0 63
    (s.op 1).live = true ∧ (s.op 1).next = 1 ∧ (s.op 1).have_ = 0 ∧ 63 < 64
    ∧ (∀ e ∈ (s.splitOf (s.op 1).grp (s.op 1).uid).out, 1 ≤ e.op) ∧ (s.splitOf (s.op 1).grp (s.op 1).uid).cDevice ≤ s.now
    ∧ (∀ L, L < 32 → inMask (s.op 1).mask L = true → ((s.op 1).data.get (4 * L + 1)).toNat = 63)
    ∧ w.tail - w.head + laneCount (s.op 1).mask ≤ w.capacity ∧ w.takers = [] := by decide +kernel
theorem met_RingReady : RingReady appending 0 (appending.workList 0 63) := by
  have hw : ∀ n, (appending.workList 0 63).word n = 0x1FF00 := by
    intro n
    change (0x1FF00 : DWord) + BitVec.ofNat 64 (4 * (n % 1)) = 0x1FF00
    rw [Nat.mod_one]; rfl
  refine ⟨by decide +kernel, by decide +kernel, by decide +kernel, by decide +kernel, by decide +kernel, by decide +kernel, fun n => ?_⟩
  rw [hw n]
  unfold Settled
  decide +kernel
/-- A take waits on the empty list, and its lookahead holds its split. -/
def taking : State := withSplit (withOp (listed63 0) { live := true, instr := .wltake 0 5 20 21, mask := 1 })
  (fun x => { x with out := [⟨1, 0⟩] })
theorem met_Quiescence : taking.quiet 0 = true ∧ (taking.launches.get 0).disagree = none ∧ taking.ops = [(1, taking.op 1)]
    ∧ (taking.op 1).live = true ∧ (taking.blockOf (taking.op 1).grp).launch = 0 ∧ (taking.launches.get 0).live = true
    ∧ (taking.launches.get 0).quiescent = false := by decide +kernel
theorem met_Quiescence_recount : let s := { taking with now := 10000000, launches := [(0, { loadLaunch 0 with disagree := some 0 })] }
    (s.launches.get 0).disagree = some 0 ∧ 0 + 10000000 ≤ s.now := by decide +kernel

/-! ### Witnesses of Copies -/

/-- s20 holds a stash offset, s22 a global address, s24 a count of bytes; for two dimensions s28 to s31. -/
def copyArgs (n : Word) : State := withS (withS (withS (withS (withS (withS (withS (small 1) 20 256) 22 0x10000) 24 n) 28 1) 29 4) 30 4) 31 4
theorem met_Copies : ∀ k ∈ [(0, (24 : Reg)), (1, 24), (2, 28), (3, 28)],
    ActsPlain (copyArgs 4096) ∧ ((copyArgs 4096).copyAsked k.1 20 22 k.2 3).argsOk = true
    ∧ (copyArgs 4096).curBlock.holdsCopy ((copyArgs 4096).copyAsked k.1 20 22 k.2 3) = true
    ∧ ((copyArgs 4096).copyAsked k.1 20 22 k.2 3).words ≠ 0 ∧ (copyArgs 4096).cur.copies.length < 32
    ∧ ((copyArgs 4096).copyAsked k.1 20 22 25 3).argsOk = decide (k.1 < 2) := by unfold ActsPlain; decide +kernel
theorem met_Copies_ends : ((copyArgs 2).copyAsked 4 22 22 24 0).argsOk = false ∧ ((copyArgs 0).copyAsked 4 22 22 24 0).argsOk = true
    ∧ ((copyArgs 0).copyAsked 4 22 22 24 0).words = 0 ∧ (copyArgs 0).curBlock.holdsCopy ((copyArgs 0).copyAsked 4 22 22 24 0) = true
    ∧ 32 ≤ ((small 1).onCur (fun g => { g with copies := List.replicate 32 {} })).cur.copies.length := by decide +kernel
/-- One word is on its way, in batch 1, closed. -/
def copying (kind : BitVec 4) : State := (small 1).onCur (fun g => { g with
  copies := [{ kind := kind, batch := 1, global := 0x1003C, stash := 256, rows := 1, rowBytes := 4 }] })
theorem met_CopyComplete : ∀ k ∈ [(0 : BitVec 4), 1], let s := copying k
    (s.group 0).copies.map (fun c => (c.words, c.done, c.kind, c.global)) = [(1, 0, k, 0x1003C)]
    ∧ (s.group 0).copies.map (fun c => c.early) = [[]] ∧ NoStores s (coreOfGroup 0) ∧ (s.group 0).live = true
    ∧ (s.group 0).exited ≠ (s.group 0).exist_ ∧ s.faults = [] ∧ (s.blocks.get (s.group 0).block).maps = []
    ∧ (s.blocks.get (s.group 0).block).mapLines = [] ∧ coreOfBlock (s.group 0).block = coreOfGroup 0
    ∧ canonical57 0x1003C = true ∧ s.lookup 0 (s.ctxOf 0) 0x1003C = .hit (entryAt s 0x1003C)
    ∧ (entryAt s 0x1003C).cls = 1 ∧ (entryAt s 0x1003C).r = true ∧ (entryAt s 0x1003C).w = true ∧ (entryAt s 0x1003C).cow = false
    ∧ s.lineError (lineOf ((entryAt s 0x1003C).pa 0x1003C)) = none ∧ Settled s ((entryAt s 0x1003C).pa 0x1003C)
    ∧ (s.cores.get 0).wc.held = false := by unfold NoStores Settled; decide +kernel
/-- Batch 1 is closed and has a copy left; or sixteen are. -/
def batches : State := (small 1).onCur (fun g => { g with closed := [1], copies := [{ batch := 1 }], batchNo := 1 })
def batches16 : State := (small 1).onCur (fun g => { g with closed := List.replicate 16 1, copies := [{ batch := 1 }] })
theorem met_Batches : BatchesKnown batches ∧ batches.cur.closed.length < 16 := by
  refine ⟨fun m hm => ?_, by decide +kernel⟩
  rw [show batches.cur.closed = [1] by decide +kernel, List.mem_singleton] at hm
  subst hm
  decide +kernel
theorem met_Batches_full : BatchesKnown batches16 ∧ 16 ≤ batches16.cur.closed.length := by
  refine ⟨fun m hm => ?_, by decide +kernel⟩
  rw [show batches16.cur.closed = List.replicate 16 1 by decide +kernel] at hm
  rw [List.eq_of_mem_replicate hm]
  decide +kernel
theorem met_Batches_waits : ∃ m ∈ batches.cur.closed, ((withS batches 20 1).sR 20 - m).toNat < 2 ^ 31 :=
  ⟨1, by decide +kernel, by decide +kernel⟩
theorem met_Batches_passes : ∀ m ∈ batches.cur.closed, 2 ^ 31 ≤ ((withS batches 20 0).sR 20 - m).toNat := by
  intro m hm
  rw [show batches.cur.closed = [1] by decide +kernel, List.mem_singleton] at hm
  subst hm
  decide +kernel
theorem met_BatchComplete : let s := withSplit ((small 1).onCur (fun g => { g with closed := [1], batchNo := 1 })) (fun x => { x with cond := .blocked (.batch 1) })
    (s.group 0).live = true ∧ (s.group 0).exited ≠ (s.group 0).exist_ ∧ (s.group 0).closed = [1]
    ∧ (∀ c ∈ (s.group 0).copies, c.batch ≠ 1) ∧ (∀ e ∈ (s.group 0).batchTimes, e.1 = 1 → e.2 ≤ s.now)
    ∧ (s.group 0).splits.map (fun x => (x.cond, x.also)) = [(.blocked (.batch 1), [])] := by decide +kernel

/-! ### Witnesses of DebugStub -/

/-- A debug launch of two groups: group 0 is the stub, group 1 has a split, stopped or not, that the stub has selected. -/
def stub (stopped : Bool) : State :=
  let s := (withS (small 1) 20 256).onBlock 0 (fun b => { b with groups := [0, 1] })
  { s with
    launches := [(0, { loadLaunch 0 with rec_ := { loadRecord 0 with debug := true } })]
    groups := (s.groups.upd 0 (fun g => { g with stub := true, selected := some (1, 9) })) ++
      [(1, { startGroup 9 0 1 64 (loadRecord 0) 0 256 0 none with ent := [(0, { mask := 0xFFFFFFFF, uid := 9, stopped := stopped })] })] }
theorem met_Stub_wait : let s := withS (small 1) 20 256
    s.actsOnce = true ∧ (s.sR 20).toNat % 64 = 0 ∧ s.curBlock.holds (s.sR 20).toNat 64 = true ∧ s.curBlock.mapLines = []
    ∧ s.launchGroups s.curBlock.launch = [s.focus.grp] ∧ s.cur.splits.map (fun x => (x.uid, decide (x.mask ≠ 0), x.waits)) = [(s.focus.uid, true, [])]
    ∧ (s.launches.get s.curBlock.launch).stubQ = [] ∧ (s.launches.get s.curBlock.launch).stubWait = [] := by decide +kernel
theorem met_Stub_selected : ((stub true).anyGroup 1).findSplit 9 = some { mask := 0xFFFFFFFF, uid := 9, stopped := true }
    ∧ (stub true).cur.selected = some (1, 9) ∧ 1 ≠ (stub true).focus.grp ∧ (stub true).actsOnce = true ∧ (stub true).focus.mask ≠ 0
    ∧ (stub false).selectedSplit = none ∧ (small 1).cur.selected = none ∧ ((stub true).sR 3).toNat ≤ 7 ∧ 7 < ((stub true).sR 20).toNat
    ∧ 5 < ((stub true).launchOf 0).rec_.regs ∧ (stub true).hasStub 1 .step = true := by decide +kernel
/-- Lanes 16 to 31 of the selected group do not exist. -/
theorem met_Stub_lanes : let s := stub true
    let t := { s with groups := s.groups.upd 1 (fun g => { g with exist_ := 0xFFFF }) }
    t.cur.selected = some (1, 9) ∧ inMask (t.anyGroup 1).exist_ 15 = true ∧ inMask (t.anyGroup 1).exist_ 16 = false := by decide +kernel
theorem met_Stub_halt : (∀ h ∈ (stub false).launchGroups ((stub false).blockOf 1).launch, ∀ y ∈ ((stub false).group h).splits, y.waits = [])
    ∧ (∀ y ∈ ((stub false).group 1).splits, y.rest = none ∧ y.stopping = false) ∧ ((stub false).quads.get (quadOfGroup 1)).cur = none := by decide +kernel
theorem met_Stub_break : let s := { stub false with launches := [(0, { loadLaunch 0 with rec_ := { loadRecord 0 with debug := true }, breaks := [⟨0, 0, 1⟩] })] }
    s.breakHit 1 9 = some 0 ∧ (s.group 1).findSplit 9 = some { mask := 0xFFFFFFFF, uid := 9 }
    ∧ s.hasStub 1 .brkpt = true ∧ (s.launchOf 1).stubQ = [] ∧ (s.launchOf 1).stubWait = [] := by decide +kernel

/-! ### Witnesses of Launches -/

/-- Bytes in memory at window addresses. -/
def holding (s : State) (xs : List (Nat × List Byte)) : State :=
  { s with mem := putBytes s.mem (xs.flatMap (fun x => x.2.zipIdx.map (fun b => (x.1 + b.2, b.1)))) }

/-- A launch record at 0x20000 (one block of one group of one lane, slots of INT8), its kernel at 0x21000 of two
versions that share their code at 0x30000 and have SAFE 2 at offset 8. -/
def recordBytes : List Byte := layBytes 128 ([(0, 8, header 1 16), (8, 8, 0x21000), (0x10, 8, 0x40000), (0x18, 8, 2 ^ 48 + 3 * 2 ^ 40)]
  ++ (List.range 8).map (fun k => (0x40 + 4 * k, 4, 14)))
def entryBytes : List Byte := layBytes 64 [(0, 8, header 3 8), (8, 8, 0x30000), (0x10, 4, 64), (0x14, 4, 64), (0x18, 1, 1), (0x19, 1, 16), (0x1A, 1, 3),
  (0x1C, 4, 1), (0x20, 8, 0x32000), (0x28, 4, 64)]
def kernels (s : State) : State := holding s
  [(0x20000, recordBytes), (0x21000, layBytes 24 [(0, 8, header 2 136), (8, 4, 2), (0x10, 8, 0x33000)]), (0x21040, entryBytes), (0x21080, entryBytes),
   (0x30008, splitBytes (0x9F + 4096 * 2) 4),
   (0x32000, layBytes 40 [(0, 8, header 5 2), (8, 4, 1), (16, 4, 2 + 65536), (20, 4, 8), (24, 4, 32), (28, 4, 8), (35, 1, 1)]),
   (0x33000, layBytes 24 [(0, 8, header 4 2), (8, 4, 1), (16, 8, 2 + 2 ^ 32)])]
/-- A record submitted for node 0 of run 0, or a launch waiting for placement. -/
def submitted (a : DWord) : State := kernels { small 1 with subs := [(0, ⟨0, a, .node 0 0, 0⟩)] }

theorem met_Accept : (submitted 0x20000).subs = [(0, ⟨0, 0x20000, .node 0 0, 0⟩)] ∧ ((submitted 0x20000).ctxs.get 0).st = .running
    ∧ (submitted 0x20000).freeLaunch = some 1 := by decide +kernel
theorem met_Accept_record : ((submitted 0x20000).checkRecord 0 0x20000).toOption.map (fun x => (x.1.kernel, x.1.lanes, x.1.blocks, x.2.codeBase))
    = some (0x21000, 1, 1, 0x30000) := by decide +kernel
theorem met_Accept_rejected : ((submitted 0x20040).checkRecord 0 0x20040).toOption.isNone = true := by decide +kernel

/-- A launch accepted after the resident one, with a block to place. -/
def placing (ctx : Nat) (r : Record) : State :=
  { small 1 with launches := [(0, loadLaunch 0), (1, { live := true, ctx := ctx, rec_ := r, order := 1 })]
                 ctxs := [(0, { loadContext with sliceStart := some 0 }), (1, loadContext)], now := 4000000 }
theorem met_Placement : (placing 0 (loadRecord 0)).waitingLaunches = [1] ∧ (placing 0 (loadRecord 0)).waitingSaved = [] ∧ ((placing 0 (loadRecord 0)).launches.get 1).child = false
    ∧ (loadRecord 0).coresident = false ∧ (placing 0 (loadRecord 0)).findPlace 1 0 = some (0, 1, 4608)
    ∧ (loadRecord 0).groups = 1 := by decide +kernel
/-- The resident launch's block has ended. -/
def ended (done : DWord) : State := { small 1 with
  blocks := [], groups := [], launches := [(0, { loadLaunch 0 with ended := 1, node := some (0, 0), rec_ := { loadRecord 0 with doneAddr := done } })] }
theorem met_Complete : ∀ d ∈ [(0 : Nat), 0x1003C], let s := ended (BitVec.ofNat 64 d)
    (s.launches.get 0).live = true ∧ (s.launches.get 0).rec_.blocks ≤ (s.launches.get 0).ended ∧ (s.launches.get 0).settled ≤ s.now
    ∧ (s.launches.get 0).rec_.doneAddr.toNat % 4 = 0 := by decide +kernel
theorem met_Complete_quiet : NothingHeld (ended 0) 0 ∧ NoneAwaited (ended 0) ∧ HubBytes (ended 0x1003C) 0 0x1003C 4 := by
  refine ⟨fun core => ⟨rfl, fun e he => ?_⟩, by unfold NoneAwaited; decide +kernel, by unfold HubBytes Settled; decide +kernel⟩
  exact absurd he (List.not_mem_nil)

/-- The resident block, saved. -/
def savedBlock : Saved := { block := loadBlock, groups := [(0, startGroup 0 0 0 32 (loadRecord 0) 0 256 0 none)], stash := [(256, 7)] }
def restoring : State := { small 1 with
  blocks := [], groups := [], ctxs := [(0, { loadContext with saved := [savedBlock] })] }
theorem met_Restore : (restoring.ctxs.get 0).st = .running ∧ (restoring.ctxs.get 0).saved = [savedBlock] ∧ savedBlock.block.ctx = 0
    ∧ savedBlock.block.live = true ∧ savedBlock.block.groups = [0] ∧ savedBlock.groups.map Prod.fst = [0]
    ∧ savedBlock.groups.map (fun e => e.2.splits.map (fun x => (x.cond, x.stopped))) = [[(.runnable, false)]] ∧ savedBlock.groups.map (fun e => e.2.splits.map (fun x => x.also)) = [[[]]]
    ∧ restoring.readAreas savedBlock = some savedBlock
    ∧ savedBlock.groups.map (fun e => (e.2.copies, e.2.closed)) = [([], [])]
    ∧ savedBlock.tiles = none ∧ savedBlock.queued = [] ∧ savedBlock.token = [] ∧ savedBlock.ops = [] ∧ savedBlock.gong = [] := by decide +kernel
theorem met_Restore_place : (restoring.launches.get 0).rec_.coresident = false ∧ (restoring.launches.get 0).stubQ = []
    ∧ restoring.waitingSaved = [(0, savedBlock)] ∧ restoring.nextPlacement.isNone = true ∧ restoring.outranked savedBlock = false ∧ restoring.restorePlace savedBlock = some (0, 0)
    ∧ NoneAwaited restoring := by unfold NoneAwaited; decide +kernel

theorem met_Slice : ((placing 0 (loadRecord 0)).ctxs.get 0).sliceStart = some 0
    ∧ 0 + ((placing 0 (loadRecord 0)).ctxs.get 0).sliceNs ≤ (placing 0 (loadRecord 0)).now
    ∧ ∀ d, d < 8 → (placing 0 (loadRecord 0)).contended 0 d = false := by decide +kernel
/-- Another context's launch fits on no core: only core 0 is left, and its stash is taken. -/
def contendedState : State :=
  { placing 1 { loadRecord 0 with stash := 523776 } with cores := (List.range 31).map (fun k => (k + 1, { removed := true })) }
theorem met_Slice_contended : (contendedState.ctxs.get 0).sliceStart = some 0
    ∧ contendedState.whole (contendedState.blocksOf 0 (fun d => decide (d < 8) && contendedState.contended 0 d)) = [0] := by decide +kernel
theorem met_Budget : let s := (small 1).onBlock 0 (fun b => { b with waited := 2000000 })
    (s.blocks.get 0).live = true ∧ (s.ctxs.get 0).budgetNs ≤ s.clockOf 0 ∧ (s.ctxs.get 0).st = .running ∧ (∀ e ∈ s.blocks, e.1 = 0)
    ∧ (s.blocks.get 0).groups ≠ [] ∧ (∀ e ∈ s.ops, e.2.live = false) ∧ s.launches.all (fun e => e.2.live && e.2.ctx == 0) = true := by decide +kernel

/-! ### Witnesses of VersionsAndSafePoints: transfers -/

/-- The group stands at SAFE 2 with version 1 armed. -/
def atSafe : State := kernels { (small 1).onCur (fun g => { g with armed := some 1 }) with
  launches := [(0, { loadLaunch 0 with
    rec_ := { loadRecord 0 with kernel := 0x21000 }, entries := [(0, { parseEntry entryBytes with regs := 64 })] })]
  focus := { (small 1).focus with offset := 8, next := 12 } }
theorem met_Safe : (match atSafe.planTransfer 2 with | .ok (u, p) => decide (u.focus = atSafe.focus) && p.offset == 8 | .error _ => false) = true := by
  decide +kernel
theorem met_Safe_engine : atSafe.engineBusy 0 = false
    ∧ ({ atSafe with cores := [(0, { engine := { owner := some 0, pending := [{ instr := .mzero 0, mask := 1, offset := 0, grp := 0 }] } })] } : State).engineBusy 0
        = true := by decide +kernel
theorem met_Safe_abandons : (match ({ atSafe with focus := { atSafe.focus with offset := 4 } } : State).planTransfer 2 with
    | .error e => decide (e = .abandon) | .ok _ => false) = true := by decide +kernel

/-! ### Witnesses of QueuesAndGraphs -/

/-- Queue 511: a ring of two slots at 0x40000, tail at 0x4103C, head at 0x41040; head 0xFFFFFFFF. -/
def queue511 (tail : Nat) (p : Option (List Byte)) (done : Option Nat) (slot : List Byte) : State :=
  holding { small 1 with queues := [(511, { live := true, ring := 0x40000, tailAddr := 0x4103C, headAddr := 0x41040, slots := 1, head := 0xFFFFFFFF
                                            packet := p, done := done })] }
    [(0x4103C, splitBytes tail 4), (0x40040, slot)]
def signalPacket : List Byte := layBytes 64 [(0, 8, header 0x13 8), (8, 8, 0x42000), (0x18, 4, 7), (0x1C, 1, 2)]
theorem met_Queue : ∀ t ∈ [0xFFFFFFFF, 0, 2], let s := queue511 t none none signalPacket
    let x := s.queues.get 511
    s.fw.up = true ∧ x.live = true ∧ x.stopped = false ∧ x.packet = none ∧ (s.ctxs.get x.ctx).st = .running
    ∧ s.agentWord x.ctx x.tailAddr 4 = .ok t ∧ (t + 2 ^ 32 - x.head.toNat) % 2 ^ 32 = (if t = 0xFFFFFFFF then 0 else t + 1) := by decide +kernel
theorem met_Queue_packet : let s := queue511 0 none none signalPacket
    s.agentWord 0 0x40040 1 = .ok 0x13 ∧ (s.descriptor 0 0x40040 0x13 8).toOption = some signalPacket ∧ packetZeros 0x13 signalPacket = true := by
  decide +kernel
theorem met_Packets : (queue511 0 (some signalPacket) none []).packetNow 511 0x13 = some (signalPacket, 0)
    ∧ HubBytes (queue511 0 (some signalPacket) none []) 0 (BitVec.ofNat 64 (fieldAt signalPacket 8 8)) 4 := by
  unfold HubBytes Settled; decide +kernel
def waitPacket : List Byte := layBytes 64 [(0, 8, header 0x14 8), (8, 8, 0x42000), (0x18, 4, 0)]
theorem met_Packets_wait : (queue511 0 (some waitPacket) none []).packetNow 511 0x14 = some (waitPacket, 0)
    ∧ (queue511 0 (some waitPacket) none []).agentWord 0 0x42000 4 = .ok 0 := by decide +kernel
def xferBytes : List Byte := layBytes 64 [(0, 8, header 0x11 8), (8, 4, 0), (0xC, 4, 1)]
theorem met_Packets_xfer : let s := kernels { queue511 0 (some xferBytes) none [] with launches := [(0, { loadLaunch 0 with rec_ := { loadRecord 0 with kernel := 0x21000 } })] }
    s.packetNow 511 0x11 = some (xferBytes, 0)
    ∧ (s.launches.find? (fun k => k.2.live && k.2.ctx == 0 && k.2.id == BitVec.ofNat 32 (fieldAt xferBytes 8 4))).map Prod.fst = some 0
    ∧ (s.versionNow 0 1).isSome = true := by decide +kernel
/-- A table of one node, a WAIT. -/
def graphBytes : List Byte := layBytes 64 [(0, 8, header 0x10 8), (8, 8, 0x43000)]
def nodeBytes : List Byte := layBytes 64 [(0, 8, header 8 8), (8, 1, 2), (0x10, 8, 0x42000)]
def graphs : State := holding (queue511 0 (some graphBytes) none []) [(0x43000, layBytes 16 [(0, 8, header 7 2), (8, 4, 1)]), (0x43040, nodeBytes)]
theorem met_Graph : graphs.packetNow 511 0x10 = some (graphBytes, 0)
    ∧ (graphs.readGraph 0 0x43000).toOption = some [0] ∧ (graphs.readNode 0 0x43000 0).toOption = some nodeBytes
    ∧ fieldAt nodeBytes 2 1 = 8 ∧ fieldAt nodeBytes 8 1 = 2 ∧ HubBytes graphs 0 (nodeAddr 0x43000 0) 64 ∧ graphs.startsHeld 0 = false := by
  unfold HubBytes Settled; decide +kernel
/-- A run of a SIGNAL node alone, or with node 1 under way and node 2 to count down. -/
def running (is : List Nat) (count : Nat) : State :=
  { queue511 0 (some graphBytes) none [] with runs := [(0, { live := true, queue := 511, table := 0x43000, count := 3, running := is, counters := [(2, 2)]
                                                             nodes := [(0, layBytes 64 [(8, 1, 1), (9, 1, count), (0x20, 2, 2)])] })] }
theorem met_Node : ((running [0] 0).runs.get 0).live = true ∧ fieldAt (((running [0] 0).runs.get 0).nodes.get 0) 8 1 = 1
    ∧ ((running [0] 0).runs.get 0).times.get 0 ≤ (running [0] 0).now ∧ ((running [0] 0).runs.get 0).running = [0]
    ∧ fieldAt (((running [0] 0).runs.get 0).nodes.get 0) 9 1 = 0 ∧ ((running [0] 0).queues.get 511).packet = some graphBytes
    ∧ fieldAt graphBytes 0x10 8 = 0
    ∧ ((running [0, 1] 1).runs.get 0).running = [0, 1] ∧ fieldAt (((running [0, 1] 1).runs.get 0).nodes.get 0) 9 1 = 1
    ∧ ((running [0, 1] 1).runs.get 0).counters.get (fieldAt (((running [0, 1] 1).runs.get 0).nodes.get 0) 0x20 2) = 0 + 2 := by decide +kernel
theorem met_PacketComplete : let s := queue511 0 (some signalPacket) (some 0) []
    let x := s.queues.get 511
    x.packet = some signalPacket ∧ x.done = some 0 ∧ s.fw.up = true ∧ x.headAddr.toNat % 4 = 0 ∧ HubBytes s x.ctx x.headAddr 4
    ∧ x.tailAddr.toNat % 4 = 0 ∧ HubBytes s x.ctx x.tailAddr 4 ∧ windowPa s x.ctx x.tailAddr ≠ windowPa s x.ctx x.headAddr
    ∧ s.readPa (windowPa s x.ctx x.tailAddr) 4 = (x.head + 1).toNat := by unfold HubBytes Settled; decide +kernel

/-! ### Witnesses of CheckpointsAndFaults -/

def ckptPacket : List Byte := layBytes 64 [(0, 8, header 0x12 8), (8, 8, 0x44000), (0x10, 8, 0x50000), (0x18, 4, 0x8000)]
theorem met_Checkpoint : (queue511 0 (some ckptPacket) none []).packetNow 511 0x12 = some (ckptPacket, 0)
    ∧ ((queue511 0 (some ckptPacket) none []).ctxs.get 0).ckpts = [] := by decide +kernel
/-- No launch runs, and a checkpoint waits whose manifest has one range, of no bytes. -/
def atBoundary (k : Ckpt) : State := holding { queue511 0 (some ckptPacket) none [] with
    launches := [], blocks := [], groups := [], ctxs := [(0, { loadContext with ckpts := [k] })] }
  [(0x44000, layBytes 48 [(0, 8, header 0x0A 4), (8, 4, 1), (0x20, 8, 0x60000)])]
def ckpt0 : Ckpt := { manifest := 0x44000, target := 0x50000, slotBytes := 0x8000, queue := some 511 }
theorem met_Boundary : ((atBoundary ckpt0).ctxs.get 0).ckpts = [ckpt0] ∧ ckpt0.begun = false ∧ (atBoundary ckpt0).fw.up = true
    ∧ (atBoundary ckpt0).runs = [] ∧ (∀ e ∈ (atBoundary ckpt0).launches, e.2.live = true → e.2.ctx ≠ 0)
    ∧ ((atBoundary ckpt0).readManifest 0 0x44000).toOption = some [(0x60000, 0)]
    ∧ ((atBoundary ckpt0).readManifest 0 0x45000).toOption = none := by decide +kernel
theorem met_Boundary_slot : (atBoundary ckpt0).slotSequence 0 0x50000 = 0 ∧ (atBoundary ckpt0).slotSequence 0 0x58000 = 0
    ∧ HubBytes (atBoundary ckpt0) 0 0x50000 8 ∧ (0x50000 : DWord).toNat % 8 = 0 := by unfold HubBytes Settled; decide +kernel
def copying1 : Ckpt := { ckpt0 with begun := true, ranges := [(0x60000, 4096)], pages := [{ vpage := 0x60, frame := 0x60, leaves := [] }] }
theorem met_PageCopy : ((atBoundary copying1).ctxs.get 0).ckpts = [copying1] ∧ copying1.committed = none ∧ copying1.hold ≤ (atBoundary copying1).now
    ∧ copying1.streamed = [] ∧ copying1.dataAt 0x60 = 0x500A0 := by decide +kernel
theorem met_PageCopy_target : HubBytes (atBoundary copying1) 0 0x500A0 4096 := by
  refine ⟨by decide +kernel, by decide +kernel, by decide +kernel, fun i hi => ⟨?_, ?_, ?_⟩⟩
  · refine decide_eq_true (Or.inl ?_)
    rw [BitVec.toNat_add, BitVec.toNat_ofNat]
    change (0x500A0 + i % 2 ^ 64) % 2 ^ 64 < 2 ^ 56
    omega
  · refine decide_eq_true ⟨Nat.zero_le _, ?_⟩
    rw [BitVec.toNat_add, BitVec.toNat_ofNat]
    change (0x500A0 + i % 2 ^ 64) % 2 ^ 64 < 0x100000000
    omega
  · exact ⟨rfl, rfl⟩
def committing1 : Ckpt := { copying1 with pages := [], ranges := [(0x60000, 0)] }
theorem met_Commit : committing1.failed = false ∧ committing1.begun = true ∧ committing1.pages = [] ∧ committing1.committed = none
    ∧ HubBytes (atBoundary committing1) 0 (committing1.manifest + 0x10) 8
    ∧ HubBytes (atBoundary committing1) 0 (committing1.slotAddr + 0x40) committing1.copyLength
    ∧ HubBytes (atBoundary committing1) 0 committing1.slotAddr 64
    ∧ committing1.doneAddr = 0 ∧ committing1.queue = some 511 ∧ 0 ≤ (atBoundary committing1).now := by unfold HubBytes Settled; decide +kernel
def faulted1 : FaultRec := { op := none, copy := some (0, 0), fetch := none, rec_ := { cause := .faultT, time := 5 }, vpage := 9, sent := false }
theorem met_Fault : ({ small 1 with faults := [(3, faulted1)] } : State).faults = [(3, faulted1)] ∧ faulted1.sent = false ∧ (small 1).fw.up = true
    ∧ faulted1.rec_.cause ≠ .faultP := by decide +kernel
/-- The first record has been sent, or has not. -/
theorem met_Fault_order : ∀ sent ∈ [true, false], let s : State := { small 1 with faults := [(2, { faulted1 with sent := sent }), (3, faulted1)] }
    s.faults.find? (fun e => e.1 == 3) = some (3, faulted1)
    ∧ (if sent then (∀ e ∈ s.faults.takeWhile (fun e => e.1 != 3), e.2.sent = true)
       else ∃ e ∈ s.faults.takeWhile (fun e => e.1 != 3), e.2.sent = false) := by decide +kernel
theorem met_Fault_denied : let f : FaultRec := { faulted1 with rec_ := { cause := .faultP } }
    ({ small 1 with faults := [(3, f)] } : State).faults.find? (fun e => e.1 == 3) = some (3, f) ∧ f.sent = false
    ∧ f.rec_.cause = .faultP ∧ f.rec_.detail ≠ 4 := by decide +kernel

/-! ### Witnesses of MailboxCommands -/

/-- A command is taken, with its arguments. -/
def taken (code : Nat) (args : List Nat) (s : State) : State := { s with fw := { s.fw with
  busy := true, doorbell := 1
  taken := args.zipIdx.foldl (fun (m : Store Word) a => (m.put (0x88 + 8 * a.2) (BitVec.ofNat 32 a.1)).put (0x8C + 8 * a.2) (BitVec.ofNat 32 (a.1 / 2 ^ 32)))
    [(0x80, BitVec.ofNat 32 code), (0x84, 1)] } }

theorem met_Mailbox : 0x80 ≤ 0xBC ∧ 0xBC < 0xC0 ∧ 0xBC % 4 = 0 ∧ ¬ (0x80 ≤ 0xBE ∧ 0xBE < 0xC0 ∧ 0xBE % 4 = 0)
    ∧ (taken 0 [] (small 1)).fw.replyCount ≠ (taken 0 [] (small 1)).fw.doorbell ∧ (small 1).fw.replyCount = (small 1).fw.doorbell
    ∧ (∀ n ∈ [1, 2, 3, 4, 5, 6, 7, 8, 9, 0x10, 0x11, 0x12, 0x20, 0x21, 0x30], Taken (taken n [] (small 1)) n)
    ∧ 9 ∉ [1, 2, 3, 4, 5, 6, 7, 8, 0x10, 0x11, 0x12, 0x20, 0x21, 0x30] := by unfold Taken; decide +kernel
theorem met_Mailbox_torn : let s := taken 0x30 [] (small 1)
    let t := { s with fw := { s.fw with doorbell := 2 } }
    t.fw.busy = true ∧ t.fw.up = true ∧ t.fw.taken.get 0x80 = 0x30 ∧ t.fw.taken.get 0x84 ≠ t.fw.doorbell := by decide +kernel
/-- A context record at 0x80000, of one queue. -/
def creating : State := holding (taken 1 [0x80000] (small 1))
  [(0x80000, layBytes 128 [(0, 8, header 6 16), (8, 8, 0x90000), (0x18, 8, 0x100000000), (0x28, 1, 0x1D), (0x40, 8, 0x81000), (0x48, 4, 1), (0x58, 1, 4)]),
   (0x81000, layBytes 32 [(0, 8, 0x40000), (8, 8, 0x4103C), (0x10, 8, 0x41040), (0x18, 1, 1)])]
def createdBytes : List Byte := (List.range 128).map (fun i => creating.byteAt (creating.arg 0 + i))
theorem met_Create : creating.arg 0 = 0x80000 ∧ contextOk createdBytes (parseContext createdBytes) = true
    ∧ (parseContext createdBytes).workTable = 0 ∧ (parseContext createdBytes).traceRing = 0
    ∧ (creating.ctxs.get 1).st = .none ∧ (∀ j, j < 1 → (creating.ctxs.get j).st ≠ .none) ∧ (parseContext createdBytes).queueCount ≤ creating.freeQueues.length
    ∧ creating.recordTail 0x80000 createdBytes = true ∧ 0x80000 % 64 = 0 ∧ 0x80000 < 2 ^ 52
    ∧ contextOk [] (parseContext []) = false := by decide +kernel
theorem met_Create_queues : (((creating.onCtx 1 (fun _ => parseContext createdBytes)).loadTop 1 (fun _ => true)).readQueues 1 0x81000 1).isSome = true := by
  decide +kernel
theorem met_Contexts : (taken 2 [63] (small 1)).arg 0 = 63 ∧ ((taken 2 [63] (small 1)).ctxs.get 63).st = .none
    ∧ (taken 2 [0] (small 1)).arg 0 = 0 ∧ ((taken 2 [0] (small 1)).ctxs.get 0).st ≠ .none
    ∧ (∀ e ∈ (taken 2 [0] restoring).blocks, e.2.live = true → e.2.ctx ≠ 0)
    ∧ (restoring.blocksOf 0 (fun _ => true)) = [] ∧ (small 1).blocksOf 0 (fun _ => true) = [0] ∧ (small 1).runs = []
    ∧ (({ small 1 with ctxs := [(0, { loadContext with st := .held })] } : State).ctxs.get 0).st ≠ .running := by decide +kernel
/-- Record 3, with the driver, is refused or served. -/
def answering : State := taken 6 [0, 5, 0] { small 1 with faults := [(3, { faulted1 with sent := true })] }
theorem met_FaultReply : answering.faults = [(3, { faulted1 with sent := true })] ∧ faulted1.rec_.ctx = 0 ∧ faulted1.rec_.time.toNat = answering.arg 1
    ∧ answering.arg 2 = 0 ∧ faulted1.op = none ∧ faulted1.copy = some (0, 0) := by decide +kernel
theorem met_Restart : let s := taken 7 [0, 0] (queue511 0 none none [])
    (s.queues.find? (fun e => e.2.live && e.2.ctx == 0 && e.2.index == s.arg 1)).map Prod.fst = some 511 := by decide +kernel
theorem met_Notice : let s := taken 8 [0, 0, 0xFFFFFFFF, 0, 0x3FFFFFFFF, 0] (small 1)
    s.arg 5 = 0 ∧ s.arg 2 < 2 ^ 32 ∧ s.arg 4 < 2 ^ 34 ∧ (s.ctxs.get 0).st ≠ .none := by decide +kernel
theorem met_Update : (small 1).fw.update ≠ .staging ∧ (small 1).fw.update ≠ .probation ∧ (small 1).fw.standbyUp = true
    ∧ (taken 0x10 [5, 9] { small 1 with fw := { (small 1).fw with update := .staging, staged := some 7 } }).fw.staged = some 7
    ∧ (small 1).fw.microcode = none
    ∧ (taken 0x12 [3, 9] { small 1 with fw := { (small 1).fw with microcode := some (3, 9) } }).fw.microcode = some (3, 9) := by decide +kernel
theorem met_Retire : let s := taken 0x20 [7, 31] (small 1)
    7 < 8 ∧ 31 < 32 ∧ (s.cores.get (32 * 7 + 31)).removed = false ∧ (∀ e ∈ s.blocks, e.2.live = true → e.2.core ≠ 32 * 7 + 31)
    ∧ s.fw.up = true ∧ s.arg 0 = 7 ∧ s.arg 1 = 31 := by decide +kernel
theorem met_Retire_auto : 2 ≤ (({ small 1 with cores := [(255, { regErrors := 2 })] } : State).cores.get (32 * 7 + 31)).regErrors := by decide +kernel
theorem met_PowerCap : 1000 ≤ (taken 0x30 [1000] (small 1)).arg 0 ∧ (taken 0x30 [4000] (small 1)).arg 0 ≤ 4000 := by decide +kernel

/-! ### Witnesses of ModuleEvents, CoreEvents -/

/-- The new image is on probation, which has ended. -/
def onProbation : State := { small 1 with now := 60000000000, fw := { (small 1).fw with update := .probation } }
theorem met_Firmware : (small 1).fw.up = true ∧ (small 1).fw.update ≠ .probation ∧ onProbation.fw.update = .probation
    ∧ onProbation.fw.nextBeat ≤ onProbation.now ∧ onProbation.fw.standbyUp = true ∧ onProbation.runs = [] ∧ onProbation.fw.probationStart + 60000000000 ≤ onProbation.now
    ∧ ({ small 1 with powered := false } : State).powered = false := by decide +kernel
/-- The active complex has failed, and its deadline has passed. -/
theorem met_Takeover : let s : State := { small 1 with now := 60000000000, fw := { (small 1).fw with up := false } }
    s.fw.standbyUp = true ∧ s.fw.up = false ∧ s.fw.update ≠ .probation ∧ s.fw.nextBeat ≤ s.now ∧ s.runs = []
    ∧ (small 1).now < (small 1).fw.nextBeat := by decide +kernel
theorem met_OnlyRemoved : (255, ({ removed := true } : Core)) ∈ ({ small 1 with cores := [(255, { removed := true })] } : State).cores
    ∧ ∀ e ∈ ({ small 1 with cores := [(255, { removed := true })] } : State).cores, e.1 = 254 → e.2.removed = false := by decide +kernel
theorem met_NoTraces : NoTraces State.reset := fun _ => rfl
/-- Dies 5 to 7 run at the ends of the range of R380; die 7 relocks. -/
def clocks : State := { State.reset with now := 1200, dies := [(5, { freq := 16 }), (6, { freq := 40 }), (7, { freq := 39, relock := some 1200 })] }
theorem met_Clocks : (7 < 8 ∧ (clocks.dies.get 5).off = false ∧ (clocks.dies.get 5).relock = none ∧ 16 ≤ (clocks.dies.get 5).freq ∧ (clocks.dies.get 5).freq < 40
      ∧ (clocks.dies.get 5).freq ≤ 16)
    ∧ (16 < (clocks.dies.get 6).freq ∧ (clocks.dies.get 6).freq ≤ 40 ∧ 40 ≤ (clocks.dies.get 6).freq ∧ (clocks.dies.get 6).relock = none)
    ∧ (clocks.dies.get 7).relock = some 1200 ∧ 1200 ≤ clocks.now
    ∧ (clocks.dies.get 7).skew - 2 ≤ (2 : Word).toInt ∧ (0xFFFFFFFE : Word).toInt ≤ (clocks.dies.get 7).skew + 2 ∧ 0 < 7 := by decide +kernel
theorem met_Clocks_power : (clocks.dies.get 5).hot = false ∧ clocks.fw.power.toNat < min 4000 clocks.fw.cap.toNat
    ∧ min 4000 clocks.fw.cap.toNat ≤ (4000 : Word).toNat ∧ min 4000 clocks.fw.cap.toNat < (4001 : Word).toNat := by decide +kernel
theorem met_Clocks_complex : clocks.fw.up = true ∧ ({ clocks with fw := { clocks.fw with up := false } } : State).fw.up = false := by decide +kernel
theorem met_Ports : let s := { State.reset with ports := [(17, { fails := [(3, 7)], retrain := some 0 })] }
    17 ≤ 17 ∧ 3 ≤ 3 ∧ (s.ports.get 17).lanesOut.getLsbD 3 = false ∧ 7 ≤ (s.ports.get 17).fails.get 3 ∧ (s.ports.get 17).fails.get 2 < 7
    ∧ (s.ports.get 17).retrain = some 0 ∧ 0 ≤ s.now := by decide +kernel
theorem met_Hbm : ((15, 31) : Nat × Nat) ∉ State.reset.hbm.channels ∧ ((15, 31) : Nat × Nat) ∉ State.reset.hbm.failed := by decide +kernel
/-- Five splits, the last of them spilled and 4,096 cycles old. -/
def spilled : State := { (small 1).onCur (fun g => { g with
  ent := [(0, { mask := 1, uid := 1 }), (1, { mask := 2, uid := 2 }), (2, { mask := 4, uid := 3 }), (3, { mask := 8, uid := 4 })]
  spill := [{ mask := 16, uid := 5 }] }) with now := 4096 }
theorem met_Spill : spilled.longSpilled 0 = some { mask := 16, uid := 5 } := by decide +kernel
theorem met_BadWord : (small 1).cur.findSplit (small 1).focus.uid = some { mask := 0xFFFFFFFF } ∧ (withSplit (small 1) (fun x => { x with out := [⟨0, 1⟩] })).cur.findSplit 0
    = some { mask := 0xFFFFFFFF, out := [⟨0, 1⟩] } := by decide +kernel

/-! ### Witnesses of the clauses on page classes, logged lanes, and what waits or fails, in the order of the statements -/

/-- The pages of the heap window of class c. -/
def ofClass (c : Nat) (s : State) : State := { s with ctxs := [(0, { loadContext with heapAttr := BitVec.ofNat 5 (0x1C + c) })] }
/-- Lanes 0 and 16 on pages of class 0 and 3. -/
theorem met_Reaches : ∀ c ∈ [0, 3], ∀ n ∈ [1, 2, 4, 8, 16], ∀ am ∈ [false, true], let s := ofClass c acc
    Reaches s n true true (fun k => k.toNat == c) (fun L => s.addrM 31 am 2 L) (fun L => entryAt s (s.addrM 31 am 2 L)) := by
  intro c hc n hn am ha
  refine ⟨?_, ?_, ?_, ?_, ?_, ?_⟩ <;> revert c n am <;> decide +kernel
theorem met_Reaches_pairs : ∀ c ∈ [0, 3], ∀ n ∈ [4, 8], let s := ofClass c acc
    Reaches s n true true (fun k => k.toNat == c) (s.vP 2) (fun L => entryAt s (s.vP 2 L)) := by
  intro c hc n hn
  refine ⟨?_, ?_, ?_, ?_, ?_, ?_⟩ <;> revert c n <;> decide +kernel
/-- Lanes 0 and 16 have an open transaction, and the core has a lease on their lines. -/
def logging : State := { acc.onCur (fun g => { g with tx := (g.tx.put 0 { isOpen := true }).put 16 { isOpen := true } }) with
  cores := [(0, { l1 := [(0, { st := .leased 1000 }), (63, { st := .leased 1000 })] })] }
theorem met_CanLog : ∀ n ∈ [1, 2, 4, 8, 16], ∀ write ∈ [false, true],
    CanLog logging n write (fun L => logging.addrM 31 false 2 L) (fun L => entryAt logging (logging.addrM 31 false 2 L)) := by
  intro n hn write hw
  refine ⟨by decide +kernel, by decide +kernel, by decide +kernel, by decide +kernel, fun L hL hp => ⟨?_, ?_, ?_, ?_, ?_, ?_⟩⟩ <;>
    revert n write L <;> decide +kernel
theorem met_CanLog_lines : ∀ L, L < 32 → logging.inPass L = true →
    let pa := (entryAt logging (logging.addrM 31 false 2 L)).pa (logging.addrM 31 false 2 L)
    logging.l1Valid (l1At logging logging.curCore pa) = true ∧ logging.lineError (lineOf pa) = none := by decide +kernel
/-- The group of the logged store holds the token. -/
theorem met_LoggedStores_stamp : ({ logging with token := { grants := 3, holder := some 0 } } : State).stampFor 0 = 3 ∧ logging.stampFor 0 = 0 := by
  decide +kernel
theorem met_Dooms : logging.focus.mask &&& ~~~logging.cur.txOpen = 0 ∧ logging.focus.mask ≠ 0 := by decide +kernel
theorem met_Misaligned_others : let s := withS (withV (small 0x80000000) 2 31 2) 8 0x1003D
    s.focus.mask ≠ 0 ∧ s.focus.mask &&& s.cur.txOpen = 0 ∧ canonical57 (s.addrM 31 false 2 (lowLane s.focus.mask)) = true
    ∧ (s.addrM 31 false 2 (lowLane s.focus.mask)).toNat % 4 ≠ 0 ∧ s.actsOnce = true ∧ s.onceSet ≠ 0 ∧ s.onceSet &&& s.cur.txOpen = 0
    ∧ canonical57 (s.sP 8) = true ∧ (s.sP 8).toNat % 4 ≠ 0 := by decide +kernel

/-- The operation of lanes 0 and 31 is to pages of class c. -/
def underOf (c : Nat) (i : Instr) (s : OpStatus) : State :=
  let u := under i s
  { u with ops := u.ops.upd 1 (fun o => { o with cls := [(0, c), (31, c)] }) }
theorem met_NothingToRelease : NothingToRelease (served (.ldaW 0 63 0 0 false 1) .flying) 0
    ∧ isLda ((served (.ldaW 0 63 0 0 false 1) .flying).op 1).instr = true := by unfold NothingToRelease; decide +kernel
theorem met_RegisterLoad : let s := underOf 3 (.ldgW 0 63 0 0 false 0) .flying
    (shapeOf (s.op 1).instr).map (fun h => (h.move, h.bytes)) = some (.load, 4) ∧ (s.op 1).live = true ∧ (s.op 1).have_ = 0 ∧ (s.op 1).mask ≠ 0
    ∧ (s.op 1).status = .flying ∧ (∀ L, L < 32 → inMask (s.op 1).mask L = true → (s.op 1).cls.get L = 3)
    ∧ s.registerBefore 1 = false := by decide +kernel
/-- An older load of the split to a register page is unanswered. -/
theorem met_RegisterLoad_waits : let s := underOf 3 (.ldgW 0 63 0 0 false 0) .flying
    let t := { s with ops := [(0, s.op 1), (1, s.op 1)] }
    t.registerBefore 1 = true ∧ (t.op 1).have_ = 0 ∧ (t.op 1).status = .flying := by decide +kernel
theorem met_RegisterStore : let s := underOf 3 (.stgW 0 63 0 0 false 0) .flying
    (shapeOf (s.op 1).instr).map (fun h => (h.move, h.bytes)) = some (.store, 4) ∧ (s.op 1).live = true ∧ (s.op 1).mask ≠ 0 ∧ isStl (s.op 1).instr = false
    ∧ (∀ L, L < 32 → inMask (s.op 1).mask L = true → (s.op 1).cls.get L = 3 ∧ (s.home.get (lineOf ((s.op 1).pa.get L))).owner = none
        ∧ (s.op 1).pa.get L % 4 = 0) ∧ s.registerBefore 1 = false
    ∧ ({ s with ops := [(0, s.op 1), (1, s.op 1)] } : State).registerBefore 1 = true := by decide +kernel
theorem met_PrivateRelease : let s := underOf 0 (.stlW 0 63 0 0 false 1) .flying
    (shapeOf (s.op 1).instr).map (fun h => (h.move, h.bytes)) = some (.store, 4) ∧ isStl (s.op 1).instr = true ∧ (s.op 1).next ≠ 0 ∧ s.stlReady 1 = true
    ∧ (s.cores.get 0).wc.held = false
    ∧ ∀ L, L < 32 → inMask (s.op 1).mask L = true → (s.op 1).cls.get L = 0 ∧ (s.op 1).pa.get L % 4 = 0 := by decide +kernel
theorem met_PrivateAtom : let s := underOf 0 (.atomAdd 0 63 0 0) .flying
    (s.op 1).mask &&& ~~~(s.op 1).have_ ≠ 0 ∧ (s.op 1).cls.get (lowLane ((s.op 1).mask &&& ~~~(s.op 1).have_)) = 0
    ∧ (s.op 1).pa.get 0 % 4 = 0 := by decide +kernel
theorem met_noCopies : walkFaults.noCopies = true ∧ atSafe.noCopies = true ∧ creating.noCopies = true ∧ restoring.noCopies = true
    ∧ (submitted 0x20000).noCopies = true ∧ (queue511 0 none none []).noCopies = true ∧ (atBoundary ckpt0).noCopies = true
    ∧ (listed63 1).noCopies = true ∧ (taken 0x11 [] (small 1)).noCopies = true ∧ onProbation.noCopies = true
    ∧ ((listed63 1).itemError 0 ((listed63 1).workList 0 63) 1).isNone = true := by decide +kernel
theorem met_Exit_last : let s := small (BitVec.allOnes 32)
    s.focus.mask ≠ 0 ∧ s.cur.exited ||| s.focus.mask = s.cur.exist_ ∧ s.cur.live = true ∧ s.cur.copies = [] ∧ s.cur.closed = []
    ∧ s.cur.batchTimes = [] ∧ s.cur.stamp = none ∧ s.curBlock.successor = none ∧ s.curBlock.groups = [s.focus.grp] := by decide +kernel
theorem met_Safe_transfers : NothingGathered atSafe ∧ (match atSafe.planTransfer 2 with
    | .ok (u, p) => decide (u.cur = atSafe.cur ∧ u.focus = atSafe.focus) && p.source.recipes.isEmpty && p.dest.recipes.isEmpty
    | .error _ => false) = true := by unfold NothingGathered NoStores; decide +kernel
/-- A plan that imports a register of each class. -/
theorem met_PlainPlan : PlainPlan ⟨default, 8, ⟨1, 1, 0, 1, 0, 0, [⟨0, 0, [⟨1, 63, 0⟩]⟩, ⟨1, 0, [⟨2, 63, 0⟩]⟩]⟩,
    ⟨1, 1, 3, 1, 0, 0, [⟨0, 0, [⟨3, 0, 1⟩]⟩, ⟨1, 0, [⟨3, 0, 1⟩]⟩, ⟨2, 63, [⟨6, 0, 0⟩]⟩, ⟨3, 63, [⟨7, 0, 0⟩]⟩, ⟨4, 7, [⟨6, 0, 0⟩]⟩]⟩, []⟩ := by
  unfold PlainPlan; decide +kernel
theorem met_Signal_release : let s := withS (withS (small 1) 8 0x1003C) 10 1
    NothingToRelease s s.curCore ∧ (s.cur.findSplit s.focus.uid).isSome = true := by unfold NothingToRelease; decide +kernel
theorem met_Fence_acquire : (3 : BitVec 2) ≠ 0 ∧ (1 : BitVec 2) ≠ 3 := by decide
/-- The entry of met_Calls_cas once its operands have been read. -/
def readEntry : GongEntry :=
  { grp := 0, uid := 0, instr := .c1cas 5 6 8, mask := 0x80000001, left := 0x80000001, read := true, cls := [(0, 1), (31, 2)], pa := [(0, 0x3C), (31, 0x7C)] }
theorem met_Calls_read : let s : State := { small 1 with dies := [(0, { gong := [readEntry] })] }
    (s.dies.get 0).gong = [readEntry] ∧ readEntry.left ≠ 0 ∧ readEntry.read = true ∧ readEntry.cls.get (lowLane readEntry.left) = 1
    ∧ readEntry.pa.get (lowLane readEntry.left) % 4 = 0 ∧ Settled s (readEntry.pa.get (lowLane readEntry.left))
    ∧ (s.cores.get 0).wc.held = false := by unfold Settled; decide +kernel
theorem met_Take_quiet : let s : State := { listed63 1 with launches := [(0, { loadLaunch 0 with quiescent := true })] }
    ActsPlain s ∧ s.listOk 0 (s.sR 20) = true ∧ (s.launchOf s.focus.grp).quiescent = true := by unfold ActsPlain; decide +kernel
theorem met_Take_returns : let s := withOp (listed63 0) { live := true, instr := .wltake 0 5 20 21, mask := 1, status := .accepted, got := [(0, 7), (128, 1)] }
    (s.op 1).live = true ∧ (s.op 1).instr = .wltake 0 5 20 21 ∧ (s.op 1).status = .accepted ∧ NothingToRelease s (coreOfGroup (s.op 1).grp) := by
  unfold NothingToRelease; decide +kernel
/-- No complex is active, and the error is still to be posted, or was. -/
theorem met_Disagreement_down : ∀ posted ∈ [true, false],
    let s : State := { taking with fw := { taking.fw with up := false }, launches := [(0, { loadLaunch 0 with errorPosted := posted })] }
    s.fw.up = false ∧ (s.launches.get 0).live = true ∧ (s.launches.get 0).quiescent = false := by decide +kernel
theorem met_Disagreement : let s := { taking with now := 10000000, launches := [(0, { loadLaunch 0 with disagree := some 0 })] }
    s.fw.up = true ∧ (s.launches.get 0).disagree = some 0 ∧ 0 + 10000000 ≤ s.now ∧ taking.fw.up = true := by decide +kernel
/-- One record waits in the stub's queue. -/
theorem met_Stub_record : let r : StubRecord := { rec_ := { cause := .brkpt }, grp := 9, uid := 5 }
    let s := withS { small 1 with launches := [(0, { loadLaunch 0 with stubQ := [r] })] } 20 256
    s.curBlock.maps = [] ∧ r.gone = false ∧ ({ r with gone := true } : StubRecord).gone = true ∧ s.actsOnce = true ∧ (s.launches.get s.curBlock.launch).stubQ = [r] ∧ (s.launches.get s.curBlock.launch).stubWait = []
    ∧ s.stashQueue s.cur.block = [] ∧ s.curBlock.holds (s.sR 20).toNat 64 = true := by decide +kernel
theorem met_Stub_saved : (∀ v ∈ ((stub true).ctxs.get (stub true).curBlock.ctx).saved, v.block.launch ≠ (stub true).curBlock.launch)
    ∧ (∀ c, ((stub false).quads.get (quadOfGroup 1)).cur = some c → c.grp = 1 → c.fresh = true) :=
  ⟨by decide +kernel, fun c h => by
    rw [show ((stub false).quads.get (quadOfGroup 1)).cur = none by decide +kernel] at h; cases h⟩
theorem met_Create_exhausted : let s : State := { creating with ctxs := (List.range 64).map (fun i => (i, loadContext)) }
    let t : State := { creating with queues := (List.range 512).map (fun q => (q, { live := true })) }
    (∀ j, j < 64 → (s.ctxs.get j).st ≠ .none) ∧ t.freeQueues.length < (parseContext createdBytes).queueCount := by decide +kernel
/-- The standby has failed while the image was staged, or is there. -/
theorem met_Update_standby : let s := taken 0x10 [5, 9] { small 1 with fw := { (small 1).fw with update := .staging, staged := some 7, standbyUp := false } }
    s.fw.update = .staging ∧ s.fw.staged = some 7 ∧ s.fw.standbyUp = false ∧ Taken s 0x10 := by unfold Taken; decide +kernel
theorem met_Firmware_beats : onProbation.fw.nextBeat < onProbation.now
    ∧ (let s : State := { onProbation with fw := { onProbation.fw with nextBeat := 60000000000 } }
      s.now ≤ s.fw.nextBeat ∧ s.fw.up = true ∧ s.fw.probationStart + 60000000000 ≤ s.now) := by decide +kernel
/-- A commit record that is not complete yet is lost with the power. -/
def torn : State := atBoundary { copying1 with committed := some 7, pages := [] }
theorem met_PowerLoss : (∀ e ∈ (small 1).ctxs, ∀ k ∈ e.2.ckpts, ∀ n ∈ k.committed, n ≤ (small 1).now)
    ∧ torn.ctxs.map (fun e => (e.1, e.2.ckpts.map (fun k => k.committed))) = [(0, [some 7])] ∧ torn.now < 7
    ∧ copying1.slotAddr.toNat % 64 = 0 ∧ HubBytes torn 0 copying1.slotAddr 8 := by unfold HubBytes Settled; decide +kernel
theorem met_Clocks_capped : let s : State := { clocks with fw := { clocks.fw with cap := 1000, power := 3000 } }
    (3000 : Word).toNat ≤ max (min 4000 s.fw.cap.toNat) s.fw.power.toNat ∧ max (min 4000 s.fw.cap.toNat) s.fw.power.toNat < (3001 : Word).toNat := by
  decide +kernel

/-! ### Witnesses of StepRunsDecodedInstruction, EncodeDecode, StepKeepsMemoryCanonical -/

/-- IADD v5, v0, v2 where the next step fetches. -/
def fetching : State := State.reset.withFetchWord 32 0x00200503
theorem met_Fetches : Fetches fetching 0 0 0 0 0x00200503 (.iadd 5 0 2) where
  turn := Or.inl (by decide +kernel)
  idle := by decide +kernel
  chosen := by decide +kernel
  alone := by decide +kernel
  whole := by decide +kernel
  unheld := by decide +kernel
  plane := by decide +kernel
  fetched := by decide +kernel
  decoded := by decide +kernel
  allowed := by decide +kernel
  unplanned := ⟨by decide +kernel, by decide +kernel, fun _ => rfl⟩
theorem met_EncodeDecode : (Instr.ldgQ 15 60 62 0 true 3).wf = true ∧ (encode (.ldgQ 15 60 62 0 true 3)).isSome = true := by decide +kernel
theorem met_StepKeepsMemory : Memory.wf fetching.mem := by decide +kernel

/-! ### Decoding: words computed from the encodings in spec/ (R95, R96, R107, R108), with distinct operands -/

/-- Every word of a list decodes, whole, to its instruction. -/
noncomputable def reads (n : Nat) (l : List (Nat × Instr)) : Bool :=
  l.all (fun e => match decode (bytesLE n e.1) with | .ok (i, rest) => decide (i = e.2) && rest.isEmpty | .error _ => false)

/-- R95: the sixteen-bit words. -/
theorem test_decode_short : reads 2 [
    (0xDD00, .mov16 40 27),
    (0x0000, .nop16),
    (0xDD02, .iadd16 40 27),
    (0xDD04, .isub16 40 27),
    (0xDD06, .imul16 40 27),
    (0xDD08, .and16 40 27),
    (0xDD0A, .or16 40 27),
    (0xDD0C, .xor16 40 27),
    (0xDD0E, .shl16 40 27),
    (0xDD10, .shr16 40 27),
    (0xDD12, .sar16 40 27),
    (0xDD14, .fadd16 40 27),
    (0xDD16, .fsub16 40 27),
    (0xDD18, .fmul16 40 27),
    (0xDD1A, .fmin16 40 27),
    (0xDD1C, .fmax16 40 27),
    (0xDD1E, .iaddI5 40 27)] = true := by decide +kernel

/-- R107, R108, R155, R211, R214, R215, R309, R310, R308, R311, R171. -/
theorem test_decode_words_01 : reads 4 [
    (0x30628D49, .fdiv 13 40 24 48),
    (0x40628D49, .fsqrt 13 40 24),
    (0x80628D49, .frcp 13 40 24),
    (0xC0628D49, .frsq 13 40 24),
    (0x00628D4B, .fexp2 13 40 24),
    (0x40628D4B, .flog2 13 40 24),
    (0x80628D4B, .fsint 13 40 24),
    (0xC0628D4B, .fcost 13 40 24),
    (0x00628D4D, .ftanh 13 40 24),
    (0x40628D4D, .fsigm 13 40 24),
    (0x80628D4D, .ferf 13 40 24),
    (0x00628DA5, .launch 13 40 24),
    (0x70600DA5, .wlapp 13 24 48),
    (0xB0628DA5, .wltake 13 40 24 48),
    (0x070628A9, .c1hadd 40 24 48),
    (0x0B0628A9, .c1hsub 40 24 48),
    (0x0F0628A9, .c1hmul 40 24 48),
    (0x130628A9, .c1hfma 40 24 48),
    (0x170628A9, .c1cas 40 24 48),
    (0x180628A9, .c1f2i 40 24),
    (0x1C0628A9, .c1bar 40 24),
    (0x1D628DC1, .ldgSb 13 40 24 29 false 0)] = true := by decide +kernel

/-- R107, R108, R171, R172, R173. -/
theorem test_decode_words_02 : reads 4 [
    (0x1D628DC3, .ldgZb 13 40 24 29 false 0),
    (0x1D628DC5, .ldgSh 13 40 24 29 false 0),
    (0x1D628DC7, .ldgZh 13 40 24 29 false 0),
    (0x1D628DC9, .ldgW 13 40 24 29 false 0),
    (0x1D628DCB, .ldgD 13 40 24 29 false 0),
    (0x1D628DCD, .ldgQ 13 40 24 29 false 0),
    (0x1D628DCF, .stgB 13 40 24 29 false 0),
    (0x1D628DD1, .stgH 13 40 24 29 false 0),
    (0x1D628DD3, .stgW 13 40 24 29 false 0),
    (0x1D628DD5, .stgD 13 40 24 29 false 0),
    (0x1D628DD7, .stgQ 13 40 24 29 false 0),
    (0x1D628DD9, .ldaW 13 40 24 29 false 0),
    (0x1D628DDB, .ldaD 13 40 24 29 false 0),
    (0x1D628DDD, .stlW 13 40 24 29 false 0),
    (0x1D628DDF, .stlD 13 40 24 29 false 0),
    (0x1D628DE1, .ldsSb 13 40 24 29),
    (0x3D628DE1, .ldsZb 13 40 24 29),
    (0x5D628DE1, .ldsSh 13 40 24 29),
    (0x7D628DE1, .ldsZh 13 40 24 29),
    (0x9D628DE1, .ldsW 13 40 24 29),
    (0xBD628DE1, .ldsD 13 40 24 29),
    (0xDD628DE1, .ldsQ 13 40 24 29)] = true := by decide +kernel

/-- R107, R108, R173, R178, R180, R186. -/
theorem test_decode_words_03 : reads 4 [
    (0x1D628DE3, .stsB 13 40 24 29),
    (0x3D628DE3, .stsH 13 40 24 29),
    (0x5D628DE3, .stsW 13 40 24 29),
    (0x7D628DE3, .stsD 13 40 24 29),
    (0x9D628DE3, .stsQ 13 40 24 29),
    (0x1D628DE5, .stgc 13 40 24 29 false 0),
    (0xDC600DE7, .pfg 13 24 28 false 3),
    (0x20628DE9, .atomAdd 13 40 24 2),
    (0x21628DE9, .atomAnd 13 40 24 2),
    (0x22628DE9, .atomOr 13 40 24 2),
    (0x23628DE9, .atomXor 13 40 24 2),
    (0x24628DE9, .atomMin 13 40 24 2),
    (0x25628DE9, .atomMax 13 40 24 2),
    (0x26628DE9, .atomUmin 13 40 24 2),
    (0x27628DE9, .atomUmax 13 40 24 2),
    (0x28628DE9, .atomXchg 13 40 24 2),
    (0x29628DE9, .atomCas 13 40 24 2),
    (0x2A628DE9, .atomFadd 13 40 24 2),
    (0x2B628DE9, .atomFmin 13 40 24 2),
    (0x2C628DE9, .atomFmax 13 40 24 2),
    (0x2D628DE9, .atomAddD 13 40 24 2),
    (0x2E628DE9, .atomXchgD 13 40 24 2)] = true := by decide +kernel

/-- R107, R108, R186, R187, R181, R185, R176. -/
theorem test_decode_words_04 : reads 4 [
    (0x2F628DE9, .atomCasD 13 40 24 2),
    (0x20628DEB, .redAdd 13 40 24 2),
    (0x21628DEB, .redAnd 13 40 24 2),
    (0x22628DEB, .redOr 13 40 24 2),
    (0x23628DEB, .redXor 13 40 24 2),
    (0x24628DEB, .redMin 13 40 24 2),
    (0x25628DEB, .redMax 13 40 24 2),
    (0x26628DEB, .redUmin 13 40 24 2),
    (0x27628DEB, .redUmax 13 40 24 2),
    (0x28628DEB, .redFadd 13 40 24 2),
    (0x29628DEB, .redFmin 13 40 24 2),
    (0x2A628DEB, .redFmax 13 40 24 2),
    (0x2B628DEB, .redAddD 13 40 24 2),
    (0x8C8100ED, .cpyG2s 16 32 12 2),
    (0x8C8101ED, .cpyS2g 16 32 12 2),
    (0x8C8102ED, .cpyG2s2d 16 32 12 2),
    (0x8C8103ED, .cpyS2g2d 16 32 12 2),
    (0x8C8104ED, .cpyG2g 16 32 12 2),
    (0x000028EF, .cbclose 40),
    (0x040600EF, .cwait 24),
    (0x080028EF, .cqry 40),
    (0x000628F1, .salloc 40 24)] = true := by decide +kernel

/-- R107, R108, R176, R177, R188, R190, R191, R192, R194, R196, R197. -/
theorem test_decode_words_05 : reads 4 [
    (0x040600F1, .sfree 24),
    (0x080600F1, .smap 24),
    (0x0C0600F1, .sunmap 24),
    (0x100600F1, .sflush 24),
    (0x000030F3, .fenceRel 3),
    (0x000031F3, .fenceAcq 3),
    (0x000032F3, .fenceAr 3),
    (0x000033F3, .fenceSc 3),
    (0x030340F5, .barInit 13 48),
    (0x0403A8F5, .barArrive 40 14),
    (0x0B0340F5, .barWait 13 48),
    (0x0C0340F5, .barSync 13),
    (0x130180F5, .qinit 6 48),
    (0x170180F5, .qpush 6 48),
    (0x1801E8F5, .qpop 40 7),
    (0x1F01E8F5, .qtry 40 7 48),
    (0x230600F5, .sigwait 24 48),
    (0x000000F7, .txbegin),
    (0x0401E8F7, .txend 40 7),
    (0x080000F7, .txirr),
    (0x0C0000F7, .txire),
    (0x130000F7, .txabort 48)] = true := by decide +kernel

/-- R107, R108, R196, R203, R206, R44, R200, R208, R115. -/
theorem test_decode_words_06 : reads 4 [
    (0x140028F7, .txqry 40),
    (0x08F04DF9, .mma 13 0 1 0 3 3 4),
    (0x18F04DF9, .mmaz 13 0 1 0 3 3 4),
    (0x28F04DF9, .mmai 13 0 1 0 3 3 4),
    (0x38F04DF9, .mmaiz 13 0 1 0 3 3 4),
    (0x8F0A0DFB, .mmas 13 0 40 0 3 3 4),
    (0x8F0A0DFD, .mmasz 13 0 40 0 3 3 4),
    (0x000000FF, .macq),
    (0x040000FF, .mrel),
    (0x080000FF, .mwait),
    (0x0C00C0FF, .mzero 3),
    (0x101028FF, .mld 40 0 1),
    (0x141028FF, .mst 40 0 1),
    (0x03062803, .iadd 40 24 48),
    (0x03062805, .iaddVs 40 24 48),
    (0x03062861, .iaddS 40 24 48),
    (0x07062803, .isub 40 24 48),
    (0x07062805, .isubVs 40 24 48),
    (0x07062861, .isubS 40 24 48),
    (0x0B062803, .imul 40 24 48),
    (0x0B062805, .imulVs 40 24 48),
    (0x0B062861, .imulS 40 24 48)] = true := by decide +kernel

/-- R107, R108, R115. -/
theorem test_decode_words_07 : reads 4 [
    (0x0F062803, .imulhi 40 24 48),
    (0x0F062805, .imulhiVs 40 24 48),
    (0x0F062861, .imulhiS 40 24 48),
    (0x13062803, .umulhi 40 24 48),
    (0x13062805, .umulhiVs 40 24 48),
    (0x13062861, .umulhiS 40 24 48),
    (0x17062803, .imin 40 24 48),
    (0x17062805, .iminVs 40 24 48),
    (0x17062861, .iminS 40 24 48),
    (0x1B062803, .imax 40 24 48),
    (0x1B062805, .imaxVs 40 24 48),
    (0x1B062861, .imaxS 40 24 48),
    (0x1F062803, .umin 40 24 48),
    (0x1F062805, .uminVs 40 24 48),
    (0x1F062861, .uminS 40 24 48),
    (0x23062803, .umax 40 24 48),
    (0x23062805, .umaxVs 40 24 48),
    (0x23062861, .umaxS 40 24 48),
    (0x27062803, .and 40 24 48),
    (0x27062805, .andVs 40 24 48),
    (0x27062861, .andS 40 24 48),
    (0x2B062803, .or 40 24 48)] = true := by decide +kernel

/-- R107, R108, R115. -/
theorem test_decode_words_08 : reads 4 [
    (0x2B062805, .orVs 40 24 48),
    (0x2B062861, .orS 40 24 48),
    (0x2F062803, .xor 40 24 48),
    (0x2F062805, .xorVs 40 24 48),
    (0x2F062861, .xorS 40 24 48),
    (0x33062803, .andn 40 24 48),
    (0x33062805, .andnVs 40 24 48),
    (0x33062861, .andnS 40 24 48),
    (0x37062803, .shl 40 24 48),
    (0x37062805, .shlVs 40 24 48),
    (0x37062861, .shlS 40 24 48),
    (0x3B062803, .shr 40 24 48),
    (0x3B062805, .shrVs 40 24 48),
    (0x3B062861, .shrS 40 24 48),
    (0x3F062803, .sar 40 24 48),
    (0x3F062805, .sarVs 40 24 48),
    (0x3F062861, .sarS 40 24 48),
    (0x43062803, .rol 40 24 48),
    (0x43062805, .rolVs 40 24 48),
    (0x43062861, .rolS 40 24 48),
    (0x47062803, .iabsd 40 24 48),
    (0x47062805, .iabsdVs 40 24 48)] = true := by decide +kernel

/-- R107, R108, R115. -/
theorem test_decode_words_09 : reads 4 [
    (0x47062861, .iabsdS 40 24 48),
    (0x4B062803, .iadds 40 24 48),
    (0x4B062805, .iaddsVs 40 24 48),
    (0x4B062861, .iaddsS 40 24 48),
    (0x4F062803, .isubs 40 24 48),
    (0x4F062805, .isubsVs 40 24 48),
    (0x4F062861, .isubsS 40 24 48),
    (0x53062803, .uadds 40 24 48),
    (0x53062805, .uaddsVs 40 24 48),
    (0x53062861, .uaddsS 40 24 48),
    (0x57062803, .usubs 40 24 48),
    (0x57062805, .usubsVs 40 24 48),
    (0x57062861, .usubsS 40 24 48),
    (0x58062803, .popc 40 24),
    (0x58062805, .popcVs 40 24),
    (0x58062861, .popcS 40 24),
    (0x5C062803, .clz 40 24),
    (0x5C062805, .clzVs 40 24),
    (0x5C062861, .clzS 40 24),
    (0x60062803, .brev 40 24),
    (0x60062805, .brevVs 40 24),
    (0x60062861, .brevS 40 24)] = true := by decide +kernel

/-- R107, R108, R115. -/
theorem test_decode_words_10 : reads 4 [
    (0x67062803, .bfe 40 24 48),
    (0x67062805, .bfeVs 40 24 48),
    (0x67062861, .bfeS 40 24 48),
    (0x6B062803, .ubfe 40 24 48),
    (0x6B062805, .ubfeVs 40 24 48),
    (0x6B062861, .ubfeS 40 24 48),
    (0x6F002803, .mov 40 48),
    (0x6F002805, .movVs 40 48),
    (0x6F002861, .movS 40 48),
    (0x73062803, .isetLt 40 24 48),
    (0x73062805, .isetLtVs 40 24 48),
    (0x73062861, .isetLtS 40 24 48),
    (0x77062803, .isetLe 40 24 48),
    (0x77062805, .isetLeVs 40 24 48),
    (0x77062861, .isetLeS 40 24 48),
    (0x7B062803, .isetEq 40 24 48),
    (0x7B062805, .isetEqVs 40 24 48),
    (0x7B062861, .isetEqS 40 24 48),
    (0x7F062803, .isetNe 40 24 48),
    (0x7F062805, .isetNeVs 40 24 48),
    (0x7F062861, .isetNeS 40 24 48),
    (0x83062803, .usetLt 40 24 48)] = true := by decide +kernel

/-- R107, R108, R115, R118. -/
theorem test_decode_words_11 : reads 4 [
    (0x83062805, .usetLtVs 40 24 48),
    (0x83062861, .usetLtS 40 24 48),
    (0x87062803, .usetLe 40 24 48),
    (0x87062805, .usetLeVs 40 24 48),
    (0x87062861, .usetLeS 40 24 48),
    (0x03062807, .iaddD 40 24 48),
    (0x03062879, .iaddDS 40 24 48),
    (0x07062807, .isubD 40 24 48),
    (0x07062879, .isubDS 40 24 48),
    (0x0B062807, .shlD 40 24 48),
    (0x0B062879, .shlDS 40 24 48),
    (0x0F062807, .shrD 40 24 48),
    (0x0F062879, .shrDS 40 24 48),
    (0x13062807, .sarD 40 24 48),
    (0x13062879, .sarDS 40 24 48),
    (0x17062807, .imulw 40 24 48),
    (0x17062879, .imulwS 40 24 48),
    (0x1B062807, .umulw 40 24 48),
    (0x1B062879, .umulwS 40 24 48),
    (0x1F062807, .iaddw 40 24 48),
    (0x1F062879, .iaddwS 40 24 48),
    (0x23062807, .uaddw 40 24 48)] = true := by decide +kernel

/-- R107, R108, R118, R116, R117, R119, R120. -/
theorem test_decode_words_12 : reads 4 [
    (0x23062879, .uaddwS 40 24 48),
    (0xD2F62809, .iaddi 40 24 3375),
    (0xD2F6280B, .andi 40 24 3375),
    (0xD2F6280D, .ori 40 24 3375),
    (0xD2F6280F, .xori 40 24 3375),
    (0x01C62811, .shli 40 24 28),
    (0x01C62813, .shri 40 24 28),
    (0x01C62815, .sari 40 24 28),
    (0xD2F62863, .iaddiS 40 24 3375),
    (0xD2F62865, .andiS 40 24 3375),
    (0xD2F62867, .oriS 40 24 3375),
    (0xD2F62869, .xoriS 40 24 3375),
    (0x01C6286B, .shliS 40 24 28),
    (0x01C6286D, .shriS 40 24 28),
    (0x01C6286F, .sariS 40 24 28),
    (0xD2D32817, .movk 40 215884),
    (0xD2D32819, .movkh 40 215884),
    (0xD2D32871, .movkS 40 215884),
    (0xD2D32873, .movkhS 40 215884),
    (0xE306281B, .imad 40 24 48 56),
    (0xE3062875, .imadS 40 24 48 56),
    (0xE306281D, .bfi 40 24 48 56)] = true := by decide +kernel

/-- R107, R108, R121, R150, R151. -/
theorem test_decode_words_13 : reads 4 [
    (0x2706281F, .sel 40 24 48 1 true),
    (0xE3062877, .ssel 40 24 48 56),
    (0x03062821, .fadd 40 24 48),
    (0x03062823, .faddVs 40 24 48),
    (0x07062821, .faddRz 40 24 48),
    (0x07062823, .faddRzVs 40 24 48),
    (0x0B062821, .faddRd 40 24 48),
    (0x0B062823, .faddRdVs 40 24 48),
    (0x0F062821, .faddRu 40 24 48),
    (0x0F062823, .faddRuVs 40 24 48),
    (0x13062821, .fsub 40 24 48),
    (0x13062823, .fsubVs 40 24 48),
    (0x17062821, .fmul 40 24 48),
    (0x17062823, .fmulVs 40 24 48),
    (0x1B062821, .fmulRz 40 24 48),
    (0x1B062823, .fmulRzVs 40 24 48),
    (0x1F062821, .fmulRd 40 24 48),
    (0x1F062823, .fmulRdVs 40 24 48),
    (0x23062821, .fmulRu 40 24 48),
    (0x23062823, .fmulRuVs 40 24 48),
    (0x27062821, .fmin 40 24 48),
    (0x27062823, .fminVs 40 24 48)] = true := by decide +kernel

/-- R107, R108, R151, R150. -/
theorem test_decode_words_14 : reads 4 [
    (0x2B062821, .fmax 40 24 48),
    (0x2B062823, .fmaxVs 40 24 48),
    (0x2F062821, .fminnum 40 24 48),
    (0x2F062823, .fminnumVs 40 24 48),
    (0x33062821, .fmaxnum 40 24 48),
    (0x33062823, .fmaxnumVs 40 24 48),
    (0x34062821, .fabs 40 24),
    (0x34062823, .fabsVs 40 24),
    (0x38062821, .fneg 40 24),
    (0x38062823, .fnegVs 40 24),
    (0x3F062821, .fcopysign 40 24 48),
    (0x3F062823, .fcopysignVs 40 24 48),
    (0x40062821, .ffloor 40 24),
    (0x40062823, .ffloorVs 40 24),
    (0x44062821, .fceil 40 24),
    (0x44062823, .fceilVs 40 24),
    (0x48062821, .ftrunc 40 24),
    (0x48062823, .ftruncVs 40 24),
    (0x4C062821, .frint 40 24),
    (0x4C062823, .frintVs 40 24),
    (0x50062821, .fclamp01 40 24),
    (0x50062823, .fclamp01Vs 40 24)] = true := by decide +kernel

/-- R107, R108, R152, R122, R123, R124, R125. -/
theorem test_decode_words_15 : reads 4 [
    (0xE3062825, .ffma 40 24 48 56),
    (0xE3062827, .ffms 40 24 48 56),
    (0xE3062829, .ffnma 40 24 48 56),
    (0xE306282B, .ffmaRz 40 24 48 56),
    (0xE306282D, .ffmaRd 40 24 48 56),
    (0xE306282F, .ffmaRu 40 24 48 56),
    (0x77060631, .cmp 6 24 48 5 3),
    (0x77060633, .cmpVs 6 24 48 5 3),
    (0xD3063E35, .cmpi 6 7 24 3376),
    (0x0001C637, .pand 6 7 0),
    (0x0401C637, .por 6 7 0),
    (0x0801C637, .pxor 6 7 0),
    (0x0C01C637, .pandn 6 7 0),
    (0x1001C637, .pnot 6 7),
    (0x14000637, .psetPred 6),
    (0x18000637, .pclr 6),
    (0x1C01E837, .ballot 40 7),
    (0x20060637, .pfrom 6 24),
    (0x2401E837, .ptov 40 7),
    (0x2801E837, .vany 40 7),
    (0x2C01E837, .vall 40 7),
    (0x30002837, .mask 40)] = true := by decide +kernel

/-- R107, R108, R124, R153, R154, R157. -/
theorem test_decode_words_16 : reads 4 [
    (0x34060637, .pload 6 24),
    (0x03062839, .hadd2 40 24 48),
    (0x07062839, .hsub2 40 24 48),
    (0x0B062839, .hmul2 40 24 48),
    (0x0F062839, .hmin2 40 24 48),
    (0x13062839, .hmax2 40 24 48),
    (0x17062839, .badd2 40 24 48),
    (0x1B062839, .bsub2 40 24 48),
    (0x1F062839, .bmul2 40 24 48),
    (0x23062839, .bmin2 40 24 48),
    (0x27062839, .bmax2 40 24 48),
    (0xE306283B, .hfma2 40 24 48 56),
    (0xE306283D, .bfma2 40 24 48 56),
    (0x0006283F, .i2f 40 24),
    (0x0406283F, .u2f 40 24),
    (0x0806283F, .f2i 40 24),
    (0x0C06283F, .f2u 40 24),
    (0x1006283F, .f2in 40 24),
    (0x1406283F, .f2un 40 24),
    (0x1B06283F, .pkh 40 24 48),
    (0x1F06283F, .pkb 40 24 48),
    (0x2006283F, .uphLo 40 24)] = true := by decide +kernel

/-- R107, R108, R157, R159, R160, R161, R162, R163, R164. -/
theorem test_decode_words_17 : reads 4 [
    (0x2406283F, .uphHi 40 24),
    (0x2806283F, .upbLo 40 24),
    (0x2C06283F, .upbHi 40 24),
    (0x3006283F, .f2f19 40 24),
    (0x00062841, .fpack 40 24 0),
    (0x27062841, .fpackSr 40 24 48 1),
    (0x2B662841, .funpk 40 24 54 1),
    (0x03062843, .dot4Ss 40 24 48),
    (0x07062843, .dot4Uu 40 24 48),
    (0x0B062843, .dot4Su 40 24 48),
    (0x0F062843, .dot8Ss 40 24 48),
    (0x13062843, .dot8Uu 40 24 48),
    (0x17062843, .dot8Su 40 24 48),
    (0x1B062843, .dot16Ss 40 24 48),
    (0x1F062843, .dot2Ss 40 24 48),
    (0x23062845, .fdot 40 24 48 1),
    (0x03062847, .shflIdx 40 24 48),
    (0x07062847, .shflUp 40 24 48),
    (0x0B062847, .shflDn 40 24 48),
    (0x0F062847, .shflXor 40 24 48),
    (0x13062847, .rdlane 40 24 48),
    (0x17062847, .wrlane 40 24 48)] = true := by decide +kernel

/-- R107, R108, R164, R27, R28, R128, R130, R131, R129, R23, R134, R135, R136. -/
theorem test_decode_words_18 : reads 4 [
    (0x18062847, .reduxAdd 40 24),
    (0x1C062847, .reduxMin 40 24),
    (0x20062847, .reduxMax 40 24),
    (0x24062847, .reduxFadd 40 24),
    (0x28062847, .scanxAdd 40 24),
    (0xD2D40E81, .ifP 6 true 53972),
    (0xD2D2D083, .elseP 863533),
    (0x00000085, .endif),
    (0xD2D2D087, .loop 863533),
    (0xD2D2D089, .endloop 863533),
    (0xD2D5FE8B, .brk 6 true 15 53973),
    (0xD2D40E8D, .bra 6 true 53972),
    (0xD2D2D08F, .jmp 863533),
    (0xD2D42891, .bsc 40 0 53972),
    (0xD2D2D093, .call 863533),
    (0x00060095, .calli 24),
    (0x00060097, .ret 24),
    (0x00060099, .brx 24),
    (0x0000009B, .join),
    (0x0000009D, .exit),
    (0x0406009D, .exitc 24),
    (0x00D2D09F, .safe 3373)] = true := by decide +kernel

/-- R107, R108, R137, R138, R139, R140, R141, R142, R45, R143, R145, R146, R147, R148. -/
theorem test_decode_words_19 : reads 4 [
    (0x003000A1, .pset 3),
    (0x0411C1A1, .psel true 7 1),
    (0x080600A1, .pmov 24),
    (0x0C0028A1, .pget 40),
    (0x000600A3, .xfer 24),
    (0x040028A3, .xqry 40),
    (0x080000A3, .xclr),
    (0x0C0028A3, .version 40),
    (0x000000A7, .nop),
    (0x040000A7, .yield),
    (0x086129A7, .sread 41 4 6),
    (0x0C9129A7, .swrite 41 4 9),
    (0x130600A7, .trap 24 48),
    (0x140000A7, .brkpt),
    (0x180000A7, .dbls),
    (0x1C0600A7, .stampOpen 24),
    (0x200000A7, .stampClose),
    (0x240628A7, .dbgwait 40 24),
    (0x280628A7, .dbgrd 40 24),
    (0x2F0600A7, .dbgwr 24 48),
    (0x300628A7, .dbgctlResume 40 24),
    (0x370600A7, .mboxw 24 48)] = true := by decide +kernel

/-! ### Ill-formed terms -/

/-- R109, step 6: am = 1 with sp not 0. -/
theorem test_ill_formed_zeroOk : (Instr.ldgW 0 1 2 1 true 0).zeroOk = false ∧ (Instr.ldgW 0 1 2 1 true 0).wf = false := by decide +kernel
/-- Step 7: an odd register for a pair. -/
theorem test_ill_formed_aligned : (Instr.iaddD 1 2 4).aligned = false ∧ (Instr.iaddD 1 2 4).wf = false := by decide +kernel
/-- Step 10: special register 0x00B. -/
theorem test_ill_formed_listed : (Instr.sread 1 0 11).listed = false ∧ (Instr.sread 1 0 11).wf = false := by decide +kernel
/-- Step 4: relation 6 of CMP. -/
theorem test_ill_formed_assigned : (Instr.cmp 0 2 4 6 0).assigned = false ∧ (Instr.cmp 0 2 4 6 0).wf = false := by decide +kernel

/-! ### Results -/

/-- Two lanes act, two do not. -/
def two : State := withV (withV (withV (withV (small 3) 2 0 0xFFFFFFFF) 2 1 5) 3 0 2) 3 1 7

/-- R115: the sum wraps, and lanes out of the pass keep their register. -/
theorem test_iadd : after (.iadd 4 2 3) two (fun t => lanes t 4 3 == [1, 12, 0]) = true := by decide +kernel
/-- The destination is also a source. -/
theorem test_isub_same : after (.isub 2 3 2) two (fun t => lanes t 2 2 == [3, 2]) = true := by decide +kernel
theorem test_imulhi : after (.imulhi 4 2 3) two (fun t => lanes t 4 2 == [0xFFFFFFFF, 0]) = true := by decide +kernel
theorem test_umulhi : after (.umulhi 4 2 3) two (fun t => lanes t 4 2 == [1, 0]) = true := by decide +kernel
/-- R115: a shift counts modulo 32. -/
theorem test_shl : after (.shl 4 3 2) two (fun t => lanes t 4 2 == [0, 224]) = true := by decide +kernel
/-- R118: a carry goes into the high word. -/
theorem test_iaddD : after (.iaddD 4 2 2) two (fun t => lanes t 4 1 == [0xFFFFFFFE] && lanes t 5 1 == [5]) = true := by decide +kernel
/-- R124: bits of lanes out of the pass are 0. -/
theorem test_ballot : after (.ballot 9 1) (two.onCur (fun g => g.setP 1 0xFFFFFFFF (fun L => L != 0))) (fun t => t.cur.sAt 9 == 2) = true := by
  decide +kernel
/-- R150: 1 + 2^-24 is a tie and goes to the even neighbour; R86: RU takes the upper one. -/
theorem test_fadd : after (.fadd 4 2 3) (withV (withV (small 1) 2 0 0x3F800000) 3 0 0x33800000) (fun t => lanes t 4 1 == [0x3F800000]) = true
    ∧ after (.faddRu 4 2 3) (withV (withV (small 1) 2 0 0x3F800000) 3 0 0x33800000) (fun t => lanes t 4 1 == [0x3F800001]) = true := by
  decide +kernel
/-- R157: a NaN gives 0, and a large value the largest integer. -/
theorem test_f2i : after (.f2i 4 2) (withV (withV (small 3) 2 0 0x7FC00000) 2 1 0x4F000000) (fun t => lanes t 4 2 == [0, 0x7FFFFFFF]) = true := by
  decide +kernel
/-- R164: lane 0 takes from lane 31. -/
theorem test_shfl : after (.shflXor 4 0 3) (withV (small 1) 3 0 31) (fun t => lanes t 4 1 == [31]) = true := by decide +kernel

/-- R27: a lane that fails goes one level out; R26: the split's other lane goes one further. -/
theorem test_if : after (.ifP 0 false 4) (depths.onCur (fun g => (g.setP 0 0xFFFFFFFF (fun L => L == 0)).setP 3 0 (fun _ => false) |> fun g => { g with depth := g.depth.put 3 7 }))
    (fun t => [0, 1, 2, 3].map (fun L => (t.cur.depth.get L).toNat) == [0, 1, 2, 8] && t.focus.goes == []) = true := by decide +kernel
/-- R130: a branch is relative to its own offset, in units of 2 bytes. -/
theorem test_jmp : after (.jmp 0xFFFFF) (small 1) (fun t => t.focus.goes == [(0xFFFFFFFF, 0xFFFFFFFE)]) = true := by decide +kernel

/-- R102, R342: without a stub, TRAP stops the context; its blocks are saved. -/
theorem test_trap : (match step (State.reset.withFetchWord 32 0x123100A7) with
    | .next t => decide ((t.ctxs.get 0).st = .stopped) && (t.ctxs.get 0).saved.length == 1 && !(t.group 0).live
    | _ => false) = true := by decide +kernel

/-! ### Memory -/

/-- R171: bytes go to memory at the home, little-endian. -/
theorem test_store : after (.storeApply 1) (withOp (small 1) { live := true, instr := .stgW 0 5 0 0 false 0, mask := 1, pa := [(0, 0x3C)], cls := [(0, 1)], data := [(0, 0x11223344)] })
    (fun t => [0x3B, 0x3C, 0x3D, 0x3E, 0x3F, 0x40].map t.byteAt == [0, 0x44, 0x33, 0x22, 0x11, 0]) = true := by decide +kernel
/-- R186: the old value comes back and the sum is stored. -/
theorem test_atom : after (.atomAtHome 1) (withOp (holding (small 1) [(0x3C, splitBytes 0xFFFFFFFF 4)])
      { live := true, instr := .atomAdd 0 5 0 0, mask := 1, pa := [(0, 0x3C)], cls := [(0, 1)], data := [(0, 3)] })
    (fun t => t.readPa 0x3C 4 == 2 && (t.op 1).got.get 0 == 0xFFFFFFFF) = true := by decide +kernel
/-- R171: a signed byte is extended. -/
theorem test_load : after (.loadDataReturn 1) (withOp (small 1) { live := true, instr := .ldgSb 0 5 0 0 false 0, mask := 1, have_ := 1, got := [(0, 0x80)] })
    (fun t => lanes t 5 1 == [0xFFFFFF80] && !(t.op 1).live) = true := by decide +kernel
/-- R173: stash bytes. -/
theorem test_stash : after (.stsH 0 5 2 2) (withV inStash 5 0 0xABCD) (fun t => [255, 256, 257, 258].map (t.stashByte 0) == [0, 0xCD, 0xAB, 0]) = true := by
  decide +kernel
/-- R174: the granule before an allocation is a guard; the byte is dropped and the touch kept. -/
theorem test_guard : after (.stsB 0 5 2 0) (withV (withV (small 1) 5 0 7) 2 0 252) (fun t => t.stashByte 0 252 == 0 && t.curBlock.guard == some 252) = true := by
  decide +kernel

/-! ### Synchronisation, transactions, engine -/

/-- R189: 32 arrivals of 32 lanes end the phase. -/
theorem test_barrier : after (.barArrive 9 15) (small 0xFFFFFFFF) (fun t => (t.curBlock.bars.get 15).phase == 1 && (t.curBlock.bars.get 15).arrived == 0
    && t.cur.sAt 9 == 0) = true := by decide +kernel
/-- R191: the ring wraps. -/
theorem test_qpush : after (.qpush 7 0) ((small 2).onBlock 0 (fun b => { b with queues := [(7, { base := 256, capacity := 2, head := 1, count := 1 })] }))
    (fun t => t.stashValue 0 256 4 == 1 && (t.curBlock.queues.get 7).count == 2) = true := by decide +kernel
/-- R269: a commit writes the logged byte only, and the lane's status is 0. -/
theorem test_commit : after (.txLaneCommit 0) (committing { isOpen := true, writes := [written], threshold := 1 })
    (fun t => [0x1003C, 0x1003D, 0x1003E].map t.byteAt == [0, 0xAA, 0] && t.cur.vAt 5 31 == 0 && t.cur.pAt 2 31) = true := by decide +kernel
/-- R203, R204: with INT8 operands of 1 in every byte, an element grows by the sum over K. -/
theorem test_mmai : after (.mmaComplete 0) ((owning [{ zeroing with instr := .mmai 0 0 0 0 3 7 7 }]).onCur (fun g => { g with v := [(0, 0x01010101), (32, 2)] }))
    (fun t => (t.cores.get 0).engine.acc.get (1024 * 3) == 8 && (t.cores.get 0).engine.acc.get (1024 * 3 + 33) == 0) = true := by decide +kernel

/-! ### The module -/

/-- R312, R346: the context and its queue. -/
theorem test_context_create : after .contextCreate creating (fun t => t.fw.replyStatus == 0 && t.fw.results.get 0 == 1 && decide ((t.ctxs.get 1).st = .running)
    && (t.queues.get 0).tailAddr == 0x4103C && (t.queues.get 0).ctx == 1) = true := by decide +kernel
/-- R41: the block goes to core 0, in the quad with fewer groups. -/
theorem test_placement : after .blockPlacement (placing 0 (loadRecord 0)) (fun t => (t.blocks.get 1).live && (t.blocks.get 1).groups == [16]
    && (t.blocks.get 1).stash == 4608 && (t.dies.get 0).place == 1) = true := by decide +kernel
/-- R319: the completion store. -/
theorem test_completion : after (.launchComplete 0) ((ended 0x1003C).onLaunch 0 (fun x => { x with rec_ := { x.rec_ with doneValue := 9 } }))
    (fun t => t.readPa 0x1003C 4 == 9 && !(t.launches.get 0).live) = true := by decide +kernel
/-- R303: the split goes on in version 1. -/
theorem test_safe : after (.safe 2) atSafe (fun t => t.cur.splits.map (fun x => x.version) == [1] && t.focus.goes.map Prod.snd == [8]) = true := by
  decide +kernel
/-- R314: the packet's head goes to memory. -/
theorem test_head : after (.packetComplete 511) (queue511 0 (some signalPacket) (some 0) []) (fun t => t.readPa 0x41040 4 == 0 && (t.queues.get 511).head == 0
    && (t.queues.get 511).packet == none) = true := by decide +kernel

/-- R339; FIPS 180-4: the published SHA-384 of the message 61 62 63. -/
theorem test_sha384 : sha384 [0x61, 0x62, 0x63]
    = 0xcb00753f45a35e8bb5a03d699ac65007272c32ab0eded1631a8b605a43ff5bed8086072ba1e7cc2358baeca134c825a7 := by decide +kernel

/-- R344: the status word after boot: ready, Carillon A, no update, module number 0. -/
theorem test_status_word : State.reset.registerWord 0x40 = 1 := by decide +kernel

end Sys2Proof.Tests
end

section
/-! ## Structured control, branches and planes (R25–R28, R32, R126–R131, R137) -/

namespace Sys2Proof.Machine

/-! ### Runs of writes to a store -/

/-- Writing the values of a function at the keys of a list, read back. -/
theorem get_putList {α : Type} [Inhabited α] [DecidableEq α] (l : List Nat) (f : Nat → α) (L : Nat) :
    ∀ m : Store α, (l.foldl (fun d K => d.put K (f K)) m).get L = if L ∈ l then f L else m.get L := by
  induction l with
  | nil => simp
  | cons K t ih =>
    intro m
    rw [List.foldl_cons, ih, Store.get_put]
    by_cases hL : L = K <;> by_cases ht : L ∈ t <;> simp [hL, ht]

/-- The same for the lanes of a mask. -/
theorem get_putMask {α : Type} [Inhabited α] [DecidableEq α] (m : Mask) (f : Nat → α) (d : Store α) {L : Nat} (hL : L < 32) :
    ((lanesOf m).foldl (fun d K => d.put K (f K)) d).get L = if inMask m L = true then f L else d.get L := by
  rw [get_putList]; simp [mem_lanesOf, hL]

/-- Changing the values at the keys of a list, read back. -/
theorem get_updList {α : Type} [Inhabited α] [DecidableEq α] (f : α → α) (L : Nat) (l : List Nat) (hl : l.Nodup) :
    ∀ m : Store α, (l.foldl (fun d K => d.upd K f) m).get L = if L ∈ l then f (m.get L) else m.get L := by
  induction l with
  | nil => simp
  | cons K t ih =>
    intro m
    have hnd := List.nodup_cons.1 hl
    rw [List.foldl_cons, ih hnd.2, Store.get_upd]
    by_cases hL : L = K
    · subst hL; simp [hnd.1]
    · simp [hL]

/-! ### Masks -/

theorem mask_eq_zero_iff (m : Mask) : m = 0 ↔ ∀ L, L < 32 → inMask m L = false := by
  constructor
  · rintro rfl L _; simp [inMask]
  · intro h; ext i hi; simpa [inMask, BitVec.getLsbD_eq_getElem hi] using h i hi

/-- The mask of a test is empty where no lane passes it. -/
theorem beq_zero_eq_all (m : Mask) : (m == 0) = (List.range 32).all (fun L => !inMask m L) := by
  rw [Bool.eq_iff_iff, beq_iff_eq, mask_eq_zero_iff]
  simp [List.all_eq_true]

theorem all_range_congr {n : Nat} {f g : Nat → Bool} (h : ∀ L, L < n → f L = g L) : (List.range n).all f = (List.range n).all g := by
  rw [Bool.eq_iff_iff]
  simp only [List.all_eq_true, List.mem_range]
  exact forall₂_congr fun L hL => by rw [h L hL]

theorem inMask_splitLanes (s : State) (L : Nat) : inMask s.splitLanes L = splitLane s L := by
  unfold State.splitLanes splitLane
  rw [inMask_and, inMask_not]
  by_cases hL : L < 32
  · simp [hL]
  · simp [hL, inMask, BitVec.getLsbD_of_ge _ _ (Nat.le_of_not_lt hL)]

/-- R126: the tested predicate. -/
theorem test_eq (s : State) (p : BitVec 3) (neg : Bool) (L : Nat) : s.test p neg L = (s.pR p L ^^ neg) := by
  unfold State.test; cases s.pR p L <;> cases neg <;> rfl

/-! ### The group in focus -/

theorem OnlyCur.focus {s t : State} (h : OnlyCur s t) : t.focus = s.focus := by
  show ({ t with groups := s.groups } : State).focus = _
  rw [h.1]

theorem onlyCur_refl (s : State) : OnlyCur s s := ⟨rfl, fun _ _ => rfl, fun _ => rfl⟩

theorem OnlyCur.trans {s t u : State} (h : OnlyCur s t) (k : OnlyCur t u) : OnlyCur s u := by
  refine ⟨?_, fun g hg => (k.2.1 g (h.focus ▸ hg)).trans (h.2.1 g hg), fun a => (k.2.2 a).trans (h.2.2 a)⟩
  calc ({ u with groups := s.groups } : State)
      = { ({ u with groups := t.groups } : State) with groups := s.groups } := rfl
    _ = { t with groups := s.groups } := by rw [k.1]
    _ = s := h.1

/-! ### Depth counters (R26) -/

/-- Depth counters written in lanes. -/
def State.withDepths (s : State) (m : Mask) (f : Nat → Nat) : State :=
  s.onCur (fun g => { g with depth := (lanesOf m).foldl (fun d L => d.put L (BitVec.ofNat 8 (f L))) g.depth })

/-- No counter passes 255: the counters are written, and the instruction goes on. -/
theorem setDepths_fits (s : State) (m : Mask) (f : Nat → Nat) (major : Nat) (k : State → Out)
    (h : ∀ L, L < 32 → inMask m L = true → f L ≤ 255) : setDepths s m f major k = k (s.withDepths m f) := by
  unfold setDepths
  rw [if_neg]
  · rfl
  · simp only [List.any_eq_true, mem_lanesOf, decide_eq_true_eq, not_exists, not_and]
    rintro L ⟨hL, hm⟩; have := h L hL hm; omega

/-- A counter would pass 255: ILLOP, and nothing is written. -/
theorem setDepths_overflows (s : State) (m : Mask) (f : Nat → Nat) (major : Nat) (k : State → Out) {L : Nat}
    (hL : L < 32) (hm : inMask m L = true) (h : 255 < f L) : setDepths s m f major k = .next (s.illop 8 major) := by
  unfold setDepths
  rw [if_pos]
  simp only [List.any_eq_true, mem_lanesOf, decide_eq_true_eq]
  exact ⟨L, ⟨hL, hm⟩, h⟩

/-- Only depth counters and open transactions of the group in focus may differ; with no transaction open, the
counters alone. -/
structure DepthsOnly (s t : State) : Prop where
  cur : OnlyCur s t
  group : { t.cur with depth := s.cur.depth, tx := s.cur.tx } = s.cur
  closed : s.cur.txOpen = 0 → t.cur.tx = s.cur.tx

theorem depthsOnly_refl (s : State) : DepthsOnly s s := ⟨onlyCur_refl s, rfl, fun _ => rfl⟩

theorem depthsOnly_withDepths (s : State) (m : Mask) (f : Nat → Nat) : DepthsOnly s (s.withDepths m f) :=
  ⟨onlyCur_onCur s _, by rw [State.withDepths, cur_onCur], fun _ => by rw [State.withDepths, cur_onCur]⟩

theorem depthAtLane_withDepths (s : State) (m : Mask) (f : Nat → Nat) (h : ∀ L, L < 32 → inMask m L = true → f L ≤ 255)
    {L : Nat} (hL : L < 32) : depthAtLane (s.withDepths m f) L = if inMask m L = true then f L else depthAtLane s L := by
  unfold depthAtLane State.withDepths
  rw [cur_onCur, get_putMask _ _ _ hL]
  by_cases hm : inMask m L = true
  · have := h L hL hm
    simp [hm, BitVec.toNat_ofNat]; omega
  · simp [hm]

theorem txOpen_eq_of_tx {g k : Group} (h : g.tx = k.tx) : g.txOpen = k.txOpen := by unfold Group.txOpen; rw [h]

/-! ### Open transactions -/

theorem cur_onTx (s : State) (m : Mask) (f : TxLane → TxLane) :
    (s.onTx m f).cur = { s.cur with tx := (lanesOf (m &&& s.cur.txOpen)).foldl (fun t L => t.upd L f) s.cur.tx } := cur_onCur s _

theorem onlyCur_onTx (s : State) (m : Mask) (f : TxLane → TxLane) : OnlyCur s (s.onTx m f) := onlyCur_onCur s _

/-- With no transaction open, a change of open transactions changes nothing. -/
theorem onTx_tx_closed (s : State) (m : Mask) (f : TxLane → TxLane) (h : s.cur.txOpen = 0) : (s.onTx m f).cur.tx = s.cur.tx := by
  rw [cur_onTx, h]; simp [lanesOf_zero]

theorem doom_tx_closed (s : State) (m : Mask) (c : Word) (h : s.cur.txOpen = 0) : (s.doom m c).cur.tx = s.cur.tx := by
  rw [cur_doom, doomLanes_none _ _ _ (by rw [h]; simp)]

theorem DepthsOnly.onTx {s t : State} (h : DepthsOnly s t) (m : Mask) (f : TxLane → TxLane) : DepthsOnly s (t.onTx m f) where
  cur := h.cur.trans (onlyCur_onTx t m f)
  group := by rw [cur_onTx]; exact h.group
  closed h0 := by rw [onTx_tx_closed _ _ _ ((txOpen_eq_of_tx (h.closed h0)).trans h0), h.closed h0]

theorem DepthsOnly.doom {s t : State} (h : DepthsOnly s t) (m : Mask) (c : Word) : DepthsOnly s (t.doom m c) where
  cur := h.cur.trans (onlyCur_doom t m c)
  group := by rw [cur_doom]; exact h.group
  closed h0 := by rw [doom_tx_closed _ _ _ ((txOpen_eq_of_tx (h.closed h0)).trans h0), h.closed h0]

@[simp] theorem depthAtLane_onTx (s : State) (m : Mask) (f : TxLane → TxLane) (L : Nat) :
    depthAtLane (s.onTx m f) L = depthAtLane s L := by unfold depthAtLane; rw [cur_onTx]
@[simp] theorem depthAtLane_doom (s : State) (m : Mask) (c : Word) (L : Nat) :
    depthAtLane (s.doom m c) L = depthAtLane s L := by unfold depthAtLane; rw [cur_doom]; rfl

/-- A structured word whose meaning is a jump, or none, after a change of counters. -/
theorem structured_of_jumpIf {i : Instr} {s t : State} {after : Nat → Nat} {jumps : Bool} {off : Word}
    (hi : exec i s = jumpIf jumps t off) (ht : DepthsOnly s t) (ha : ∀ L, L < 32 → depthAtLane t L = after L) :
    Structured i s after jumps off := by
  have hf := ht.cur.focus
  refine ⟨_, hi, ?_⟩
  cases jumps
  · exact ⟨ha, congrArg Focus.goes hf, by rw [if_neg (by simp), ← ht.cur.1, hf], ht.cur.2.1, ht.group, ht.closed, ht.cur.2.2⟩
  · refine ⟨ha, ?_, ?_, ht.cur.2.1, ht.group, ht.closed, ht.cur.2.2⟩
    · show (BitVec.allOnes 32, t.focus.offset + 2 * off) :: t.focus.goes = _
      rw [hf]; rfl
    · calc _ = ({ ({ t with groups := s.groups } : State) with focus := s.focus } : State) := rfl
        _ = s := by rw [ht.cur.1]

theorem depthOf_eq (s : State) (L : Nat) : s.depthOf L = depthAtLane s L := rfl
theorem depthAtLane_le (s : State) (L : Nat) : depthAtLane s L ≤ 255 := by
  have := (s.cur.depth.get L).isLt; unfold depthAtLane; omega

/-! ### IF, ELSE, ENDIF (R27) -/

/-- The counter that IF gives a lane of the split. -/
def ifDepth (s : State) (p : BitVec 3) (neg : Bool) (L : Nat) : Nat :=
  if s.inPass L = true then (if (s.inPass L && (s.pR p L ^^ neg)) = true then 0 else 1) else depthAtLane s L + 1

theorem inMask_ifStay (s : State) (p : BitVec 3) (neg : Bool) {L : Nat} (hL : L < 32) :
    inMask (maskOf (fun L => inMask s.focus.mask L && s.test p neg L)) L = (s.inPass L && (s.pR p L ^^ neg)) := by
  simp [hL, test_eq, State.inPass]

theorem setDepths_congr (s : State) (m : Mask) {f g : Nat → Nat} (major : Nat) (k : State → Out)
    (h : ∀ L, L < 32 → f L = g L) : setDepths s m f major k = setDepths s m g major k := by
  have hl : ∀ L ∈ lanesOf m, f L = g L := fun L hL => h L (mem_lanesOf.1 hL).1
  have hany : (lanesOf m).any (fun L => decide (255 < f L)) = (lanesOf m).any (fun L => decide (255 < g L)) := by
    rw [Bool.eq_iff_iff]; simp only [List.any_eq_true]
    exact exists_congr fun L => and_congr_right fun hL => by rw [hl L hL]
  have hfold (d : Store (BitVec 8)) : (lanesOf m).foldl (fun d L => d.put L (BitVec.ofNat 8 (f L))) d
      = (lanesOf m).foldl (fun d L => d.put L (BitVec.ofNat 8 (g L))) d :=
    List.foldl_ext _ _ _ (fun d L hL => by rw [hl L hL])
  unfold setDepths; simp only [hany, hfold]

theorem execIfP_eq (s : State) (p : BitVec 3) (neg : Bool) (off : BitVec 16) :
    execIfP p neg off s = setDepths s s.splitLanes (ifDepth s p neg) 0x40
      (fun t => jumpIf ((List.range 32).all (fun L => !(s.inPass L && (s.pR p L ^^ neg))))
        (t.onTx s.splitLanes (fun x => { x with levels := x.levels + 1 })) (off.signExtend 32)) := by
  unfold execIfP
  dsimp only
  rw [beq_zero_eq_all, all_range_congr (fun L hL => by rw [inMask_ifStay s p neg hL])]
  exact setDepths_congr _ _ _ _ (fun L hL => by rw [inMask_ifStay s p neg hL]; rfl)

/-- IF within the limit of R26. -/
theorem ifP_structured (s : State) (p : BitVec 3) (neg : Bool) (off : BitVec 16)
    (h : ∀ L, L < 32 → splitLane s L = true → s.inPass L = false → depthAtLane s L < 255) :
    Structured (.ifP p neg off) s (fun L => if splitLane s L = true then ifDepth s p neg L else depthAtLane s L)
      ((List.range 32).all (fun L => !(s.inPass L && (s.pR p L ^^ neg)))) (off.signExtend 32) := by
  have hfits : ∀ L, L < 32 → inMask s.splitLanes L = true → ifDepth s p neg L ≤ 255 := by
    intro L hL hm
    rw [inMask_splitLanes] at hm
    unfold ifDepth
    by_cases ha : s.inPass L = true
    · rw [if_pos ha]; split <;> omega
    · have := h L hL hm (by simpa using ha)
      rw [if_neg ha]; omega
  refine structured_of_jumpIf ((execIfP_eq s p neg off).trans (setDepths_fits _ _ _ _ _ hfits))
    ((depthsOnly_withDepths s _ _).onTx _ _) fun L hL => ?_
  rw [depthAtLane_onTx, depthAtLane_withDepths _ _ _ hfits hL, inMask_splitLanes]

/-- IF past the limit of R26. -/
theorem ifP_overflows (s : State) (p : BitVec 3) (neg : Bool) (off : BitVec 16) {L : Nat} (hL : L < 32)
    (hm : splitLane s L = true) (ha : s.inPass L = false) (hd : depthAtLane s L = 255) :
    exec (.ifP p neg off) s = .next (s.illop 8 0x40) :=
  (execIfP_eq s p neg off).trans
    (setDepths_overflows _ _ _ _ _ hL (by rw [inMask_splitLanes]; exact hm) (by simp [ifDepth, ha, hd]))

/-- The counter that ELSE gives a lane of the split. -/
def elseDepth (s : State) (L : Nat) : Nat :=
  if depthAtLane s L = 0 then 1 else if depthAtLane s L = 1 then 0 else depthAtLane s L

theorem execElseP_eq (s : State) (off : BitVec 20) :
    execElseP off s = setDepths s s.splitLanes (elseDepth s) 0x41
      (fun t => jumpIf (t.cur.active t.splitLanes == 0) t (off.signExtend 32)) :=
  setDepths_congr _ _ _ _ (fun L _ => by simp only [elseDepth, ← depthOf_eq]; split <;> simp_all)

theorem splitLanes_withDepths (s : State) (m : Mask) (f : Nat → Nat) : (s.withDepths m f).splitLanes = s.splitLanes := by
  unfold State.splitLanes
  rw [State.withDepths, cur_onCur]
  simp [State.splitOf, State.onCur, group_onGroup, Group.findSplit, Group.splits]
  rfl

theorem splitLane_iff (s : State) (L : Nat) : splitLane s L = true ↔ inMask s.splitLanes L = true := by rw [inMask_splitLanes]

/-- A lane of a split is active where its counter is 0 and it is not parked (R26). -/
theorem inMask_active_splitLanes (s : State) {L : Nat} (hL : L < 32) :
    inMask (s.cur.active s.splitLanes) L = (splitLane s L && depthAtLane s L == 0 && !(s.cur.tx.get L).parked) := by
  have hd : decide (s.cur.depth.get L = 0) = (depthAtLane s L == 0) := by
    rw [Bool.eq_iff_iff]; simp [depthAtLane, ← BitVec.toNat_inj]
  have he : splitLane s L = (inMask (s.splitOf s.focus.grp s.focus.uid).mask L && !inMask s.cur.exited L) := rfl
  unfold Group.active
  simp only [inMask_and, inMask_not, inMask_splitLanes, inMask_maskOf, hL, decide_true, Bool.true_and, hd, he]
  cases inMask s.cur.exited L <;> simp [Bool.and_assoc]

theorem elseP_structured (s : State) (off : BitVec 20) :
    let after (L : Nat) : Nat := if splitLane s L = true then elseDepth s L else depthAtLane s L
    Structured (.elseP off) s after
      ((List.range 32).all (fun L => !(splitLane s L && after L == 0 && !(s.cur.tx.get L).parked))) (off.signExtend 32) := by
  intro after
  have hfits : ∀ L, L < 32 → inMask s.splitLanes L = true → elseDepth s L ≤ 255 := by
    intro L _ _
    have := depthAtLane_le s L
    unfold elseDepth; split <;> (try split) <;> omega
  have hafter (L : Nat) (hL : L < 32) : depthAtLane (s.withDepths s.splitLanes (elseDepth s)) L = after L := by
    rw [depthAtLane_withDepths _ _ _ hfits hL, inMask_splitLanes]
  refine structured_of_jumpIf (t := s.withDepths s.splitLanes (elseDepth s)) ?_ (depthsOnly_withDepths s _ _) hafter
  refine (execElseP_eq s off).trans ((setDepths_fits _ _ _ _ _ hfits).trans ?_)
  rw [beq_zero_eq_all, all_range_congr fun L hL => ?_]
  rw [inMask_active_splitLanes _ hL, hafter L hL, ← inMask_splitLanes, splitLanes_withDepths, inMask_splitLanes]
  rw [State.withDepths, cur_onCur]

/-- ENDIF, and ENDLOOP with no lane left: the counters that are not 0 go down by 1. -/
theorem depthAtLane_withDepths_pred (s : State) {L : Nat} (hL : L < 32) :
    depthAtLane (s.withDepths s.splitLanes (fun L => s.depthOf L - 1)) L
      = if splitLane s L = true then depthAtLane s L - 1 else depthAtLane s L := by
  rw [depthAtLane_withDepths _ _ _ (fun L _ _ => by have := depthAtLane_le s L; rw [depthOf_eq]; omega) hL,
    inMask_splitLanes, depthOf_eq]

theorem setDepths_pred (s : State) (major : Nat) (k : State → Out) :
    setDepths s s.splitLanes (fun L => s.depthOf L - 1) major k = k (s.withDepths s.splitLanes (fun L => s.depthOf L - 1)) :=
  setDepths_fits _ _ _ _ _ (fun L _ _ => by have := depthAtLane_le s L; rw [depthOf_eq]; omega)

/-- The split leaves a level: its counters that are not 0 go down by 1, and its transactions count one level less. -/
def State.leaveLevel (s : State) : State :=
  (s.withDepths s.splitLanes (fun L => s.depthOf L - 1)).onTx s.splitLanes (fun x => { x with levels := x.levels - 1 })

theorem execEndif_eq (s : State) : exec .endif s = setDepths s s.splitLanes (fun L => s.depthOf L - 1) 0x42
    (fun t => jumpIf false (t.onTx s.splitLanes (fun x => { x with levels := x.levels - 1 })) 0) := rfl

theorem endif_structured (s : State) :
    Structured .endif s (fun L => if splitLane s L = true then depthAtLane s L - 1 else depthAtLane s L) false 0 :=
  structured_of_jumpIf (t := s.leaveLevel) ((execEndif_eq s).trans (setDepths_pred s _ _)) ((depthsOnly_withDepths s _ _).onTx _ _)
    (fun L hL => by rw [State.leaveLevel, depthAtLane_onTx, depthAtLane_withDepths_pred s hL])

/-- Settles O22, word by word: the counters that setDepths writes, and where one would pass 255. -/
theorem ifElseEndif : Obligations.IfElseEndif := by
  unfold Obligations.IfElseEndif
  exact ⟨fun s p neg off h => ifP_structured s p neg off h,
    fun s p neg off L hL hm ha hd => ifP_overflows s p neg off hL hm ha hd,
    fun s off => elseP_structured s off, fun s => endif_structured s⟩

/-! ### LOOP, ENDLOOP, BRK (R28) -/

/-- The counter that LOOP gives a lane of the split. -/
def loopDepth (s : State) (L : Nat) : Nat := if s.inPass L = true then 0 else depthAtLane s L + 1

theorem execLoop_eq (s : State) (off : BitVec 20) :
    exec (.loop off) s = setDepths s s.splitLanes (loopDepth s) 0x43
      (fun t => jumpIf (s.focus.mask == 0) (t.onTx s.splitLanes (fun x => { x with levels := x.levels + 1 })) (off.signExtend 32)) := rfl

theorem loop_structured (s : State) (off : BitVec 20)
    (h : ∀ L, L < 32 → splitLane s L = true → s.inPass L = false → depthAtLane s L < 255) :
    Structured (.loop off) s (fun L => if splitLane s L = true then loopDepth s L else depthAtLane s L)
      (s.focus.mask == 0) (off.signExtend 32) := by
  have hfits : ∀ L, L < 32 → inMask s.splitLanes L = true → loopDepth s L ≤ 255 := by
    intro L hL hm
    rw [inMask_splitLanes] at hm
    unfold loopDepth
    by_cases ha : s.inPass L = true
    · rw [if_pos ha]; omega
    · have := h L hL hm (by simpa using ha)
      rw [if_neg ha]; omega
  refine structured_of_jumpIf ((execLoop_eq s off).trans (setDepths_fits _ _ _ _ _ hfits))
    ((depthsOnly_withDepths s _ _).onTx _ _) fun L hL => ?_
  rw [depthAtLane_onTx, depthAtLane_withDepths _ _ _ hfits hL, inMask_splitLanes]

theorem loop_overflows (s : State) (off : BitVec 20) {L : Nat} (hL : L < 32)
    (hm : splitLane s L = true) (ha : s.inPass L = false) (hd : depthAtLane s L = 255) :
    exec (.loop off) s = .next (s.illop 8 0x43) :=
  (execLoop_eq s off).trans <| setDepths_overflows _ _ _ _ _ hL (by rw [inMask_splitLanes]; exact hm) (by simp [loopDepth, ha, hd])

theorem endloop_jumps (s : State) (off : BitVec 20) (h : s.focus.mask ≠ 0) :
    Structured (.endloop off) s (depthAtLane s) true (off.signExtend 32) :=
  structured_of_jumpIf (if_pos h) (depthsOnly_refl s) (fun _ _ => rfl)

theorem endloop_ends (s : State) (off : BitVec 20) (h : s.focus.mask = 0) :
    Structured (.endloop off) s (fun L => if splitLane s L = true then depthAtLane s L - 1 else depthAtLane s L)
      false (off.signExtend 32) :=
  structured_of_jumpIf (t := s.leaveLevel) ((if_neg (by simp [h])).trans (setDepths_pred s 0x44 _))
    ((depthsOnly_withDepths s _ _).onTx _ _)
    (fun L hL => by rw [State.leaveLevel, depthAtLane_onTx, depthAtLane_withDepths_pred s hL])

/-- The lanes that BRK breaks, and those of them that leave their transaction's region (R261). -/
def brkOut (s : State) (p : BitVec 3) (neg : Bool) : Mask := maskOf (fun L => inMask s.focus.mask L && s.test p neg L)
def brkLeaves (s : State) (p : BitVec 3) (neg : Bool) (n : BitVec 4) : Mask :=
  maskOf (fun L => inMask (brkOut s p neg) L && (s.cur.tx.get L).isOpen && decide ((s.cur.tx.get L).levels < n.toNat + 1))

theorem inMask_brkOut (s : State) (p : BitVec 3) (neg : Bool) {L : Nat} (hL : L < 32) :
    inMask (brkOut s p neg) L = (s.inPass L && (s.pR p L ^^ neg)) := inMask_ifStay s p neg hL

/-- BRK jumps where no lane of the pass stays. -/
theorem brk_jumps_iff (s : State) (p : BitVec 3) (neg : Bool) :
    ((s.focus.mask &&& ~~~brkOut s p neg) == 0) = (List.range 32).all (fun L => !s.inPass L || (s.inPass L && (s.pR p L ^^ neg))) := by
  rw [beq_zero_eq_all]
  refine all_range_congr fun L hL => ?_
  have : inMask s.focus.mask L = s.inPass L := rfl
  rw [inMask_and, inMask_not, inMask_brkOut s p neg hL, this]
  cases s.inPass L <;> simp [hL]

theorem execBrk_eq (s : State) (p : BitVec 3) (neg : Bool) (n : BitVec 4) (off : BitVec 16) :
    exec (.brk p neg n off) s = setDepths s (brkOut s p neg) (fun _ => n.toNat + 1) 0x45
      (fun t => jumpIf ((List.range 32).all (fun L => !s.inPass L || (s.inPass L && (s.pR p L ^^ neg))))
        (t.doom (brkLeaves s p neg n) 6) (off.signExtend 32)) := by
  rw [← brk_jumps_iff]; rfl

theorem brk_structured (s : State) (p : BitVec 3) (neg : Bool) (n : BitVec 4) (off : BitVec 16) :
    let out (L : Nat) : Bool := s.inPass L && (s.pR p L ^^ neg)
    Structured (.brk p neg n off) s (fun L => if out L = true then n.toNat + 1 else depthAtLane s L)
      ((List.range 32).all (fun L => !s.inPass L || out L)) (off.signExtend 32) := by
  have hfits : ∀ L, L < 32 → inMask (brkOut s p neg) L = true → n.toNat + 1 ≤ 255 := fun _ _ _ => by omega
  refine structured_of_jumpIf ((execBrk_eq s p neg n off).trans (setDepths_fits _ _ _ _ _ hfits))
    ((depthsOnly_withDepths s _ _).doom _ _) fun L hL => ?_
  rw [depthAtLane_doom, depthAtLane_withDepths _ _ _ hfits hL, inMask_brkOut s p neg hL]

/-- Settles O23, word by word, as O22. -/
theorem loopEndloopBrk : Obligations.LoopEndloopBrk := by
  unfold Obligations.LoopEndloopBrk
  exact ⟨fun s off h => loop_structured s off h, fun s off L hL hm ha hd => loop_overflows s off hL hm ha hd,
    endloop_jumps, endloop_ends, fun s p neg n off => brk_structured s p neg n off⟩

end Sys2Proof.Machine
end

section
/-! ## Branches and calls, planes (R32, R128–R131, R137) -/

namespace Sys2Proof.Machine

/-! ### Leaving a transaction (R195, R261) -/

/-- Only the transactions of the group in focus may differ. -/
structure TxOnly (s t : State) : Prop where
  cur : OnlyCur s t
  group : { t.cur with tx := s.cur.tx } = s.cur

theorem txOnly_refl (s : State) : TxOnly s s := ⟨onlyCur_refl s, rfl⟩

theorem txOnly_leaveTx (s : State) (m : Mask) (target : Word) (call : Bool) : TxOnly s (s.leaveTx m target call) := by
  unfold State.leaveTx
  split
  · exact txOnly_refl s
  · exact ⟨(onlyCur_doom s _ _).trans (onlyCur_onTx _ _ _), by rw [cur_onTx, cur_doom]; rfl⟩

/-- With no transaction open in the group nothing is left. -/
theorem leaveTx_closed (s : State) (m : Mask) (target : Word) (call : Bool) (h : s.cur.txOpen = 0) :
    s.leaveTx m target call = s := by
  unfold State.leaveTx; rw [if_pos (by rw [h]; simp)]

/-! ### BRA, JMP, BSC, CALL, RET (R128, R130, R131) -/

/-- A branch without a link: the lanes of a mask go to an offset, once they have left their transactions. -/
theorem sends_of_leaveTx {i : Instr} {s : State} {m : Mask} {target : Word} {call : Bool}
    (hi : exec i s = .next ((s.leaveTx m target call).sendTo m target)) : Sends i s m target false := by
  have h := txOnly_leaveTx s m target call
  refine ⟨_, hi, ?_, h.cur.2.2, congrArg (fun g => g.v) h.group, congrArg (fun g => g.p) h.group, fun r => ?_, fun h0 => ?_⟩
  · show (m, target) :: (s.leaveTx m target call).focus.goes = _
    rw [h.cur.focus]
  · rw [if_neg (by simp)]
    exact congrArg (fun g => g.sAt r) h.group
  · rw [leaveTx_closed _ _ _ _ h0]
    exact ⟨⟨rfl, fun _ _ => rfl, fun _ => rfl⟩, rfl, rfl⟩

theorem bra_sends (s : State) (p : BitVec 3) (neg : Bool) (off : BitVec 16) :
    Sends (.bra p neg off) s (maskOf (fun L => s.inPass L && (s.pR p L ^^ neg))) (s.focus.offset + 2 * off.signExtend 32) false := by
  have hm : maskOf (fun L => s.inPass L && (s.pR p L ^^ neg)) = maskOf (fun L => inMask s.focus.mask L && s.test p neg L) := by
    simp only [test_eq]; rfl
  rw [hm]
  exact sends_of_leaveTx (call := false) rfl

/-! The link register is no part of what decides which lanes a pass moves, or of their transactions. -/

theorem cur_linkHere (s : State) : s.linkHere.cur = s.cur.setS 63 (s.focus.offset + 4) := cur_onCur s _

theorem ownLanes_linkHere (s : State) : s.linkHere.ownLanes = s.ownLanes := by
  have hp : s.linkHere.cur.plane = s.cur.plane := by rw [cur_linkHere]; rfl
  have hl : s.linkHere.splitLanes = s.splitLanes := by
    unfold State.splitLanes
    rw [cur_linkHere]
    simp [State.splitOf, State.linkHere, State.setS, State.onCur, group_onGroup, Group.findSplit, Group.splits, Group.setS]
  have hf : s.linkHere.focus = s.focus := rfl
  unfold State.ownLanes
  simp only [hp, hl, hf]

theorem call_sends (s : State) (off : BitVec 20) :
    Sends (.call off) s s.ownLanes (s.focus.offset + 2 * off.signExtend 32) true := by
  have hl : OnlyCur s s.linkHere := onlyCur_onCur s _
  have h := txOnly_leaveTx s.linkHere s.ownLanes (s.target (off.signExtend 32)) true
  have hs : ∀ r, s.linkHere.cur.sAt r = if r = 63 then s.focus.offset + 4 else s.cur.sAt r := by
    intro r; rw [cur_linkHere, sAt_setS]
  refine ⟨(s.linkHere.leaveTx s.ownLanes (s.target (off.signExtend 32)) true).sendTo s.ownLanes (s.target (off.signExtend 32)),
    ?_, ?_, fun a => (h.cur.2.2 a).trans (hl.2.2 a), ?_, ?_, fun r => ?_, fun h0 => ?_⟩
  · show Host.Outcome.next (s.linkHere.moveWhole (s.target (off.signExtend 32)) true) = _
    rw [State.moveWhole, ownLanes_linkHere]
  · show (s.ownLanes, _) :: (s.linkHere.leaveTx s.ownLanes _ true).focus.goes = _
    rw [h.cur.focus]; rfl
  · refine (congrArg (fun g => g.v) h.group).trans ?_
    rw [cur_linkHere]; rfl
  · refine (congrArg (fun g => g.p) h.group).trans ?_
    rw [cur_linkHere]; rfl
  · refine (congrArg (fun g => g.sAt r) h.group).trans ?_
    rw [hs r]; simp
  · have h1 : s.linkHere.cur.txOpen = 0 := by rw [cur_linkHere]; exact h0
    rw [leaveTx_closed _ _ _ _ h1]
    refine ⟨⟨rfl, hl.2.1, hl.2.2⟩, ?_, rfl⟩
    show { s.linkHere.cur with s := s.cur.s } = s.cur
    rw [cur_linkHere]; rfl

theorem bscTruth_eq (rel : BitVec 2) (x : Word) : bscTruth rel.toNat x =
    if rel = 0 then decide (x = 0) else if rel = 1 then decide (x ≠ 0)
      else if rel = 2 then decide (x.toInt < 0) else decide (0 ≤ x.toInt) := by
  have : rel = 0 ∨ rel = 1 ∨ rel = 2 ∨ rel = 3 := by
    revert rel; decide
  rcases this with rfl | rfl | rfl | rfl <;> rfl

/-- R130, R33: an offset in one pass, whose lanes are all in its plane, moves every lane of the split. -/
theorem ownLanes_one_pass (s : State) (hf : s.focus.first = true) (hl : s.focus.lanes = s.focus.mask)
    (hp : ∀ L, s.inPass L = true → s.cur.plane.get L = s.focus.plane) (L : Nat) (h : splitLane s L = true) :
    inMask s.ownLanes L = true := by
  have hL : L < 32 := inMask_lt (m := s.splitLanes) (by rw [inMask_splitLanes]; exact h)
  unfold State.ownLanes
  simp only [inMask_or, inMask_and, inMask_not, inMask_splitLanes, inMask_maskOf, hl, hf, h, hL]
  by_cases hm : inMask s.focus.mask L = true
  · simp [hm]
  by_cases hpl : s.cur.plane.get L = s.focus.plane
  · simp [hm, hpl]
  · -- no pass of the offset is in the lane's plane: its lanes are all in the plane of the one pass
    have hne : (s.cur.plane.get L).toNat ≠ s.focus.plane.toNat := fun e => hpl (BitVec.eq_of_toNat_eq e)
    have hidle : s.focus.mask &&& maskOf (fun K => (s.cur.plane.get K).toNat == (s.cur.plane.get L).toNat) = 0 := by
      rw [mask_eq_zero_iff]
      intro K hK
      rw [inMask_and, inMask_maskOf]
      by_cases hKm : inMask s.focus.mask K = true
      · have := hp K hKm
        simp [this, hne.symm]
      · simp [hKm]
    have hidle' : s.focus.mask &&& maskOf (fun K => (s.cur.plane.get K).toNat == (s.cur.plane.get L).toNat) = 0#32 := hidle
    simp [hm, hidle']

/-! ### BRX and CALLI (R129) -/

/-- What becomes of the lanes of a list, each sent to its own offset: the last entry for a lane is the first found. -/
def sentTo (goes : List (Mask × Word)) (f : Nat → Word) (l : List Nat) : List (Mask × Word) :=
  l.foldl (fun gs L => (maskOf (fun K => K == L), f L) :: gs) goes

theorem find_sentTo (f : Nat → Word) (L : Nat) (hL : L < 32) (l : List Nat) : ∀ goes : List (Mask × Word),
    ((sentTo goes f l).find? (fun e => inMask e.1 L)).map Prod.snd
      = if L ∈ l then some (f L) else (goes.find? (fun e => inMask e.1 L)).map Prod.snd := by
  induction l with
  | nil => simp [sentTo]
  | cons K t ih =>
    intro goes
    rw [show sentTo goes f (K :: t) = sentTo ((maskOf (fun J => J == K), f K) :: goes) f t from rfl, ih]
    by_cases ht : L ∈ t
    · simp [ht]
    · by_cases hK : L = K
      · subst hK; simp [ht, hL]
      · simp [ht, hK]

/-- With no transaction open, BRX and CALLI change nothing but where the lanes go. -/
theorem scatter_closed (s : State) (a : Reg) (call : Bool) (h0 : s.cur.txOpen = 0) :
    s.scatter a call = s.onFocus (fun f => { f with goes := sentTo f.goes (fun L => evenOffset (s.vR a L)) (lanesOf f.mask) }) := by
  have key (l : List Nat) : ∀ goes : List (Mask × Word),
      l.foldl (fun (st : State) L =>
        (st.leaveTx (maskOf (fun K => K == L)) (evenOffset (s.vR a L)) call).sendTo (maskOf (fun K => K == L)) (evenOffset (s.vR a L)))
        ({ s with focus := { s.focus with goes := goes } } : State)
      = { s with focus := { s.focus with goes := sentTo goes (fun L => evenOffset (s.vR a L)) l } } := by
    induction l with
    | nil => intro goes; rfl
    | cons K t ih =>
      intro goes
      have h1 : ({ s with focus := { s.focus with goes := goes } } : State).cur.txOpen = 0 := h0
      rw [List.foldl_cons, leaveTx_closed _ _ _ _ h1]
      exact ih _
  exact key _ s.focus.goes

/-- Where the lanes of the pass go after BRX or CALLI. -/
theorem find_scatter (s : State) (a : Reg) (call : Bool) (h0 : s.cur.txOpen = 0) (L : Nat) (hL : L < 32) :
    (((s.scatter a call).focus.goes.find? (fun e => inMask e.1 L)).map Prod.snd)
      = if s.inPass L = true then some (s.vR a L &&& 0xFFFFFFFE) else (s.focus.goes.find? (fun e => inMask e.1 L)).map Prod.snd := by
  rw [scatter_closed s a call h0]
  refine (find_sentTo _ L hL _ _).trans ?_
  simp only [mem_lanesOf, hL, true_and]
  rfl

theorem brx_sends (s : State) (a : Reg) (h0 : s.cur.txOpen = 0) : Completes (.brx a) s (fun t =>
    (∀ L, L < 32 → ((t.focus.goes.find? (fun e => inMask e.1 L)).map Prod.snd)
      = if s.inPass L = true then some (s.vR a L &&& 0xFFFFFFFE) else (s.focus.goes.find? (fun e => inMask e.1 L)).map Prod.snd)
    ∧ OnlyGoes s t) :=
  ⟨_, rfl, fun L hL => find_scatter s a false h0 L hL, by rw [scatter_closed s a false h0]; exact ⟨rfl, fun _ => rfl⟩⟩

theorem calli_sends (s : State) (a : Reg) (h0 : s.cur.txOpen = 0) (hm : s.focus.mask ≠ 0) : Completes (.calli a) s (fun t =>
    (∀ L, L < 32 → ((t.focus.goes.find? (fun e => inMask e.1 L)).map Prod.snd)
      = if s.inPass L = true then some (s.vR a L &&& 0xFFFFFFFE) else (s.focus.goes.find? (fun e => inMask e.1 L)).map Prod.snd)
    ∧ OnlyCur { s with focus := t.focus } t ∧ { t.cur with s := s.cur.s } = s.cur
    ∧ { t.focus with goes := s.focus.goes } = s.focus
    ∧ ∀ r, t.cur.sAt r = if r = 63 then s.focus.offset + 4 else s.cur.sAt r) := by
  refine ⟨(s.scatter a true).linkHere, ?_, fun L hL => find_scatter s a true h0 L hL, ?_⟩
  · show Host.Outcome.next (if s.focus.mask = 0 then s else (s.scatter a true).linkHere) = _
    rw [if_neg hm]
  · rw [scatter_closed s a true h0]
    refine ⟨onlyCur_onCur _ _, ?_, rfl, fun r => ?_⟩
    · rw [cur_linkHere]; rfl
    · rw [cur_linkHere, sAt_setS]; rfl

/-- Settles O24: the branches by one lemma about leaving transactions, the indirect ones by a fold over the lanes. -/
theorem branches : Obligations.Branches := by
  unfold Obligations.Branches
  refine ⟨⟨bra_sends, fun s off => sends_of_leaveTx (call := false) rfl, call_sends,
    fun s a => sends_of_leaveTx (call := true) rfl, fun s a rel off => ?_, ownLanes_one_pass⟩,
    brx_sends, calli_sends, fun s a h => ?_⟩
  · have he : exec (.bsc a rel off) s
        = .next (if bscTruth rel.toNat (s.sR a) then s.moveWhole (s.target (off.signExtend 32)) false else s) := rfl
    dsimp only
    rw [← bscTruth_eq]
    split
    · next h => exact sends_of_leaveTx (call := false) (he.trans (by rw [if_pos h]; rfl))
    · next h => rw [he, if_neg h]
  · show Host.Outcome.next (if s.focus.mask = 0 then s else (s.scatter a true).linkHere) = _
    rw [if_pos h]

/-! ### Planes (R32, R137) -/

/-- A mask's planes are set, or one is not below the version's count and none is. -/
theorem setPlanes_sets {i : Instr} {s : State} {m : Mask} {lane : Nat → Bool} {k : Nat → BitVec 2}
    (hm : ∀ L, L < 32 → inMask m L = lane L) (hi : exec i s = setPlanes s m k) : SetsPlanes i s lane k := by
  unfold SetsPlanes
  dsimp only
  have hcond : ((List.range 32).all (fun L => !lane L || decide ((k L).toNat < ((s.launchOf s.focus.grp).entries.get s.focus.version).planes)) = true)
      ↔ ¬ ((lanesOf m).any (fun L => decide (((s.launchOf s.focus.grp).entries.get s.focus.version).planes ≤ (k L).toNat)) = true) := by
    simp only [List.all_eq_true, List.any_eq_true, List.mem_range, mem_lanesOf, not_exists, not_and, decide_eq_true_eq, Bool.or_eq_true,
      Bool.not_eq_true', Nat.not_le]
    refine forall_congr' fun L => ?_
    by_cases hL : L < 32
    · rw [hm L hL]; cases lane L <;> simp [hL]
    · simp [hL]
  unfold setPlanes at hi
  split
  · next h =>
    rw [if_neg (hcond.1 h)] at hi
    refine ⟨_, hi, onlyCur_onCur s _, by rw [cur_onCur], fun L hL => ?_⟩
    rw [cur_onCur, get_putMask _ _ _ hL, hm L hL]
  · next h =>
    rw [if_pos (by by_contra hn; exact h (hcond.2 hn))] at hi
    exact hi

/-- Settles O26: the three instructions that set planes by `setPlanes_sets`, PGET by the lane-wise form. -/
theorem planeInstructions : Obligations.PlaneInstructions := by
  unfold Obligations.PlaneInstructions
  refine ⟨fun s k => setPlanes_sets (fun _ _ => rfl) rfl, fun s neg p k => setPlanes_sets (fun L hL => inMask_ifStay s p neg hL) rfl,
    fun s a => setPlanes_sets (m := s.focus.mask) (fun _ _ => rfl) ?_, fun d s => lanewise_result s d _⟩
  have hk (w : Word) : w.setWidth 2 = w.extractLsb' 0 2 := by ext i; simp [BitVec.getElem_extractLsb']
  show setPlanes s s.focus.mask (fun L => (s.vR a L).setWidth 2) = _
  simp only [hk]

end Sys2Proof.Machine
end

section
/-! ## Special registers (R12, R15, R41, R105, R106, R141, R380) -/

namespace Sys2Proof.Machine

/-- R113: an instruction that executes once runs where it acts, and changes nothing elsewhere. -/
theorem uniform_eq (s : State) (f : Mask → State) : uniform s f = .next (if s.actsOnce = true then f s.onceSet else s) := by
  unfold uniform
  rw [onceMask_eq]
  by_cases h : s.actsOnce = true <;> simp [h]

/-! ### The identifier of a work item (R12, R15, R41) -/

/-- The digits of a number in mixed radix, low digit first: each is the number divided by the radices before it. -/
theorem digits_fold (step : Nat → Nat) (l : List Nat) : ∀ (acc : List Nat) (x : Nat),
    (l.foldl (fun (st : List Nat × Nat) e => (st.1 ++ [st.2 % step e], st.2 / step e)) (acc, x)).1
      = acc ++ (List.range l.length).map (fun n => x / ((l.take n).map step).prod % step (l.getD n 1)) := by
  induction l with
  | nil => simp
  | cons e t ih =>
    intro acc x
    rw [List.foldl_cons, ih, List.length_cons, List.range_succ_eq_map, List.append_assoc]
    simp [Function.comp_def, Nat.div_div_eq_div_mul]

/-- Block-local fields come from the lane's index, by the extents. -/
def localFields (r : Record) (index : Nat) : List Nat :=
  (List.range (r.extents.take r.level).length).map (fun n => index / ((r.extents.take n).prod) % r.extents.getD n 1)

/-- The other fields come from the block's identifier, by the widths. -/
def blockFields (r : Record) (ident : Nat) : List Nat :=
  (List.range (r.widths.drop r.level).length).map
    (fun n => ident / 2 ^ ((r.widths.drop r.level).take n).sum % 2 ^ (r.widths.drop r.level).getD n 0)

theorem prod_map_two_pow (l : List Nat) : (l.map (fun w => 2 ^ w)).prod = 2 ^ l.sum := by
  induction l with
  | nil => rfl
  | cons w t ih => simp [ih, pow_add]

theorem laneFields_eq (r : Record) (ident index : Nat) : laneFields r ident index = localFields r index ++ blockFields r ident := by
  have hlo := digits_fold id (r.extents.take r.level) [] index
  have hhi := digits_fold (fun w => 2 ^ w) (r.widths.drop r.level) [] ident
  simp only [id_eq, List.nil_append] at hlo hhi
  unfold laneFields
  dsimp only
  rw [hlo, hhi]
  congr 1
  · refine List.map_congr_left fun n hn => ?_
    have hn : n < r.level ∧ n < r.extents.length := by simpa using hn
    rw [List.take_take, Nat.min_eq_left (Nat.le_of_lt hn.1)]
    simp [List.getD_eq_getElem?_getD, hn.1]
  · refine List.map_congr_left fun n hn => ?_
    have hn : n < (r.widths.drop r.level).length := by simpa using hn
    rw [prod_map_two_pow, List.getD_eq_getElem _ _ hn, List.getD_eq_getElem _ _ hn]

theorem localFields_length (r : Record) (index : Nat) (h : r.level ≤ r.extents.length) : (localFields r index).length = r.level := by
  simp [localFields, h]

theorem laneFields_length (r : Record) (ident index : Nat) (hw : r.widths.length = 6) (he : r.extents.length = 6) (hl : r.level ≤ 6) :
    (laneFields r ident index).length = 6 := by
  rw [laneFields_eq, List.length_append, localFields_length _ _ (by omega)]
  simp [blockFields, hw]; omega

/-- A field below the level (R15). -/
theorem laneFields_local (r : Record) (ident index : Nat) {n : Nat} (hn : n < r.level) (hl : r.level ≤ r.extents.length) :
    (laneFields r ident index).getD n 0 = index / ((r.extents.take n).prod) % r.extents.getD n 1 := by
  have hlen := localFields_length r index hl
  rw [laneFields_eq, List.getD_append _ _ _ _ (by omega)]
  simp [localFields, List.getD_eq_getElem?_getD, hl, hn]

/-- A field from the level on (R41). -/
theorem laneFields_block (r : Record) (ident index : Nat) {n : Nat} (hn : r.level ≤ n) (hw : n < r.widths.length)
    (hl : r.level ≤ r.extents.length) :
    (laneFields r ident index).getD n 0 = ident / 2 ^ ((r.widths.take n).drop r.level).sum % 2 ^ r.widths.getD n 0 := by
  have hlen := localFields_length r index hl
  have hd : n - r.level < r.widths.length - r.level := by omega
  rw [laneFields_eq, List.getD_append_right _ _ _ _ (by omega), hlen]
  have ht : (r.widths.drop r.level).take (n - r.level) = (r.widths.take n).drop r.level := by
    rw [List.drop_take]
  simp only [blockFields, List.getD_eq_getElem?_getD, List.getElem?_map, List.length_drop, List.getElem?_range hd, Option.map_some,
    Option.getD_some, ht, List.getElem?_drop, show r.level + (n - r.level) = n by omega]

/-- R12: the fields of the work identifier stand one after the other, by their widths. -/
theorem workId_fold (ws : List Nat) : ∀ (fs : List Nat) (acc sh : Nat), fs.length = ws.length →
    ((List.zip ws fs).foldl (fun (st : Nat × Nat) e => (st.1 + e.2 * 2 ^ st.2, st.2 + e.1)) (acc, sh)).1
      = acc + 2 ^ sh * ((List.range ws.length).map (fun n => fs.getD n 0 * 2 ^ (ws.take n).sum)).sum := by
  induction ws with
  | nil => simp
  | cons w t ih =>
    intro fs acc sh hl
    cases fs with
    | nil => simp at hl
    | cons x xs =>
      rw [List.zip_cons_cons, List.foldl_cons, ih xs _ _ (by simpa using hl), List.length_cons, List.range_succ_eq_map]
      have hs : (List.map (fun n => xs.getD n 0 * 2 ^ (w + (t.take n).sum)) (List.range t.length)).sum
          = 2 ^ w * (List.map (fun n => xs.getD n 0 * 2 ^ (t.take n).sum) (List.range t.length)).sum := by
        rw [← List.sum_map_mul_left]
        exact congrArg List.sum (List.map_congr_left fun n _ => by rw [pow_add]; ring)
      simp only [List.map_cons, List.map_map, List.sum_cons, Function.comp_def, List.getD_cons_zero, List.getD_cons_succ, List.take_zero,
        List.sum_nil, List.sum_cons, List.take_succ_cons, hs, pow_zero]
      rw [pow_add]
      ring

theorem workId_eq (r : Record) (fields : List Nat) (h : fields.length = r.widths.length) :
    workId r fields = ((List.range r.widths.length).map (fun n => fields.getD n 0 * 2 ^ (r.widths.take n).sum)).sum := by
  unfold workId
  rw [workId_fold _ _ _ _ h]; simp

/-! ### SREAD and SWRITE (R106, R141) -/

/-- R106: a low half's read keeps the count that its high half then gives. -/
theorem captureCount_eq (s : State) (c : Nat) (d : Reg) (w : Word) : OnlyCur s ((s.captureCount c).setS d w)
    ∧ ((s.captureCount c).setS d w).cur = { s.cur with
        s := s.cur.s.put d.toNat w
        claveCapture := if c = 0x106 then some (s.claveOf (dieOfGroup s.focus.grp)) else s.cur.claveCapture
        cycleCapture := if c = 0x108 then some (s.cycleCount s.curCore) else s.cur.cycleCapture } := by
  unfold State.captureCount
  split
  · exact ⟨(onlyCur_onCur s _).trans (onlyCur_onCur _ _), by rw [State.setS, cur_onCur, cur_onCur]; rfl⟩
  · exact ⟨(onlyCur_onCur s _).trans (onlyCur_onCur _ _), by rw [State.setS, cur_onCur, cur_onCur]; rfl⟩
  · next h6 h8 =>
    exact ⟨onlyCur_onCur s _, by rw [State.setS, cur_onCur, if_neg h6, if_neg h8]; rfl⟩

theorem sread_group (s : State) (d a b : Reg) (hc : 0x100 ≤ 64 * a.toNat + b.toNat) : Completes (.sread d a b) s (fun t =>
    OnlyCur s t ∧ { t.cur with s := s.cur.s, claveCapture := s.cur.claveCapture, cycleCapture := s.cur.cycleCapture } = s.cur
    ∧ (∀ r, t.cur.sAt r = if r = d.toNat ∧ s.actsOnce = true then
        s.groupSpecialAt s.focus.grp s.focus.entry s.focus.version (64 * a.toNat + b.toNat) else s.cur.sAt r)
    ∧ t.cur.claveCapture = (if s.actsOnce = true ∧ 64 * a.toNat + b.toNat = 0x106 then some (s.claveOf (dieOfGroup s.focus.grp))
        else s.cur.claveCapture)
    ∧ t.cur.cycleCapture = (if s.actsOnce = true ∧ 64 * a.toNat + b.toNat = 0x108 then some (s.cycleCount s.curCore)
        else s.cur.cycleCapture)) := by
  have he : exec (.sread d a b) s = uniform s (fun _ => (s.captureCount (64 * a.toNat + b.toNat)).setS d
      (s.groupSpecialAt s.focus.grp s.focus.entry s.focus.version (64 * a.toNat + b.toNat))) :=
    if_neg (fun h => by have := of_decide_eq_true h; unfold codeOf at this; omega)
  rw [uniform_eq] at he
  refine ⟨_, he, ?_⟩
  by_cases h : s.actsOnce = true
  · obtain ⟨hf, hg⟩ := captureCount_eq s (64 * a.toNat + b.toNat) d
      (s.groupSpecialAt s.focus.grp s.focus.entry s.focus.version (64 * a.toNat + b.toNat))
    simp only [h, if_true, hg, true_and, and_true]
    exact ⟨hf, fun r => by simp only [Group.sAt, Store.get_put]⟩
  · rw [if_neg h, if_neg (fun e => h e.1), if_neg (fun e => h e.1)]
    exact ⟨onlyCur_refl s, rfl, fun r => by rw [if_neg (fun e => h e.2)], rfl, rfl⟩

/-- R141, R380: the core's offset moves so that the count becomes the one written. -/
theorem cycleCount_setCycles (s : State) (code : Nat) (w : Word) : (s.setCycles code w).cycleCount s.curCore
    = if code = 0x108 then (s.cycleCount s.curCore).extractLsb' 32 32 ++ w else w ++ (s.cycleCount s.curCore).extractLsb' 0 32 := by
  have hnew (new : DWord) : BitVec.ofNat 64 (s.refCount (dieOfCore s.curCore))
      + ((s.cores.get s.curCore).cycleOffset + (new - s.cycleCount s.curCore)) = new := by
    have : s.cycleCount s.curCore = BitVec.ofNat 64 (s.refCount (dieOfCore s.curCore)) + (s.cores.get s.curCore).cycleOffset := rfl
    rw [this]; ring
  have hcount : (s.setCycles code w).cycleCount s.curCore = BitVec.ofNat 64 (s.refCount (dieOfCore s.curCore))
      + ((s.setCycles code w).cores.get s.curCore).cycleOffset := rfl
  rw [hcount, State.setCycles, State.onCore, Store.get_upd, if_pos rfl, hnew, ← hiWord_eq, ← loWord_eq]
  rfl

theorem swrite_sets (s : State) (d a b : Reg) :
    Completes (.swrite d a b) s (fun t => { t with cores := s.cores } = s ∧ SameBytes s t
      ∧ (∀ c, c ≠ s.curCore → t.cores.get c = s.cores.get c)
      ∧ { t.cores.get s.curCore with cycleOffset := (s.cores.get s.curCore).cycleOffset } = s.cores.get s.curCore
      ∧ t.cycleCount s.curCore = if s.actsOnce = true then
          (if 64 * a.toNat + b.toNat = 0x108 then (s.cycleCount s.curCore).extractLsb' 32 32 ++ s.sR d
           else s.sR d ++ (s.cycleCount s.curCore).extractLsb' 0 32)
        else s.cycleCount s.curCore) := by
  refine ⟨_, uniform_eq s _, ?_⟩
  by_cases h : s.actsOnce = true
  · simp only [h, if_true]
    refine ⟨rfl, fun p => ?_, fun c hcc => ?_, ?_, cycleCount_setCycles s _ _⟩
    · simp only [State.byteAt, State.setCycles, State.onCore]
      split
      · rfl
      · rw [Store.get_upd]; split <;> simp_all
    · rw [State.setCycles, State.onCore, Store.get_upd, if_neg hcc]
    · rw [State.setCycles, State.onCore, Store.get_upd, if_pos rfl]
  · simp only [h]
    exact ⟨rfl, fun _ => rfl, fun _ _ => rfl, rfl, rfl⟩

/-- R105: the per-lane codes, by name. -/
theorem laneSpecialAt_field (s : State) (g L : Nat) {n : Nat} (hn : n < 6) :
    s.laneSpecialAt g (3 + n) L = BitVec.ofNat 32
      ((laneFields (s.launchOf g).rec_ (s.blockOf g).ident (32 * (s.group g).index + L)).getD n 0) := by
  have : n = 0 ∨ n = 1 ∨ n = 2 ∨ n = 3 ∨ n = 4 ∨ n = 5 := by omega
  rcases this with rfl | rfl | rfl | rfl | rfl | rfl <;> rfl

theorem groupSpecialAt_slot (s : State) (g e v : Nat) {n : Nat} (hn : n < 8) :
    s.groupSpecialAt g e v (0x10A + n) = (s.launchOf g).rec_.slots.get n := by
  have : n = 0 ∨ n = 1 ∨ n = 2 ∨ n = 3 ∨ n = 4 ∨ n = 5 ∨ n = 6 ∨ n = 7 := by omega
  rcases this with rfl | rfl | rfl | rfl | rfl | rfl | rfl | rfl <;> rfl

/-- Settles O28: the codes by name, the fields by `laneFields_local` and `laneFields_block`, SREAD and SWRITE by their forms. -/
theorem specialRegisters : Obligations.SpecialRegisters := by
  unfold Obligations.SpecialRegisters
  refine ⟨fun d a b hc s => ?_, fun d a b s hc => sread_group s d a b hc, fun s g L => ?_, fun s g e v => ?_, fun s g e v => ?_,
    fun d a b s _ => swrite_sets s d a b⟩
  · have he : exec (.sread d a b) s = lanewise s d (fun L => s.laneSpecialAt s.focus.grp (64 * a.toNat + b.toNat) L) :=
      if_pos (decide_eq_true hc)
    obtain ⟨t, ht, hr⟩ := lanewise_result s d (fun L => s.laneSpecialAt s.focus.grp (64 * a.toNat + b.toNat) L)
    exact ⟨t, he.trans ht, hr⟩
  · refine ⟨rfl, fun hw he hl => ?_, fun n hn => laneSpecialAt_field s g L hn, rfl, rfl,
      fun n hn hl => laneFields_local _ _ _ hn hl, fun n hn hw hl => laneFields_block _ _ _ hn hw hl⟩
    have := workId_eq (s.launchOf g).rec_ _ ((laneFields_length _ (s.blockOf g).ident (32 * (s.group g).index + L) hw he hl).trans hw.symm)
    exact ⟨congrArg (BitVec.ofNat 32) this, congrArg (fun n => BitVec.ofNat 32 (n / 2 ^ 32)) this⟩
  · exact ⟨rfl, rfl, rfl, rfl, fun n hn => groupSpecialAt_slot s g e v hn, rfl⟩
  · exact ⟨hiWord_eq _, hiWord_eq _, loWord_eq _, loWord_eq _, rfl, rfl⟩

end Sys2Proof.Machine
end

section
/-! ## The debug stub (R23, R147, R365) -/

namespace Sys2Proof.Machine

/-- Two splits of one group parked at one JOIN (R23). The stub holds the first; it has let the second go by STEP. -/
def heldAtJoin : Split := { mask := 1, uid := 1, cond := .parked, stopped := true }
def steppingAtJoin : Split := { mask := 2, uid := 2, cond := .parked, stepping := true }

/-- A stub group (key 0), in a pass of its own, that has selected the first of them (in the group of key 1). -/
def stubAtJoin : State := { State.reset with
  focus := { mask := 1, lanes := 1, same := true, first := true }
  groups := [(0, { live := true, exist_ := 1, selected := some (1, 1) }),
    (1, { live := true, exist_ := 3, ent := [(0, heldAtJoin), (1, steppingAtJoin)] })] }

/-- The state that a completed instruction answers. -/
def nextOf (o : Out) : State := match o with | .next t => t | _ => State.reset

theorem Completes.nextOf {i : Instr} {s : State} {P : State → Prop} (h : Completes i s P) : P (nextOf (exec i s)) := by
  obtain ⟨t, ht, hP⟩ := h
  rw [ht]; exact hP

/-- Once the first is let go by RESUME, no split of its group is runnable: the two merge and go on past the JOIN (R23), and
the merged split, which has the first one's name, keeps the second one's STEP. -/
theorem resume_merges_a_step :
    ((nextOf (exec (.dbgctlResume 1 0) stubAtJoin)).group 1).splits.any (fun y => y.uid == 1 && y.stepping) = true := by
  decide +kernel

/-- Refutes O49: the clause of RESUME says that the selected split is not stepping afterwards; in `stubAtJoin` it merges at its
JOIN with a split that is. -/
theorem not_debugStub : ¬ Obligations.DebugStub := by
  unfold Obligations.DebugStub
  rintro ⟨-, -, -, hresume, -⟩
  have hsel : SelectsSplit stubAtJoin 1 1 heldAtJoin := ⟨rfl, by decide +kernel, rfl⟩
  obtain ⟨-, -, -, hy⟩ := ((hresume stubAtJoin 1 0 1 1 heldAtJoin (by decide +kernel) hsel (by decide) (by decide)).1 (by decide +kernel)).nextOf
  obtain ⟨y, hm, hb⟩ := List.any_eq_true.1 resume_merges_a_step
  simp only [Bool.and_eq_true, beq_iff_eq] at hb
  have := (hy y hm hb.1).2
  rw [hb.2] at this
  exact absurd this (by decide)

end Sys2Proof.Machine
end

section
/-! ## What reads and writes of memory leave as it was

A write of a home recalls the line from an owning stash, collects its update-only copies, copies a checkpoint's page,
raises completion times and wakes signal waits; so does every access of the hub and every fetch. None of them touches
what `State.kept` keeps. -/

namespace Sys2Proof.Machine

/-! ### What is kept -/

/-- A split but for what it waits for and the times and lines of its stores. -/
def Split.kept (x : Split) : Split :=
  { x with cond := .runnable, also := [], cDie := 0, cDevice := 0, cSystem := 0, gathered := [] }

/-- A group, with what is kept of its splits. -/
structure GroupKept where
  group : Group
  ent : Nat → Split
  spill : List Split

def Group.kept (k : Group) : GroupKept :=
  ⟨{ k with ent := [], spill := [] }, fun n => (k.ent.get n).kept, k.spill.map Split.kept⟩
def Core.kept (c : Core) : Core := { c with l1 := [], l1i := [], wc := {}, tlb := [] }
def Die.kept (d : Die) : Die := { d with tlb := [], errors := [] }
def Block.kept (b : Block) : Block := { b with mapLines := [] }
def Launch.kept (l : Launch) : Launch := { l with settled := 0 }
def Context.kept (c : Context) : Context := { c with dropped := false, traceOut := [], ckpts := [] }

/-- The state but for memory, its homes, caches and translations, and what a store's completion leaves in splits,
launches and mapped lines. -/
structure Kept where
  rest : State
  groups : Nat → GroupKept
  cores : Nat → Core
  dies : Nat → Die
  blocks : Nat → Block
  launches : Nat → Launch
  ctxs : Nat → Context

def State.kept (s : State) : Kept where
  rest := { s with mem := [], home := [], free := 0, dies := [], cores := [], blocks := [], groups := [], launches := [], ctxs := [] }
  groups g := (s.groups.get g).kept
  cores c := (s.cores.get c).kept
  dies d := (s.dies.get d).kept
  blocks b := (s.blocks.get b).kept
  launches l := (s.launches.get l).kept
  ctxs x := (s.ctxs.get x).kept

/-! ### Updates that keep it -/

section
variable {α β : Type} [Inhabited α] [DecidableEq α]

/-- An update that a projection does not see, read through the projection. -/
theorem proj_get_upd (p : α → β) (m : Store α) (k : Nat) (f : α → α) (hf : ∀ x, p (f x) = p x) (j : Nat) :
    p ((m.upd k f).get j) = p (m.get j) := by
  rw [Store.get_upd]; split
  · next h => rw [hf, h]
  · rfl

omit [DecidableEq α] in
theorem proj_get_map (p : α → β) (m : Store α) (f : α → α) (hf : ∀ x, p (f x) = p x) (j : Nat) :
    p (Store.get (m.map (fun e => (e.1, f e.2))) j) = p (m.get j) := by
  induction m with
  | nil => rfl
  | cons e t ih =>
    by_cases h : e.1 = j
    · simp [Store.get, h, hf]
    · simpa [Store.get, h] using ih

/-- A run of steps keeps what each step keeps. -/
theorem kept_foldl {σ ι : Type} (p : σ → β) (f : σ → ι → σ) (hf : ∀ s i, p (f s i) = p s) (l : List ι) :
    ∀ s, p (l.foldl f s) = p s := by
  induction l with
  | nil => intro s; rfl
  | cons i t ih => intro s; rw [List.foldl_cons, ih, hf]

/-- The same for steps that also gather a result. -/
theorem kept_foldl_fst {σ τ ι : Type} (p : σ → β) (f : σ × τ → ι → σ × τ) (hf : ∀ s i, p (f s i).1 = p s.1) (l : List ι)
    (s : σ × τ) : p (l.foldl f s).1 = p s.1 :=
  kept_foldl (fun s : σ × τ => p s.1) f hf l s
end

theorem Group.kept_onSplit (k : Group) (uid : Nat) (f : Split → Split) (hf : ∀ x, (f x).kept = x.kept) :
    (k.onSplit uid f).kept = k.kept := by
  have hent (n : Nat) : (([0, 1, 2, 3].foldl (fun (e : Store Split) i =>
      if (e.get i).mask ≠ 0 ∧ (e.get i).uid = uid then e.upd i f else e) k.ent).get n).kept = (k.ent.get n).kept :=
    kept_foldl (fun e : Store Split => (e.get n).kept) _
      (fun e i => by split
                     · exact proj_get_upd Split.kept e i f hf n
                     · rfl) _ _
  have hspill : (k.spill.map (fun x => if x.uid = uid then f x else x)).map Split.kept = k.spill.map Split.kept := by
    rw [List.map_map]
    exact List.map_congr_left fun x _ => by simp only [Function.comp_apply]; split <;> simp [hf]
  simp only [Group.kept, Group.onSplit, hspill]
  exact congrArg (fun e => GroupKept.mk _ e _) (funext hent)

theorem Group.kept_mapSplits (k : Group) (f : Split → Split) (hf : ∀ x, (f x).kept = x.kept) : (k.mapSplits f).kept = k.kept := by
  have hent (n : Nat) : (([0, 1, 2, 3].foldl (fun (e : Store Split) i =>
      if (e.get i).mask ≠ 0 then e.upd i f else e) k.ent).get n).kept = (k.ent.get n).kept :=
    kept_foldl (fun e : Store Split => (e.get n).kept) _
      (fun e i => by split
                     · exact proj_get_upd Split.kept e i f hf n
                     · rfl) _ _
  have hspill : (k.spill.map f).map Split.kept = k.spill.map Split.kept := by
    rw [List.map_map]
    exact List.map_congr_left fun x _ => hf x
  simp only [Group.kept, Group.mapSplits, hspill]
  exact congrArg (fun e => GroupKept.mk _ e _) (funext hent)

section
variable (s : State)

theorem kept_onGroup (g : Nat) (f : Group → Group) (hf : ∀ k, (f k).kept = k.kept := by intro _; rfl) : (s.onGroup g f).kept = s.kept :=
  congrArg (fun x => { s.kept with groups := x }) (funext (proj_get_upd Group.kept s.groups g f hf))
theorem kept_onCore (c : Nat) (f : Core → Core) (hf : ∀ k, (f k).kept = k.kept := by intro _; rfl) : (s.onCore c f).kept = s.kept :=
  congrArg (fun x => { s.kept with cores := x }) (funext (proj_get_upd Core.kept s.cores c f hf))
theorem kept_onDie (d : Nat) (f : Die → Die) (hf : ∀ k, (f k).kept = k.kept := by intro _; rfl) : (s.onDie d f).kept = s.kept :=
  congrArg (fun x => { s.kept with dies := x }) (funext (proj_get_upd Die.kept s.dies d f hf))
theorem kept_onBlock (b : Nat) (f : Block → Block) (hf : ∀ k, (f k).kept = k.kept := by intro _; rfl) : (s.onBlock b f).kept = s.kept :=
  congrArg (fun x => { s.kept with blocks := x }) (funext (proj_get_upd Block.kept s.blocks b f hf))
theorem kept_onLaunch (l : Nat) (f : Launch → Launch) (hf : ∀ k, (f k).kept = k.kept := by intro _; rfl) : (s.onLaunch l f).kept = s.kept :=
  congrArg (fun x => { s.kept with launches := x }) (funext (proj_get_upd Launch.kept s.launches l f hf))
theorem kept_onCtx (x : Nat) (f : Context → Context) (hf : ∀ k, (f k).kept = k.kept := by intro _; rfl) : (s.onCtx x f).kept = s.kept :=
  congrArg (fun y => { s.kept with ctxs := y }) (funext (proj_get_upd Context.kept s.ctxs x f hf))
@[simp] theorem kept_onHome (l : Nat) (f : HomeLine → HomeLine) : (s.onHome l f).kept = s.kept := rfl
theorem kept_onSplit (g u : Nat) (f : Split → Split) (hf : ∀ x, (f x).kept = x.kept := by intro _; rfl) : (s.onSplit g u f).kept = s.kept :=
  kept_onGroup s g _ (fun k => Group.kept_onSplit k u f hf)

/-- Memory, homes, free values and error tables are not kept. -/
theorem kept_clearError (line : Nat) : (s.clearError line).kept = s.kept := by
  unfold State.clearError
  split
  · rfl
  · unfold State.kept
    rw [Kept.mk.injEq]
    refine ⟨rfl, rfl, rfl, funext fun d => ?_, rfl, rfl, rfl⟩
    exact proj_get_map Die.kept s.dies (fun x => { x with errors := x.errors.filter (fun y => y.1 != line) }) (fun _ => rfl) d

/-! ### Stores at a home -/

theorem kept_applyAt (line cls die stamp : Nat) (bs : List (Nat × Byte)) : (s.applyAt line cls die stamp bs).1.kept = s.kept := by
  unfold State.applyAt
  dsimp only
  rw [kept_onHome]
  split
  · exact kept_clearError s line
  · rfl

theorem Split.kept_noteTimes (x : Split) (t : Times) : (x.noteTimes t).kept = x.kept := rfl

theorem Split.kept_ungather (x : Split) (line : Nat) (red : Bool) (t : Times) : (x.ungather line red t).kept = x.kept :=
  kept_foldl Split.kept _ (by intros; rfl) _ x

theorem Split.kept_setWait (x : Split) (v w : Wait) : (x.setWait v w).kept = x.kept := by
  unfold Split.setWait; split <;> rfl

theorem kept_raiseSettled (l : Nat) (t : Times) : (s.raiseSettled l t).kept = s.kept := by
  unfold State.raiseSettled
  dsimp only
  split
  · rfl
  · exact kept_onLaunch s l _

theorem kept_noteTimes (g uid : Nat) (t : Times) : (s.noteTimes g uid t).kept = s.kept :=
  (kept_raiseSettled _ _ _).trans (kept_onSplit s g uid _)

theorem kept_noteGathered (core line : Nat) (red : Bool) (t : Times) : (s.noteGathered core line red t).kept = s.kept :=
  kept_foldl State.kept _ (fun u g => kept_onGroup u g _ (fun k => Group.kept_mapSplits k _ (fun x => x.kept_ungather line red t))) _ s

theorem kept_wakeSignals (line : Nat) : (s.wakeSignals line).kept = s.kept := by
  refine kept_foldl State.kept _ (fun u w => kept_foldl State.kept _ (fun t v => ?_) _ u) _ s
  cases v with
  | signal a pa n l src =>
    dsimp only
    split
    · rfl
    · exact kept_onSplit t _ _ _ (fun x => x.kept_setWait _ _)
  | _ => rfl

/-! ### Checkpoints' pages -/

theorem kept_takePages (ctx : Nat) (p : CkptPage → Bool) : (s.takePages ctx p).kept = s.kept := by
  unfold State.takePages
  dsimp only
  split
  · rfl
  · split
    · rfl
    · unfold State.kept
      rw [Kept.mk.injEq]
      refine ⟨rfl, rfl, funext fun c => ?_, funext fun d => ?_, rfl, rfl, funext fun x => ?_⟩
      · exact proj_get_map Core.kept s.cores (fun x => { x with tlb := x.tlb.filter (fun e => !(e.ctx == ctx && e.cow)) }) (fun _ => rfl) c
      · exact proj_get_map Die.kept s.dies (fun x => { x with tlb := x.tlb.filter (fun e => !(e.ctx == ctx && e.cow)) }) (fun _ => rfl) d
      · dsimp only
        exact proj_get_upd Context.kept s.ctxs ctx _ (by intro _; rfl) x

theorem kept_takeLeaf (ctx vpage : Nat) : (s.takeLeaf ctx vpage).kept = s.kept := kept_takePages s ctx _

theorem kept_cowFirst (frame : Nat) : (s.cowFirst frame).kept = s.kept := by
  unfold State.cowFirst
  split
  · exact kept_foldl State.kept _ (by intro u e; exact kept_takePages u e.1 _) _ s
  · rfl

/-! ### Recalls and collections -/

theorem kept_writeBackLine (b sl : Nat) (drop : Bool) : (s.writeBackLine b sl drop).1.kept = s.kept := by
  unfold State.writeBackLine
  dsimp only
  split
  · rfl
  · rw [kept_raiseSettled, kept_wakeSignals, kept_onBlock _ _ _, kept_onHome]
    split
    · rw [kept_applyAt, kept_onHome, kept_cowFirst]
    · rfl

theorem kept_recall (line : Nat) : (s.recall line).kept = s.kept := by
  unfold State.recall
  split
  · rfl
  · exact kept_writeBackLine s _ _ _

theorem kept_mergeDie (line : Nat) (p : Partial) : (s.mergeDie line p).1.kept = s.kept := by
  unfold State.mergeDie
  dsimp only
  rw [kept_wakeSignals, kept_foldl State.kept _ (fun u l => kept_raiseSettled u l _),
    kept_foldl State.kept _ (fun u c => kept_noteGathered u c _ _ _), State.mergePartial, kept_applyAt, kept_recall]

theorem kept_collectFrom (line : Nat) (cores : List Nat) : (s.collectFrom line cores).1.kept = s.kept := by
  unfold State.collectFrom
  dsimp only
  refine (kept_foldl_fst State.kept _ (by intro u p; exact kept_mergeDie u.1 line p) _ _).trans ?_
  refine kept_foldl State.kept _ (fun u c => ?_) _ s
  split
  · exact kept_onCore u c _
  · rfl

theorem kept_collect (line : Nat) : (s.collect line).kept = s.kept := by
  unfold State.collect
  split
  · rfl
  · exact kept_collectFrom s _ _

theorem kept_collectAll (reads : State → List Nat) (n : Nat) : ∀ s : State, (s.collectAll reads n).kept = s.kept := by
  induction n with
  | zero => intro s; rfl
  | succ n ih =>
    intro s
    unfold State.collectAll
    split
    · rfl
    · rw [ih, kept_foldl State.kept _ (fun u a => kept_collect u _)]

theorem kept_homeWrite (line cls die stamp : Nat) (bs : List (Nat × Byte)) : (s.homeWrite line cls die stamp bs).1.kept = s.kept := by
  unfold State.homeWrite
  dsimp only
  rw [kept_wakeSignals, kept_applyAt, kept_collect, kept_recall]

theorem kept_flushWc (core : Nat) : (s.flushWc core).kept = s.kept := by
  unfold State.flushWc
  dsimp only
  split
  · rfl
  · rw [kept_foldl State.kept _ (fun u l => kept_raiseSettled u l _), kept_noteGathered, kept_onCore _ _ _, kept_homeWrite]

theorem kept_flushWcFor (core line : Nat) : (s.flushWcFor core line).kept = s.kept := by
  unfold State.flushWcFor
  dsimp only
  split
  · exact kept_flushWc s core
  · rfl

/-! ### Translations and fetches -/

theorem kept_walkCollect (ctx vpage : Nat) : (s.walkCollect ctx vpage).kept = s.kept := kept_collectAll _ _ s

theorem kept_tlbFill (core : Nat) (e : TlbEntry) : (s.tlbFill core e).kept = s.kept :=
  (kept_onDie _ _ _).trans (kept_onCore s _ _)

theorem kept_lookupWalked (core ctx : Nat) (a : DWord) : (s.lookupWalked core ctx a).2.kept = s.kept := by
  unfold State.lookupWalked
  split
  · dsimp only
    split
    · rw [kept_tlbFill, kept_walkCollect]
    · exact kept_walkCollect s _ _
  · rfl

theorem kept_lookupNow (core ctx : Nat) (a : DWord) : (s.lookupNow core ctx a).2.kept = s.kept := by
  unfold State.lookupNow
  split
  · rfl
  · exact kept_lookupWalked s _ _ _

theorem kept_ite {α : Type} {c : Prop} [Decidable c] {a b : State × α} {k : Kept} (ha : a.1.kept = k) (hb : b.1.kept = k) :
    (if c then a else b).1.kept = k := by split <;> assumption

theorem kept_codeUnit (core ctx cls pa : Nat) : (s.codeUnit core ctx cls pa).1.kept = s.kept := by
  have hf := kept_flushWcFor s core (lineOf pa)
  have hc := (kept_collect (s.flushWcFor core (lineOf pa)) (lineOf pa)).trans hf
  unfold State.codeUnit
  dsimp only
  exact kept_ite hf (kept_ite hf (kept_ite hc ((kept_onCore _ _ _).trans hc)))

theorem kept_fetchUnit (core ctx : Nat) (a : DWord) : (s.fetchUnit core ctx a).1.kept = s.kept := by
  unfold State.fetchUnit
  dsimp only
  split
  · rfl
  · have hl := kept_lookupNow s core ctx a
    split
    · exact hl
    · exact hl
    · split
      · exact hl
      · split
        · exact hl
        · exact (kept_codeUnit _ _ _ _ _).trans hl

theorem kept_fetchWord (g v p : Nat) (o : Word) : (s.fetchWord g v p o).1.kept = s.kept := by
  unfold State.fetchWord
  dsimp only
  have h1 := kept_fetchUnit s (coreOfGroup g) (s.ctxOf g) (s.fetchAddr g v p o)
  split
  · rfl
  · split
    · exact h1
    · exact h1
    · split
      · exact h1
      · split
        · exact h1
        · have h2 := (kept_fetchUnit (s.fetchUnit (coreOfGroup g) (s.ctxOf g) (s.fetchAddr g v p o)).1 (coreOfGroup g) (s.ctxOf g)
            (s.fetchAddr g v p o + 2)).trans h1
          split
          · exact h2
          · exact h2
          · exact h2
end

/-! ### What follows -/

section
variable {s t : State} (h : t.kept = s.kept)
include h

theorem rest_of_kept : ({ t with mem := [], home := [], free := 0, dies := [], cores := [], blocks := [], groups := [], launches := [], ctxs := [] } : State)
    = { s with mem := [], home := [], free := 0, dies := [], cores := [], blocks := [], groups := [], launches := [], ctxs := [] } :=
  congrArg Kept.rest h

theorem now_of_kept : t.now = s.now := (congrArg State.now (rest_of_kept h) :)
theorem pending_of_kept : t.pending = s.pending := (congrArg State.pending (rest_of_kept h) :)
theorem focus_of_kept : t.focus = s.focus := (congrArg State.focus (rest_of_kept h) :)
theorem quads_of_kept : t.quads = s.quads := (congrArg State.quads (rest_of_kept h) :)
theorem ops_of_kept : t.ops = s.ops := (congrArg State.ops (rest_of_kept h) :)

theorem group_of_kept (g : Nat) : (t.group g).kept = (s.group g).kept := congrFun (congrArg Kept.groups h) g
theorem core_of_kept (c : Nat) : (t.cores.get c).kept = (s.cores.get c).kept := congrFun (congrArg Kept.cores h) c
theorem die_of_kept (d : Nat) : (t.dies.get d).kept = (s.dies.get d).kept := congrFun (congrArg Kept.dies h) d
theorem block_of_kept (b : Nat) : (t.blocks.get b).kept = (s.blocks.get b).kept := congrFun (congrArg Kept.blocks h) b
theorem launch_of_kept (l : Nat) : (t.launches.get l).kept = (s.launches.get l).kept := congrFun (congrArg Kept.launches h) l
theorem ctx_of_kept (x : Nat) : (t.ctxs.get x).kept = (s.ctxs.get x).kept := congrFun (congrArg Kept.ctxs h) x

theorem group_field_of_kept {α : Type} (p : Group → α) (g : Nat) (hp : ∀ k : Group, p { k with ent := [], spill := [] } = p k := by intro _; rfl) :
    p (t.group g) = p (s.group g) := by
  have := congrArg (fun k => p k.group) (group_of_kept h g)
  exact (hp _).symm.trans (this.trans (hp _))

theorem sameRegs_of_kept : SameRegs s t := fun g => by
  have := congrArg GroupKept.group (group_of_kept h g)
  exact congrArg (fun k : Group => { k with ent := (s.group g).ent, spill := (s.group g).spill, stamp := (s.group g).stamp }) this

theorem blockOf_of_kept (g : Nat) : (t.blockOf g).kept = (s.blockOf g).kept := by
  rw [State.blockOf, group_field_of_kept h Group.block g]; exact block_of_kept h _

theorem launchOf_of_kept (g : Nat) : (t.launchOf g).kept = (s.launchOf g).kept := by
  rw [State.launchOf, show (t.blockOf g).launch = (s.blockOf g).launch from (congrArg Block.launch (blockOf_of_kept h g) :)]
  exact launch_of_kept h _

theorem ctxOf_of_kept (g : Nat) : t.ctxOf g = s.ctxOf g := (congrArg Block.ctx (blockOf_of_kept h g) :)

theorem splits_of_kept (g : Nat) : (t.group g).splits.map Split.kept = (s.group g).splits.map Split.kept := by
  have hg := group_of_kept h g
  have hent (n : Nat) : ((t.group g).ent.get n).kept = ((s.group g).ent.get n).kept := congrFun (congrArg GroupKept.ent hg) n
  have hspill : (t.group g).spill.map Split.kept = (s.group g).spill.map Split.kept := congrArg GroupKept.spill hg
  have hmask (x : Split) : x.kept.mask = x.mask := rfl
  have hf (k : Group) : (List.filter (fun x : Split => decide (x.mask ≠ 0)) ([0, 1, 2, 3].map k.ent.get)).map Split.kept
      = ([0, 1, 2, 3].map (fun n => (k.ent.get n).kept)).filter (fun x => decide (x.mask ≠ 0)) := by
    exact (List.filter_map (f := Split.kept) (p := fun x => decide (x.mask ≠ 0)) (l := [0, 1, 2, 3].map k.ent.get)).symm
  rw [Group.splits, Group.splits, List.map_append, List.map_append, hspill, hf, hf]
  simp only [hent]

theorem findSplit_of_kept (g u : Nat) : ((t.group g).findSplit u).map Split.kept = ((s.group g).findSplit u).map Split.kept := by
  have hfind (l : List Split) : (l.find? (fun x => x.uid = u)).map Split.kept = (l.map Split.kept).find? (fun x => x.uid = u) := by
    rw [List.find?_map]; rfl
  rw [Group.findSplit, Group.findSplit, hfind, hfind, splits_of_kept h]

theorem splitOf_of_kept (g u : Nat) : (t.splitOf g u).kept = (s.splitOf g u).kept := by
  have := findSplit_of_kept h g u
  unfold State.splitOf
  cases ht : (t.group g).findSplit u <;> cases hs : (s.group g).findSplit u <;> simp_all
end

end Sys2Proof.Machine
end

section
/-! ## The step at an issue (R19, R33, R35, R93, R109) -/

namespace Sys2Proof.Machine

/-! ### Planes of a split's lanes -/

theorem plane_of_planesOf {k : Group} {m : Mask} {p : Nat} (h : k.planesOf m = [p]) {L : Nat} (hL : L < 32)
    (hm : inMask (m &&& ~~~k.exited) L = true) : (k.plane.get L).toNat = p := by
  have hp : (k.plane.get L).toNat ∈ k.planesOf m := by
    have := (k.plane.get L).isLt
    refine List.mem_filter.2 ⟨?_, List.any_eq_true.2 ⟨L, by simp [mem_lanesOf, hL, hm], by simp⟩⟩
    simp; omega
  simpa [h] using hp

/-- A split with a plane has a lane that has not exited. -/
theorem lowLane_of_planesOf {k : Group} {m : Mask} {p : Nat} (h : k.planesOf m = [p]) :
    (k.plane.get (lowLane (m &&& ~~~k.exited))).toNat = p := by
  have hp : p ∈ k.planesOf m := by simp [h]
  obtain ⟨L, hL, -⟩ := List.any_eq_true.1 (List.mem_filter.1 hp).2
  have hmem : lowLane (m &&& ~~~k.exited) ∈ lanesOf (m &&& ~~~k.exited) := by
    unfold lowLane
    cases hl : lanesOf (m &&& ~~~k.exited) with
    | nil => rw [hl] at hL; exact absurd hL (by simp)
    | cons a t => simp
  rw [mem_lanesOf] at hmem
  exact plane_of_planesOf h hmem.1 hmem.2

theorem inPlane_active {k : Group} {m : Mask} {p : Nat} (h : k.planesOf m = [p]) : k.inPlane (k.active m) p = k.active m := by
  ext L hL
  simp only [← BitVec.getLsbD_eq_getElem]
  show inMask _ L = inMask _ L
  unfold Group.inPlane
  rw [inMask_and, inMask_maskOf]
  cases ha : inMask (k.active m) L with
  | false => rfl
  | true =>
    have hm : inMask (m &&& ~~~k.exited) L = true := by
      unfold Group.active at ha; rw [inMask_and] at ha; exact (Bool.and_eq_true _ _ ▸ ha).1
    simp [hL, plane_of_planesOf h hL hm]

/-- R35: lanes in one plane make one pass, with every active lane, or with none. -/
theorem passesOf_one {k : Group} {x : Split} {p : Nat} (h : k.planesOf x.mask = [p]) (w : Nat) (i : Instr) :
    passesOf k x [(p, w, i)] = [(p, k.active x.mask, w, i)] := by
  unfold passesOf
  dsimp only
  split_ifs with hs ha
  · rfl
  · simp [lowLane_of_planesOf h, ha]
  · simp only [List.filterMap_cons, List.filterMap_nil, inPlane_active h, if_neg ha]

/-- No lane is parked: none is un-parked (R196). -/
theorem unpark_of_none_parked {k : Group} (h : ∀ L, (k.tx.get L).parked = false) (m : Mask) : k.unpark m = k := by
  unfold Group.unpark
  have (l : List Nat) : l.foldl (fun (t : Store TxLane) L =>
      if k.depth.get L = 0 ∧ (t.get L).parked = true then t.upd L (fun x => { x with parked := false }) else t) k.tx = k.tx :=
    foldl_fixed _ _ _ (fun L _ => by simp [h L])
  rw [this]

/-! ### The plan of an offset -/

/-- The word that stands at an offset of one plane decodes and passes the checks: the plan is one pass. -/
theorem plan_of_word {s : State} {g p w : Nat} {i : Instr} {x : Split} (hrest : x.rest = none) (hwords : x.words = [])
    (hplane : (s.group g).planesOf x.mask = [p]) (hfetch : (s.fetchWord g x.version p x.offset).2 = .word w)
    (hdec : decode (bytesLE (if w % 2 = 0 then 2 else 4) w) = .ok (i, []))
    (hchk : wordCheck (s.launchOf g).rec_.debug (s.launchOf g).rec_.regs (s.launchOf g).rec_.slots.get w (.ok i) = none)
    (hpark : ∀ L, ((s.group g).tx.get L).parked = false) :
    s.plan g x = ((s.fetchWord g x.version p x.offset).1,
      .passes [(p, (s.group g).active x.mask, w, i)] (if w % 2 = 0 then 2 else 4)) := by
  have hdf : decodeFetched w = .ok i := by unfold decodeFetched; rw [hdec]
  have hfa : s.fetchAll g x.version x.offset [p] [] = ((s.fetchWord g x.version p x.offset).1, [(p, .word w)]) := by
    simp [State.fetchAll, hfetch]
  have hoff : offsetCheck [(p, w, none)] = none := rfl
  have hlater : ((Fetched.word w) == Fetched.later) = false := rfl
  unfold State.plan
  rw [hrest]
  simp only [hwords, hplane, hfa, List.findSome?_cons, List.findSome?_nil, List.any_cons, List.any_nil, hlater, Bool.or_false,
    Bool.false_eq_true, if_false, List.map_cons, List.map_nil, hdf, hchk, hoff, List.filterMap_cons, List.filterMap_nil,
    unpark_of_none_parked hpark, ite_self, passesOf_one hplane]

/-! ### The issue -/

/-- The issue that an offset of one pass begins with. -/
structure OnePass (c : Issue) (g u p w : Nat) (i : Instr) (m : Mask) : Prop where
  grp : c.grp = g
  uid : c.uid = u
  length : c.length = if w % 2 = 0 then 2 else 4
  passes : ∃ d, c.passes = [⟨BitVec.ofNat 2 p, m, w, i, d⟩]
  lanes : c.lanes = m
  same : c.same = true
  first : c.first = true
  fresh : c.fresh = true

/-- The offset begins: a quad's issue of one pass is in progress, and 1 ns has passed; every group is as the fetch left it. -/
structure Begun (f t : State) (q g u p w : Nat) (i : Instr) (m : Mask) : Prop where
  issue : ∃ c, (t.quads.get q).cur = some c ∧ OnePass c g u p w i m
  group : ∀ h, t.group h = f.group h
  pending : t.pending = f.pending
  now : t.now = f.now + 1
  dies : t.dies = f.dies

theorem beginOffset_onePass {s : State} {g u : Nat} (hrest : (s.splitOf g u).rest = none) (p w : Nat) (i : Instr) (m : Mask) :
    OnePass (s.beginOffset g u (if w % 2 = 0 then 2 else 4) [(p, m, w, i)]) g u p w i m := by
  unfold State.beginOffset
  rw [hrest]
  exact ⟨rfl, rfl, by by_cases hw : w % 2 = 0 <;> simp [hw], ⟨_, rfl⟩, by simp, by simp, rfl, rfl⟩

theorem launchOf_resetClock (s : State) (b g : Nat) : (s.resetClock b).launchOf g = s.launchOf g :=
  congrArg s.launches.get
    (proj_get_upd Block.launch s.blocks b (fun y => { y with waited := 0, waiting := none }) (fun _ => rfl) (s.group g).block)

theorem group_unpark_none {s : State} {g : Nat} (h : ∀ L, ((s.group g).tx.get L).parked = false) (m : Mask) (j : Nat) :
    (s.onGroup g (fun k => k.unpark m)).group j = s.group j := by
  show (s.groups.upd g (fun k => k.unpark m)).get j = s.groups.get j
  rw [Store.get_upd]
  split
  · next e => rw [e]; exact unpark_of_none_parked h m
  · rfl

theorem breakHit_none {s : State} {g : Nat} (h : (s.launchOf g).breaks = []) (u : Nat) : s.breakHit g u = none := by
  unfold State.breakHit
  simp [h]

/-- No divergence where the launch does not replay (R384). -/
theorem diverges_none {s : State} {g : Nat} (h : (s.launchOf g).replay ≠ 2) (u : Nat) (k : Option Nat) : s.diverges g u k = none := by
  unfold State.diverges
  cases k with
  | none => rfl
  | some n => exact if_pos (.inl h)

/-- The state in which an issue acts: the quad has chosen the split, whose block's wait clock begins again, and time is 1 ns later. -/
def State.issuing (f : State) (q g u b : Nat) : State :=
  { (f.onQuad q (fun k => { k with
      last := 4 * (g % 16) + ((f.group g).entryOf u).getD 0
      yields := k.yields.map (fun y => { y with left := y.left.filter (fun e => decide (e ≠ (g, u))) }) })).resetClock b with
    now := f.now + 1, lastQuad := q }

/-- The offset that begins there, with no divergence from a replay table. -/
def State.offsetIn (s : State) (q g u : Nat) (m : Mask) (len : Nat) (ps : List (Nat × Mask × Nat × Instr)) : State :=
  let s3 := if ps.any (fun e => txEndWord e.2.2.1) then s.onGroup g (fun k => k.unpark m) else s
  let cur := s3.beginOffset g u len ps
  (s3.onQuad q (fun k => { k with cur := some cur })).focusPass q g u cur.length (cur.passes.headD default) cur.lanes cur.same cur.first

theorem issueSplit_passes {s f : State} {q g u len : Nat} {ps : List (Nat × Mask × Nat × Instr)}
    (hmerge : s.mergeAt g u = (s, u)) (hplan : s.plan g (s.splitOf g u) = (f, .passes ps len))
    (hbreak : (f.issuing q g u (s.group g).block).breakHit g u = none)
    (hreplay : (((f.issuing q g u (s.group g).block).offsetIn q g u (s.splitOf g u).mask len ps).launchOf g).replay ≠ 2) :
    s.issueSplit q g u = .next ((f.issuing q g u (s.group g).block).offsetIn q g u (s.splitOf g u).mask len ps) := by
  have hnext (t : State) (c : Issue) (ht : (t.launchOf g).replay ≠ 2) :
      (match (if c.fresh then (if c.fresh && c.kind.isSome && decide ((t.launchOf g).replay = 2) then t.collectReplay g else t).diverges g u c.kind
        else none) with | some v => .next v | none => .next (if c.fresh && c.kind.isSome && decide ((t.launchOf g).replay = 2) then t.collectReplay g
          else t) : Out) = .next t := by
    rw [decide_eq_false ht, Bool.and_false, if_neg Bool.false_ne_true, diverges_none ht, ite_self]
  unfold State.issueSplit
  rw [hmerge]
  dsimp only
  rw [hplan]
  have hif (a b : Out) : (if ((f.issuing q g u (s.group g).block).breakHit g u).isSome = true then a else b) = b := by rw [hbreak]; rfl
  exact (hif _ _).trans (hnext _ _ hreplay)

theorem splitOf_congr {s t : State} {g : Nat} (h : t.group g = s.group g) (u : Nat) : t.splitOf g u = s.splitOf g u := by
  unfold State.splitOf; rw [h]

theorem launchOf_issuing (f : State) (q g u b h : Nat) : (f.issuing q g u b).launchOf h = f.launchOf h :=
  launchOf_resetClock f b h

/-- With no lane parked, an offset of one pass begins and changes no group. -/
theorem begun_offsetIn {f : State} {q g u b : Nat} (m : Mask) (p w : Nat) (i : Instr) (n : Mask) (hrest : (f.splitOf g u).rest = none)
    (hpark : ∀ L, ((f.group g).tx.get L).parked = false) :
    Begun f ((f.issuing q g u b).offsetIn q g u m (if w % 2 = 0 then 2 else 4) [(p, n, w, i)]) q g u p w i n
    ∧ ((f.issuing q g u b).offsetIn q g u m (if w % 2 = 0 then 2 else 4) [(p, n, w, i)]).launchOf g = f.launchOf g := by
  unfold State.offsetIn
  generalize hs3 : (if ([(p, n, w, i)] : List (Nat × Mask × Nat × Instr)).any (fun e => txEndWord e.2.2.1) = true
    then (f.issuing q g u b).onGroup g (fun k => k.unpark m) else f.issuing q g u b) = s3
  have hgroup (h : Nat) : s3.group h = f.group h := by
    rw [← hs3]; split
    · exact group_unpark_none (s := f.issuing q g u b) hpark m h
    · rfl
  have hrest3 : (s3.splitOf g u).rest = none := by rw [splitOf_congr (hgroup g)]; exact hrest
  have hlaunch : s3.launchOf g = f.launchOf g := by
    rw [← launchOf_issuing f q g u b g]
    unfold State.launchOf State.blockOf
    rw [hgroup g, ← hs3]
    split <;> rfl
  refine ⟨⟨⟨_, ?_, beginOffset_onePass hrest3 p w i n⟩, hgroup, ?_, ?_, ?_⟩, hlaunch⟩
  · show ((s3.quads.upd q (fun k => { k with cur := some _ })).get q).cur = _
    rw [Store.get_upd, if_pos rfl]
  all_goals rw [← hs3]; split <;> rfl

/-! ### The pass -/

theorem runPass_onePass {t : State} {q g u p w : Nat} {i : Instr} {c : Issue} {m : Mask} (hc : (t.quads.get q).cur = some c)
    (h1 : OnePass c g u p w i m) (hlock : t.relocking (dieOfGroup g) = false) : ∃ d,
    let F := t.focusPass q g u (if w % 2 = 0 then 2 else 4) ⟨BitVec.ofNat 2 p, m, w, i, d⟩ m true true
    t.runPass q 0 0 = match exec (refineCommand i (fun r => F.cur.sAt r.toNat)) F with
      | .next v => .next (v.afterPass q)
      | .fault f => .fault f
      | .refused r => .refused r := by
  obtain ⟨d, hp⟩ := h1.passes
  have hw : t.passWaits c = false := by
    unfold State.passWaits State.passOp
    simp [h1.fresh, h1.grp, hlock]
  refine ⟨d, ?_⟩
  unfold State.runPass
  simp only [hc, hp, hw, h1.grp, h1.uid, h1.length, h1.lanes, h1.same, h1.first, h1.fresh, Bool.false_eq_true, if_false, if_true]
  rw [if_pos (ite_eq_right_iff.2 fun _ => by simp), if_neg (by simp)] <;> rfl

theorem relocking_mono {s t : State} {d : Nat} (h : (t.dies.get d).relock = (s.dies.get d).relock) (hn : s.now ≤ t.now)
    (hs : s.relocking d = false) : t.relocking d = false := by
  unfold State.relocking at *
  rw [h]
  cases hr : (s.dies.get d).relock with
  | none => rfl
  | some e => rw [hr] at hs; have := of_decide_eq_false hs; exact decide_eq_false (by omega)

theorem mayIssue_of_choose {s : State} {q g u : Nat} (h : s.choose q = some (g, u)) : s.mayIssue g (s.splitOf g u) = true := by
  unfold State.choose at h
  split at h
  · exact absurd h (by simp)
  · have := List.find?_some h
    unfold State.ready at this
    simp only [Bool.and_eq_true] at this
    exact this.2.1

/-- Settles O58: the offset begins (`begun_offsetIn`) on what the fetch keeps (`kept_fetchWord`), and its one pass runs. -/
theorem stepRunsDecodedInstruction : Obligations.StepRunsDecodedInstruction := by
  unfold Obligations.StepRunsDecodedInstruction
  intro s q g u p w i h
  obtain ⟨ts, hts⟩ : ∃ ts, s.turns = .issue q :: ts := h.turn.elim (fun h => ⟨[], h⟩) id
  have hchosen := h.chosen; have halone := h.alone; have hfetched := h.fetched
  simp only [hts, List.tail_cons] at hchosen halone hfetched
  generalize hs1 : ({ s with turns := ts } : State) = s1 at hchosen halone hfetched
  have hgroup (j : Nat) : s1.group j = s.group j := by rw [← hs1]; rfl
  have hsplit : s1.splitOf g u = s.splitOf g u := splitOf_congr (hgroup g) u
  have hlaunch : s1.launchOf g = s.launchOf g := by rw [← hs1]; rfl
  rw [← hsplit] at hfetched
  obtain ⟨hbreaks, hreplay, hpark⟩ := h.unplanned
  rw [← hlaunch] at hbreaks hreplay
  have hplan := plan_of_word (s := s1) (hsplit ▸ h.whole) (hsplit ▸ h.unheld) (by rw [hgroup, hsplit]; exact h.plane) hfetched h.decoded
    (by rw [hlaunch]; exact h.allowed) (by rw [hgroup]; exact hpark)
  have hk := kept_fetchWord s1 g (s1.splitOf g u).version p (s1.splitOf g u).offset
  generalize (s1.fetchWord g (s1.splitOf g u).version p (s1.splitOf g u).offset).1 = f at hplan hk
  have hf := launchOf_of_kept hk g
  have hbreaks : (f.launchOf g).breaks = [] := (congrArg Launch.breaks hf).trans hbreaks
  have hreplay : (f.launchOf g).replay ≠ 2 := fun e => hreplay ((congrArg Launch.replay hf).symm.trans e)
  have hsplitf := splitOf_of_kept hk g u
  have hrest : (f.splitOf g u).rest = none := (congrArg Split.rest hsplitf).trans (hsplit ▸ h.whole)
  have hparkf (L : Nat) : ((f.group g).tx.get L).parked = false := by
    rw [group_field_of_kept hk Group.tx, hgroup]; exact hpark L
  obtain ⟨hb, hl⟩ := begun_offsetIn (q := q) (b := (s1.group g).block) (s1.splitOf g u).mask p w i
    ((s1.group g).active (s1.splitOf g u).mask) hrest hparkf
  have hissue := issueSplit_passes (q := q) halone hplan (breakHit_none ((congrArg Launch.breaks (launchOf_issuing f q g u _ g)).trans hbreaks) u)
    (by rw [hl]; exact hreplay)
  generalize ((f.issuing q g u (s1.group g).block).offsetIn q g u (s1.splitOf g u).mask (if w % 2 = 0 then 2 else 4)
    [(p, (s1.group g).active (s1.splitOf g u).mask, w, i)]) = t at hb hl hissue
  have hlock : t.relocking (dieOfGroup g) = false := by
    have hm := mayIssue_of_choose hchosen
    unfold State.mayIssue at hm
    simp only [Bool.and_eq_true, Bool.not_eq_true'] at hm
    refine relocking_mono ?_ ?_ hm.1.1.2
    · rw [hb.dies]; exact (congrArg Die.relock (die_of_kept hk _) :)
    · rw [hb.now, now_of_kept hk]; omega
  obtain ⟨c, hc, h1⟩ := hb.issue
  obtain ⟨d, hrun⟩ := runPass_onePass hc h1 hlock
  have hsplitt : (t.splitOf g u).kept = (s.splitOf g u).kept := by rw [splitOf_congr (hb.group g), hsplitf, hsplit]
  have hoff : (t.splitOf g u).offset = (s.splitOf g u).offset := (congrArg Split.offset hsplitt :)
  have hver : (t.splitOf g u).version = (s.splitOf g u).version := (congrArg Split.version hsplitt :)
  refine ⟨t.focusPass q g u (if w % 2 = 0 then 2 else 4) ⟨BitVec.ofNat 2 p, (s1.group g).active (s1.splitOf g u).mask, w, i, d⟩
    ((s1.group g).active (s1.splitOf g u).mask) true true, ?_, fun j => ?_, ?_, ?_, ?_⟩
  · unfold step
    rw [hts]
    show settled (({ s with turns := ts } : State).runQuad q 0 0) = _
    rw [hs1, State.runQuad, show (s1.quads.get q).cur = none from hs1 ▸ h.idle]
    dsimp only
    rw [State.issueQuad, hchosen]
    dsimp only
    rw [hissue]
    dsimp only
    rw [hrun] <;> rfl
  · have := sameRegs_of_kept hk j
    rw [hgroup j, ← hb.group j] at this
    exact this
  · show t.pending = s.pending
    rw [hb.pending, pending_of_kept hk, ← hs1]
  · show t.now = s.now + 1
    rw [hb.now, now_of_kept hk, ← hs1]
  · unfold State.focusPass
    dsimp only
    rw [hoff, hver, hgroup, hsplit]

end Sys2Proof.Machine
end

section
/-! ## What the hub reads and writes (R279, R316, R327, R377) -/

namespace Sys2Proof.Machine

/-! ### Frames -/

theorem kept_hubWalk (s : State) (ctx : Nat) (a : DWord) (n : Nat) : (s.hubWalk ctx a n).kept = s.kept := kept_collectAll _ _ s

theorem kept_hubCollect (s : State) (ctx : Nat) (a : DWord) (n : Nat) : (s.hubCollect ctx a n).kept = s.kept :=
  (kept_collectAll _ _ _).trans (kept_hubWalk s ctx a n)

theorem kept_agentCow (s : State) (ctx : Nat) (a : DWord) : (s.agentCow ctx a).kept = s.kept := by
  unfold State.agentCow
  split
  · split
    · rw [kept_takeLeaf, kept_cowFirst]
    · rfl
  · rfl

/-- One line of a store of the hub. -/
def State.agentLine (cells : List (Nat × Nat × Byte)) (st : State × Times) (l : Nat) : State × Times :=
  let mine := cells.filter (fun c => lineOf c.1 = l)
  let cls := (mine.headD (0, 2, 0)).2.1
  let r := if cls = 3 then (st.1.regWrite (mine.map (fun c => (c.1, c.2.2))), ({} : Times))
           else st.1.homeWrite l cls 0 0 (mine.map (fun c => (c.1, c.2.2)))
  (r.1, st.2.join r.2)

theorem kept_agentLine (cells : List (Nat × Nat × Byte)) (st : State × Times) (l : Nat) : (State.agentLine cells st l).1.kept = st.1.kept := by
  unfold State.agentLine
  dsimp only
  split
  · rfl
  · exact kept_homeWrite _ _ _ _ _ _

/-- The cells of a store of the hub: physical address, class, byte. -/
def State.agentCells (s : State) (ctx : Nat) (a : DWord) (bs : List Byte) (classes : List Nat) : Except (Cause × Nat) (List (Nat × Nat × Byte)) :=
  bs.zipIdx.mapM (fun e => do
    let r ← s.agentPa ctx (a + BitVec.ofNat 64 e.2) .write classes
    pure (r.1, r.2, e.1))

/-- A store of the hub in its steps: the walk, the copies for a checkpoint, the checks, and line by line. -/
theorem agentWrite_eq (s : State) (ctx : Nat) (a : DWord) (bs : List Byte) (classes : List Nat) :
    s.agentWrite ctx a bs classes =
      let s1 := (s.hubWalk ctx a bs.length).agentCow ctx a
      let s2 := s1.agentCow ctx (a + BitVec.ofNat 64 (bs.length - 1))
      match s1.agentPa ctx a .write classes with
      | .error f => .error f
      | .ok _ => match s2.agentCells ctx a bs classes with
        | .error f => .error f
        | .ok cells => .ok (((cells.map (fun c => lineOf c.1)).dedup).foldl (State.agentLine cells) (s2, {})) := by
  unfold State.agentWrite State.agentCells
  dsimp only
  cases ((s.hubWalk ctx a bs.length).agentCow ctx a).agentPa ctx a .write classes with
  | error f => rfl
  | ok r =>
    show Except.bind _ _ = _
    cases (bs.zipIdx.mapM (fun e => do
      let r ← (((s.hubWalk ctx a bs.length).agentCow ctx a).agentCow ctx (a + BitVec.ofNat 64 (bs.length - 1))).agentPa ctx
        (a + BitVec.ofNat 64 e.2) .write classes
      pure (r.1, r.2, e.1)) : Except (Cause × Nat) (List (Nat × Nat × Byte))) <;> rfl

theorem kept_agentWrite {s t : State} {ctx : Nat} {a : DWord} {bs : List Byte} {classes : List Nat} {c : Times}
    (h : s.agentWrite ctx a bs classes = .ok (t, c)) : t.kept = s.kept := by
  rw [agentWrite_eq] at h
  dsimp only at h
  split at h
  · exact absurd h (by simp)
  · split at h
    · exact absurd h (by simp)
    · next cells _ =>
      rw [show t = _ from (congrArg Prod.fst (Except.ok.inj h)).symm, kept_foldl_fst State.kept _ (kept_agentLine cells), kept_agentCow, kept_agentCow, kept_hubWalk]

theorem kept_hubStore (s : State) (ctx : Nat) (a : DWord) (v : Word) : (s.hubStore ctx a v).1.kept = s.kept := by
  unfold State.hubStore
  split
  · rfl
  · split
    · rfl
    · split
      · next t c h => exact kept_agentWrite h
      · rfl

theorem kept_traceWrite (s : State) (ctx : Nat) (bs : List Byte) : (s.traceWrite ctx bs).kept = s.kept := by
  unfold State.traceWrite
  dsimp only
  have hc := kept_hubCollect s ctx (s.ctxs.get ctx).traceRing 12
  split
  · rfl
  · split
    · split
      · split
        · split
          · next h => exact (kept_agentWrite h).trans hc
          · exact hc
        · exact hc
      · split
        · next h => exact (kept_onCtx _ _ _).trans ((kept_agentWrite h).trans hc)
        · exact hc
    · exact hc

theorem kept_ringWrite (s : State) (ctx : Nat) (mk : Bool → List Byte) (clears : Bool) : (s.ringWrite ctx mk clears).kept = s.kept := by
  unfold State.ringWrite
  dsimp only
  have hc := kept_hubCollect s ctx ((s.ctxs.get ctx).eventRing + BitVec.ofNat 64 (64 * 2 ^ (s.ctxs.get ctx).eventLog)) 8
  split
  · split
    · exact (kept_onCtx _ _ _).trans hc
    · split
      · next h =>
        have h1 := (kept_agentWrite h).trans hc
        split
        · next h' =>
          have h2 := (kept_agentWrite h').trans h1
          split
          · exact (kept_onCtx _ _ _).trans h2
          · exact h2
        · exact h1
      · exact hc
  · exact hc

theorem kept_postTrap (s : State) (ctx : Nat) (r : TrapRecord) : (s.postTrap ctx r).kept = s.kept := kept_ringWrite s ctx _ _
theorem kept_postError (s : State) (ctx : Nat) (e : ErrorRec) : (s.postError ctx e).kept = s.kept := kept_ringWrite s ctx _ _

/-! ### A store through the heap window -/

/-- The latest of a list of bytes put into memory wins. -/
theorem get_putBytes (bs : List (Nat × Byte)) (x : Nat) : ∀ m : Store Byte, (putBytes m bs).get x = laid bs m.get x := by
  induction bs with
  | nil => intro m; rfl
  | cons e t ih =>
    intro m
    rw [show putBytes m (e :: t) = putBytes (Store.put m e.1 e.2) t from rfl, ih]
    unfold laid
    rw [List.reverse_cons, List.find?_append]
    cases h : t.reverse.find? (fun y => y.1 == x) with
    | some y => rfl
    | none =>
      by_cases hx : e.1 = x
      · simp [hx]
      · simp [hx, Store.get_put, Ne.symm hx]

theorem laid_of_not_mem {bs : List (Nat × Byte)} {x : Nat} (old : Nat → Byte) (h : ∀ e ∈ bs, e.1 ≠ x) : laid bs old x = old x := by
  unfold laid
  rw [List.find?_eq_none.2 (by simpa using h)]

/-- Waking signal waits changes groups alone. -/
theorem wakeSignals_groups (s : State) (line : Nat) : ({ s.wakeSignals line with groups := [] } : State) = { s with groups := [] } := by
  refine kept_foldl (fun u : State => ({ u with groups := [] } : State)) _
    (fun u w => kept_foldl (fun u : State => ({ u with groups := [] } : State)) _ (fun t v => ?_) _ u) _ s
  cases v with
  | signal a pa n l src => dsimp only; split <;> rfl
  | _ => rfl

theorem byteAt_of_groups {s t : State} (h : ({ t with groups := [] } : State) = { s with groups := [] }) : SameBytes s t := fun a =>
  (congrArg (fun u : State => u.byteAt a) h :)

theorem owner_homeLine {s : State} {line : Nat} (h : (s.home.get line).owner = none) : (s.homeLine line).owner = none := by
  unfold State.homeLine
  dsimp only
  split_ifs
  · exact h
  all_goals rfl

theorem cores_clearError (s : State) (line : Nat) : (s.clearError line).cores = s.cores := by
  unfold State.clearError; split <;> rfl
theorem home_clearError (s : State) (line : Nat) : (s.clearError line).home = s.home := by
  unfold State.clearError; split <;> rfl

theorem cores_applyAt (s : State) (line cls die stamp : Nat) (bs : List (Nat × Byte)) :
    (s.applyAt line cls die stamp bs).1.cores = s.cores := by
  show (if bs.length = 64 then s.clearError line else s).cores = _
  split
  · exact cores_clearError s line
  · rfl

/-- A line that no stash owns stays so, and the other lines' homes are as before. -/
theorem owner_applyAt {s : State} {line : Nat} (cls die stamp : Nat) (bs : List (Nat × Byte)) (h : (s.home.get line).owner = none) (l : Nat) :
    ((s.applyAt line cls die stamp bs).1.home.get l).owner = (s.home.get l).owner := by
  have hown (s0 : State) (hs : s0.home = s.home) (f : HomeLine → HomeLine) (hf : ∀ k, (f k).owner = k.owner) :
      ((s0.onHome line f).home.get l).owner = (s.home.get l).owner := by
    show ((s0.home.put line (f (s0.homeLine line))).get l).owner = _
    rw [Store.get_put, hs]
    split
    · next e => rw [hf, owner_homeLine (by rw [hs]; exact h), e, h]
    · rfl
  refine hown _ ?_ _ (fun _ => rfl)
  show (if bs.length = 64 then s.clearError line else s).home = _
  split
  · exact home_clearError s line
  · rfl

/-- Bytes of a line that no stash owns, applied at its home: the bytes are laid there, and no other byte changes. -/
theorem byteAt_applyAt {s : State} {line : Nat} (cls die stamp : Nat) {bs : List (Nat × Byte)} (hown : (s.home.get line).owner = none)
    (hbs : ∀ e ∈ bs, lineOf e.1 = line) (x : Nat) : (s.applyAt line cls die stamp bs).1.byteAt x = laid bs s.byteAt x := by
  have hmem : (s.applyAt line cls die stamp bs).1.mem = putBytes s.mem bs := rfl
  have hlaid (old old' : Nat → Byte) (h : old x = old' x) : laid bs old x = laid bs old' x := by
    unfold laid; split
    · rfl
    · exact h
  unfold State.byteAt
  rw [owner_applyAt cls die stamp bs hown, cores_applyAt, hmem, get_putBytes]
  split
  · next h => exact hlaid _ _ (by simp [h])
  · next h =>
    rw [laid_of_not_mem _ (fun e he hx => ?_)]
    · simp [h]
    · rw [← hx, hbs e he, hown] at h; exact absurd h (by simp)

/-- The same for a store that reaches its home, of a line whose home answers from memory (R243, R279). -/
theorem byteAt_homeWrite {s : State} {line : Nat} (cls die stamp : Nat) {bs : List (Nat × Byte)} (hown : (s.home.get line).owner = none)
    (hcop : s.copyHolders line = []) (hbs : ∀ e ∈ bs, lineOf e.1 = line) (x : Nat) :
    (s.homeWrite line cls die stamp bs).1.byteAt x = laid bs s.byteAt x := by
  have hrecall : s.recall line = s := by unfold State.recall; rw [hown]
  have hcollect : s.collect line = s := by unfold State.collect; rw [if_pos hcop]
  unfold State.homeWrite
  dsimp only
  rw [hrecall, hcollect, byteAt_of_groups (wakeSignals_groups _ line), byteAt_applyAt _ _ _ hown hbs]

/-- The launches and the blocks. -/
def State.residents (s : State) : Store Launch × Store Block := (s.launches, s.blocks)

theorem residents_homeWrite {s : State} {line : Nat} (cls die stamp : Nat) (bs : List (Nat × Byte)) (hown : (s.home.get line).owner = none)
    (hcop : s.copyHolders line = []) : (s.homeWrite line cls die stamp bs).1.residents = s.residents := by
  have hrecall : s.recall line = s := by unfold State.recall; rw [hown]
  have hcollect : s.collect line = s := by unfold State.collect; rw [if_pos hcop]
  have herror : (s.clearError line).residents = s.residents := by unfold State.clearError; dsimp only; split <;> rfl
  have hif : (if bs.length = 64 then s.clearError line else s).residents = s.residents := by
    split
    · exact herror
    · rfl
  have hwake (u : State) : (u.wakeSignals line).residents = u.residents := (congrArg State.residents (wakeSignals_groups u line) :)
  unfold State.homeWrite
  dsimp only
  rw [hrecall, hcollect, hwake]
  exact hif

/-! An aligned store of 4 or 64 bytes through the heap window. -/

/-- The frame of a window's page. -/
def windowFrame (s : State) (ctx : Nat) (page : Nat) : Nat := (4096 * page + (s.ctxs.get ctx).heapOffset.toNat) % 2 ^ 52 / 4096

theorem windowPa_eq (s : State) (ctx : Nat) (a : DWord) :
    windowPa s ctx a = (4096 * windowFrame s ctx (a.toNat / 4096) + a.toNat % 4096) % 2 ^ 52 := rfl

section
variable {s : State} {ctx : Nat} {a : DWord} {n : Nat} (hn : n = 4 ∨ n = 64) (ha : a.toNat % n = 0)
include hn ha

/-- The bytes of an aligned datum lie in one line. -/
theorem lineOf_windowPa_add {i : Nat} (hi : i < n) : lineOf (windowPa s ctx (a + BitVec.ofNat 64 i)) = lineOf (windowPa s ctx a) := by
  have hlt := a.isLt
  have h1 : (a + BitVec.ofNat 64 i).toNat = a.toNat + i := by
    rw [BitVec.toNat_add, BitVec.toNat_ofNat]; rcases hn with rfl | rfl <;> omega
  have h2 : (a.toNat + i) / 4096 = a.toNat / 4096 := by rcases hn with rfl | rfl <;> omega
  rw [windowPa_eq, windowPa_eq, h1, h2]
  unfold lineOf
  rcases hn with rfl | rfl <;> omega

/-- The hub's walk for an aligned datum in the window reads no table. -/
theorem hubWalk_window (hw : inWindow (s.ctxs.get ctx) a = true) : s.hubWalk ctx a n = s := by
  have hpages : (a.toNat % 4096 + n + 4095) / 4096 = 1 := by rcases hn with rfl | rfl <;> omega
  have hfix (reads : State → List Nat) (hr : reads s = []) : ∀ m, s.collectAll reads m = s := fun m => by
    induction m with
    | zero => rfl
    | succ m ih =>
      unfold State.collectAll
      rw [hr, List.foldl_nil, ih, ite_self]
  refine hfix _ ?_ 4
  simp [hpages, hw]
end

/-- The window's leaves carry no copy-on-write bit. -/
theorem agentLook_window {s : State} {ctx : Nat} {a : DWord} (hc : canonical57 a = true) (hw : inWindow (s.ctxs.get ctx) a = true) :
    s.agentLook ctx a = .hit (windowEntry (s.ctxs.get ctx) ctx (a.toNat / 4096)) := by
  unfold State.agentLook
  simp [hc, hw]

theorem agentCow_window {s : State} {ctx : Nat} {a : DWord} (hc : canonical57 a = true) (hw : inWindow (s.ctxs.get ctx) a = true) :
    s.agentCow ctx a = s := by
  unfold State.agentCow
  rw [agentLook_window hc hw]
  exact if_neg (by simp [windowEntry])

theorem agentPa_window {s : State} {ctx : Nat} {a : DWord} {classes : List Nat} (hc : canonical57 a = true)
    (hw : inWindow (s.ctxs.get ctx) a = true) (hwr : (s.ctxs.get ctx).heapAttr.getLsbD 3 = true)
    (hcls : ((s.ctxs.get ctx).heapAttr.extractLsb' 0 2).toNat ∈ classes) :
    s.agentPa ctx a .write classes = .ok (windowPa s ctx a, ((s.ctxs.get ctx).heapAttr.extractLsb' 0 2).toNat) := by
  have hp : permit (windowEntry (s.ctxs.get ctx) ctx (a.toNat / 4096)) .write classes = none := by
    have : classes.contains ((s.ctxs.get ctx).heapAttr.extractLsb' 0 2).toNat = true := by simpa using hcls
    simp only [permit, windowEntry, this, hwr]
    simp
  unfold State.agentPa
  rw [agentLook_window hc hw]
  dsimp only
  rw [hp]
  rfl

theorem mapM_ok {α β ε : Type} {f : α → Except ε β} {g : α → β} (l : List α) (h : ∀ e ∈ l, f e = .ok (g e)) :
    l.mapM f = .ok (l.map g) := by
  induction l with
  | nil => rfl
  | cons e t ih =>
    rw [List.mapM_cons, h e (by simp), ih (fun e he => h e (by simp [he]))]
    rfl

/-- Cells of one line and one class below 3 make one store at the line's home. -/
theorem agentLine_one {cells : List (Nat × Nat × Byte)} {l k : Nat} (hne : cells ≠ []) (hl : ∀ c ∈ cells, lineOf c.1 = l)
    (hk : ∀ c ∈ cells, c.2.1 = k) (h3 : k ≠ 3) (st : State × Times) :
    (((cells.map (fun c => lineOf c.1)).dedup).foldl (State.agentLine cells) st).1
      = (st.1.homeWrite l k 0 0 (cells.map (fun c => (c.1, c.2.2)))).1 := by
  have hd : (cells.map (fun c => lineOf c.1)).dedup = [l] := by
    rw [List.eq_replicate_of_mem (a := l) (l := cells.map (fun c => lineOf c.1)) (List.forall_mem_map.2 hl)]
    exact List.replicate_dedup (by simpa using hne)
  have hf : cells.filter (fun c => decide (lineOf c.1 = l)) = cells := List.filter_eq_self.2 fun c hc => by simp [hl c hc]
  have hh : (cells.headD (0, 2, 0)).2.1 = k := by
    cases cells with
    | nil => exact absurd rfl hne
    | cons c t => exact hk c (by simp)
  rw [hd, List.foldl_cons, List.foldl_nil]
  unfold State.agentLine
  simp only [hf, hh, if_neg h3]

/-- R316, R319: the bytes of an aligned store of the hub through the heap window are laid in memory, and every other
byte is as before. -/
theorem agentWrite_window {s : State} {ctx : Nat} {a : DWord} {bs : List Byte} {classes : List Nat} (h1 : 1 ∈ classes) (h2 : 2 ∈ classes)
    (hn : bs.length = 4 ∨ bs.length = 64) (ha : a.toNat % bs.length = 0) (h : HubBytes s ctx a bs.length) :
    ∃ t c, s.agentWrite ctx a bs classes = .ok (t, c) ∧ HubStored s t ctx a bs ∧ t.residents = s.residents := by
  obtain ⟨-, hwr, hcls, hb⟩ := h
  have hpos : 0 < bs.length := by omega
  have hcl : ((s.ctxs.get ctx).heapAttr.extractLsb' 0 2).toNat ∈ classes := by
    rcases hcls with h | h <;> rw [h] <;> assumption
  have hcl3 : ((s.ctxs.get ctx).heapAttr.extractLsb' 0 2).toNat ≠ 3 := by rcases hcls with h | h <;> rw [h] <;> decide
  obtain ⟨hc0, hw0, hset⟩ := hb 0 hpos
  obtain ⟨hcl', hwl, -⟩ := hb (bs.length - 1) (by omega)
  have ha0 : a + BitVec.ofNat 64 0 = a := by simp
  rw [ha0] at hc0 hw0 hset
  have hidx (e : Byte × Nat) (he : e ∈ bs.zipIdx) : e.2 < bs.length := by
    obtain ⟨b, i⟩ := e; exact (List.mem_zipIdx he).2.1.trans_eq (by simp)
  have hcells : s.agentCells ctx a bs classes = .ok (bs.zipIdx.map (fun e => (windowPa s ctx (a + BitVec.ofNat 64 e.2),
      ((s.ctxs.get ctx).heapAttr.extractLsb' 0 2).toNat, e.1))) := by
    refine mapM_ok bs.zipIdx fun e he => ?_
    obtain ⟨hc, hw, -⟩ := hb e.2 (hidx e he)
    rw [agentPa_window hc hw hwr hcl]
    rfl
  rw [agentWrite_eq]
  dsimp only
  rw [hubWalk_window hn ha hw0, agentCow_window hc0 hw0, agentCow_window hcl' hwl, agentPa_window hc0 hw0 hwr hcl, hcells]
  have hline (e : Byte × Nat) (he : e ∈ bs.zipIdx) : lineOf (windowPa s ctx (a + BitVec.ofNat 64 e.2)) = lineOf (windowPa s ctx a) :=
    lineOf_windowPa_add hn ha (hidx e he)
  refine ⟨_, _, rfl, ?_⟩
  rw [agentLine_one (l := lineOf (windowPa s ctx a)) (k := ((s.ctxs.get ctx).heapAttr.extractLsb' 0 2).toNat)
    (by simpa using List.ne_nil_of_length_pos hpos) (List.forall_mem_map.2 hline) (List.forall_mem_map.2 fun _ _ => rfl) hcl3, List.map_map]
  exact ⟨fun x => byteAt_homeWrite _ _ _ hset.1 hset.2 (List.forall_mem_map.2 hline) x, residents_homeWrite _ _ _ _ hset.1 hset.2⟩

/-- R377: what a record does to memory, where no core holds an update-only copy. -/
theorem traceWrite_records {s : State} (hnc : s.noCopies = true) (ctx : Nat) (record : List Byte) :
    TraceRecorded s (s.traceWrite ctx record) ctx record := by
  refine ⟨fun h0 => ?_, fun w0 r hring hcap hw0 hr hroom ha hlen hb => ?_⟩
  · unfold State.traceWrite
    rw [if_pos (.inl h0)]
    exact fun _ => rfl
  · obtain ⟨t, c, ht, hst, -⟩ := agentWrite_window (bs := record) (classes := [1, 2]) (by simp) (by simp) (.inr hlen) (by rw [hlen]; exact ha)
      (by rw [hlen]; exact hb)
    unfold State.traceWrite
    dsimp only
    rw [if_neg (not_or.2 ⟨hring, hcap⟩), hubCollect_none _ _ _ _ hnc, hw0, hr]
    dsimp only
    rw [if_neg (Nat.not_le.2 hroom), ht]
    exact hst

end Sys2Proof.Machine
end

section
/-! ## System instructions (R139, R140, R142, R143, R148) -/

namespace Sys2Proof.Machine

/-! ### Splits of a group after a change of one -/

/-- Entries changed where they pass a test, read back. -/
theorem get_updWhere {α : Type} [Inhabited α] [DecidableEq α] (P : α → Prop) [DecidablePred P] (f : α → α) (n : Nat) (l : List Nat)
    (hl : l.Nodup) : ∀ m : Store α, (l.foldl (fun e k => if P (e.get k) then e.upd k f else e) m).get n
      = if n ∈ l ∧ P (m.get n) then f (m.get n) else m.get n := by
  induction l with
  | nil => simp
  | cons k t ih =>
    intro m
    have hnd := List.nodup_cons.1 hl
    rw [List.foldl_cons, ih hnd.2]
    by_cases hn : n = k
    · subst hn
      by_cases hp : P (m.get n) <;> simp [hnd.1, hp, Store.get_upd]
    · by_cases hp : P (m.get k) <;> simp [hn, hp, Store.get_upd]

theorem ent_onSplit (k : Group) (u : Nat) (f : Split → Split) {n : Nat} (hn : n < 4) : (k.onSplit u f).ent.get n
    = if (k.ent.get n).mask ≠ 0 ∧ (k.ent.get n).uid = u then f (k.ent.get n) else k.ent.get n := by
  have := get_updWhere (fun x : Split => x.mask ≠ 0 ∧ x.uid = u) f n [0, 1, 2, 3] (by decide) k.ent
  rw [Group.onSplit, this]
  have h4 : n ∈ [0, 1, 2, 3] := by simp; omega
  simp only [h4, true_and]

/-- The entry as a list: itself, or nothing where it is free. -/
def Group.entry (k : Group) (n : Nat) : List Split := if (k.ent.get n).mask = 0 then [] else [k.ent.get n]

theorem splits_eq_entries (k : Group) : k.splits = (k.entry 0 ++ (k.entry 1 ++ (k.entry 2 ++ k.entry 3))) ++ k.spill := by
  have hcons (x : Split) (l : List Split) : (x :: l).filter (fun x => decide (x.mask ≠ 0))
      = (if x.mask = 0 then [] else [x]) ++ l.filter (fun x => decide (x.mask ≠ 0)) := by
    rw [List.filter_cons]
    by_cases h : x.mask = 0
    · rw [if_pos h, if_neg (by simp [h]), List.nil_append]
    · rw [if_neg h, if_pos (decide_eq_true h), List.singleton_append]
  unfold Group.splits
  rw [List.map_cons, List.map_cons, List.map_cons, List.map_cons, hcons, hcons, hcons, hcons, List.map_nil, List.filter_nil, List.append_nil]
  rfl

theorem entry_onSplit (k : Group) (u : Nat) (f : Split → Split) (hf : ∀ x, (f x).mask = x.mask) {n : Nat} (hn : n < 4) :
    (k.onSplit u f).entry n = (k.entry n).map (fun x => if x.uid = u then f x else x) := by
  unfold Group.entry
  by_cases hp : (k.ent.get n).mask ≠ 0 ∧ (k.ent.get n).uid = u
  · rw [ent_onSplit k u f hn, if_pos hp, hf, if_neg hp.1, if_neg hp.1, List.map_singleton, if_pos hp.2]
  · rw [ent_onSplit k u f hn, if_neg hp]
    by_cases hm : (k.ent.get n).mask = 0
    · rw [if_pos hm, List.map_nil]
    · rw [if_neg hm, List.map_singleton, if_neg (fun hu => hp ⟨hm, hu⟩)]

/-- A change of the splits of a name that keeps their masks, in the list of all splits. -/
theorem splits_onSplit (k : Group) (u : Nat) (f : Split → Split) (hf : ∀ x, (f x).mask = x.mask) :
    (k.onSplit u f).splits = k.splits.map (fun x => if x.uid = u then f x else x) := by
  have hspill : (k.onSplit u f).spill = k.spill.map (fun x => if x.uid = u then f x else x) := rfl
  rw [splits_eq_entries, splits_eq_entries, hspill, entry_onSplit k u f hf (by norm_num), entry_onSplit k u f hf (by norm_num),
    entry_onSplit k u f hf (by norm_num), entry_onSplit k u f hf (by norm_num)]
  simp only [List.map_append]

theorem splits_of_ent {k l : Group} (he : l.ent = k.ent) (hs : l.spill = k.spill) : l.splits = k.splits := by
  unfold Group.splits; rw [he, hs]

theorem mem_splits_onSplit {k : Group} {u : Nat} {f : Split → Split} (hf : ∀ x, (f x).mask = x.mask) {x : Split} (hx : x ∈ k.splits)
    (hu : x.uid = u) : f x ∈ (k.onSplit u f).splits := by
  rw [splits_onSplit k u f hf]
  exact List.mem_map.2 ⟨x, hx, if_pos hu⟩

/-! ### YIELD, TRAP, BRKPT, DBLS and MBOXW -/

theorem cur_onSplit (s : State) (u : Nat) (f : Split → Split) : (s.onSplit s.focus.grp u f).cur = s.cur.onSplit u f :=
  cur_onCur s (fun x => x.onSplit u f)

/-- A change of splits leaves the rest of its group. -/
theorem group_onSplit (k : Group) (u : Nat) (f : Split → Split) : { k.onSplit u f with ent := k.ent, spill := k.spill } = k := by
  simp [Group.onSplit]

@[simp] theorem onSplit_v (k : Group) (u : Nat) (f : Split → Split) : (k.onSplit u f).v = k.v := by simp [Group.onSplit]
@[simp] theorem onSplit_s (k : Group) (u : Nat) (f : Split → Split) : (k.onSplit u f).s = k.s := by simp [Group.onSplit]
@[simp] theorem onSplit_p (k : Group) (u : Nat) (f : Split → Split) : (k.onSplit u f).p = k.p := by simp [Group.onSplit]
@[simp] theorem onSplit_depth (k : Group) (u : Nat) (f : Split → Split) : (k.onSplit u f).depth = k.depth := by simp [Group.onSplit]
@[simp] theorem onSplit_plane (k : Group) (u : Nat) (f : Split → Split) : (k.onSplit u f).plane = k.plane := by simp [Group.onSplit]
@[simp] theorem onSplit_dstroke (k : Group) (u : Nat) (f : Split → Split) : (k.onSplit u f).dstroke = k.dstroke := by simp [Group.onSplit]

/-- R142: the stop that TRAP and BRKPT mark; the first pass of an offset that marks one keeps it. -/
def Split.markStop (c : Cause) (d : BitVec 16) (plane : Nat) (x : Split) : Split :=
  { x with stopAfter := x.stopAfter <|> some (c, d), stopPlane := if x.stopAfter.isNone then plane else x.stopPlane }

theorem markStop_first {x : Split} (h : x.stopAfter = none) (c : Cause) (d : BitVec 16) (plane : Nat) :
    x.markStop c d plane = { x with stopAfter := some (c, d), stopPlane := plane } := by
  unfold Split.markStop; rw [h]; rfl

theorem stopHere_sets (s : State) (c : Cause) (d : BitVec 16) : (s.stopHere c d).cur.v = s.cur.v ∧ (s.stopHere c d).cur.s = s.cur.s
    ∧ (s.stopHere c d).cur.p = s.cur.p ∧ SameBytes s (s.stopHere c d)
    ∧ ∀ x ∈ s.cur.splits, x.uid = s.focus.uid → x.stopAfter = none →
        { x with stopAfter := some (c, d), stopPlane := s.focus.plane.toNat } ∈ (s.stopHere c d).cur.splits := by
  have hcur : (s.stopHere c d).cur = s.cur.onSplit s.focus.uid (Split.markStop c d s.focus.plane.toNat) :=
    cur_onSplit s s.focus.uid (Split.markStop c d s.focus.plane.toNat)
  rw [hcur]
  refine ⟨onSplit_v _ _ _, onSplit_s _ _ _, onSplit_p _ _ _, fun _ => rfl, fun x hx hu hn => ?_⟩
  rw [← markStop_first hn]
  exact mem_splits_onSplit (f := Split.markStop c d s.focus.plane.toNat) (fun _ => rfl) hx hu

theorem yield_waits (s : State) : Completes .yield s (fun t => { t with quads := s.quads } = s ∧ SameBytes s t
    ∧ (∀ q, q ≠ s.focus.quad → t.quads.get q = s.quads.get q)
    ∧ (s.actsOnce = false → t = s)
    ∧ (s.actsOnce = true → ∃ y ∈ (t.quads.get s.focus.quad).yields, y.split = (s.focus.grp, s.focus.uid)
        ∧ y.until_ = s.now + s.cycles (dieOfGroup s.focus.grp) 64
        ∧ y.left = (s.quadSplits s.focus.quad).filter (fun e => e != (s.focus.grp, s.focus.uid)))) := by
  refine ⟨_, uniform_eq s _, ?_⟩
  cases ha : s.actsOnce with
  | false => exact ⟨rfl, fun _ => rfl, fun _ _ => rfl, fun _ => rfl, fun h => absurd h (by simp)⟩
  | true =>
    refine ⟨rfl, fun _ => rfl, fun q hq => ?_, fun h => absurd h (by simp), fun _ =>
      ⟨⟨(s.focus.grp, s.focus.uid), (s.quadSplits s.focus.quad).filter (fun e => decide (e ≠ (s.focus.grp, s.focus.uid))),
        s.now + s.cycles (dieOfGroup s.focus.grp) 64⟩, ?_, rfl, rfl, ?_⟩⟩
    · simp only [if_true, State.onQuad, Store.get_upd, if_neg hq]
    · simp only [if_true, State.onQuad, Store.get_upd, List.mem_append, List.mem_singleton, or_true]
    · refine List.filter_congr fun e _ => ?_
      by_cases he : e = (s.focus.grp, s.focus.uid) <;> simp [he]

/-- R139: DBLS toggles the mode, and notes that this offset has. -/
theorem dbls_toggles (s : State) : Completes .dbls s (fun t => OnlyCur s t
    ∧ { t.cur with dstroke := s.cur.dstroke, ent := s.cur.ent, spill := s.cur.spill } = s.cur
    ∧ t.cur.dstroke = (s.cur.dstroke ^^ (s.actsOnce && !(s.splitOf s.focus.grp s.focus.uid).toggled))
    ∧ (s.actsOnce = true → (s.splitOf s.focus.grp s.focus.uid).toggled = false →
        ∀ x ∈ s.cur.splits, x.uid = s.focus.uid → { x with toggled := true } ∈ t.cur.splits)) := by
  refine ⟨_, uniform_eq s _, ?_⟩
  cases ha : s.actsOnce with
  | false => exact ⟨onlyCur_refl s, rfl, by simp, fun h => absurd h (by simp)⟩
  | true =>
    cases ht : (s.splitOf s.focus.grp s.focus.uid).toggled with
    | true => exact ⟨onlyCur_refl s, rfl, by simp, fun _ h => absurd h (by simp)⟩
    | false =>
      have hcur : ((s.onCur (fun g => { g with dstroke := !g.dstroke })).onSplit s.focus.grp s.focus.uid (fun x => { x with toggled := true })).cur
          = ({ s.cur with dstroke := !s.cur.dstroke } : Group).onSplit s.focus.uid (fun x => { x with toggled := true }) :=
        (cur_onSplit (s.onCur (fun g => { g with dstroke := !g.dstroke })) s.focus.uid (fun x => { x with toggled := true })).trans
          (congrArg (fun k : Group => k.onSplit s.focus.uid (fun x => { x with toggled := true })) (cur_onCur s (fun g => { g with dstroke := !g.dstroke })))
      simp only [Bool.false_eq_true, if_false, if_true, hcur]
      refine ⟨(onlyCur_onCur s (fun g => { g with dstroke := !g.dstroke })).trans
        (onlyCur_onCur (s.onCur (fun g => { g with dstroke := !g.dstroke })) (fun k => k.onSplit s.focus.uid (fun x => { x with toggled := true }))), ?_, ?_, fun _ _ x hx hu => ?_⟩
      · exact congrArg (fun k : Group => { k with dstroke := s.cur.dstroke })
          (group_onSplit { s.cur with dstroke := !s.cur.dstroke } s.focus.uid (fun x => { x with toggled := true }))
      · simp
      · exact mem_splits_onSplit (k := { s.cur with dstroke := !s.cur.dstroke }) (f := fun x => { x with toggled := true }) (fun _ => rfl)
          ((splits_of_ent (k := s.cur) rfl rfl).symm ▸ hx) hu

theorem mboxw_writes (s : State) (a b : Reg) : Completes (.mboxw a b) s (fun t => { t with fw := s.fw } = s ∧ SameBytes s t
    ∧ { t.fw with debugBox := s.fw.debugBox } = s.fw
    ∧ ∀ k, t.fw.debugBox.get k = if s.actsOnce = true ∧ (s.sR a).toNat ≤ 15 ∧ k = (s.sR a).toNat then s.sR b else s.fw.debugBox.get k) := by
  refine ⟨_, uniform_eq s _, ?_⟩
  by_cases h : s.actsOnce = true ∧ (s.sR a).toNat ≤ 15
  · obtain ⟨ha, hr⟩ := h
    simp only [ha, if_true, if_neg (Nat.not_lt.2 hr)]
    exact ⟨rfl, fun _ => rfl, rfl, fun k => by simp [State.onFw, Store.get_put, hr]⟩
  · have : (if s.actsOnce = true then (if 15 < (s.sR a).toNat then s
        else s.onFw (fun f => { f with debugBox := f.debugBox.put (s.sR a).toNat (s.sR b) })) else s) = s := by
      by_cases ha : s.actsOnce = true
      · have : 15 < (s.sR a).toNat := by by_contra hr; exact h ⟨ha, by omega⟩
        simp [this]
      · simp [ha]
    rw [this]
    exact ⟨rfl, fun _ => rfl, rfl, fun k => by rw [if_neg (fun e => h ⟨e.1, e.2.1⟩)]⟩

/-! ### STAMP.OPEN and STAMP.CLOSE -/

theorem stamp_kept {s u : State} (hk : u.kept = s.kept) (o : Option Stamp) :
    SameRegs s (u.onCur (fun g => { g with stamp := o })) ∧ (u.onCur (fun g => { g with stamp := o })).cur = { u.cur with stamp := o } := by
  refine ⟨fun g => ?_, cur_onCur u _⟩
  have h := sameRegs_of_kept hk g
  rw [State.onCur, group_onGroup]
  split
  · next e => rw [← e]; exact h
  · exact h

theorem stampOpen_opens (s : State) (a : Reg) (ha : s.actsOnce = true) : Completes (.stampOpen a) s (fun t => SameRegs s t
    ∧ (s.cur.stamp = none → OnlyCur s t ∧ { t.cur with stamp := none } = s.cur)
    ∧ (∀ p, s.cur.stamp = some p → s.noCopies = true → TraceRecorded s t (s.ctxOf s.focus.grp) (stampBytes p false 0 0))
    ∧ ∃ p, t.cur.stamp = some p ∧ p.tag = s.sR a
      ∧ p.openTime = s.claveOf (dieOfGroup s.focus.grp) ∧ p.retired = s.cur.retired ∧ p.copyIn = none ∧ p.compute = none) := by
  have he : exec (.stampOpen a) s = .next ((s.dropStamp s.focus.grp).onCur (fun g => { g with stamp := some (s.freshStamp (s.sR a)) })) := by
    refine (uniform_eq s _).trans ?_; rw [if_pos ha]
  have hk : (s.dropStamp s.focus.grp).kept = s.kept := by
    unfold State.dropStamp; split
    · exact kept_traceWrite s _ _
    · rfl
  obtain ⟨hregs, hcur⟩ := stamp_kept hk (some (s.freshStamp (s.sR a)))
  refine ⟨_, he, hregs, fun hn => ?_, fun p hp hnc => ?_, s.freshStamp (s.sR a), ?_, rfl, rfl, rfl, rfl, rfl⟩
  · have hd : s.dropStamp s.focus.grp = s := by unfold State.dropStamp; rw [show (s.group s.focus.grp).stamp = none from hn]
    rw [hd]
    refine ⟨onlyCur_onCur s _, ?_⟩
    rw [cur_onCur, ← hn]
  · have hd : s.dropStamp s.focus.grp = s.traceWrite (s.ctxOf s.focus.grp) (stampBytes p false 0 0) := by
      unfold State.dropStamp; rw [show (s.group s.focus.grp).stamp = some p from hp]
    rw [hd]
    exact traceWrite_records hnc _ _
  · rw [hcur]

theorem stampClose_none (s : State) (h : s.cur.stamp = none) : exec .stampClose s = .next s := by
  have he : exec .stampClose s = uniform s (fun _ => s) := by
    show uniform s _ = _
    rw [h]
  rw [he, uniform_eq, ite_self]

theorem stampClose_closes (s : State) (ha : s.actsOnce = true) : Completes .stampClose s (fun t => SameRegs s t ∧ t.cur.stamp = none
    ∧ ∀ p, s.cur.stamp = some p → s.noCopies = true → TraceRecorded s t (s.ctxOf s.focus.grp)
        (stampBytes p true (s.claveOf (dieOfGroup s.focus.grp)) s.cur.retired)) := by
  cases hs : s.cur.stamp with
  | none => exact ⟨s, stampClose_none s hs, fun _ => rfl, hs, fun p hp => absurd hp (by simp)⟩
  | some p =>
    have he : exec .stampClose s = .next ((s.traceWrite (s.ctxOf s.focus.grp)
        (stampBytes p true (s.claveOf (dieOfGroup s.focus.grp)) s.cur.retired)).onCur (fun g => { g with stamp := none })) := by
      refine (uniform_eq s _).trans ?_; rw [if_pos ha, hs]
    obtain ⟨hregs, hcur⟩ := stamp_kept (kept_traceWrite s (s.ctxOf s.focus.grp)
      (stampBytes p true (s.claveOf (dieOfGroup s.focus.grp)) s.cur.retired)) none
    refine ⟨_, he, hregs, by rw [hcur], fun p' hp hnc => ?_⟩
    obtain rfl := Option.some.inj hp
    exact traceWrite_records hnc _ _

/-- Settles O29, instruction by instruction; the record of a stamp by `traceWrite_records`. -/
theorem systemInstructions : Obligations.SystemInstructions := by
  unfold Obligations.SystemInstructions
  have hstop (i : Instr) (s : State) (c : Cause) (d : BitVec 16) (he : exec i s = uniform s (fun _ => s.stopHere c d)) :
      if s.actsOnce = true then Completes i s (fun t => t.cur.v = s.cur.v ∧ t.cur.s = s.cur.s ∧ t.cur.p = s.cur.p ∧ SameBytes s t
        ∧ ∀ x ∈ s.cur.splits, x.uid = s.focus.uid → x.stopAfter = none →
          { x with stopAfter := some (c, d), stopPlane := s.focus.plane.toNat } ∈ t.cur.splits)
      else exec i s = .next s := by
    rw [uniform_eq] at he
    split
    · next h => exact ⟨_, he.trans (by rw [if_pos h]), stopHere_sets s c d⟩
    · next h => rw [he, if_neg h]
  have hidle (i : Instr) (s : State) (f : Mask → State) (he : exec i s = uniform s f) (ha : s.actsOnce = false) : exec i s = .next s := by
    rw [he, uniform_eq, if_neg (by simp [ha])]
  exact ⟨fun s => rfl, yield_waits, fun s a b => hstop _ s _ _ rfl, fun s => hstop _ s _ _ rfl, dbls_toggles, fun s a ha => stampOpen_opens s a ha,
    fun s a ha => hidle _ s _ rfl ha, fun s ha => hidle _ s _ rfl ha, fun s ha => stampClose_closes s ha, stampClose_none, mboxw_writes⟩

end Sys2Proof.Machine
end

section
/-! ## What waking, settling and granting leave as it was

Ending a wait, the moves of splits between entries, the release of a barrier, the engine, the token and the transaction
slots: none of them touches what `State.synced` keeps; memory least of all. -/

namespace Sys2Proof.Machine

/-- A group but for its splits, its transactions, its vector registers (a C1BAR returns in one) and its hold for the token. -/
def Group.synced (k : Group) : Group := { k with v := [], ent := [], spill := [], tx := [], txSlot := false, tokenHold := false }
def Core.synced (c : Core) : Core := { c with engine := {}, txQueue := [] }
def Block.synced (b : Block) : Block := { b with bars := [], waited := 0, waiting := none }

/-- The state but for the engines' and the token's holders and queues, what is posted, and the rest of the above. -/
structure Synced where
  rest : State
  groups : Nat → Group
  cores : Nat → Core
  blocks : Nat → Block

def State.synced (s : State) : Synced where
  rest := { s with cores := [], blocks := [], groups := [], token := {}, pending := [] }
  groups g := (s.groups.get g).synced
  cores c := (s.cores.get c).synced
  blocks b := (s.blocks.get b).synced

/-! ### Splits -/

/-- A group but for its splits. -/
def Group.still (k : Group) : Group := { k with ent := [], spill := [] }

theorem Group.synced_of_still {k l : Group} (h : k.still = l.still) : k.synced = l.synced :=
  (congrArg (fun x : Group => { x with v := [], tx := [], txSlot := false, tokenHold := false }) h :)

theorem Group.still_onSplit (k : Group) (u : Nat) (f : Split → Split) : (k.onSplit u f).still = k.still := by
  simp [Group.still, Group.onSplit]
theorem Group.still_removeSplit (k : Group) (u : Nat) : (k.removeSplit u).still = k.still := by
  simp [Group.still, Group.removeSplit]
theorem Group.still_mapSplits (k : Group) (f : Split → Split) : (k.mapSplits f).still = k.still := by
  simp [Group.still, Group.mapSplits]

theorem Group.still_refillOne (k : Group) : k.refillOne.still = k.still := by
  unfold Group.refillOne; split <;> rfl
theorem Group.still_refill (k : Group) : k.refill.still = k.still := by
  unfold Group.refill
  rw [Group.still_refillOne, Group.still_refillOne, Group.still_refillOne, Group.still_refillOne]
theorem Group.still_swapIn (k : Group) : k.swapIn.still = k.still := by
  unfold Group.swapIn
  split
  · rfl
  · split <;> rfl

theorem Group.still_mergeAll (k : Group) (b : Split) (os : List Split) (f : Split → Split) : (k.mergeAll b os f).still = k.still := by
  unfold Group.mergeAll
  dsimp only
  rw [Group.still_onSplit]
  exact kept_foldl Group.still _ (by intro g x; exact g.still_removeSplit x.uid) os k

theorem Group.still_joinParked (k : Group) : k.joinParked.still = k.still := by
  unfold Group.joinParked
  split
  · rfl
  · dsimp only
    split
    · rfl
    · refine kept_foldl Group.still _ (fun g n => ?_) _ k
      split
      · rfl
      · exact g.still_mergeAll _ _ _

theorem Group.still_settle (k : Group) : k.settle.still = k.still := by
  unfold Group.settle
  rw [Group.still_swapIn, Group.still_refill, Group.still_joinParked, Group.still_swapIn, Group.still_refill]

section
variable (s : State)

theorem synced_onGroup (g : Nat) (f : Group → Group) (hf : ∀ k, (f k).synced = k.synced := by intro _; rfl) : (s.onGroup g f).synced = s.synced :=
  congrArg (fun x => { s.synced with groups := x }) (funext (proj_get_upd Group.synced s.groups g f hf))
theorem synced_onCore (c : Nat) (f : Core → Core) (hf : ∀ k, (f k).synced = k.synced := by intro _; rfl) : (s.onCore c f).synced = s.synced :=
  congrArg (fun x => { s.synced with cores := x }) (funext (proj_get_upd Core.synced s.cores c f hf))
theorem synced_onBlock (b : Nat) (f : Block → Block) (hf : ∀ k, (f k).synced = k.synced := by intro _; rfl) : (s.onBlock b f).synced = s.synced :=
  congrArg (fun x => { s.synced with blocks := x }) (funext (proj_get_upd Block.synced s.blocks b f hf))
theorem synced_onEngine (c : Nat) (f : Engine → Engine) : (s.onEngine c f).synced = s.synced := synced_onCore s c _
theorem synced_onSplit (g u : Nat) (f : Split → Split) : (s.onSplit g u f).synced = s.synced :=
  synced_onGroup s g _ (fun k => Group.synced_of_still (k.still_onSplit u f))
theorem synced_post (e : Instr) : (s.post e).synced = s.synced := rfl

theorem synced_settleGroup (g : Nat) : (s.settleGroup g).synced = s.synced := by
  unfold State.settleGroup
  split
  · exact synced_onGroup s g _ (fun k => Group.synced_of_still k.still_settle)
  · rfl

theorem synced_resetClock (b : Nat) : (s.resetClock b).synced = s.synced := synced_onBlock s b _

theorem synced_endWait (g u : Nat) (w : Wait) : (s.endWait g u w).synced = s.synced := by
  unfold State.endWait
  rw [synced_resetClock, synced_settleGroup, synced_onSplit]

theorem synced_overWaits (g : Nat) (f : State → Split → Wait → State) (hf : ∀ t x w, (f t x w).synced = t.synced) :
    (s.overWaits g f).synced = s.synced :=
  kept_foldl State.synced _ (fun t x => kept_foldl State.synced _ (fun u w => by split; exacts [hf u x w, rfl]) _ t) _ s

/-! ### Barriers -/

theorem synced_releaseBarrier (b bar : Nat) (phase : Word) : (s.releaseBarrier b bar phase).synced = s.synced := by
  refine kept_foldl State.synced _ (fun t g => synced_overWaits t g _ (fun u x w => ?_)) _ s
  cases w with
  | barrier k p => dsimp only; split; exacts [synced_endWait u g _ _, rfl]
  | c1bar k p d m =>
    dsimp only
    split
    · exact (synced_endWait _ g _ _).trans (synced_onGroup u g _)
    · rfl
  | _ => rfl

theorem synced_testBarrier (b bar : Nat) : (s.testBarrier b bar).synced = s.synced := by
  unfold State.testBarrier
  dsimp only
  split
  · exact (synced_releaseBarrier _ _ _ _).trans (synced_onBlock s b _)
  · rfl

theorem synced_exitBarriers (b : Nat) : (s.exitBarriers b).synced = s.synced := by
  refine kept_foldl State.synced _ (fun t k => ?_) _ s
  split
  · exact synced_testBarrier t b k
  · rfl

/-! ### The engine, the token and the transaction slots -/

theorem synced_grantEngine (core : Nat) : (s.grantEngine core).synced = s.synced := by
  unfold State.grantEngine
  dsimp only
  split
  · refine (kept_foldl State.synced _ (fun t x => synced_endWait t _ _ _) _ _).trans ?_
    split
    · refine (kept_foldl State.synced _ (fun t x => synced_post t _) _ _).trans ?_
      exact (synced_post _ _).trans (synced_onEngine s core _)
    · exact synced_onEngine s core _
  · rfl

theorem synced_releaseEngine (core : Nat) : (s.releaseEngine core).synced = s.synced :=
  (synced_grantEngine _ core).trans (synced_onEngine s core _)

theorem synced_grantToken : s.grantToken.synced = s.synced := by
  unfold State.grantToken
  split
  · refine (synced_overWaits _ _ _ (fun t x w => ?_)).trans ?_
    · split
      · exact synced_endWait t _ _ _
      · rfl
    · exact synced_onGroup _ _ _
  · rfl

theorem synced_releaseToken (g : Nat) : (s.releaseToken g).synced = s.synced := by
  unfold State.releaseToken
  split
  · exact synced_grantToken _
  · rfl

theorem synced_openTx (g : Nat) (m : Mask) (o : Word) (v p : Nat) : (s.openTx g m o v p).synced = s.synced := synced_onGroup s g _

theorem synced_grantTxSlot (core : Nat) : (s.grantTxSlot core).synced = s.synced := by
  unfold State.grantTxSlot
  split
  · rfl
  · split
    · rfl
    · refine (synced_overWaits _ _ _ (fun t x w => ?_)).trans (synced_onCore s core _)
      cases w with
      | txSlot m p o => exact (synced_endWait _ _ _ _).trans (synced_openTx t _ _ _ _ _)
      | _ => rfl

theorem synced_closeTx (g : Nat) (m : Mask) : (s.closeTx g m).synced = s.synced := by
  unfold State.closeTx
  dsimp only
  split
  · exact (synced_grantTxSlot _ _).trans ((synced_onGroup _ g _).trans (synced_onGroup s g _))
  · exact synced_onGroup s g _

end

/-! ### What follows -/

section
variable {s t : State} (h : t.synced = s.synced)
include h

theorem focus_of_synced : t.focus = s.focus := (congrArg (fun x => x.rest.focus) h :)
theorem now_of_synced : t.now = s.now := (congrArg (fun x => x.rest.now) h :)
theorem launches_of_synced : t.launches = s.launches := (congrArg (fun x => x.rest.launches) h :)
theorem ctxs_of_synced : t.ctxs = s.ctxs := (congrArg (fun x => x.rest.ctxs) h :)
theorem group_of_synced (g : Nat) : (t.group g).synced = (s.group g).synced := congrFun (congrArg Synced.groups h) g
theorem core_of_synced (c : Nat) : (t.cores.get c).synced = (s.cores.get c).synced := congrFun (congrArg Synced.cores h) c
theorem block_of_synced (b : Nat) : (t.blocks.get b).synced = (s.blocks.get b).synced := congrFun (congrArg Synced.blocks h) b

theorem cur_of_synced : t.cur.synced = s.cur.synced := by
  rw [State.cur, focus_of_synced h]; exact group_of_synced h _

theorem sameBytes_of_synced : SameBytes s t := fun a => by
  have hm : t.mem = s.mem := (congrArg (fun x => x.rest.mem) h :)
  have hh : t.home = s.home := (congrArg (fun x => x.rest.home) h :)
  have hc (c : Nat) : (t.cores.get c).stash = (s.cores.get c).stash := (congrArg Core.stash (core_of_synced h c) :)
  unfold State.byteAt
  rw [hm, hh]
  split
  · rfl
  · rw [hc]
end

end Sys2Proof.Machine
end

section
/-! ## Joining and exiting (R23, R25, R133–R135) -/

namespace Sys2Proof.Machine

/-! ### Fields that are kept -/

theorem Group.live_of_kept {k l : Group} (h : k.kept = l.kept) : k.live = l.live := congrArg (fun x : GroupKept => x.group.live) h
theorem Launch.ended_of_kept {x y : Launch} (h : x.kept = y.kept) : x.ended = y.ended := (congrArg Launch.ended h :)
theorem Block.launch_of_kept {x y : Block} (h : x.kept = y.kept) : x.launch = y.launch := (congrArg Block.launch h :)
theorem Group.live_of_synced {k l : Group} (h : k.synced = l.synced) : k.live = l.live := (congrArg Group.live h :)

/-! ### Leaving a core -/

theorem kept_writeBack (s : State) (b sl : Nat) (drop : Bool) : (s.writeBack b sl drop).1.kept = s.kept := by
  unfold State.writeBack
  dsimp only
  split
  · rw [kept_collect, kept_writeBackLine]
  · exact kept_writeBackLine s b sl drop

theorem kept_dropMaps (s : State) (b : Nat) : (s.dropMaps b).kept = s.kept :=
  kept_foldl State.kept _ (fun u sl => kept_writeBack u b sl true) _ s

theorem kept_collectCore (s : State) (core : Nat) (keep : Nat → Bool) : (s.collectCore core keep).1.kept = s.kept :=
  kept_foldl_fst State.kept _ (by intro u l; exact kept_collectFrom u.1 l [core]) _ _

theorem kept_evictPrivate (s : State) (core line : Nat) : (s.evictPrivate core line).kept = s.kept := by
  unfold State.evictPrivate
  dsimp only
  refine (kept_onCore _ core _).trans ?_
  split
  · exact kept_clearError s line
  · rfl

theorem kept_leaveCore (s : State) (core ctx : Nat) : (s.leaveCore core ctx).kept = s.kept := by
  unfold State.leaveCore
  dsimp only
  refine (kept_foldl State.kept _ (fun u l => kept_evictPrivate u core l) _ _).trans ((kept_collectCore _ _ _).trans ?_)
  split
  · exact kept_flushWc s core
  · rfl

/-! ### The end of a block -/

theorem postWaiting_pending (s : State) : ({ s.postWaiting with pending := [] } : State) = { s with pending := [] } := by
  unfold State.postWaiting
  refine (kept_foldl (fun u : State => ({ u with pending := [] } : State)) _ (fun u e => ?_) _ _).trans ?_
  · split <;> rfl
  · split <;> rfl

/-- The blocks, launches and groups. -/
def State.placed (s : State) : Store Block × Store Launch × Store Group := (s.blocks, s.launches, s.groups)

theorem placed_postWaiting (s : State) : s.postWaiting.placed = s.placed := (congrArg State.placed (postWaiting_pending s) :)

/-- R25: a block leaves its place, and its launch counts it; then its core gives up what it held for its context. -/
theorem placed_freeBlock (s : State) (b : Nat) : ∃ u : State, (s.freeBlock b).placed = u.placed
    ∧ u.kept = ((s.onBlock b (fun _ => {})).onLaunch (s.blocks.get b).launch (fun x => { x with ended := x.ended + 1 })).kept := by
  have hpost (w : State) (c : Prop) [Decidable c] (e : Instr) : (if c then w.post e else w).placed = w.placed := by split <;> rfl
  have hctx (w : State) (c : Prop) [Decidable c] (x : Nat) (f : Context → Context) : (if c then w else w.onCtx x f).placed = w.placed := by
    split <;> rfl
  refine ⟨if ((s.onBlock b (fun _ => {})).onLaunch (s.blocks.get b).launch (fun x => { x with ended := x.ended + 1 })).lastOnCore
      (s.blocks.get b).core (s.blocks.get b).ctx = true
    then ((s.onBlock b (fun _ => {})).onLaunch (s.blocks.get b).launch (fun x => { x with ended := x.ended + 1 })).leaveCore
      (s.blocks.get b).core (s.blocks.get b).ctx
    else (s.onBlock b (fun _ => {})).onLaunch (s.blocks.get b).launch (fun x => { x with ended := x.ended + 1 }), ?_, ?_⟩
  · unfold State.freeBlock
    rw [placed_postWaiting, hctx, hpost]
  · split
    · exact kept_leaveCore _ _ _
    · rfl

theorem freeBlock_frees (s : State) (b : Nat) : ((s.freeBlock b).blocks.get b).live = false ∧ ((s.freeBlock b).blocks.get b).groups = []
    ∧ ((s.freeBlock b).launches.get (s.blocks.get b).launch).ended = (s.launches.get (s.blocks.get b).launch).ended + 1
    ∧ ∀ g, ((s.freeBlock b).group g).kept = (s.group g).kept := by
  obtain ⟨u, hp, hk⟩ := placed_freeBlock s b
  rw [show (s.freeBlock b).blocks = u.blocks from congrArg Prod.fst hp, show (s.freeBlock b).launches = u.launches from congrArg (fun x => x.2.1) hp]
  have hb := block_of_kept hk b
  have hl := launch_of_kept hk (s.blocks.get b).launch
  rw [show ((s.onBlock b (fun _ => {})).onLaunch (s.blocks.get b).launch (fun x => { x with ended := x.ended + 1 })).blocks.get b = {} from
    (Store.get_upd s.blocks b (fun _ => {}) b).trans (if_pos rfl)] at hb
  rw [show ((s.onBlock b (fun _ => {})).onLaunch (s.blocks.get b).launch (fun x => { x with ended := x.ended + 1 })).launches.get (s.blocks.get b).launch
    = { s.launches.get (s.blocks.get b).launch with ended := (s.launches.get (s.blocks.get b).launch).ended + 1 } from
    (Store.get_upd s.launches _ (fun x => { x with ended := x.ended + 1 }) _).trans (if_pos rfl)] at hl
  refine ⟨(congrArg Block.live hb :), (congrArg Block.groups hb :), (congrArg Launch.ended hl :), fun g => ?_⟩
  rw [State.group, show (s.freeBlock b).groups = u.groups from congrArg (fun x => x.2.2) hp]
  exact group_of_kept hk g

/-! ### The end of a group -/

/-- R147: a group, and a launch's stub records, once a group has ended. -/
def Group.unselect (g : Nat) (k : Group) : Group := if k.selected.any (fun x => x.1 == g) then { k with selected := none } else k
def StubRecord.markGone (g : Nat) (r : StubRecord) : StubRecord := if !r.gone && r.grp == g then { r with gone := true } else r
def Launch.markGone (g : Nat) (x : Launch) : Launch :=
  { x with stubQ := x.stubQ.map (StubRecord.markGone g), stubWait := x.stubWait.map (fun b => b.map (StubRecord.markGone g)) }

theorem live_unselect (g : Nat) (k : Group) : (k.unselect g).live = k.live := by unfold Group.unselect; split <;> rfl

theorem forgetSelected_keeps (s : State) (g : Nat) : (s.forgetSelected g).blocks = s.blocks
    ∧ (∀ h, ((s.forgetSelected g).group h).live = (s.group h).live)
    ∧ ∀ l, ((s.forgetSelected g).launches.get l).ended = (s.launches.get l).ended := by
  have hg (u : State) (h : Nat) : (({ u with groups := u.groups.map (fun e => (e.1, e.2.unselect g)) } : State).group h).live = (u.group h).live :=
    proj_get_map Group.live u.groups (Group.unselect g) (live_unselect g) h
  have hl (u : State) (l : Nat) : (({ u with launches := u.launches.map (fun e => (e.1, e.2.markGone g)) } : State).launches.get l).ended
      = (u.launches.get l).ended := proj_get_map Launch.ended u.launches (Launch.markGone g) (fun _ => rfl) l
  obtain ⟨v, hv, hvb, hvg, hvl⟩ : ∃ v : State, (s.forgetSelected g = v
        ∨ s.forgetSelected g = { v with launches := v.launches.map (fun e => (e.1, e.2.markGone g)) })
      ∧ v.blocks = s.blocks ∧ (∀ h, (v.group h).live = (s.group h).live) ∧ v.launches = s.launches := by
    unfold State.forgetSelected
    dsimp only
    split
    · refine ⟨{ s with groups := s.groups.map (fun e => (e.1, e.2.unselect g)) }, ?_, rfl, hg s, rfl⟩
      split
      · exact .inr rfl
      · exact .inl rfl
    · refine ⟨s, ?_, rfl, fun _ => rfl, rfl⟩
      split
      · exact .inr rfl
      · exact .inl rfl
  rcases hv with hv | hv <;> rw [hv]
  · exact ⟨hvb, hvg, fun l => by rw [hvl]⟩
  · exact ⟨hvb, hvg, fun l => by rw [hl, hvl]⟩

/-- A group leaves its block, which ends with its last. -/
def State.leaveGroup (s : State) (b g : Nat) : State := s.onBlock b (fun y => { y with groups := y.groups.filter (fun x => decide (x ≠ g)) })
def State.endEmpty (s : State) (b : Nat) : State := if (s.blocks.get b).groups = [] then s.endBlock b else s

theorem endBlock_no_successor {s : State} {b : Nat} (h : (s.blocks.get b).successor = none) : s.endBlock b = (s.dropMaps b).freeBlock b := by
  unfold State.endBlock
  dsimp only
  rw [h]

/-- The token, the engine and the transaction slot of a group that ends go on, and it leaves its block. -/
theorem endGroup_eq (s : State) (g : Nat) (hst : (s.group g).stamp = none) : ∃ s6 : State,
    s.endGroup g = (s6.leaveGroup (s.group g).block g).endEmpty (s.group g).block
    ∧ (s6.group g).live = false ∧ (s6.blocks.get (s.group g).block).synced = (s.blocks.get (s.group g).block).synced
    ∧ ∀ l, (s6.launches.get l).ended = (s.launches.get l).ended := by
  obtain ⟨s5, he, hk⟩ : ∃ s5 : State, s.endGroup g =
        ((((s5.onGroup g (fun _ => {})).grantTxSlot (coreOfGroup g)).forgetSelected g).leaveGroup (s.group g).block g).endEmpty (s.group g).block
      ∧ s5.synced = s.synced := by
    have hif (v : State) (c : Prop) [Decidable c] : (if c then v.releaseEngine (coreOfGroup g) else v).synced = v.synced := by
      split
      · exact synced_releaseEngine v _
      · rfl
    unfold State.endGroup
    dsimp only
    rw [hst]
    refine ⟨_, rfl, ?_⟩
    rw [hif, synced_onEngine]
    exact synced_releaseToken s g
  have hs6 := synced_grantTxSlot (s5.onGroup g (fun _ => {})) (coreOfGroup g)
  obtain ⟨hfb, hfg, hfl⟩ := forgetSelected_keeps ((s5.onGroup g (fun _ => {})).grantTxSlot (coreOfGroup g)) g
  refine ⟨_, he, ?_, ?_, fun l => ?_⟩
  · rw [hfg, Group.live_of_synced (group_of_synced hs6 g), group_onGroup, if_pos rfl]
  · rw [hfb]
    exact (block_of_synced hs6 _).trans (block_of_synced hk _)
  · rw [hfl, launches_of_synced hs6, State.onGroup_launches, launches_of_synced hk]

/-- R25, R134: a group ends and leaves its block, which ends with its last group. -/
theorem endGroup_ends (s : State) (g : Nat) (hst : (s.group g).stamp = none) (hsucc : (s.blockOf g).successor = none) :
    ((s.endGroup g).group g).live = false ∧ g ∉ ((s.endGroup g).blocks.get (s.group g).block).groups
    ∧ ((s.blockOf g).groups = [g] → ((s.endGroup g).blocks.get (s.group g).block).live = false
      ∧ ((s.endGroup g).launches.get (s.blockOf g).launch).ended = (s.launches.get (s.blockOf g).launch).ended + 1) := by
  obtain ⟨s6, he, hl6, hb6, hn6⟩ := endGroup_eq s g hst
  have hgroups : ((s6.leaveGroup (s.group g).block g).blocks.get (s.group g).block).groups
      = (s.blockOf g).groups.filter (fun x => decide (x ≠ g)) := by
    rw [State.leaveGroup, State.onBlock_blocks, Store.get_upd, if_pos rfl]
    exact congrArg (fun l : List Nat => l.filter (fun x => decide (x ≠ g))) (congrArg Block.groups hb6 :)
  have hlaunch : ((s6.leaveGroup (s.group g).block g).blocks.get (s.group g).block).launch = (s.blockOf g).launch := by
    rw [State.leaveGroup, State.onBlock_blocks, Store.get_upd, if_pos rfl]
    exact (congrArg Block.launch hb6 :)
  have hsucc7 : ((s6.leaveGroup (s.group g).block g).blocks.get (s.group g).block).successor = none := by
    rw [State.leaveGroup, State.onBlock_blocks, Store.get_upd, if_pos rfl]
    exact (congrArg Block.successor hb6 :).trans hsucc
  have hn7 (l : Nat) : ((s6.leaveGroup (s.group g).block g).launches.get l).ended = (s.launches.get l).ended := hn6 l
  have hl7 : ((s6.leaveGroup (s.group g).block g).group g).live = false := hl6
  generalize s6.leaveGroup (s.group g).block g = s7 at he hgroups hlaunch hsucc7 hn7 hl7
  rw [he, State.endEmpty]
  by_cases hnil : (s7.blocks.get (s.group g).block).groups = []
  · rw [if_pos hnil]
    have hend : s7.endBlock (s.group g).block = (s7.dropMaps (s.group g).block).freeBlock (s.group g).block :=
      endBlock_no_successor hsucc7
    have hk := kept_dropMaps s7 (s.group g).block
    obtain ⟨hlive, hgr, hended, hgk⟩ := freeBlock_frees (s7.dropMaps (s.group g).block) (s.group g).block
    rw [show ((s7.dropMaps (s.group g).block).blocks.get (s.group g).block).launch = (s.blockOf g).launch from
      (Block.launch_of_kept (block_of_kept hk _)).trans hlaunch] at hended
    rw [hend]
    refine ⟨?_, by rw [hgr]; simp, fun _ => ⟨hlive, ?_⟩⟩
    · rw [Group.live_of_kept (hgk g), Group.live_of_kept (group_of_kept hk g), hl7]
    · rw [hended, Launch.ended_of_kept (launch_of_kept hk _), hn7]
  · rw [if_neg hnil]
    refine ⟨hl7, by rw [hgroups]; simp, fun h => absurd ?_ hnil⟩
    rw [hgroups, h]; simp

/-! ### The end of lanes -/

/-- R25: lanes of a group have left it. -/
def State.markExited (s : State) (g : Nat) (m : Mask) : State := s.onGroup g (fun k => { k with exited := k.exited ||| m })

/-- R25: lanes exit: what is left is to see whether their group ends. -/
theorem exitLanes_eq (s : State) (g u : Nat) {m : Mask} (hm : m ≠ 0) : ∃ t : State, s.exitLanes g u m = t.tryEndGroup g
    ∧ t.synced = (s.markExited g m).synced := by
  unfold State.exitLanes
  rw [if_neg hm]
  refine ⟨_, rfl, ?_⟩
  have hif (v : State) (c : Prop) [Decidable c] (n : Nat) : (if c then v.releaseEngine n else v).synced = v.synced := by
    split
    · exact synced_releaseEngine v n
    · rfl
  have hif2 (v : State) (c : Prop) [Decidable c] (f : Split → Split) :
      (if c then v.onGroup g (fun k => k.removeSplit u) else v.onSplit g u f).synced = v.synced := by
    split
    · exact synced_onGroup v g _ (fun k => Group.synced_of_still (k.still_removeSplit u))
    · exact synced_onSplit v g u f
  rw [hif, synced_settleGroup, synced_exitBarriers, hif2, synced_closeTx]
  rfl

section
variable {s t : State} {m : Mask} (ht : t.synced = (s.markExited s.focus.grp m).synced)
include ht

/-- The group whose lanes have left. -/
theorem group_of_exit : (t.group s.focus.grp).synced = { s.cur.synced with exited := s.cur.exited ||| m } := by
  rw [group_of_synced ht, State.markExited, group_onGroup, if_pos rfl]; rfl

theorem exited_of_exit : (t.group s.focus.grp).exited = s.cur.exited ||| m := (congrArg Group.exited (group_of_exit ht) :)
theorem exist_of_exit : (t.group s.focus.grp).exist_ = s.cur.exist_ := (congrArg Group.exist_ (group_of_exit ht) :)

/-- While another lane of the group remains, it does not end. -/
theorem tryEndGroup_goes_on (hm : s.cur.exited ||| m ≠ s.cur.exist_) : t.tryEndGroup s.focus.grp = t := by
  unfold State.tryEndGroup
  exact if_neg fun h => hm (by rw [← exited_of_exit ht, ← exist_of_exit ht]; exact h.2.1)

theorem cur_exited_of_exit : t.cur.exited = s.cur.exited ||| m := by
  have hf : t.focus = (s.markExited s.focus.grp m).focus := focus_of_synced ht
  rw [State.cur, hf]; exact exited_of_exit ht

theorem sameBytes_of_exit : SameBytes s t := sameBytes_of_synced (s := s.markExited s.focus.grp m) ht
end

theorem join_notes (s : State) : Completes .join s (fun t => t.focus.goes = (s.ownLanes, s.focus.offset) :: s.focus.goes
    ∧ t.cur.v = s.cur.v ∧ t.cur.s = s.cur.s ∧ t.cur.p = s.cur.p ∧ t.cur.depth = s.cur.depth ∧ t.cur.plane = s.cur.plane
    ∧ SameBytes s t ∧ ∀ x ∈ s.cur.splits, x.uid = s.focus.uid → { x with joins := x.joins ||| s.ownLanes } ∈ t.cur.splits) := by
  refine ⟨_, rfl, ?_⟩
  dsimp only
  have hcur : ((s.onSplit s.focus.grp s.focus.uid (fun x => { x with joins := x.joins ||| s.ownLanes })).sendTo s.ownLanes s.focus.offset).cur
      = s.cur.onSplit s.focus.uid (fun x => { x with joins := x.joins ||| s.ownLanes }) := cur_onSplit s s.focus.uid _
  rw [hcur]
  refine ⟨rfl, onSplit_v _ _ _, onSplit_s _ _ _, onSplit_p _ _ _, onSplit_depth _ _ _, onSplit_plane _ _ _, fun _ => rfl, fun x hx hu => ?_⟩
  exact mem_splits_onSplit (f := fun x => { x with joins := x.joins ||| s.ownLanes }) (fun _ => rfl) hx hu

theorem exit_with_lanes_left (s : State) (hm : s.focus.mask ≠ 0) (hleft : s.cur.exited ||| s.focus.mask ≠ s.cur.exist_) :
    Completes .exit s (fun t => t.cur.exited = s.cur.exited ||| s.focus.mask ∧ SameBytes s t) := by
  obtain ⟨t, he, hk⟩ := exitLanes_eq s s.focus.grp s.focus.uid hm
  refine ⟨t, ?_, cur_exited_of_exit hk, sameBytes_of_exit hk⟩
  show Host.Outcome.next (s.exitLanes s.focus.grp s.focus.uid s.focus.mask) = _
  rw [he, tryEndGroup_goes_on hk hleft]

/-- R134: the last EXIT of a group ends it. -/
theorem exit_ends_group (s : State) (hm : s.focus.mask ≠ 0) (hlast : s.cur.exited ||| s.focus.mask = s.cur.exist_) (hlive : s.cur.live = true)
    (hcop : s.cur.copies = []) (hclosed : s.cur.closed = []) (hbatch : s.cur.batchTimes = []) (hstamp : s.cur.stamp = none)
    (hsucc : s.curBlock.successor = none) :
    Completes .exit s (fun t => (t.group s.focus.grp).live = false ∧ s.focus.grp ∉ (t.blocks.get s.cur.block).groups
      ∧ (s.curBlock.groups = [s.focus.grp] → (t.blocks.get s.cur.block).live = false
          ∧ (t.launches.get s.curBlock.launch).ended = (s.launches.get s.curBlock.launch).ended + 1)) := by
  obtain ⟨t, he, hk⟩ := exitLanes_eq s s.focus.grp s.focus.uid hm
  have hg := group_of_exit hk
  have hend : t.tryEndGroup s.focus.grp = t.endGroup s.focus.grp := by
    have hb : (t.group s.focus.grp).batchTimes = [] := (congrArg Group.batchTimes hg :).trans hbatch
    unfold State.tryEndGroup
    dsimp only
    rw [if_pos ⟨(congrArg Group.live hg :).trans hlive, by rw [exited_of_exit hk, exist_of_exit hk, hlast],
      (congrArg Group.copies hg :).trans hcop, (congrArg Group.closed hg :).trans hclosed⟩, hb]
    rfl
  have hblock : (t.group s.focus.grp).block = s.cur.block := (congrArg Group.block hg :)
  have hbk : (t.blockOf s.focus.grp).synced = s.curBlock.synced := by
    rw [State.blockOf, hblock]; exact block_of_synced hk _
  obtain ⟨h1, h2, h3⟩ := endGroup_ends t s.focus.grp ((congrArg Group.stamp hg :).trans hstamp) ((congrArg Block.successor hbk :).trans hsucc)
  rw [hblock, show (t.blockOf s.focus.grp).launch = s.curBlock.launch from (congrArg Block.launch hbk :),
    show t.launches = (s.markExited s.focus.grp s.focus.mask).launches from launches_of_synced hk] at h3
  refine ⟨_, ?_, h1, hblock ▸ h2, fun h => h3 ((congrArg Block.groups hbk :).trans h)⟩
  show Host.Outcome.next (s.exitLanes s.focus.grp s.focus.uid s.focus.mask) = _
  rw [he, hend]

theorem exitc_with_lanes_left (s : State) (a : Reg) (hm : s.focus.mask ≠ 0) (hleft : s.cur.exited ||| s.focus.mask ≠ s.cur.exist_) :
    Completes (.exitc a) s (fun t => t.cur.exited = s.cur.exited ||| s.focus.mask ∧ SameBytes s t
      ∧ (t.blocks.get s.cur.block).successor = (match s.curBlock.successor with | some x => some x | none => some (s.sP a))) := by
  obtain ⟨t, he, hk⟩ := exitLanes_eq (s.onBlock s.cur.block (fun b => { b with successor := b.successor <|> some (s.sP a) }))
    s.focus.grp s.focus.uid hm
  refine ⟨t, ?_, cur_exited_of_exit (s := s.onBlock s.cur.block (fun b => { b with successor := b.successor <|> some (s.sP a) })) hk,
    sameBytes_of_exit (s := s.onBlock s.cur.block (fun b => { b with successor := b.successor <|> some (s.sP a) })) hk, ?_⟩
  · have hx : exec (.exitc a) s = .next ((s.onBlock s.cur.block (fun b => { b with successor := b.successor <|> some (s.sP a) })).exitLanes
      s.focus.grp s.focus.uid s.focus.mask) := if_neg hm
    rw [hx]
    exact congrArg Host.Outcome.next (he.trans (tryEndGroup_goes_on (s := s.onBlock s.cur.block (fun b => { b with successor := b.successor <|> some (s.sP a) })) hk hleft))
  · have hb : (t.blocks.get s.cur.block).successor = (s.curBlock.successor <|> some (s.sP a)) := by
      refine (congrArg Block.successor (block_of_synced hk s.cur.block) :).trans ?_
      show ((s.blocks.upd s.cur.block (fun b => { b with successor := b.successor <|> some (s.sP a) })).get s.cur.block).successor = _
      rw [Store.get_upd, if_pos rfl]; rfl
    rw [hb]
    cases s.curBlock.successor <;> rfl

/-- Settles O25: JOIN by its meaning; EXIT and EXITC by what closing, waking and granting keep (`exitLanes_eq`), and the last
one by the end of its group (`endGroup_ends`). -/
theorem joinExit : Obligations.JoinExit := by
  unfold Obligations.JoinExit
  exact ⟨join_notes, fun s h => congrArg Host.Outcome.next (if_pos h), fun s a h => if_pos h, exit_with_lanes_left, exit_ends_group,
    exitc_with_lanes_left⟩

end Sys2Proof.Machine
end

section
/-! ## What a group's splits go through when waits end

The moves between entries and the merges at a JOIN take splits of a name nowhere but back among the splits, unless they are
parked; and none of it touches more than splits, open stamps and the clocks of blocks. -/

namespace Sys2Proof.Machine

/-! ### The splits of a name -/

theorem mem_splits {k : Group} {x : Split} : x ∈ k.splits ↔ (∃ n < 4, x = k.ent.get n ∧ x.mask ≠ 0) ∨ x ∈ k.spill := by
  unfold Group.splits
  rw [List.mem_append, List.mem_filter, List.mem_map]
  constructor
  · rintro (⟨⟨n, hn, rfl⟩, hm⟩ | h)
    · exact .inl ⟨n, by simp at hn; omega, rfl, of_decide_eq_true hm⟩
    · exact .inr h
  · rintro (⟨n, hn, rfl, hm⟩ | h)
    · exact .inl ⟨⟨n, by simp; omega, rfl⟩, decide_eq_true hm⟩
    · exact .inr h

/-- Every split of a name satisfies a property. -/
def Group.Has (k : Group) (u : Nat) (P : Split → Prop) : Prop := ∀ x ∈ k.splits, x.uid = u → P x

variable {k : Group} {u : Nat} {P Q : Split → Prop}

theorem Group.Has.of_subset {l : Group} (h : k.Has u P) (hl : ∀ x ∈ l.splits, x.uid = u → x ∈ k.splits) : l.Has u P :=
  fun x hx hu => h x (hl x hx hu) hu

theorem Group.Has.onSplit (h : k.Has u P) (v : Nat) (f : Split → Split) (hf : ∀ x, (f x).mask = x.mask) (hu : ∀ x, (f x).uid = x.uid)
    (hP : ∀ x, x.uid = v → P x → Q (f x)) (hQ : v ≠ u → ∀ x, P x → Q x) : (k.onSplit v f).Has u Q := by
  intro y hy hyu
  rw [splits_onSplit k v f hf] at hy
  obtain ⟨x, hx, rfl⟩ := List.mem_map.1 hy
  by_cases hv : x.uid = v
  · rw [if_pos hv] at hyu ⊢
    exact hP x hv (h x hx ((hu x).symm.trans hyu))
  · rw [if_neg hv] at hyu ⊢
    exact hQ (fun hvu => hv (hyu.trans hvu.symm)) x (h x hx hyu)

/-! ### Free entries -/

/-- How many entries are free. -/
def Group.freeCount (k : Group) : Nat := [0, 1, 2, 3].countP (fun n => decide ((k.ent.get n).mask = 0))

/-- No split moves into an entry: none is free, or no spilled split is runnable. -/
def Group.Filled (k : Group) : Prop := k.freeEntry = none ∨ k.spill.find? Split.isRunnable = none

theorem freeEntry_lt {n : Nat} (h : k.freeEntry = some n) : n < 4 ∧ (k.ent.get n).mask = 0 := by
  have hm := List.mem_of_find?_eq_some h
  have hp := List.find?_some h
  exact ⟨by simp at hm; omega, of_decide_eq_true hp⟩

theorem refillOne_of_filled (h : k.Filled) : k.refillOne = k := by
  unfold Group.refillOne
  rcases h with h | h
  · rw [h]
  · rw [h]; cases k.freeEntry <;> rfl

theorem refillOne_fills {n : Nat} {x : Split} (hn : k.freeEntry = some n) (hx : k.spill.find? Split.isRunnable = some x) :
    k.refillOne = { k with ent := k.ent.put n x, spill := k.spill.filter (fun y => decide (y.uid ≠ x.uid)) } := by
  unfold Group.refillOne; rw [hn, hx]

theorem mask_of_isRunnable {x : Split} (h : x.isRunnable = true) : x.mask ≠ 0 := by
  unfold Split.isRunnable at h
  simp only [Bool.and_eq_true, decide_eq_true_eq] at h
  exact h.1.1.1

/-- Filling a free entry leaves one free entry less. -/
theorem freeCount_refillOne (h : ¬ k.Filled) : k.refillOne.freeCount + 1 = k.freeCount := by
  obtain ⟨hn, hx⟩ := not_or.1 h
  obtain ⟨n, hn⟩ := Option.ne_none_iff_exists'.1 hn
  obtain ⟨x, hx⟩ := Option.ne_none_iff_exists'.1 hx
  obtain ⟨hn4, hfree⟩ := freeEntry_lt hn
  have hmask : ¬ x.mask = 0#32 := mask_of_isRunnable (List.find?_some hx)
  rw [refillOne_fills hn hx]
  unfold Group.freeCount
  simp only [Store.get_put]
  have h4 : n = 0 ∨ n = 1 ∨ n = 2 ∨ n = 3 := by omega
  rcases h4 with rfl | rfl | rfl | rfl <;> simp [List.countP_cons, hfree, hmask] <;> omega

theorem freeCount_le (k : Group) : k.freeCount ≤ 4 := List.countP_le_length

theorem filled_of_freeCount (h : k.freeCount = 0) : k.Filled := by
  refine .inl (List.find?_eq_none.2 fun n hn hp => ?_)
  exact List.countP_eq_zero.1 h n hn hp

theorem filled_iterate (n : Nat) : ∀ k : Group, k.freeCount ≤ n → (Group.refillOne^[n] k).Filled := by
  induction n with
  | zero => exact fun k h => filled_of_freeCount (Nat.le_zero.1 h)
  | succ n ih =>
    intro k h
    rw [Function.iterate_succ_apply]
    by_cases hk : k.Filled
    · rw [refillOne_of_filled hk, Function.iterate_fixed (refillOne_of_filled hk)]
      exact hk
    · exact ih _ (by have := freeCount_refillOne hk; omega)

theorem refill_filled (k : Group) : k.refill.Filled := by
  have h := filled_iterate 4 k (freeCount_le k)
  rwa [Function.iterate_succ_apply, Function.iterate_succ_apply, Function.iterate_succ_apply, Function.iterate_one] at h

/-! ### Moves between entries, and merges -/

theorem Group.Has.refillOne (h : k.Has u P) : k.refillOne.Has u P := by
  by_cases hk : k.Filled
  · rwa [refillOne_of_filled hk]
  · obtain ⟨hn, hx⟩ := not_or.1 hk
    obtain ⟨n, hn⟩ := Option.ne_none_iff_exists'.1 hn
    obtain ⟨x, hx⟩ := Option.ne_none_iff_exists'.1 hx
    rw [refillOne_fills hn hx]
    refine h.of_subset fun y hy _ => ?_
    rcases mem_splits.1 hy with ⟨j, hj, rfl, hm⟩ | hs
    · rw [Store.get_put] at hm ⊢
      split
      · exact mem_splits.2 (.inr (List.mem_of_find?_eq_some hx))
      · rename_i hne
        rw [if_neg hne] at hm
        exact mem_splits.2 (.inl ⟨j, hj, rfl, hm⟩)
    · exact mem_splits.2 (.inr (List.mem_filter.1 hs).1)

theorem Group.Has.refill (h : k.Has u P) : k.refill.Has u P := h.refillOne.refillOne.refillOne.refillOne

theorem Group.Has.swapIn (h : k.Has u P) (hk : k.Filled) : k.swapIn.Has u P := by
  unfold Group.swapIn
  split
  · exact h
  · split
    · exact h
    · next x hx =>
      have hfull : (k.ent.get 3).mask ≠ 0 := fun h0 => by
        rcases hk with hk | hk
        · exact List.find?_eq_none.1 hk 3 (by simp) (decide_eq_true h0)
        · rw [hk] at hx; cases hx
      refine h.of_subset fun y hy _ => ?_
      rcases mem_splits.1 hy with ⟨j, hj, rfl, hm⟩ | hs
      · rw [Store.get_put] at hm ⊢
        split
        · exact mem_splits.2 (.inr (List.mem_of_find?_eq_some hx))
        · rename_i hne
          rw [if_neg hne] at hm
          exact mem_splits.2 (.inl ⟨j, hj, rfl, hm⟩)
      · rcases List.mem_append.1 hs with hs | hs
        · exact mem_splits.2 (.inr (List.mem_filter.1 hs).1)
        · exact mem_splits.2 (.inl ⟨3, by omega, List.mem_singleton.1 hs, by rw [List.mem_singleton.1 hs]; exact hfull⟩)

theorem upd_const {α : Type} [Inhabited α] [DecidableEq α] (m : Store α) (n : Nat) (v : α) : m.upd n (fun _ => v) = m.put n v := rfl

theorem removeSplit_ent (k : Group) (v : Nat) : (k.removeSplit v).ent
    = [0, 1, 2, 3].foldl (fun e n => if (e.get n).mask ≠ 0 ∧ (e.get n).uid = v then e.put n {} else e) k.ent := by rw [Group.removeSplit]

/-- What is left after a split is removed, was there. -/
theorem splits_removeSplit_subset (k : Group) (v : Nat) {x : Split} (hx : x ∈ (k.removeSplit v).splits) : x ∈ k.splits := by
  rcases mem_splits.1 hx with ⟨n, hn, rfl, hm⟩ | hs
  · have hent := get_updWhere (fun x : Split => x.mask ≠ 0 ∧ x.uid = v) (fun _ => ({} : Split)) n [0, 1, 2, 3] (by decide) k.ent
    simp only [upd_const] at hent
    rw [removeSplit_ent] at hm ⊢
    rw [hent] at hm ⊢
    split
    · rename_i hc
      rw [if_pos hc] at hm
      exact absurd rfl hm
    · rename_i hc
      rw [if_neg hc] at hm
      exact mem_splits.2 (.inl ⟨n, hn, rfl, hm⟩)
  · exact mem_splits.2 (.inr (List.mem_filter.1 hs).1)

/-- A change of another name's splits, whatever it does to their masks. -/
theorem Group.Has.onOther (h : k.Has u P) {v : Nat} (hv : v ≠ u) (f : Split → Split) (hu : ∀ x, (f x).uid = x.uid) :
    (k.onSplit v f).Has u P := by
  refine h.of_subset fun y hy hyu => ?_
  rcases mem_splits.1 hy with ⟨n, hn, rfl, hm⟩ | hs
  · rw [ent_onSplit k v f hn] at hyu hm ⊢
    split
    · rename_i hc
      rw [if_pos hc, hu] at hyu
      exact absurd (hc.2.symm.trans hyu) hv
    · rename_i hc
      rw [if_neg hc] at hm
      exact mem_splits.2 (.inl ⟨n, hn, rfl, hm⟩)
  · obtain ⟨x, hx, rfl⟩ := List.mem_map.1 (show y ∈ k.spill.map (fun x => if x.uid = v then f x else x) from hs)
    by_cases hc : x.uid = v
    · rw [if_pos hc, hu] at hyu
      exact absurd (hc.symm.trans hyu) hv
    · rw [if_neg hc]
      exact mem_splits.2 (.inr hx)

theorem Group.Has.mergeAll (h : k.Has u P) (b : Split) (os : List Split) (f : Split → Split) (hb : b.uid ≠ u)
    (hf : ∀ x, (f x).uid = x.uid) : (k.mergeAll b os f).Has u P := by
  have hremove (l : List Split) : ∀ k : Group, k.Has u P → (l.foldl (fun g x => g.removeSplit x.uid) k).Has u P := by
    induction l with
    | nil => exact fun k h => h
    | cons x t ih =>
      intro k h
      rw [List.foldl_cons]
      exact ih _ (h.of_subset fun y hy _ => splits_removeSplit_subset k x.uid hy)
  have hnote (l : List Split) : ∀ x : Split, (l.foldl (fun y o => y.noteTimes o.times) x).uid = x.uid := by
    induction l with
    | nil => exact fun x => rfl
    | cons o t ih => exact fun x => by rw [List.foldl_cons, ih]; rfl
  unfold Group.mergeAll
  exact (hremove os k h).onOther hb _ fun x => (hf _).trans (hnote os x)

/-- R23: the splits that resume at a JOIN were parked. -/
theorem Group.Has.joinParked (h : k.Has u P) (hP : ∀ x, P x → x.cond ≠ .parked) : k.joinParked.Has u P := by
  unfold Group.joinParked
  split
  · exact h
  · dsimp only
    split
    · exact h
    · next p ps hps =>
      have hfold (l : List Nat) (v : Nat) (o : Word) : ∀ g : Group, g.Has u P → (l.foldl (fun (g : Group) n =>
          match ((p :: ps).filter (fun x => decide (x.offset = o))).filter (fun x => decide (x.version = n)) with
          | [] => g
          | b :: bs => g.mergeAll b bs (fun x => if n = v then { x with cond := .runnable, offset := o + 4 } else x)) g).Has u P := by
        induction l with
        | nil => exact fun g h => h
        | cons n t ih =>
          intro g hg
          rw [List.foldl_cons]
          refine ih _ ?_
          split
          · exact hg
          · next b bs hbs =>
            have hb : b ∈ k.splits ∧ b.cond = .parked := by
              have hb : b ∈ p :: ps := (List.mem_filter.1 (List.mem_filter.1 (hbs ▸ List.mem_cons_self : b ∈ _)).1).1
              rw [← hps] at hb
              obtain ⟨hk, hc⟩ := List.mem_filter.1 hb
              simp only [Bool.and_eq_true, decide_eq_true_eq] at hc
              exact ⟨hk, hc.1.1⟩
            refine hg.mergeAll b bs _ (fun hu => hP b (h b hb.1 hu) hb.2) fun x => ?_
            split <;> rfl
      exact hfold _ _ _ k h

theorem Group.Has.settle (h : k.Has u P) (hP : ∀ x, P x → x.cond ≠ .parked) : k.settle.Has u P :=
  ((((h.refill).swapIn (refill_filled k)).joinParked hP).refill).swapIn (refill_filled _)

end Sys2Proof.Machine
end

section
/-! ## The matrix engine (R44, R199–R208) -/

namespace Sys2Proof.Machine

/-! ### Registers through waits -/

/-- A group but for its splits and its open record. -/
def Group.bare (k : Group) : Group := { k with ent := [], spill := [], stamp := none }
/-- What `SameRegs` compares. -/
def State.bare (s : State) (g : Nat) : Group := (s.group g).bare

theorem Group.bare_of_still {k l : Group} (h : k.still = l.still) : k.bare = l.bare :=
  (congrArg (fun x : Group => { x with stamp := none }) h :)

theorem sameRegs_of_bare {s t : State} (h : t.bare = s.bare) : SameRegs s t := fun g =>
  (congrArg (fun k : Group => { k with ent := (s.group g).ent, spill := (s.group g).spill, stamp := (s.group g).stamp }) (congrFun h g) :)

section
variable (s : State)

theorem bare_onGroup (g : Nat) (f : Group → Group) (hf : ∀ k, (f k).bare = k.bare := by intro _; rfl) : (s.onGroup g f).bare = s.bare :=
  funext (proj_get_upd Group.bare s.groups g f hf)
theorem bare_onSplit (g u : Nat) (f : Split → Split) : (s.onSplit g u f).bare = s.bare :=
  bare_onGroup s g _ (fun k => Group.bare_of_still (k.still_onSplit u f))
theorem bare_block (w : Wait) : (s.block w).bare = s.bare := bare_onSplit s _ _ _
theorem bare_onEngine (c : Nat) (f : Engine → Engine) : (s.onEngine c f).bare = s.bare := rfl
theorem bare_post (e : Instr) : (s.post e).bare = s.bare := rfl
theorem bare_settleGroup (g : Nat) : (s.settleGroup g).bare = s.bare := by
  unfold State.settleGroup
  split
  · exact bare_onGroup s g _ (fun k => Group.bare_of_still k.still_settle)
  · rfl
theorem bare_endWait (g u : Nat) (w : Wait) : (s.endWait g u w).bare = s.bare :=
  (bare_settleGroup _ g).trans (bare_onSplit s g u _)
theorem bare_stampEvent (g : Nat) (f : Stamp → DWord → Stamp) : (s.stampEvent g f).bare = s.bare := by
  unfold State.stampEvent
  split
  · rfl
  · exact bare_onGroup s g _
theorem bare_doom (m : Mask) (c : Word) (h : m &&& s.cur.txOpen = 0) : (s.doom m c).bare = s.bare := by
  funext g
  show Group.bare ((s.onGroup s.focus.grp (fun k => k.doomLanes m c)).group g) = (s.group g).bare
  rw [group_onGroup]
  split
  · next hg =>
    rw [hg]
    exact congrArg Group.bare (doomLanes_none s.cur m c h)
  · rfl
theorem bare_newOp (o : Op) (la : Nat) : (s.newOp o la).1.bare = s.bare :=
  bare_onSplit { s with ops := s.ops.put s.nextOp { o with live := true }, nextOp := s.nextOp + 1 } _ _ _
theorem bare_completeOp (i : Nat) : (s.completeOp i).bare = s.bare := bare_onSplit { s with ops := s.ops.erase i } _ _ _
theorem bare_grantEngine (core : Nat) : (s.grantEngine core).bare = s.bare := by
  unfold State.grantEngine
  dsimp only
  split
  · refine (kept_foldl State.bare _ (fun t x => bare_endWait t _ _ _) _ _).trans ?_
    split
    · exact kept_foldl State.bare _ (fun t x => bare_post t _) _ _
    · rfl
  · rfl

theorem sameBytes_doom (m : Mask) (c : Word) : SameBytes s (s.doom m c) := fun _ => rfl
end

theorem SameBytes.trans {s t u : State} (h : SameBytes s t) (k : SameBytes t u) : SameBytes s u := fun a => (k a).trans (h a)

/-! ### Cores through waits -/

theorem cores_settleGroup (s : State) (g : Nat) : (s.settleGroup g).cores = s.cores := by
  unfold State.settleGroup
  split
  · exact State.onGroup_cores s g _
  · rfl
theorem cores_endWait (s : State) (g u : Nat) (w : Wait) : (s.endWait g u w).cores = s.cores := cores_settleGroup _ g
theorem cores_stampEvent (s : State) (g : Nat) (f : Stamp → DWord → Stamp) : (s.stampEvent g f).cores = s.cores := by
  unfold State.stampEvent
  split <;> rfl

theorem byteAt_stampEvent (s : State) (g : Nat) (f : Stamp → DWord → Stamp) : SameBytes s (s.stampEvent g f) := by
  unfold State.stampEvent
  split <;> exact fun _ => rfl

theorem get_onEngine (s : State) (c : Nat) (f : Engine → Engine) (d : Nat) :
    ((s.onEngine c f).cores.get d).engine = if d = c then f (s.cores.get c).engine else (s.cores.get d).engine := by
  show ((s.cores.upd c (fun k => { k with engine := f k.engine })).get d).engine = _
  rw [Store.get_upd]
  split <;> rfl
theorem get_onEngine_same (s : State) (c : Nat) (f : Engine → Engine) :
    ((s.onEngine c f).cores.get c).engine = f (s.cores.get c).engine := (get_onEngine s c f c).trans (if_pos rfl)

/-! ### Blocking, and the end of a wait -/

theorem cur_doom_plain {s : State} {m : Mask} (c : Word) (h : m &&& s.cur.txOpen = 0) : (s.doom m c).cur = s.cur := by
  rw [cur_doom, doomLanes_none _ _ _ h]

/-- A split that blocks waits for what it blocked on. -/
theorem splits_block (s : State) (w : Wait) {x : Split} (hx : x ∈ (s.block w).cur.splits) (hu : x.uid = s.focus.uid) :
    x.cond = .blocked w ∧ ∃ y ∈ s.cur.splits, y.uid = s.focus.uid ∧ x = y.addWait w := by
  have hcur : (s.block w).cur = s.cur.onSplit s.focus.uid (fun x => x.addWait w) := cur_onSplit s s.focus.uid _
  rw [hcur, splits_onSplit s.cur s.focus.uid (fun x => x.addWait w) (fun _ => rfl)] at hx
  obtain ⟨y, hy, rfl⟩ := List.mem_map.1 hx
  by_cases hv : y.uid = s.focus.uid
  · rw [if_pos hv]
    exact ⟨rfl, y, hy, hv, rfl⟩
  · rw [if_neg hv] at hu
    exact absurd hu hv

theorem endWait_mask (x : Split) (w : Wait) : (x.endWait w).mask = x.mask := by
  unfold Split.endWait
  split
  · split
    · split <;> rfl
    · rfl
  · rfl
theorem endWait_uid (x : Split) (w : Wait) : (x.endWait w).uid = x.uid := by
  unfold Split.endWait
  split
  · split
    · split <;> rfl
    · rfl
  · rfl

/-- A split that waits for the engine alone, and one that waits for nothing. -/
def Split.Waits (w : Wait) (x : Split) : Prop := x.cond = .blocked w ∧ x.also = []
def Split.Free (x : Split) : Prop := x.cond = .runnable ∧ x.also = []

theorem endWait_free {x : Split} {w : Wait} (h : x.Waits w ∨ x.Free) : (x.endWait w).Free := by
  unfold Split.endWait
  rcases h with ⟨hc, ha⟩ | ⟨hc, ha⟩ <;> rw [hc] <;> simp [ha, Split.Free]

/-- A property of the splits of a name that the end of a wait of theirs gives, or of another name leaves, holds after it. -/
theorem endWait_has {s : State} {g u v : Nat} {w : Wait} {P Q : Split → Prop} (h : (s.group g).Has u P) (hQ : ∀ x, Q x → x.cond ≠ .parked)
    (hP : ∀ x, x.uid = v → P x → Q { x.endWait w with since := s.now }) (hPQ : v ≠ u → ∀ x, P x → Q x) :
    ((s.endWait g v w).group g).Has u Q := by
  have hone : ((s.onSplit g v (fun x => { x.endWait w with since := s.now })).group g).Has u Q := by
    show ((s.onGroup g (fun k => k.onSplit v (fun x => { x.endWait w with since := s.now }))).group g).Has u Q
    rw [group_onGroup, if_pos rfl]
    exact h.onSplit v _ (fun x => endWait_mask x w) (fun x => endWait_uid x w) hP hPQ
  show (((s.onSplit g v (fun x => { x.endWait w with since := s.now })).settleGroup g).group g).Has u Q
  unfold State.settleGroup
  split
  · rw [group_onGroup, if_pos rfl]
    exact hone.settle hQ
  · exact hone

/-- Splits all woken from one wait: those of a name that waited for it alone are free if one of that name was woken, or if
there are none. -/
theorem endWaits_free (g u : Nat) (w : Wait) (l : List Split) : ∀ s : State, (s.group g).Has u (fun x => x.Waits w ∨ x.Free) →
    ((∃ x ∈ l, x.uid = u) ∨ (s.group g).Has u Split.Free) →
    ((l.foldl (fun (st : State) (x : Split) => st.endWait g x.uid w) s).group g).Has u Split.Free := by
  have hfree (x : Split) (h : x.Free) : x.cond ≠ .parked := by rw [h.1]; exact fun h => nomatch h
  induction l with
  | nil =>
    intro s _ h
    rcases h with ⟨x, hx, _⟩ | h
    · cases hx
    · exact h
  | cons y t ih =>
    intro s hs h
    rw [List.foldl_cons]
    by_cases hy : y.uid = u
    · have hdone : ((s.endWait g y.uid w).group g).Has u Split.Free :=
        endWait_has hs hfree (fun x _ hx => endWait_free hx) (fun hne => absurd hy hne)
      exact ih _ (fun x hx hu => .inr (hdone x hx hu)) (.inr hdone)
    · have hkeep : ((s.endWait g y.uid w).group g).Has u (fun x => x.Waits w ∨ x.Free) := by
        refine endWait_has hs (fun x hx => ?_) (fun x _ hx => .inr (endWait_free hx)) (fun _ _ hx => hx)
        rcases hx with ⟨hc, _⟩ | hx
        · rw [hc]; exact fun h => nomatch h
        · exact hfree x hx
      refine ih _ hkeep ?_
      rcases h with ⟨x, hx, hu⟩ | h
      · rcases List.mem_cons.1 hx with rfl | hx
        · exact absurd hu hy
        · exact .inl ⟨x, hx, hu⟩
      · exact .inr (endWait_has h hfree (fun x _ hx => endWait_free (.inr hx)) (fun _ _ hx => hx))

/-! ### MACQ, MREL and MWAIT (R200) -/

/-- A free engine, that nothing is to return to, goes to the head of its queue. -/
theorem grantEngine_free {s : State} {core g : Nat} {rest : List Nat} (ho : (s.cores.get core).engine.owner = none)
    (hq : (s.cores.get core).engine.queue = g :: rest) (hr : (s.cores.get core).engine.restoring = []) : ∃ u : State,
    s.grantEngine core = (((u.group g).waiting (fun w => decide (w = Wait.engine))).foldl (fun (st : State) (x : Split) => st.endWait g x.uid .engine) u)
    ∧ u.group g = s.group g ∧ (u.cores.get core).engine.owner = some g ∧ (u.cores.get core).engine.acc = [] := by
  unfold State.grantEngine
  dsimp only
  rw [ho, hq, hr]
  dsimp only [List.find?_nil]
  exact ⟨_, rfl, rfl, by rw [get_onEngine_same], by rw [get_onEngine_same]⟩

theorem grantEngine_owned {s : State} {core : Nat} (ho : (s.cores.get core).engine.owner ≠ none) : s.grantEngine core = s := by
  unfold State.grantEngine
  dsimp only
  split
  · next h _ => exact absurd h ho
  · rfl

theorem grantEngine_unasked {s : State} {core : Nat} (hq : (s.cores.get core).engine.queue = []) : s.grantEngine core = s := by
  unfold State.grantEngine
  dsimp only
  split
  · next h => rw [hq] at h; cases h
  · rfl

/-- The state in which MACQ asks for the engine. -/
def State.askEngine (s : State) : State :=
  (s.block .engine).onEngine s.curCore (fun e => { e with queue := e.queue ++ [s.focus.grp] })

theorem macq_asks {s : State} (ha : ActsPlain s) (ho : ¬ OwnsEngine s) (hq : s.curEngine.queue = []) :
    exec .macq s = .next ((s.doom s.onceSet 5).askEngine.grantEngine s.curCore) := by
  obtain ⟨hacts, hm, htx⟩ := ha
  show execMacq s = _
  unfold execMacq
  rw [onceLanes_eq s _ hacts hm htx]
  refine if_neg (not_or.2 ⟨ho, ?_⟩)
  show ¬ s.curEngine.queue.contains s.focus.grp = true
  rw [hq]; simp

theorem splits_ask {s : State} {m : Mask} (htx : m &&& s.cur.txOpen = 0) {x : Split} (hx : x ∈ ((s.doom m 5).askEngine.group s.focus.grp).splits)
    (hu : x.uid = s.focus.uid) : x.cond = .blocked .engine ∧ ∃ y ∈ s.cur.splits, y.uid = s.focus.uid ∧ x = y.addWait .engine := by
  obtain ⟨h, y, hy, h'⟩ := splits_block (s.doom m 5) .engine hx hu
  rw [cur_doom_plain 5 htx] at hy
  exact ⟨h, y, hy, h'⟩

theorem engine_ask (s : State) : (s.askEngine.cores.get s.curCore).engine = { s.curEngine with queue := s.curEngine.queue ++ [s.focus.grp] } :=
  get_onEngine_same _ _ _

/-- R44: MACQ of a free engine takes it, and its split goes on. -/
theorem macq_takes {s : State} (ha : ActsPlain s) (hno : ¬ OwnsEngine s) (hq : s.curEngine.queue = []) (hr : s.curEngine.restoring = [])
    (ho : s.curEngine.owner = none) (hw : NoWait s) : Completes .macq s (fun t => SameRegs s t ∧ SameBytes s t
      ∧ (t.cores.get s.curCore).engine.owner = some s.focus.grp ∧ (t.cores.get s.curCore).engine.acc = []
      ∧ SplitIs s t (fun x => x.cond = .runnable)) := by
  obtain ⟨_, _, htx⟩ := id ha
  have hen := engine_ask (s.doom s.onceSet 5)
  have hqueue : ((s.doom s.onceSet 5).askEngine.cores.get s.curCore).engine.queue = [s.focus.grp] := by
    rw [show s.curCore = (s.doom s.onceSet 5).curCore from rfl, hen]
    show s.curEngine.queue ++ _ = _
    rw [hq]; rfl
  have howner : ((s.doom s.onceSet 5).askEngine.cores.get s.curCore).engine.owner = none := (congrArg Engine.owner hen).trans ho
  have hback : ((s.doom s.onceSet 5).askEngine.cores.get s.curCore).engine.restoring = [] := (congrArg Engine.restoring hen).trans hr
  obtain ⟨u, hu, hug, huo, hua⟩ := grantEngine_free howner hqueue hback
  have hbare : ((s.doom s.onceSet 5).askEngine.grantEngine s.curCore).bare = s.bare :=
    (bare_grantEngine _ _).trans ((bare_block _ _).trans (bare_doom s _ _ htx))
  have hsync : ((s.doom s.onceSet 5).askEngine.grantEngine s.curCore).synced = (s.doom s.onceSet 5).synced :=
    (synced_grantEngine _ _).trans ((synced_onEngine _ _ _).trans (synced_onSplit _ _ _ _))
  have hcores : ((s.doom s.onceSet 5).askEngine.grantEngine s.curCore).cores = u.cores := by
    rw [hu]
    exact kept_foldl State.cores _ (fun t x => cores_endWait t _ _ _) _ u
  refine ⟨_, macq_asks ha hno hq, sameRegs_of_bare hbare, (sameBytes_doom s _ _).trans (sameBytes_of_synced hsync), ?_, ?_, ?_⟩
  · rw [hcores]; exact huo
  · rw [hcores]; exact hua
  have hall : (u.group s.focus.grp).Has s.focus.uid (Split.Waits .engine) := by
    rw [hug]
    intro x hx hxu
    obtain ⟨hc, y, hy, hyu, rfl⟩ := splits_ask htx hx hxu
    refine ⟨hc, ?_⟩
    have hnone := hw y hy hyu
    unfold Split.waits at hnone
    exact hnone
  have hfocus : ((s.doom s.onceSet 5).askEngine.grantEngine s.curCore).focus = (s.doom s.onceSet 5).focus := focus_of_synced hsync
  show Group.Has (State.cur _) s.focus.uid _
  rw [State.cur, hfocus, hu]
  have hdone := endWaits_free s.focus.grp s.focus.uid .engine ((u.group s.focus.grp).waiting (fun w => decide (w = Wait.engine))) u
    (fun x hx hxu => .inl (hall x hx hxu)) ?_
  · exact fun x hx hxu => (hdone x hx hxu).1
  by_cases hex : ∃ x ∈ (u.group s.focus.grp).splits, x.uid = s.focus.uid
  · obtain ⟨x, hx, hxu⟩ := hex
    refine .inl ⟨x, List.mem_filter.2 ⟨hx, ?_⟩, hxu⟩
    rw [Split.waits, (hall x hx hxu).1, (hall x hx hxu).2]; rfl
  · exact .inr fun x hx hxu => absurd ⟨x, hx, hxu⟩ hex

/-- MACQ of an engine that another group owns queues the group, and its split waits. -/
theorem macq_queues {s : State} (ha : ActsPlain s) (hno : ¬ OwnsEngine s) (hq : s.curEngine.queue = []) (ho : s.curEngine.owner ≠ none) :
    Completes .macq s (fun t => SameRegs s t ∧ SameBytes s t
      ∧ (t.cores.get s.curCore).engine.queue = [s.focus.grp] ∧ SplitIs s t (fun x => x.cond = .blocked .engine)) := by
  obtain ⟨_, _, htx⟩ := id ha
  have hen := engine_ask (s.doom s.onceSet 5)
  have hgo := macq_asks ha hno hq
  rw [grantEngine_owned (core := s.curCore) (fun h => ho ((congrArg Engine.owner hen).symm.trans h))] at hgo
  refine ⟨_, hgo, sameRegs_of_bare ((bare_block _ _).trans (bare_doom s _ _ htx)), fun a => ?_, ?_, fun x hx hu => (splits_ask htx hx hu).1⟩
  · exact sameBytes_of_synced (s := s.doom s.onceSet 5) ((synced_onEngine _ _ _).trans (synced_onSplit _ _ _ _)) a
  · rw [show s.curCore = (s.doom s.onceSet 5).curCore from rfl, hen]
    show s.curEngine.queue ++ _ = _
    rw [hq]; rfl

section
variable {s : State} (ha : ActsPlain s)
include ha

/-- Only the owner of the engine goes on (R199). -/
theorem onceLanes_asOwner (ho : OwnsEngine s) (major : Nat) (k : State → Mask → Out) :
    onceLanes s (fun t m => asOwner t major (k t m)) = k (s.doom s.onceSet 5) s.onceSet :=
  (onceLanes_eq s _ ha.1 ha.2.1 ha.2.2).trans (if_pos ho)
theorem onceLanes_notOwner (ho : ¬ OwnsEngine s) (major : Nat) (k : State → Mask → Out) :
    onceLanes s (fun t m => asOwner t major (k t m)) = .next ((s.doom s.onceSet 5).illop 7 major) :=
  (onceLanes_eq s _ ha.1 ha.2.1 ha.2.2).trans (if_neg ho)

theorem macq_again (ho : OwnsEngine s) : exec .macq s = .next ((s.doom s.onceSet 5).illop 7 0x7F) := by
  show execMacq s = _
  unfold execMacq
  rw [onceLanes_eq s _ ha.1 ha.2.1 ha.2.2]
  exact if_pos (.inl ho)

theorem mwait_eq (ho : OwnsEngine s) : exec .mwait s = (if s.pendingProducts s.focus.grp = 0
    then .next ((s.doom s.onceSet 5).computeEnd s.focus.grp)
    else .next ((s.doom s.onceSet 5).block (.products false (s.pendingProducts s.focus.grp)))) :=
  onceLanes_asOwner ha ho 0x7F _

theorem mrel_eq (ho : OwnsEngine s) : exec .mrel s = (if s.pendingProducts s.focus.grp = 0
    then .next (((s.doom s.onceSet 5).computeEnd s.focus.grp).releaseEngine s.curCore)
    else .next ((s.doom s.onceSet 5).block (.products true (s.pendingProducts s.focus.grp)))) :=
  onceLanes_asOwner ha ho 0x7F _

/-- A split that waits for the products pending. -/
theorem waits_products (w : Wait) : SameRegs s ((s.doom s.onceSet 5).block w) ∧ SameBytes s ((s.doom s.onceSet 5).block w)
    ∧ SplitIs s ((s.doom s.onceSet 5).block w) (fun x => x.cond = .blocked w) :=
  ⟨sameRegs_of_bare ((bare_block _ _).trans (bare_doom s _ _ ha.2.2)),
    fun a => sameBytes_of_synced (s := s.doom s.onceSet 5) (synced_onSplit _ _ _ _) a, fun _ hx hu => (splits_block (s.doom s.onceSet 5) w hx hu).1⟩

theorem mwait_goes_on (ho : OwnsEngine s) (hp : s.pendingProducts s.focus.grp = 0) :
    Completes .mwait s (fun t => SameRegs s t ∧ SameBytes s t ∧ t.cores = s.cores) := by
  refine ⟨_, (mwait_eq ha ho).trans (if_pos hp), sameRegs_of_bare ((bare_stampEvent _ _ _).trans (bare_doom s _ _ ha.2.2)), fun a => ?_,
    cores_stampEvent _ _ _⟩
  exact byteAt_stampEvent _ _ _ a

theorem mrel_releases (ho : OwnsEngine s) (hp : s.pendingProducts s.focus.grp = 0) (hq : s.curEngine.queue = []) :
    Completes .mrel s (fun t => SameRegs s t ∧ SameBytes s t ∧ (t.cores.get s.curCore).engine.owner = none) := by
  have hcores : ((s.doom s.onceSet 5).computeEnd s.focus.grp).cores = s.cores := cores_stampEvent _ _ _
  have hgo := (mrel_eq ha ho).trans (if_pos hp)
  unfold State.releaseEngine at hgo
  rw [grantEngine_unasked (by rw [get_onEngine_same, hcores]; exact hq)] at hgo
  refine ⟨_, hgo, sameRegs_of_bare ((bare_stampEvent _ _ _).trans (bare_doom s _ _ ha.2.2)), fun a => ?_, by rw [get_onEngine_same]⟩
  exact (sameBytes_of_synced (synced_onEngine _ _ _) a).trans (byteAt_stampEvent _ _ _ a)
end

end Sys2Proof.Machine
end

section
/-! ## Products and tiles (R201, R203, R207, R208) -/

namespace Sys2Proof.Machine

/-! ### Acceptance by the engine -/

theorem acceptEngine_idle {s : State} {core : Nat} (h : (s.cores.get core).engine.waiting = []) (f : Nat) : s.acceptEngine core f = s := by
  cases f with
  | zero => rfl
  | succ f =>
    unfold State.acceptEngine
    dsimp only
    rw [h]

theorem linesOf_unmapped {b : Block} (h : b.maps = []) (off n : Nat) : b.linesOf off n = [] := by
  unfold Block.linesOf Block.mapAt
  rw [h]
  exact List.filter_eq_nil_iff.2 fun _ _ => by simp

section
variable {s : State} {g : Nat} (h : (s.blockOf g).maps = [])
include h

theorem operandLines_unmapped (off : Nat) (p : Product) : s.operandLines g off p = [] := by
  unfold State.operandLines
  dsimp only
  rw [linesOf_unmapped h]
  split <;> rfl
theorem operandFlush_unmapped (off : Nat) (p : Product) : s.operandFlush g off p = s := by
  unfold State.operandFlush
  rw [operandLines_unmapped h]; rfl
theorem operandMissing_unmapped (off : Nat) (p : Product) : s.operandMissing g off p = [] := by
  unfold State.operandMissing
  rw [operandLines_unmapped h]; rfl
end

/-- The pending instruction that an operation becomes. -/
def Op.pendingAt (o : Op) (off : Word) : EngineOp := { instr := o.instr, mask := o.mask, offset := off, grp := o.grp, seen := o.seen }

/-- The engine takes an operation: it is among those pending, and no longer outstanding. -/
def State.pendOp (s : State) (core i : Nat) (off : Word) : State :=
  s.onEngine core (fun n => { n with waiting := [], pending := (s.cores.get core).engine.pending ++ [(s.op i).pendingAt off] })
def State.takeOp (s : State) (core i : Nat) (off : Word) : State := ((s.pendOp core i off).completeOp i).post (.mmaComplete core)

theorem engine_takeOp (s : State) (core i : Nat) (off : Word) : ((s.takeOp core i off).cores.get core).engine
    = { (s.cores.get core).engine with waiting := [], pending := (s.cores.get core).engine.pending ++ [(s.op i).pendingAt off] } :=
  get_onEngine_same s core (fun n => { n with waiting := [], pending := (s.cores.get core).engine.pending ++ [(s.op i).pendingAt off] })

theorem sameBytes_onEngine (s : State) (core : Nat) (f : Engine → Engine) : SameBytes s (s.onEngine core f) :=
  sameBytes_of_synced (synced_onEngine s core f)
theorem sameBytes_completeOp (s : State) (i : Nat) : SameBytes s (s.completeOp i) := fun a =>
  sameBytes_of_synced (s := { s with ops := s.ops.erase i }) (synced_onSplit _ _ _ _) a
theorem sameBytes_takeOp (s : State) (core i : Nat) (off : Word) : SameBytes s (s.takeOp core i off) :=
  (sameBytes_onEngine s core _ : SameBytes s (s.pendOp core i off)).trans (sameBytes_completeOp _ i)

/-- R201: the engine accepts the one product that waits, while fewer than four are pending. -/
theorem acceptEngine_takes {s : State} {core i : Nat} {p : Product} (f : Nat) (hw : (s.cores.get core).engine.waiting = [i])
    (hlen : (s.cores.get core).engine.pending.length < 4) (hp : productOf (s.op i).instr = some p) (hst : (s.op i).status = .flying)
    (hm : (s.blockOf (s.op i).grp).maps = []) :
    s.acceptEngine core (f + 1) = s.takeOp core i (BitVec.ofNat 32 ((s.op i).addr.get 0).toNat) := by
  have hidle : ((s.takeOp core i (BitVec.ofNat 32 ((s.op i).addr.get 0).toNat)).cores.get core).engine.waiting = [] :=
    congrArg Engine.waiting (engine_takeOp s core i _)
  unfold State.acceptEngine
  dsimp only
  rw [hw]
  dsimp only
  rw [if_neg (by omega), hp]
  dsimp only
  rw [if_neg (by rw [hst]; exact fun h => h rfl), operandFlush_unmapped hm, operandMissing_unmapped hm]
  exact acceptEngine_idle hidle f

/-! ### Products (R203) -/

/-- A product that goes to the engine: the state in which the engine considers it. -/
def State.sendOp (s : State) (i : Instr) (m : Mask) (x : Word) (la : Nat) : State :=
  (s.newOp { s.opHere i m with addr := Store.put [] 0 (x.setWidth 64) } la).1.onEngine s.curCore
    (fun e => { e with waiting := e.waiting ++ [s.nextOp] })

section
variable {s : State} (ha : ActsPlain s) {i : Instr} {la : BitVec 4} {off : State → Word} {major : Nat} {p : Product} (hp : productOf i = some p)
include ha hp

theorem sendProduct_notOwner (ho : ¬ OwnsEngine s) :
    sendProduct i la off major s = .next ((s.doom s.onceSet 5).illop 7 major) := by
  unfold sendProduct
  rw [hp]
  exact onceLanes_notOwner ha ho major _

theorem sendProduct_align (ho : OwnsEngine s) (hf : p.fromStash = true) (hx : (off (s.doom s.onceSet 5)).toNat % 64 ≠ 0) :
    sendProduct i la off major s = .next ((s.doom s.onceSet 5).takeTrap .align 0 0 ((off (s.doom s.onceSet 5)).setWidth 64)) := by
  unfold sendProduct
  rw [hp]
  exact (onceLanes_asOwner ha ho major _).trans (if_pos ⟨hf, hx⟩)

theorem sendProduct_sends (ho : OwnsEngine s) (hst : s.cur.stamp = none) (hx : p.fromStash = true → (off (s.doom s.onceSet 5)).toNat % 64 = 0
      ∧ s.curBlock.holds (off (s.doom s.onceSet 5)).toNat (s.operandBytes s.focus.grp p) = true) :
    sendProduct i la off major s
      = .next (((s.doom s.onceSet 5).sendOp i s.onceSet (off (s.doom s.onceSet 5)) la.toNat).acceptEngine s.curCore 8) := by
  have hcur : (s.doom s.onceSet 5).cur = s.cur := cur_doom_plain 5 ha.2.2
  have hblock : (s.doom s.onceSet 5).curBlock = s.curBlock :=
    congrArg s.blocks.get (congrArg Group.block hcur)
  have hbytes : (s.doom s.onceSet 5).operandBytes s.focus.grp p = s.operandBytes s.focus.grp p := by
    have hlaunch : (s.doom s.onceSet 5).launchOf s.focus.grp = s.launchOf s.focus.grp :=
      congrArg s.launches.get (congrArg Block.launch hblock)
    unfold State.operandBytes
    rw [hlaunch]
  have hstamp : (s.doom s.onceSet 5).stampEvent s.focus.grp (fun q n => { q with compute := once q.compute n }) = s.doom s.onceSet 5 := by
    unfold State.stampEvent
    rw [show ((s.doom s.onceSet 5).group s.focus.grp).stamp = none from (congrArg Group.stamp hcur).trans hst]
  unfold sendProduct
  rw [hp]
  refine (onceLanes_asOwner ha ho major _).trans ?_
  rw [if_neg (fun h => h.2 (hx h.1).1), if_neg (fun h => ?_)]
  · dsimp only
    rw [show (s.doom s.onceSet 5).focus.grp = s.focus.grp from rfl, hstamp]
    rfl
  · have h2 := h.2
    rw [hblock, show (s.doom s.onceSet 5).focus.grp = s.focus.grp from rfl, hbytes, (hx h.1).2] at h2
    cases h2
end

/-- R201, R203: a product of the owner, with nothing before it, is pending at once. -/
theorem product_accepted {s : State} {i : Instr} {p : Product} (htx : s.onceSet &&& s.cur.txOpen = 0) (x : Word) (la : Nat)
    (hp : productOf i = some p) (hw : s.curEngine.waiting = []) (hlen : s.curEngine.pending.length < 4) (hmaps : s.curBlock.maps = []) :
    let t := ((s.doom s.onceSet 5).sendOp i s.onceSet x la).acceptEngine s.curCore 8
    SameRegs s t ∧ SameBytes s t ∧ (t.op s.nextOp).live = false
      ∧ (t.cores.get s.curCore).engine.waiting = [] ∧ .mmaComplete s.curCore ∈ t.pending
      ∧ (t.cores.get s.curCore).engine.acc = s.curEngine.acc
      ∧ (t.cores.get s.curCore).engine.pending = s.curEngine.pending ++ [{ instr := i, mask := s.onceSet, offset := x, grp := s.focus.grp }] := by
  have hbare : ((s.doom s.onceSet 5).sendOp i s.onceSet x la).bare = s.bare := (bare_newOp _ _ _).trans (bare_doom s _ _ htx)
  have hbytes : SameBytes s ((s.doom s.onceSet 5).sendOp i s.onceSet x la) :=
    sameBytes_of_synced (s := ((s.doom s.onceSet 5).newOp { (s.doom s.onceSet 5).opHere i s.onceSet with addr := Store.put [] 0 (x.setWidth 64) } la).1)
      (synced_onEngine _ _ _)
  have hop : ((s.doom s.onceSet 5).sendOp i s.onceSet x la).op s.nextOp
      = { (s.doom s.onceSet 5).opHere i s.onceSet with addr := Store.put [] 0 (x.setWidth 64), live := true } :=
    (newOp_op (s.doom s.onceSet 5) _ la).1
  have hen : (((s.doom s.onceSet 5).sendOp i s.onceSet x la).cores.get s.curCore).engine
      = { s.curEngine with waiting := s.curEngine.waiting ++ [s.nextOp] } := get_onEngine_same _ _ _
  have hmaps' : (((s.doom s.onceSet 5).sendOp i s.onceSet x la).blockOf s.focus.grp).maps = [] := by
    have hb : (((s.doom s.onceSet 5).sendOp i s.onceSet x la).group s.focus.grp).block = s.cur.block :=
      (congrArg Group.block (congrFun hbare s.focus.grp) :)
    rw [State.blockOf, hb]
    exact hmaps
  generalize (s.doom s.onceSet 5).sendOp i s.onceSet x la = u at hbare hbytes hop hen hmaps'
  have hoff : BitVec.ofNat 32 ((u.op s.nextOp).addr.get 0).toNat = x := by
    rw [hop]
    show BitVec.ofNat 32 ((Store.put [] 0 (x.setWidth 64)).get 0).toNat = x
    rw [Store.get_put_same]
    exact BitVec.eq_of_toNat_eq (by have := x.isLt; simp; omega)
  have hgo := acceptEngine_takes (s := u) (core := s.curCore) (i := s.nextOp) (p := p) 7 (by rw [hen]; exact congrArg (· ++ [s.nextOp]) hw) (by rw [hen]; exact hlen)
    (by rw [hop]; exact hp) (by rw [hop]; rfl) (by rw [hop]; exact hmaps')
  rw [hoff] at hgo
  intro t
  have ht : t = u.takeOp s.curCore s.nextOp x := hgo
  have htn : (t.cores.get s.curCore).engine = { s.curEngine with waiting := [], pending := s.curEngine.pending ++ [(u.op s.nextOp).pendingAt x] } := by
    rw [ht]
    rw [engine_takeOp, hen]
  rw [htn, ht]
  refine ⟨sameRegs_of_bare ((bare_completeOp _ _).trans hbare), hbytes.trans (sameBytes_takeOp _ _ _ _), ?_,
    rfl, List.mem_append_right _ (List.mem_singleton.2 rfl), rfl, ?_⟩
  · show ((u.ops.erase s.nextOp).get s.nextOp).live = false
    rw [Store.get_erase, if_pos rfl]; rfl
  · rw [hop]; rfl

/-- Where a product finds its stash operand; 0 for one without. -/
def State.stashOffset (s : State) (stash : Option Reg) : Word := match stash with | some r => s.sR r | none => 0

theorem productGoes_of_send {i : Instr} {stash : Option Reg} {la : BitVec 4} {off : State → Word} {major : Nat} {p : Product}
    (hexec : exec i = sendProduct i la off major) (hp : productOf i = some p) (hf : p.fromStash = stash.isSome)
    (hoff : ∀ s : State, off s = s.stashOffset stash) : ProductGoes i stash major := by
  intro s ha
  have hx : off (s.doom s.onceSet 5) = s.stashOffset stash := by
    rw [hoff]
    cases stash with
    | none => rfl
    | some r => exact congrArg (fun k : Group => k.sAt r.toNat) (cur_doom_plain 5 ha.2.2)
  rw [hexec]
  refine ⟨fun ho => sendProduct_notOwner ha hp ho, fun ho hst hw hlen hmaps hstash => ?_, fun ho hsome hal => ?_⟩
  · have hgo := sendProduct_sends (la := la) (off := off) (major := major) ha hp ho hst (fun hfs => by
      rw [hx]
      obtain ⟨hal, hholds⟩ := hstash (hf ▸ hfs)
      exact ⟨hal, hholds p hp⟩)
    rw [hx] at hgo
    refine ⟨_, hexec ▸ hgo, product_accepted ha.2.2 _ la.toNat hp hw hlen hmaps⟩
  · have hgo := sendProduct_align (la := la) (off := off) (major := major) ha hp ho (hf.trans hsome) (by rw [hx]; exact hal)
    rw [hx] at hgo
    exact hgo

end Sys2Proof.Machine
end

section
/-! ## MZERO, MLD, MST and the completion of a matrix instruction (R200, R203, R208, R90, R91) -/

namespace Sys2Proof.Machine

/-! ### Elements changed one after another -/

section
variable {α ι : Type} [Inhabited α] [DecidableEq α] (key : ι → Nat) (f : ι → α → α)

theorem get_foldl_upd_other {l : List ι} {x : Nat} (h : ∀ i ∈ l, key i ≠ x) (m : Store α) :
    (l.foldl (fun a i => a.upd (key i) (f i)) m).get x = m.get x := by
  induction l generalizing m with
  | nil => rfl
  | cons j t ih =>
    rw [List.foldl_cons, ih (fun i hi => h i (List.mem_cons_of_mem _ hi)), Store.get_upd, if_neg (fun hx => h j List.mem_cons_self hx.symm)]

/-- An element that one of the changes names holds its result. -/
theorem get_foldl_upd {l : List ι} (hl : l.Nodup) (hkey : ∀ i ∈ l, ∀ j ∈ l, key i = key j → i = j) {i : ι} (hi : i ∈ l) (m : Store α) :
    (l.foldl (fun a i => a.upd (key i) (f i)) m).get (key i) = f i (m.get (key i)) := by
  induction l generalizing m with
  | nil => cases hi
  | cons j t ih =>
    obtain ⟨hj, ht⟩ := List.nodup_cons.1 hl
    rw [List.foldl_cons]
    by_cases hij : i = j
    · rw [get_foldl_upd_other key f (fun n hn he => hj ?_), hij, Store.get_upd, if_pos rfl]
      rw [← hij, ← hkey n (List.mem_cons_of_mem _ hn) i hi he]
      exact hn
    · have hit : i ∈ t := (List.mem_cons.1 hi).resolve_left hij
      rw [ih ht (fun a ha b hb => hkey a (List.mem_cons_of_mem _ ha) b (List.mem_cons_of_mem _ hb)) hit, Store.get_upd,
        if_neg (fun h => hij (hkey i hi j List.mem_cons_self h))]
end

/-- A walk over rows and columns is one over their pairs. -/
theorem foldl_foldl {α β γ : Type} (f : α → β × γ → α) (l : List β) (k : List γ) (a : α) :
    l.foldl (fun a b => k.foldl (fun a c => f a (b, c)) a) a = (l.product k).foldl f a := by
  rw [List.product, List.foldl_flatMap]
  simp only [List.foldl_map]

/-! ### MZERO at issue (R200, R201) -/

section
variable {s : State} (ha : ActsPlain s) (ho : OwnsEngine s)
include ha ho

theorem mzero_eq (c : BitVec 2) : exec (.mzero c) s =
    (if s.curEngine.waiting ≠ [] ∨ 4 ≤ s.curEngine.pending.length then .next ((s.doom s.onceSet 5).queueZero (.mzero c) s.onceSet) else
      .next (((s.doom s.onceSet 5).onEngine s.curCore (fun e => { e with
        pending := e.pending ++ [{ instr := .mzero c, mask := s.onceSet, offset := 0, grp := s.focus.grp }] })).post (.mmaComplete s.curCore))) :=
  onceLanes_asOwner ha ho 0x7F _

theorem mzero_enters (c : BitVec 2) (hw : s.curEngine.waiting = []) (hlen : s.curEngine.pending.length < 4) :
    Completes (.mzero c) s (fun t => SameRegs s t ∧ SameBytes s t ∧ .mmaComplete s.curCore ∈ t.pending
      ∧ (t.cores.get s.curCore).engine.pending
        = s.curEngine.pending ++ [{ instr := .mzero c, mask := s.onceSet, offset := 0, grp := s.focus.grp }]) := by
  refine ⟨_, (mzero_eq ha ho c).trans (if_neg (not_or.2 ⟨fun h => h hw, by omega⟩)), sameRegs_of_bare (bare_doom s _ _ ha.2.2),
    fun a => sameBytes_of_synced (s := s.doom s.onceSet 5) ((synced_post _ _).trans (synced_onEngine _ _ _)) a, List.mem_append_right _ (List.mem_singleton.2 rfl), ?_⟩
  exact congrArg Engine.pending (get_onEngine_same (s.doom s.onceSet 5) s.curCore (fun e => { e with
    pending := e.pending ++ [{ instr := .mzero c, mask := s.onceSet, offset := 0, grp := s.focus.grp }] }))

theorem mzero_waits (c : BitVec 2) (h : s.curEngine.waiting ≠ [] ∨ 4 ≤ s.curEngine.pending.length) :
    Completes (.mzero c) s (fun t => SameRegs s t ∧ SameBytes s t
      ∧ (t.cores.get s.curCore).engine.pending = s.curEngine.pending
      ∧ (t.cores.get s.curCore).engine.waiting = s.curEngine.waiting ++ [s.nextOp]
      ∧ (t.op s.nextOp).live = true ∧ (t.op s.nextOp).instr = .mzero c ∧ (t.op s.nextOp).mask = s.onceSet) := by
  refine ⟨_, (mzero_eq ha ho c).trans (if_pos h), sameRegs_of_bare (bare_doom s _ _ ha.2.2), sameBytes_onEngine _ _ _, ?_⟩
  have hen : (((s.doom s.onceSet 5).queueZero (.mzero c) s.onceSet).cores.get s.curCore).engine
      = { s.curEngine with waiting := s.curEngine.waiting ++ [s.nextOp] } := get_onEngine_same _ _ _
  have hop : ((s.doom s.onceSet 5).queueZero (.mzero c) s.onceSet).op s.nextOp
      = { (s.doom s.onceSet 5).opHere (.mzero c) s.onceSet with live := true } := by
    show (s.ops.put s.nextOp { (s.doom s.onceSet 5).opHere (.mzero c) s.onceSet with live := true }).get s.nextOp = _
    exact Store.get_put_same _ _ _
  rw [hen, hop]
  exact ⟨rfl, rfl, rfl, rfl, rfl⟩
end

/-! ### MLD and MST (R208) -/

section
variable {s : State} (hm : s.focus.mask ≠ 0) (htx : s.focus.mask &&& s.cur.txOpen = 0) (ho : OwnsEngine s) (d : Reg) (c g : BitVec 2)

/-- The first columns of a tile's rows, in registers. -/
def State.loadTile (s : State) (d : Reg) (m : Mask) (val : Nat → Nat → Word) (n : Nat) : State :=
  (List.range n).foldl (fun (st : State) k => st.onCur (fun y => y.setV (d.toNat + k) m (val k))) s

theorem loadTile_onlyV (s : State) (d : Reg) (m : Mask) (val : Nat → Nat → Word) (n : Nat) : OnlyV s (s.loadTile d m val n)
    ∧ ∀ r L, L < 32 → (s.loadTile d m val n).cur.vAt r L
      = if inMask m L = true ∧ d.toNat ≤ r ∧ r < d.toNat + n then val (r - d.toNat) L else s.cur.vAt r L := by
  induction n with
  | zero =>
    refine ⟨⟨onlyCur_refl s, rfl⟩, fun r L _ => ?_⟩
    rw [if_neg (by omega)]; rfl
  | succ n ih =>
    obtain ⟨⟨hcur, hv⟩, hval⟩ := ih
    have hstep : s.loadTile d m val (n + 1) = (s.loadTile d m val n).onCur (fun y => y.setV (d.toNat + n) m (val n)) := by
      rw [State.loadTile, List.range_succ, List.foldl_append]; rfl
    rw [hstep]
    refine ⟨⟨hcur.trans (onlyCur_onCur _ _), by rw [cur_onCur]; exact hv⟩, fun r L hL => ?_⟩
    rw [cur_onCur, vAt_setV _ _ _ _ _ _ hL, hval r L hL]
    by_cases hL' : inMask m L = true
    · by_cases hr : r = d.toNat + n
      · rw [if_pos ⟨hr, hL'⟩, if_pos ⟨hL', by omega, by omega⟩, hr, Nat.add_sub_cancel_left]
      · rw [if_neg (fun h => hr h.1)]
        by_cases hin : d.toNat ≤ r ∧ r < d.toNat + n
        · rw [if_pos ⟨hL', hin⟩, if_pos ⟨hL', hin.1, by omega⟩]
        · rw [if_neg (fun h => hin h.2), if_neg (by omega)]
    · rw [if_neg (fun h => hL' h.2), if_neg (fun h => hL' h.1), if_neg (fun h => hL' h.1)]

include hm htx ho

theorem plainLanes_asOwner (major : Nat) (k : State → Mask → Out) :
    plainLanes s s.focus.mask (fun t m => asOwner t major (k t m)) = k (s.doom s.focus.mask 5) s.focus.mask :=
  (plainLanes_eq s _ _ hm htx).trans (if_pos ho)

theorem mld_eq : exec (.mld d c g) s = .next ((s.doom s.focus.mask 5).loadTile d s.focus.mask
    (fun k L => s.curEngine.acc.get (accKey c.toNat L (8 * g.toNat + k))) 8) := by
  show execMld d c g s = _
  unfold execMld
  rw [plainLanes_asOwner hm htx ho]
  rfl

/-- The tiles after MST. -/
def State.storeTile (s : State) (d : Reg) (c g : BitVec 2) (acc : Store Word) : Store Word :=
  (lanesOf s.focus.mask).foldl (fun (acc : Store Word) L => (List.range 8).foldl (fun (acc : Store Word) k =>
    acc.put (accKey c.toNat L (8 * g.toNat + k)) (s.cur.vAt (d.toNat + k) L)) acc) acc

theorem mst_eq : exec (.mst d c g) s = .next ((s.doom s.focus.mask 5).onEngine s.curCore (fun e => { e with acc := s.storeTile d c g e.acc })) := by
  have hcur : (s.doom s.focus.mask 5).cur = s.cur := cur_doom_plain 5 htx
  show execMst d c g s = _
  unfold execMst
  rw [plainLanes_asOwner hm htx ho, hcur]
  rfl

theorem mld_loads : Completes (.mld d c g) s (fun t => OnlyV s t ∧ ∀ r L, L < 32 → t.cur.vAt r L =
    if s.inPass L = true ∧ d.toNat ≤ r ∧ r < d.toNat + 8 then
      s.curEngine.acc.get (1024 * c.toNat + 32 * L + (8 * g.toNat + (r - d.toNat))) else s.cur.vAt r L) := by
  have hcur : (s.doom s.focus.mask 5).cur = s.cur := cur_doom_plain 5 htx
  obtain ⟨⟨hrest, hv⟩, hval⟩ := loadTile_onlyV (s.doom s.focus.mask 5) d s.focus.mask
    (fun k L => s.curEngine.acc.get (accKey c.toNat L (8 * g.toNat + k))) 8
  refine ⟨_, mld_eq hm htx ho d c g, ⟨(onlyCur_doom s _ _).trans hrest, ?_⟩, fun r L hL => ?_⟩
  · rw [hcur] at hv; exact hv
  · have h := hval r L hL
    rw [hcur] at h
    exact h

theorem mst_stores : Completes (.mst d c g) s (fun t => SameRegs s t ∧ SameBytes s t ∧ ∀ r L k, r < 4 → L < 32 → k < 32 →
    (t.cores.get s.curCore).engine.acc.get (1024 * r + 32 * L + k) =
      if r = c.toNat ∧ s.inPass L = true ∧ k / 8 = g.toNat then s.cur.vAt (d.toNat + k % 8) L
      else s.curEngine.acc.get (1024 * r + 32 * L + k)) := by
  refine ⟨_, mst_eq hm htx ho d c g, sameRegs_of_bare (bare_doom s _ _ htx),
    fun a => sameBytes_onEngine (s.doom s.focus.mask 5) _ _ a, fun r L k hr hL hk => ?_⟩
  have hacc : s.storeTile d c g s.curEngine.acc
      = ((lanesOf s.focus.mask).product (List.range 8)).foldl (fun (acc : Store Word) x =>
          acc.upd (accKey c.toNat x.1 (8 * g.toNat + x.2)) (fun _ => s.cur.vAt (d.toNat + x.2) x.1)) s.curEngine.acc :=
    foldl_foldl (fun (acc : Store Word) (x : Nat × Nat) =>
      acc.upd (accKey c.toNat x.1 (8 * g.toNat + x.2)) (fun _ => s.cur.vAt (d.toNat + x.2) x.1)) _ _ _
  rw [get_onEngine_same]
  show (s.storeTile d c g s.curEngine.acc).get _ = _
  rw [hacc]
  have hpairs (x : Nat × Nat) : x ∈ (lanesOf s.focus.mask).product (List.range 8)
      ↔ (x.1 < 32 ∧ inMask s.focus.mask x.1 = true) ∧ x.2 < 8 := by
    rw [List.pair_mem_product (x := x.1) (y := x.2), mem_lanesOf, List.mem_range]
  by_cases hin : r = c.toNat ∧ s.inPass L = true ∧ k / 8 = g.toNat
  · obtain ⟨hrc, hLin, hkg⟩ := hin
    rw [if_pos ⟨hrc, hLin, hkg⟩]
    have hmem : (L, k % 8) ∈ (lanesOf s.focus.mask).product (List.range 8) := (hpairs _).2 ⟨⟨hL, hLin⟩, by dsimp only; omega⟩
    have hx : 1024 * r + 32 * L + k = accKey c.toNat (L, k % 8).1 (8 * g.toNat + (L, k % 8).2) := by
      unfold accKey; dsimp only; omega
    rw [hx]
    refine get_foldl_upd (fun x : Nat × Nat => accKey c.toNat x.1 (8 * g.toNat + x.2)) (fun x _ => s.cur.vAt (d.toNat + x.2) x.1)
      (List.Nodup.product (lanesOf_nodup _) List.nodup_range) (fun x hx y hy hxy => ?_) hmem _
    obtain ⟨_, hx2⟩ := (hpairs x).1 hx
    obtain ⟨_, hy2⟩ := (hpairs y).1 hy
    have hg := g.isLt
    unfold accKey at hxy
    exact Prod.ext (by omega) (by omega)
  · rw [if_neg hin]
    refine get_foldl_upd_other (fun x : Nat × Nat => accKey c.toNat x.1 (8 * g.toNat + x.2)) (fun x _ => s.cur.vAt (d.toNat + x.2) x.1)
      (fun x hx he => hin ?_) _
    obtain ⟨⟨hx1, hxin⟩, hx2⟩ := (hpairs x).1 hx
    have hg := g.isLt
    unfold accKey at he
    have h1 : x.1 = L := by omega
    exact ⟨by omega, h1 ▸ hxin, by omega⟩
end

end Sys2Proof.Machine
end

section
/-! ## The completion of a matrix instruction (R200, R203, R90, R91) -/

namespace Sys2Proof.Machine

/-! ### What the engine goes on with -/

/-- R200: nothing of a group waits for its matrix instructions. -/
theorem productDone_none {s : State} {core g : Nat} (h : ∀ x ∈ (s.group g).splits, ∀ w ∈ x.waits, ∀ r n, w ≠ .products r n) :
    s.productDone core g = s := by
  have hfold {σ ι : Type} (f : σ → ι → σ) (l : List ι) (s : σ) (hf : ∀ i ∈ l, f s i = s) : l.foldl f s = s := by
    induction l with
    | nil => rfl
    | cons i t ih => rw [List.foldl_cons, hf i List.mem_cons_self, ih (fun j hj => hf j (List.mem_cons_of_mem _ hj))]
  unfold State.productDone State.overWaits
  refine hfold _ _ _ fun x hx => hfold _ _ _ fun w hw => ?_
  split
  · have hne := h x hx w (List.mem_reverse.1 hw)
    cases w with
    | products r n => exact absurd rfl (hne r n)
    | _ => rfl
  · rfl

/-- The last pending instruction of an engine, with nothing waiting, is executed and leaves. -/
theorem mmaComplete_last {s : State} {core : Nat} {e : EngineOp} (hp : (s.cores.get core).engine.pending = [e])
    (hw : ((s.execPending core e).cores.get core).engine.waiting = [])
    (hg : ∀ x ∈ ((s.execPending core e).group e.grp).splits, ∀ w ∈ x.waits, ∀ r n, w ≠ .products r n) :
    exec (.mmaComplete core) s = .next ((s.execPending core e).onEngine core (fun n => { n with pending := [] })) := by
  show Host.Outcome.next (s.engineComplete core) = _
  unfold State.engineComplete
  dsimp only
  rw [hp]
  dsimp only
  rw [acceptEngine_idle (by rw [get_onEngine_same]; exact hw)]
  exact congrArg Host.Outcome.next (productDone_none hg)

section
variable {s : State} {core : Nat} {e : EngineOp} {acc : Store Word → Store Word}
  (he : s.execPending core e = s.onEngine core (fun n => { n with acc := acc n.acc }))
  (hp : (s.cores.get core).engine.pending = [e]) (hw : (s.cores.get core).engine.waiting = [])
  (hg : ∀ x ∈ (s.group e.grp).splits, ∀ w ∈ x.waits, ∀ r n, w ≠ .products r n)
include he hp hw hg

/-- What executes changes the tiles alone. -/
theorem mmaComplete_tiles : Completes (.mmaComplete core) s (fun t => SameRegs s t ∧ SameBytes s t
    ∧ (t.cores.get core).engine.pending = [] ∧ (t.cores.get core).engine.acc = acc (s.cores.get core).engine.acc) := by
  have hgo := mmaComplete_last hp (by rw [he, get_onEngine_same]; exact hw) (by rw [he]; exact hg)
  rw [he] at hgo
  refine ⟨_, hgo, fun _ => rfl, (sameBytes_onEngine s core _).trans (sameBytes_onEngine _ core _), ?_, ?_⟩
  · rw [get_onEngine_same]
  · rw [get_onEngine_same, get_onEngine_same]
end

/-! ### MZERO (R201) -/

/-- The elements of a tile, put to zero. -/
def zeroTile (c : BitVec 2) (acc : Store Word) : Store Word :=
  (List.range 1024).foldl (fun (acc : Store Word) i => acc.upd (1024 * c.toNat + i) (fun _ => 0)) acc

theorem get_zeroTile (c : BitVec 2) (acc : Store Word) {r j : Nat} (hj : j < 1024) :
    (zeroTile c acc).get (1024 * r + j) = if r = c.toNat then 0 else acc.get (1024 * r + j) := by
  unfold zeroTile
  by_cases hr : r = c.toNat
  · rw [if_pos hr, hr]
    exact get_foldl_upd (fun i => 1024 * c.toNat + i) (fun _ _ => 0) List.nodup_range (fun _ _ _ _ h => by omega) (List.mem_range.2 hj) acc
  · rw [if_neg hr]
    refine get_foldl_upd_other (fun i => 1024 * c.toNat + i) (fun _ _ => 0) (fun i hi he => hr ?_) acc
    have := List.mem_range.1 hi
    omega

theorem execPending_mzero (s : State) (core : Nat) {e : EngineOp} {c : BitVec 2} (hi : e.instr = .mzero c) (hd : e.did = []) :
    s.execPending core e = s.onEngine core (fun n => { n with acc := zeroTile c n.acc }) := by
  unfold State.execPending
  rw [hi, hd]
  rfl

/-! ### Products (R90, R91, R203) -/

/-- The operand that a product takes from registers: element by element, as R49 lays it out. -/
theorem operandNow_element (s : State) (core g : Nat) (o : Word) (p : Product) (b : Bool) {i n : Nat} (hi : i < 32) (hn : n < 512)
    (hs : p.fromStash = false) : s.operandNow core g o p (operandKey b i n)
      = fragElem (fun r => (s.group g).vAt ((if b then p.baseB else p.baseA) + r) i)
          (container (slotCode (if b then (s.productSlots g p).2 else (s.productSlots g p).1))) n := by
  have hkey : operandKey b i n % 1024 = n := by unfold operandKey; split <;> omega
  have hlane : operandKey b i n % 32768 / 1024 = i := by unfold operandKey; split <;> omega
  unfold State.operandNow
  dsimp only
  rw [hkey, hlane, hs, if_pos hn]
  cases b with
  | false =>
    have hlow : operandKey false i n < 32768 := by unfold operandKey; simp; omega
    simp only [if_pos hlow]
    rfl
  | true =>
    have hlow : ¬ operandKey true i n < 32768 := by unfold operandKey; simp; omega
    simp only [if_neg hlow]
    rfl

theorem operandNow_descriptor (s : State) (core g : Nat) (o : Word) (p : Product) (b : Bool) {i n : Nat} (hi : i < 32) (hn : n < 512)
    (hs : p.fromStash = false) : s.operandNow core g o p (operandKey b i (512 + n))
      = descOf (fun r => (s.group g).vAt (4 * p.quad + (if b then 2 else 0) + r) i) n := by
  have hkey : operandKey b i (512 + n) % 1024 = 512 + n := by unfold operandKey; split <;> omega
  have hlane : operandKey b i (512 + n) % 32768 / 1024 = i := by unfold operandKey; split <;> omega
  unfold State.operandNow
  dsimp only
  rw [hkey, hlane, hs, if_neg (by omega), Nat.add_sub_cancel_left]
  cases b with
  | false =>
    have hlow : operandKey false i (512 + n) < 32768 := by unfold operandKey; simp; omega
    simp only [if_pos hlow]
    rfl
  | true =>
    have hlow : ¬ operandKey true i (512 + n) < 32768 := by unfold operandKey; simp; omega
    simp only [if_neg hlow]
    rfl

/-- R90: the factors of a row or a column that the engine has read nothing of. -/
theorem operandFactors_eq (s : State) (core : Nat) {e : EngineOp} (p : Product) (b : Bool) {i : Nat} (hi : i < 32) (hseen : e.seen = [])
    (hs : p.fromStash = false) : s.operandFactors core e p b i
      = factors (if b then (s.productSlots e.grp p).2 else (s.productSlots e.grp p).1)
          (productK (s.productSlots e.grp p).1 (s.productSlots e.grp p).2)
          (fun r => (s.group e.grp).vAt ((if b then p.baseB else p.baseA) + r) i)
          (fun r => (s.group e.grp).vAt (4 * p.quad + (if b then 2 else 0) + r) i) := by
  have hof (key : Nat) : s.operandOf core e p key = s.operandNow core e.grp e.offset p key := by
    unfold State.operandOf
    rw [hseen]; rfl
  unfold State.operandFactors factors
  refine List.map_congr_left fun n hn => ?_
  have hn512 : n < 512 := lt_of_lt_of_le (List.mem_range.1 hn) (Nat.div_le_self 512 _)
  rw [hof, hof, operandNow_element _ _ _ _ _ _ hi hn512 hs,
    operandNow_descriptor _ _ _ _ _ _ hi (lt_of_le_of_lt (Nat.div_le_self n _) hn512) hs]

/-- The tiles after a product: an element of its rows becomes the sum that `elem` says. -/
def productTile (acc : Nat) (m : Mask) (elem : Nat → Nat → Word → Word) (t : Store Word) : Store Word :=
  ((lanesOf m).product (List.range 32)).foldl (fun (t : Store Word) x => t.upd (accKey acc x.1 x.2) (elem x.1 x.2)) t

theorem get_productTile (a : Nat) (m : Mask) (elem : Nat → Nat → Word → Word) (t : Store Word) {r i j : Nat} (hi : i < 32) (hj : j < 32) :
    (productTile a m elem t).get (1024 * r + 32 * i + j)
      = if r = a ∧ inMask m i = true then elem i j (t.get (1024 * r + 32 * i + j)) else t.get (1024 * r + 32 * i + j) := by
  have hpairs (x : Nat × Nat) : x ∈ (lanesOf m).product (List.range 32) ↔ (x.1 < 32 ∧ inMask m x.1 = true) ∧ x.2 < 32 := by
    rw [List.pair_mem_product (x := x.1) (y := x.2), mem_lanesOf, List.mem_range]
  unfold productTile
  by_cases h : r = a ∧ inMask m i = true
  · obtain ⟨hr, hm⟩ := h
    rw [if_pos ⟨hr, hm⟩, show 1024 * r + 32 * i + j = accKey a (i, j).1 (i, j).2 by rw [hr]; rfl]
    refine get_foldl_upd (fun x : Nat × Nat => accKey a x.1 x.2) (fun x => elem x.1 x.2) (List.Nodup.product (lanesOf_nodup _) List.nodup_range)
      (fun x hx y hy hxy => ?_) ((hpairs (i, j)).2 ⟨⟨hi, hm⟩, hj⟩) t
    obtain ⟨⟨hx1, _⟩, hx2⟩ := (hpairs x).1 hx
    obtain ⟨⟨hy1, _⟩, hy2⟩ := (hpairs y).1 hy
    unfold accKey at hxy
    exact Prod.ext (by omega) (by omega)
  · rw [if_neg h]
    refine get_foldl_upd_other (fun x : Nat × Nat => accKey a x.1 x.2) (fun x => elem x.1 x.2) (fun x hx he => h ?_) t
    obtain ⟨⟨hx1, hxm⟩, hx2⟩ := (hpairs x).1 hx
    unfold accKey at he
    have h1 : x.1 = i := by omega
    exact ⟨by omega, h1 ▸ hxm⟩

/-- An element of a product's tile, of its old value (R90, R91). -/
def State.productValue (s : State) (core : Nat) (e : EngineOp) (p : Product) (i j : Nat) (base : Word) : Word :=
  productElem p.int_ p.fresh base (s.operandFactors core e p false i)
    (if s.hasColumn e.grp p j then s.operandFactors core e p true j else [])

theorem execProduct_eq (s : State) (core : Nat) {e : EngineOp} (p : Product) (hd : e.did = []) :
    s.execProduct core e p = s.onEngine core (fun n => { n with acc := productTile p.acc e.mask (s.productValue core e p) n.acc }) := by
  have hfold (acc : Store Word) : ((lanesOf e.mask).map (fun i => (i, s.operandFactors core e p false i))).foldl (fun acc row =>
      ((List.range 32).map (fun j => (j, if s.hasColumn e.grp p j then s.operandFactors core e p true j else []))).foldl (fun (acc : Store Word) col =>
        if e.did.get (32 * row.1 + col.1) then acc
        else acc.upd (accKey p.acc row.1 col.1) (fun base => productElem p.int_ p.fresh base row.2 col.2)) acc) acc
      = productTile p.acc e.mask (s.productValue core e p) acc := by
    rw [hd]
    simp only [List.foldl_map]
    exact foldl_foldl (fun (t : Store Word) (x : Nat × Nat) => t.upd (accKey p.acc x.1 x.2) (s.productValue core e p x.1 x.2)) _ _ acc
  unfold State.execProduct
  dsimp only
  simp only [hfold]

/-- R90, R91, R203: what a product that takes both operands from registers makes of its tile. -/
theorem product_completes {s : State} {core : Nat} {e : EngineOp} {p : Product} (hp : (s.cores.get core).engine.pending = [e])
    (hw : (s.cores.get core).engine.waiting = []) (hseen : e.seen = []) (hd : e.did = [])
    (hg : ∀ x ∈ (s.group e.grp).splits, ∀ w ∈ x.waits, ∀ r n, w ≠ .products r n)
    (he : s.execPending core e = s.execProduct core e p) (hs : p.fromStash = false) :
    Completes (.mmaComplete core) s (fun t => SameRegs s t ∧ SameBytes s t
      ∧ ∀ r i j, r < 4 → i < 32 → j < 32 → (t.cores.get core).engine.acc.get (1024 * r + 32 * i + j) =
        let old := (s.cores.get core).engine.acc.get (1024 * r + 32 * i + j)
        let sl := s.productSlots e.grp p
        if r = p.acc ∧ inMask e.mask i = true then
          productElem p.int_ p.fresh old
            (factors sl.1 (productK sl.1 sl.2) (fun k => (s.group e.grp).vAt (p.baseA + k) i) (fun k => (s.group e.grp).vAt (4 * p.quad + k) i))
            (if inMask (s.group e.grp).exist_ j = true then
              factors sl.2 (productK sl.1 sl.2) (fun k => (s.group e.grp).vAt (p.baseB + k) j) (fun k => (s.group e.grp).vAt (4 * p.quad + 2 + k) j)
            else [])
        else old) := by
  obtain ⟨t, ht, hregs, hbytes, _, hacc⟩ := mmaComplete_tiles (he.trans (execProduct_eq s core p hd)) hp hw hg
  refine ⟨t, ht, hregs, hbytes, fun r i j _ hi hj => ?_⟩
  rw [hacc, get_productTile _ _ _ _ hi hj]
  have hcol : s.hasColumn e.grp p j = inMask (s.group e.grp).exist_ j := by
    unfold State.hasColumn
    rw [hs, Bool.false_or]
  unfold State.productValue
  rw [operandFactors_eq s core p false hi hseen hs, operandFactors_eq s core p true hj hseen hs, hcol]
  rfl

/-- Settles O45: MACQ by what blocking, granting and waking do to splits (`macq_takes`), MREL and MWAIT, the products and MZERO
by how the engine takes them, MLD and MST lane by lane, and completion by the elements that it writes (`product_completes`). -/
theorem matrixEngine : Obligations.MatrixEngine := by
  unfold Obligations.MatrixEngine
  refine ⟨fun s ha hno hq hr => ⟨fun ho hw => macq_takes ha hno hq hr ho hw, fun ho => macq_queues ha hno hq ho⟩, fun s ha ho => macq_again ha ho,
    fun s ha => ⟨fun hno => ⟨onceLanes_notOwner ha hno 0x7F _, onceLanes_notOwner ha hno 0x7F _⟩,
      fun ho hp => ⟨mwait_goes_on ha ho hp, fun hq => mrel_releases ha ho hp hq⟩,
      fun ho hp => ⟨⟨_, (mwait_eq ha ho).trans (if_neg hp), waits_products ha _⟩, ⟨_, (mrel_eq ha ho).trans (if_neg hp), waits_products ha _⟩⟩⟩,
    fun la x y q c a b => ⟨productGoes_of_send rfl rfl rfl fun _ => rfl, productGoes_of_send rfl rfl rfl fun _ => rfl,
      productGoes_of_send rfl rfl rfl fun _ => rfl, productGoes_of_send rfl rfl rfl fun _ => rfl⟩,
    fun la x r q c a b => ⟨productGoes_of_send rfl rfl rfl fun _ => rfl, productGoes_of_send rfl rfl rfl fun _ => rfl⟩,
    fun s c ha ho => ⟨mzero_enters ha ho c, mzero_waits ha ho c⟩,
    fun s d c g hm htx ho => ⟨mld_loads hm htx ho d c g, mst_stores hm htx ho d c g⟩,
    fun s core e hp hw hseen hd hg => ⟨fun c hi => ?_, fun la x y q c a b hi _ => ?_⟩⟩
  · obtain ⟨t, ht, hregs, hbytes, hpend, hacc⟩ := mmaComplete_tiles (execPending_mzero s core hi hd) hp hw hg
    exact ⟨t, ht, hregs, hbytes, hpend, fun r j _ hj => by rw [hacc, get_zeroTile c _ hj]⟩
  · obtain ⟨int_, fresh, hpr, hint, hfresh, hz⟩ : ∃ int_ fresh, productOf e.instr
          = some ⟨int_, fresh, false, c.toNat, a.toNat, b.toNat, 16 * x.toNat, 16 * y.toNat, q.toNat⟩
        ∧ (e.instr == .mmai la x y q c a b || e.instr == .mmaiz la x y q c a b) = int_
        ∧ (e.instr == .mmaz la x y q c a b || e.instr == .mmaiz la x y q c a b) = fresh ∧ ∀ c, e.instr ≠ .mzero c := by
      rcases hi with hi | hi | hi | hi <;> rw [hi]
      · exact ⟨false, false, rfl, by simp, by simp, fun _ => nofun⟩
      · exact ⟨false, true, rfl, by simp, by simp, fun _ => nofun⟩
      · exact ⟨true, false, rfl, by simp, by simp, fun _ => nofun⟩
      · exact ⟨true, true, rfl, by simp, by simp, fun _ => nofun⟩
    rw [hint, hfresh]
    refine product_completes (p := ⟨int_, fresh, false, c.toNat, a.toNat, b.toNat, 16 * x.toNat, 16 * y.toNat, q.toNat⟩) hp hw hseen hd hg ?_ rfl
    unfold State.execPending
    split
    · next c h => exact absurd h (hz c)
    · rw [hpr]

end Sys2Proof.Machine
end

section
/-! ## What a pre-emption leaves as it was (R334)

Pre-empting a block drains its operations, finishes what the engine executes, and takes its groups out of every queue. It
does not touch the pass in focus, which blocks but its own are live, or which launches are live and hold a slot. -/

namespace Sys2Proof.Machine

/-- The pass in focus, and which launches and blocks there are. -/
structure Outline where
  focus : Focus
  launches : Nat → Bool × Bool
  blocks : Nat → Bool

def State.outline (s : State) : Outline where
  focus := s.focus
  launches l := ((s.launches.get l).live, (s.launches.get l).slotFree)
  blocks b := (s.blocks.get b).live

theorem outline_of_kept {s t : State} (h : t.kept = s.kept) : t.outline = s.outline := by
  have hf := focus_of_kept h
  have hl : (fun l => ((t.launches.get l).live, (t.launches.get l).slotFree)) = fun l => ((s.launches.get l).live, (s.launches.get l).slotFree) :=
    funext fun l => (congrArg (fun x : Launch => (x.live, x.slotFree)) (launch_of_kept h l) :)
  have hb : (fun b => (t.blocks.get b).live) = fun b => (s.blocks.get b).live :=
    funext fun b => (congrArg Block.live (block_of_kept h b) :)
  unfold State.outline
  rw [hf, hl, hb]

theorem outline_of_synced {s t : State} (h : t.synced = s.synced) : t.outline = s.outline := by
  have hb : (fun b => (t.blocks.get b).live) = fun b => (s.blocks.get b).live :=
    funext fun b => (congrArg Block.live (block_of_synced h b) :)
  unfold State.outline
  rw [focus_of_synced h, launches_of_synced h, hb]

theorem outline_ite {p : Prop} [Decidable p] {t u : State} {o : Outline} (ht : t.outline = o) (hu : u.outline = o) :
    (if p then t else u).outline = o := by
  split
  · exact ht
  · exact hu

section
variable (s : State)

theorem outline_onBlock (b : Nat) (f : Block → Block) (hf : ∀ y, (f y).live = y.live := by intro _; rfl) : (s.onBlock b f).outline = s.outline :=
  congrArg (fun x => { s.outline with blocks := x }) (funext (proj_get_upd Block.live s.blocks b f hf))
theorem outline_onSplit (g u : Nat) (f : Split → Split) : (s.onSplit g u f).outline = s.outline := rfl
theorem outline_onOp (i : Nat) (f : Op → Op) : (s.onOp i f).outline = s.outline := rfl
theorem outline_noteReply (i : Nat) (t : Times) : (s.noteReply i t).outline = s.outline := rfl
theorem outline_regWrite (bs : List (Nat × Byte)) : (s.regWrite bs).outline = s.outline := rfl
theorem outline_completeOp (i : Nat) : (s.completeOp i).outline = s.outline := rfl
theorem outline_noteSettle (g u t : Nat) : (noteSettle s g u t).outline = s.outline := rfl
theorem outline_noteTimes (g u : Nat) (t : Times) : (s.noteTimes g u t).outline = s.outline := outline_of_kept (kept_noteTimes s g u t)
theorem outline_acceptReply (i : Nat) : (s.acceptReply i).outline = s.outline := outline_noteTimes s _ _ _

theorem outline_polHome (l : Nat) (was : Bool) (p : BitVec 2) : (s.polHome l was p).outline = s.outline := by
  unfold State.polHome; exact outline_ite rfl rfl
theorem outline_polL1 (c l : Nat) (was : Bool) (p : BitVec 2) : (s.polL1 c l was p).outline = s.outline := by
  unfold State.polL1; exact outline_ite rfl rfl
theorem outline_l1Update (c l : Nat) (bs : List (Nat × Byte)) : (s.l1Update c l bs).outline = s.outline := by
  unfold State.l1Update; exact outline_ite rfl rfl
theorem outline_fillPrivate (c x l : Nat) : (s.fillPrivate c x l).outline = s.outline := by
  unfold State.fillPrivate
  exact outline_ite (outline_ite rfl rfl) rfl
theorem outline_flushWcFor (c l : Nat) : (s.flushWcFor c l).outline = s.outline := outline_of_kept (kept_flushWcFor s c l)
theorem outline_homeWrite (l c d st : Nat) (bs : List (Nat × Byte)) : (s.homeWrite l c d st bs).1.outline = s.outline :=
  outline_of_kept (kept_homeWrite s l c d st bs)
theorem outline_watch (g u : Nat) (m : Mask) (n : Word) (p : Nat) (a b c : Bool) (k : Nat) (ls : List (Nat × Nat)) :
    (s.watch g u m n p a b c k ls).outline = s.outline := by
  unfold State.watch
  split
  · rfl
  · exact outline_onSplit s g u _
theorem outline_startWalk (c x p : Nat) : (s.startWalk c x p).outline = s.outline := by
  unfold State.startWalk; exact outline_ite rfl rfl
theorem outline_faultOp (i : Nat) (c : Cause) (d : Nat) (h : Mask) (a : DWord) : (s.faultOp i c d h a).outline = s.outline := rfl

theorem outline_wcStore (c x st g u l line : Nat) (bs : List (Nat × Byte)) : (s.wcStore c x st g u l line bs).outline = s.outline := by
  have hflush (t : State) (p : Prop) [Decidable p] : (if p then t.flushWc c else t).outline = t.outline := by
    split
    · exact outline_of_kept (kept_flushWc t c)
    · rfl
  unfold State.wcStore
  dsimp only
  rw [hflush]
  exact hflush s _

/-! ### Operations run to their end -/

theorem outline_writeDest (i d n : Nat) (f : Word → Word) : (s.writeDest i d n f).outline = s.outline :=
  kept_foldl State.outline _ (by intro t k; rfl) _ s
theorem outline_writeCount (i : Nat) : (s.writeCount i).outline = s.outline := by
  unfold State.writeCount
  dsimp only
  split
  · split <;> rfl
  · rfl

theorem outline_collectCore (c : Nat) (keep : Nat → Bool) : (s.collectCore c keep).1.outline = s.outline :=
  outline_of_kept (kept_collectCore s c keep)
theorem outline_releaseAt (g u n : Nat) : (s.releaseAt g u n).outline = s.outline := by
  unfold State.releaseAt
  exact outline_ite rfl ((outline_noteTimes _ _ _ _).trans ((outline_collectCore _ _ _).trans (outline_of_kept (kept_flushWc s _))))
theorem outline_acquireAt (g u n : Nat) : (s.acquireAt g u n).outline = s.outline := by
  unfold State.acquireAt
  exact outline_ite rfl (outline_ite ((outline_onSplit _ _ _ _).trans (outline_releaseAt s g u 3)) ((outline_noteTimes _ _ _ _).trans (outline_collectCore _ _ _)))
theorem outline_noteDone (i : Nat) : (s.noteDone i).outline = s.outline := by
  unfold State.noteDone
  exact outline_ite (outline_acquireAt s _ _ _) (outline_ite (outline_acquireAt s _ _ _) (outline_ite (outline_noteTimes s _ _ _) rfl))

theorem outline_finishOp (i : Nat) : (s.finishOp i).outline = s.outline := by
  unfold State.finishOp
  split
  · rw [outline_completeOp, outline_noteDone, outline_writeCount, outline_writeDest]
  · rfl

theorem outline_takeDirect (i n L : Nat) : (s.takeDirect i n L).outline = s.outline := by
  have hs (p : Prop) [Decidable p] (l : Nat) : (if p then s else s.collect l).outline = s.outline := by
    split
    · rfl
    · exact outline_of_kept (kept_collect s l)
  exact hs _ _

theorem outline_applyStore (i : Nat) (h : Shape) : (s.applyStore i h).outline = s.outline := by
  refine kept_foldl State.outline _ (fun t L => ?_) _ s
  dsimp only
  split
  · rfl
  · rfl
  · split
    · rfl
    · rw [outline_noteReply, outline_polHome, outline_homeWrite]

theorem outline_atomLane (i : Nat) (h : Shape) (L : Nat) : (s.atomLane i h L).outline = s.outline := by
  unfold State.atomLane
  dsimp only
  split
  · rw [outline_onOp, outline_l1Update, outline_fillPrivate, outline_flushWcFor]
  · rw [outline_noteReply, outline_onOp, outline_l1Update, outline_homeWrite, outline_of_kept (kept_collect _ _), outline_of_kept (kept_recall _ _),
      outline_flushWcFor]

theorem outline_compressFrom (i fuel : Nat) : ∀ s : State, (s.compressFrom i fuel).outline = s.outline := by
  induction fuel with
  | zero => exact fun _ => rfl
  | succ f ih =>
    intro s
    unfold State.compressFrom
    refine outline_ite rfl (outline_ite rfl ?_)
    dsimp only
    split
    · exact outline_startWalk _ _ _ _
    · rfl
    split
    · rfl
    refine outline_ite rfl (outline_ite ?_ (outline_ite ?_ ?_))
    · rw [ih, outline_onOp, outline_polL1, outline_l1Update, outline_fillPrivate, outline_flushWcFor, outline_watch]
    · rw [ih, outline_onOp, outline_wcStore, outline_l1Update, outline_watch]
    · rw [ih, outline_noteReply, outline_onOp, outline_l1Update, outline_polHome, outline_homeWrite, outline_flushWcFor, outline_watch]

theorem outline_drainOp (i : Nat) : (s.drainOp i).outline = s.outline := by
  unfold State.drainOp
  dsimp only
  split
  · split
    · exact outline_finishOp s i
    split
    · rfl
    split
    · rw [outline_finishOp]
      exact kept_foldl State.outline _ (fun t L => outline_takeDirect t _ _ _) _ s
    · split
      · rfl
      · rw [outline_acceptReply, outline_applyStore]
    · rw [outline_finishOp]
      exact kept_foldl State.outline _ (fun t L => outline_atomLane t _ _ _) _ s
    · split
      · rw [outline_acceptReply, outline_compressFrom]
      · exact outline_compressFrom _ _ s
    · rfl
  · split
    · exact outline_finishOp s i
    · rfl

/-! ### A group stops -/

theorem outline_stopIssue (g : Nat) : (s.stopIssue g).outline = s.outline := by
  unfold State.stopIssue
  dsimp only
  split
  · rfl
  split
  · rfl
  split
  · rfl
  · rfl

theorem outline_endWait (g u : Nat) (w : Wait) : (s.endWait g u w).outline = s.outline := outline_of_synced (synced_endWait s g u w)

theorem outline_overWaits (g : Nat) (f : State → Split → Wait → State) (hf : ∀ t x w, (f t x w).outline = t.outline) :
    (s.overWaits g f).outline = s.outline :=
  kept_foldl State.outline _ (fun t x => kept_foldl State.outline _ (fun u w => by split; exacts [hf u x w, rfl]) _ t) _ s

theorem outline_txResult (g L : Nat) (d : Reg) (p : BitVec 3) (w : Word) : (s.txResult g L d p w).outline = s.outline := by
  unfold State.txResult
  dsimp only
  rw [outline_of_synced (synced_closeTx _ _ _)]
  rfl

theorem outline_commitAbandon (g u : Nat) (d : Reg) (p : BitVec 3) (left : Mask) : (s.commitAbandon g u d p left).outline = s.outline := by
  unfold State.commitAbandon
  rw [outline_endWait]
  exact kept_foldl State.outline _ (fun t L => outline_txResult t _ _ _ _ _) _ s

theorem outline_quiesceGroup (g : Nat) : (s.quiesceGroup g).outline = s.outline := by
  refine (kept_foldl State.outline _ (fun t i => outline_drainOp t i) _ _).trans ?_
  refine (outline_overWaits _ g _ (fun t x w => ?_)).trans (outline_stopIssue s g)
  split
  · exact outline_commitAbandon t _ _ _ _ _
  · rfl

/-! ### The engine -/

theorem outline_execPending (c : Nat) (e : EngineOp) : (s.execPending c e).outline = s.outline := by
  unfold State.execPending
  split
  · rfl
  · split <;> rfl

theorem outline_operandFlush (g off : Nat) (p : Product) : (s.operandFlush g off p).outline = s.outline :=
  kept_foldl State.outline _ (fun t _ => outline_flushWcFor t _ _) _ s
theorem outline_wantLine (b sl : Nat) : (s.wantLine b sl).outline = s.outline := by
  unfold State.wantLine
  split
  · rfl
  · exact outline_onBlock s b (fun y => { y with mapLines := y.mapLines.upd sl (fun x => { x with filling := some s.now }) })

theorem outline_acceptEngine (c fuel : Nat) : ∀ s : State, (s.acceptEngine c fuel).outline = s.outline := by
  induction fuel with
  | zero => exact fun _ => rfl
  | succ f ih =>
    intro s
    unfold State.acceptEngine
    dsimp only
    split
    · rfl
    split
    · rfl
    split
    · split
      · exact ih _
      · exact ih _
    split
    · rfl
    split
    · exact (ih _).trans (outline_operandFlush s _ _ _)
    · exact (kept_foldl State.outline _ (fun t l => outline_wantLine t _ _) _ _).trans (outline_operandFlush s _ _ _)

theorem outline_computeEnd (g : Nat) : (s.computeEnd g).outline = s.outline := by
  unfold State.computeEnd State.stampEvent
  split <;> rfl

theorem outline_productDone (c g : Nat) : (s.productDone c g).outline = s.outline := by
  have hif (t : State) (p : Prop) [Decidable p] : (if p then t.releaseEngine c else t).outline = t.outline := by
    split
    · exact outline_of_synced (synced_releaseEngine t c)
    · rfl
  refine outline_overWaits s g _ (fun t x w => ?_)
  split
  · dsimp only
    split
    · rw [outline_endWait, hif, outline_computeEnd]
    · rfl
  · rfl

theorem outline_engineComplete (c : Nat) : (s.engineComplete c).outline = s.outline := by
  unfold State.engineComplete
  split
  · exact outline_acceptEngine _ _ s
  · rw [outline_productDone, outline_acceptEngine]
    exact outline_execPending s c _

theorem outline_engineFinish (c : Nat) : (s.engineFinish c).outline = s.outline :=
  kept_foldl State.outline _ (fun t _ => outline_engineComplete t c) _ s

/-! ### What is left behind -/

theorem kept_writeAreas (v : Saved) (n : Nat) : (s.writeAreas v n).1.kept = s.kept := by
  refine kept_foldl_fst State.kept _ (fun t p => ?_) _ _
  split
  · next h => exact kept_agentWrite h
  · rfl

theorem outline_wakeGong (d : Nat) : (s.wakeGong d).outline = s.outline := by
  have hif (p : Prop) [Decidable p] (e : Instr) : (if p then s else s.post e).outline = s.outline := by split <;> rfl
  unfold State.wakeGong
  dsimp only
  split
  · exact hif _ _
  · refine (kept_foldl State.outline _ (fun t e => ?_) _ _).trans (hif _ _)
    split
    · rfl
    · exact kept_foldl State.outline _ (fun u x => outline_endWait u _ _ _) _ t

theorem outline_forgetGroup (g : Nat) : (s.forgetGroup g).outline = s.outline := by
  have hif (t : State) (p : Prop) [Decidable p] (c : Nat) : (if p then t.releaseEngine c else t).outline = t.outline := by
    split
    · exact outline_of_synced (synced_releaseEngine t c)
    · rfl
  unfold State.forgetGroup
  dsimp only
  rw [outline_of_synced (synced_grantTxSlot _ _), hif, outline_of_synced (synced_releaseToken _ _)]
  exact outline_wakeGong (((s.onCore _ _).onEngine _ _).onDie _ _) _

theorem outline_renameRefs (m : List (Nat × Nat)) : (s.renameRefs m).outline = s.outline := by
  unfold State.renameRefs
  exact congrArg (fun x => { s.outline with launches := x })
    (funext (proj_get_map (fun x : Launch => (x.live, x.slotFree)) s.launches
      (fun x => { x with stubQ := x.stubQ.map (fun r => { r with grp := renamed m r.grp })
                         stubWait := x.stubWait.map (fun l => l.map (fun r => { r with grp := renamed m r.grp })) }) (fun _ => rfl)))
end

end Sys2Proof.Machine
end

section
/-! ## Pre-emption, and events of the cores (R21, R36, R102, R109, R140, R334, R342) -/

namespace Sys2Proof.Machine

/-! ### Pre-empted blocks (R334) -/

/-- An outline with blocks gone. -/
def Outline.without (o : Outline) (bs : List Nat) : Outline := { o with blocks := fun b => if b ∈ bs then false else o.blocks b }

theorem Outline.without_without (o : Outline) (bs cs : List Nat) : (o.without bs).without cs = o.without (bs ++ cs) := by
  unfold Outline.without
  have hb : (fun b => if b ∈ cs then false else if b ∈ bs then false else o.blocks b) = fun b => if b ∈ bs ++ cs then false else o.blocks b := by
    funext b
    by_cases h1 : b ∈ bs <;> by_cases h2 : b ∈ cs <;> simp [h1, h2]
  rw [hb]

theorem outline_clearBlock (s : State) (b : Nat) : (s.onBlock b (fun _ => {})).outline = s.outline.without [b] := by
  have hb : (fun k => ((s.onBlock b (fun _ => {})).blocks.get k).live) = fun k => if k ∈ [b] then false else (s.blocks.get k).live := by
    funext k
    rw [State.onBlock_blocks, Store.get_upd]
    by_cases h : k = b
    · rw [if_pos h, if_pos (List.mem_singleton.2 h)]
    · rw [if_neg h, if_neg (fun hk => h (List.mem_singleton.1 hk))]
  unfold State.outline Outline.without
  rw [hb]
  rfl

/-- R334: a pre-empted block is no longer live; nothing else of the outline changes. -/
theorem outline_preemptBlock (s : State) (b : Nat) : (s.preemptBlock b).outline = s.outline.without [b] := by
  unfold State.preemptBlock
  extract_lets k core s' s0 s1 mine own s2 s3 src y n sv w s4 s5 s6
  by_cases hdead : (!k.live) = true
  · rw [if_pos hdead]
    have hb : (fun j => if j ∈ [b] then false else (s.blocks.get j).live) = fun j => (s.blocks.get j).live := by
      funext j
      by_cases h : j = b
      · rw [if_pos (List.mem_singleton.2 h), h]
        exact ((Bool.not_eq_true' _).mp hdead).symm
      · rw [if_neg (fun hk => h (List.mem_singleton.1 hk))]
    unfold State.outline Outline.without
    rw [hb]
  · rw [if_neg hdead]
    have h' : s'.outline = s.outline := outline_ite rfl rfl
    have h1 : s1.outline = s.outline := (kept_foldl State.outline _ (fun t g => outline_quiesceGroup t g) _ s0).trans h'
    have h2 : s2.outline = s1.outline := by
      have hown (o : Option Nat) : (match o with | some g => if mine g then s1.engineFinish core else s1 | none => s1 : State).outline = s1.outline := by
        cases o with
        | none => rfl
        | some g => exact outline_ite (outline_engineFinish s1 core) rfl
      exact hown own
    have h3 : s3.outline = s2.outline := outline_of_kept ((kept_leaveCore _ _ _).trans (kept_dropMaps _ _))
    have h4 : w.1.outline = s3.outline := outline_of_kept (kept_writeAreas s3 sv _)
    have h5 : s5.outline = w.1.outline := (outline_renameRefs _ _).trans (kept_foldl State.outline _ (fun t g => outline_forgetGroup t g) _ s4)
    have h6 : s6.outline = s5.outline.without [b] := outline_clearBlock s5 b
    show s6.outline = _
    rw [h6, h5, h4, h3, h2, h1]

theorem outline_preemptAll (bs : List Nat) : ∀ s : State, (bs.foldl (fun (st : State) b => st.preemptBlock b) s).outline = s.outline.without bs := by
  induction bs with
  | nil => exact fun _ => rfl
  | cons b t ih => exact fun s => by rw [List.foldl_cons, ih, outline_preemptBlock, Outline.without_without, List.singleton_append]

theorem outline_preemptBlocks (s : State) (bs : List Nat) (reason : Option Nat) : (s.preemptBlocks bs reason).outline = s.outline.without bs := by
  unfold State.preemptBlocks
  extract_lets launches s1 s2
  have h1 : s1.outline = s.outline.without bs := outline_preemptAll bs s
  have h2 : s2.outline = s1.outline := by
    cases reason with
    | none => rfl
    | some r => exact kept_foldl State.outline _ (fun t l => outline_of_kept (kept_postTrap t _ _)) _ s1
  exact (kept_foldl State.outline _ (by intro t e; exact outline_ite rfl rfl) _ s2).trans (h2.trans h1)

theorem outline_postWaiting (s : State) : s.postWaiting.outline = s.outline := (congrArg State.outline (postWaiting_pending s) :)

/-- R342: a context stops. -/
theorem stopContext_stops (s : State) (ctx : Nat) (st : CtxState) : ((s.stopContext ctx st).ctxs.get ctx).st = st
    ∧ (s.stopContext ctx st).outline = s.outline.without (s.blocksOf ctx (fun _ => true)) := by
  unfold State.stopContext
  refine ⟨?_, ?_⟩
  · rw [(congrArg State.ctxs (postWaiting_pending _) :), State.onCtx_ctxs, Store.get_upd, if_pos rfl]
  · rw [outline_postWaiting]
    exact outline_preemptBlocks s _ none

theorem focus_stopContext (s : State) (ctx : Nat) (st : CtxState) : (s.stopContext ctx st).focus = s.focus :=
  (congrArg Outline.focus (stopContext_stops s ctx st).2 :)

/-! ### A failing word (R36, R102, R109, R342) -/

theorem findSplit_onSplit (k : Group) (u v : Nat) (f : Split → Split) (hf : ∀ x, (f x).mask = x.mask) (hu : ∀ x, (f x).uid = x.uid) :
    (k.onSplit u f).findSplit v = (k.findSplit v).map (fun x => if x.uid = u then f x else x) := by
  unfold Group.findSplit
  rw [splits_onSplit k u f hf, List.find?_map]
  refine congrArg (Option.map _) (congrArg (fun p => k.splits.find? p) (funext fun x => ?_))
  show decide ((if x.uid = u then f x else x).uid = v) = decide (x.uid = v)
  split
  · rw [hu]
  · rfl

/-- Issue stops for a group (R385): its splits may keep what is left of an offset. -/
theorem stopIssue_eq (s : State) (g : Nat) : s.stopIssue g = s ∨ ∃ q f, s.stopIssue g = s.onQuad q f
    ∨ ∃ c : Issue, s.stopIssue g = (s.onQuad q f).onSplit g c.uid (fun x => { x with rest := some c }) := by
  unfold State.stopIssue
  dsimp only
  split
  · exact .inl rfl
  · split
    · exact .inl rfl
    · refine .inr ⟨quadOfGroup g, fun k => { k with cur := none }, ?_⟩
      split
      · exact .inl rfl
      · exact .inr ⟨_, rfl⟩

theorem bare_stopIssue (s : State) (g : Nat) : (s.stopIssue g).bare = s.bare := by
  obtain h | ⟨q, f, h | ⟨c, h⟩⟩ := stopIssue_eq s g <;> rw [h]
  · rfl
  · exact bare_onSplit (s.onQuad q f) g c.uid _

theorem sameBytes_stopIssue (s : State) (g : Nat) : SameBytes s (s.stopIssue g) := by
  obtain h | ⟨q, f, h | ⟨c, h⟩⟩ := stopIssue_eq s g <;> rw [h] <;> exact fun _ => rfl

theorem focus_stopIssue (s : State) (g : Nat) : (s.stopIssue g).focus = s.focus := congrArg Outline.focus (outline_stopIssue s g)

/-- What a split has outstanding stays as it was. -/
theorem out_stopIssue (s : State) (g u : Nat) {x : Split} (hx : (s.group g).findSplit u = some x) : ((s.stopIssue g).splitOf g u).out = x.out := by
  have hs : (s.splitOf g u).out = x.out := by rw [State.splitOf, hx]; rfl
  obtain h | ⟨q, f, h | ⟨c, h⟩⟩ := stopIssue_eq s g <;> rw [h]
  · exact hs
  · exact hs
  · have hg : (((s.onQuad q f).onSplit g c.uid (fun x => { x with rest := some c })).group g)
        = (s.group g).onSplit c.uid (fun x => { x with rest := some c }) := by
      rw [State.onSplit, group_onGroup, if_pos rfl]; rfl
    rw [State.splitOf, hg, findSplit_onSplit (s.group g) c.uid u (fun x => { x with rest := some c }) (fun _ => rfl) (fun _ => rfl), hx]
    show (if x.uid = c.uid then { x with rest := some c } else x).out = x.out
    split <;> rfl

/-- The record of a failing word. -/
def State.wordRecord (s : State) (illop : Bool) (reason low : Byte) (p : BitVec 2) : TrapRecord :=
  s.record s.focus.grp s.focus.uid (if illop then .illop else .ill) (256 * reason.toNat + low.toNat) 0
    (s.fetchAddr s.focus.grp s.focus.version p.toNat s.focus.offset) s.focus.offset s.focus.lanes p.toNat

/-- The pass in focus traps: issue has stopped, and it has no effect. -/
def State.trapping (s : State) : State := (s.stopIssue s.focus.grp).onFocus (fun f => { f with trapped := true })

section
variable {s : State} {x : Split} (illop : Bool) (reason low : Byte) (p : BitVec 2) (hx : s.cur.findSplit s.focus.uid = some x)
include hx

theorem word_waits (hout : x.out ≠ []) : Completes (.wordNotInstruction illop reason low p) s (fun t => SameRegs s t ∧ SameBytes s t
    ∧ t.focus.trapped = true ∧ SplitIs s t (fun y => ∃ r, y.trap = some r ∧ r.cause = (if illop then .illop else .ill)
      ∧ r.detail = BitVec.ofNat 16 (256 * reason.toNat + low.toNat) ∧ r.offset = s.focus.offset ∧ r.plane = p.toNat ∧ r.active = s.focus.lanes)) := by
  have hgo : exec (.wordNotInstruction illop reason low p) s
      = .next (s.trapping.onSplit s.focus.grp s.focus.uid (fun y => { y with trap := some (s.wordRecord illop reason low p) })) := by
    refine congrArg Host.Outcome.next (if_neg ?_)
    show ¬ ((s.stopIssue s.focus.grp).splitOf s.focus.grp s.focus.uid).out = []
    rw [out_stopIssue s _ _ hx]
    exact hout
  have hfocus : s.trapping.focus = { s.focus with trapped := true } :=
    congrArg (fun f : Focus => { f with trapped := true }) (focus_stopIssue s s.focus.grp)
  refine ⟨_, hgo, sameRegs_of_bare ((bare_onSplit s.trapping _ _ _).trans (bare_stopIssue s _)), fun a => sameBytes_stopIssue s s.focus.grp a, ?_, ?_⟩
  · exact congrArg Focus.trapped hfocus
  · intro y hy hu
    have hgrp : s.trapping.focus.grp = s.focus.grp := (congrArg Focus.grp hfocus :)
    have hcur : (s.trapping.onSplit s.focus.grp s.focus.uid (fun y => { y with trap := some (s.wordRecord illop reason low p) })).cur
        = s.trapping.cur.onSplit s.focus.uid (fun y => { y with trap := some (s.wordRecord illop reason low p) }) := by
      rw [← hgrp]
      exact cur_onSplit s.trapping _ _
    rw [hcur, splits_onSplit s.trapping.cur s.focus.uid (fun y => { y with trap := some (s.wordRecord illop reason low p) }) (fun _ => rfl)] at hy
    obtain ⟨z, _, rfl⟩ := List.mem_map.1 hy
    by_cases hz : z.uid = s.focus.uid
    · rw [if_pos hz]
      exact ⟨s.wordRecord illop reason low p, rfl, rfl, rfl, rfl, rfl, rfl⟩
    · rw [if_neg hz] at hu
      exact absurd hu hz

/-- R342: no stub takes a failing word: the record is written, and the context stops. -/
theorem word_stops (hout : x.out = []) : Completes (.wordNotInstruction illop reason low p) s (fun t => t.focus.trapped = true
    ∧ (t.ctxs.get (s.ctxOf s.focus.grp)).st = .stopped) := by
  have hctx : s.trapping.ctxOf s.focus.grp = s.ctxOf s.focus.grp := by
    have hblock : (s.trapping.group s.focus.grp).block = s.cur.block := (congrArg Group.block (congrFun (bare_stopIssue s s.focus.grp) s.focus.grp) :)
    have hblocks : s.trapping.blocks = s.blocks := by
      show (s.stopIssue s.focus.grp).blocks = s.blocks
      obtain h | ⟨q, f, h | ⟨c, h⟩⟩ := stopIssue_eq s s.focus.grp <;> rw [h] <;> rfl
    unfold State.ctxOf State.blockOf
    rw [hblock, hblocks]; rfl
  have hstub (t : State) (c : Cause) (hc : stubCause c = false) : t.hasStub s.focus.grp c = false := by
    unfold State.hasStub
    rw [hc, Bool.and_false]
  have hcause : stubCause (s.wordRecord illop reason low p).cause = false := by
    cases illop <;> rfl
  have hgo : exec (.wordNotInstruction illop reason low p) s = .next (((s.trapping.onSplit s.focus.grp s.focus.uid
      (fun y => { y with trap := none })).postTrap (s.trapping.ctxOf s.focus.grp) (s.wordRecord illop reason low p)).stopContext
        (s.trapping.ctxOf s.focus.grp) .stopped) := by
    refine congrArg Host.Outcome.next ((if_pos ?_).trans (if_neg ?_))
    · show ((s.stopIssue s.focus.grp).splitOf s.focus.grp s.focus.uid).out = []
      rw [out_stopIssue s _ _ hx, hout]
    · exact fun h => Bool.false_ne_true ((hstub _ _ hcause).symm.trans h)
  rw [hctx] at hgo
  have hpost : ((s.trapping.onSplit s.focus.grp s.focus.uid (fun y => { y with trap := none })).postTrap (s.ctxOf s.focus.grp)
      (s.wordRecord illop reason low p)).focus = s.trapping.focus := by
    rw [focus_of_kept (kept_postTrap _ _ _)]; rfl
  generalize (s.trapping.onSplit s.focus.grp s.focus.uid (fun y => { y with trap := none })).postTrap (s.ctxOf s.focus.grp)
    (s.wordRecord illop reason low p) = w at hgo hpost
  refine ⟨_, hgo, ?_, (stopContext_stops w _ _).1⟩
  rw [focus_stopContext, hpost]
  rfl
end

/-! ### Rotation and the end of a YIELD (R21, R140) -/

theorem spillRotation_rotates (s : State) (g : Nat) (x : Split) (h : s.longSpilled g = some x) :
    Completes (.spillRotation g) s (fun t => SameRegs { s with groups := s.groups.upd g (fun k => { k with rot := k.rot + 1 }) } t ∧ SameBytes s t
      ∧ (t.group g).rot = (s.group g).rot + 1 ∧ (t.group g).ent.get (s.group g).rot.toNat = x
      ∧ (∀ e, e ≠ (s.group g).rot.toNat → (t.group g).ent.get e = (s.group g).ent.get e)
      ∧ (t.group g).spill = (s.group g).spill.map (fun y => if y.uid = x.uid then { (s.group g).ent.get (s.group g).rot.toNat with since := s.now } else y)
      ∧ ∀ h, h ≠ g → t.group h = s.group h) := by
  have hgo : exec (.spillRotation g) s = .next (s.onGroup g (fun k => { k with
      ent := k.ent.put k.rot.toNat x, rot := k.rot + 1
      spill := k.spill.map (fun y => if y.uid = x.uid then { k.ent.get k.rot.toNat with since := s.now } else y) })) := by
    show execSpillRotation g s = _
    unfold execSpillRotation
    rw [h]
  refine ⟨_, hgo, fun j => ?_, fun _ => rfl, ?_⟩
  · rw [group_onGroup]
    have hrot : State.group { s with groups := s.groups.upd g (fun k => { k with rot := k.rot + 1 }) } j
        = if j = g then { s.group g with rot := (s.group g).rot + 1 } else s.group j := group_onGroup s g _ j
    rw [hrot]
    split <;> rfl
  · rw [group_onGroup, if_pos rfl]
    refine ⟨rfl, Store.get_put_same _ _ _, fun e he => Store.get_put_ne _ _ he, rfl, fun j hj => ?_⟩
    rw [group_onGroup, if_neg hj]

theorem yieldExpiry_ends (s : State) (q : Nat) : Completes (.yieldExpiry q) s (fun t => { t with quads := s.quads } = s
    ∧ ∀ y, y ∈ (t.quads.get q).yields ↔ y ∈ (s.quads.get q).yields ∧ s.now < y.until_) := by
  refine ⟨_, rfl, rfl, fun y => ?_⟩
  rw [State.onQuad_quads, Store.get_upd, if_pos rfl, List.mem_filter, decide_eq_true_eq]

/-- Settles O55: rotation and the end of a YIELD by their meanings; a failing word by what stopping issue keeps, and, when
nothing is outstanding, by what pre-empting the context's blocks keeps (`outline_preemptBlocks`). -/
theorem coreEvents : Obligations.CoreEvents := by
  unfold Obligations.CoreEvents
  exact ⟨spillRotation_rotates, yieldExpiry_ends, fun s illop reason low p x hx _ => ⟨word_waits illop reason low p hx, word_stops illop reason low p hx⟩⟩

end Sys2Proof.Machine
end

section
/-! ## Placement of a block (R17, R41) -/

namespace Sys2Proof.Machine

/-! ### A group as it starts (R17) -/

section
variable (uid b : Nat) (r : Record) (addr : DWord) (stash start : Nat) (arm : Option Nat) (n : Nat)

/-- The first group of a block. -/
def firstGroup : Group := { startGroup uid b 0 r.lanes r addr stash start arm with frame := n }

theorem firstGroup_exist {L : Nat} (hL : L < 32) : inMask (firstGroup uid b r addr stash start arm n).exist_ L = decide (L < r.lanes) := by
  show inMask (maskOf (fun L => decide (32 * 0 + L < r.lanes))) L = _
  rw [inMask_maskOf, Nat.mul_zero, Nat.zero_add, decide_eq_true hL, Bool.true_and]

theorem firstGroup_vAt (q : Nat) {L : Nat} (hL : L < 32) : (firstGroup uid b r addr stash start arm n).vAt q L
    = if q = 0 ∧ L < r.lanes then BitVec.ofNat 32 L else 0 := by
  have hex := firstGroup_exist uid b r addr stash start arm n hL
  have hv : (firstGroup uid b r addr stash start arm n).vAt q L = if q = 0 ∧ inMask (firstGroup uid b r addr stash start arm n).exist_ L = true
      then BitVec.ofNat 32 (32 * 0 + L) else (0 : Word) := get_putLanes [] 0 _ _ q L hL
  rw [hv, hex, Nat.mul_zero, Nat.zero_add]
  simp only [decide_eq_true_eq]

theorem firstGroup_sAt (q : Nat) : (firstGroup uid b r addr stash start arm n).sAt q = (match q with
    | 0 => r.argument.extractLsb' 0 32 | 1 => r.argument.extractLsb' 32 32 | 2 => BitVec.ofNat 32 stash
    | 4 => addr.extractLsb' 0 32 | 5 => addr.extractLsb' 32 32 | _ => 0) := by
  show Store.get ([(0, loWord r.argument), (1, hiWord r.argument), (2, BitVec.ofNat 32 stash),
    (3, BitVec.ofNat 32 0), (4, loWord addr), (5, hiWord addr)].foldl (fun st e => st.put e.1 e.2) []) q = _
  simp only [List.foldl_cons, List.foldl_nil, Store.get_put, Store.get_nil, loWord_eq, hiWord_eq]
  match q with
  | 0 => rfl
  | 1 => rfl
  | 2 => rfl
  | 3 => rfl
  | 4 => rfl
  | 5 => rfl
  | q + 6 => simp; rfl
end

/-! ### The groups of a block that starts -/

/-- The state but for its groups and the name of the next split. -/
def State.ungrouped (s : State) : State := { s with groups := [], nextOp := 0 }

/-- One more group of the block of a launch starts. -/
def State.addGroup (x : Launch) (b stash core : Nat) (frames : List Nat) (st : State × List Nat) (i : Nat) : State × List Nat :=
  let g := st.1.pickSlot core
  (({ st.1 with nextOp := st.1.nextOp + 1 } : State).onGroup g
    (fun _ => { startGroup st.1.nextOp b i x.rec_.lanes x.rec_ x.addr stash x.start x.requested with frame := frames.getD i 0 }), st.2 ++ [g])

/-- The groups of a block start. -/
def State.addGroups (s : State) (l b stash : Nat) : State × List Nat :=
  (List.range (s.launches.get l).rec_.groups).foldl (State.addGroup (s.launches.get l) b stash (coreOfBlock b)
    (s.freeFrames (s.launches.get l).ctx (s.launches.get l).rec_.groups)) (s, [])

theorem ungrouped_addGroups (s : State) (l b stash : Nat) : (s.addGroups l b stash).1.ungrouped = s.ungrouped :=
  kept_foldl_fst State.ungrouped _ (by intro u i; rfl) _ (s, [])

theorem length_addGroups (s : State) (l b stash : Nat) : (s.addGroups l b stash).2.length = (s.launches.get l).rec_.groups := by
  have hfold (x : Launch) (core : Nat) (frames : List Nat) (is : List Nat) : ∀ st : State × List Nat,
      (is.foldl (State.addGroup x b stash core frames) st).2.length = st.2.length + is.length := by
    induction is with
    | nil => exact fun _ => rfl
    | cons i t ih =>
      intro st
      rw [List.foldl_cons, ih]
      simp [State.addGroup]
      omega
  unfold State.addGroups
  rw [hfold, List.length_range]; simp

/-- A block of one group starts it in the slot that R38 picks. -/
theorem addGroups_one {s : State} {l : Nat} (h : (s.launches.get l).rec_.groups = 1) (b stash : Nat) :
    (s.addGroups l b stash).2 = [s.pickSlot (coreOfBlock b)]
    ∧ ∃ n, (s.addGroups l b stash).1.group (s.pickSlot (coreOfBlock b))
      = firstGroup s.nextOp b (s.launches.get l).rec_ (s.launches.get l).addr stash (s.launches.get l).start (s.launches.get l).requested n := by
  unfold State.addGroups
  rw [h]
  refine ⟨rfl, (s.freeFrames (s.launches.get l).ctx 1).getD 0 0, ?_⟩
  exact (group_onGroup _ _ _ _).trans (if_pos rfl)

/-- A block as it starts. -/
def State.freshBlock (s : State) (l b stash ident : Nat) : Block :=
  { live := true, launch := l, number := (s.launches.get l).placed, ident := ident, ctx := (s.launches.get l).ctx, core := coreOfBlock b
    groups := (s.addGroups l b stash).2, stash := stash, stashSize := (s.launches.get l).rec_.stash }

/-! ### The place of a block (R41) -/

theorem freeContextBlock_core {s : State} {core b : Nat} (h : s.freeContextBlock core = some b) : coreOfBlock b = core := by
  obtain ⟨i, hi, rfl⟩ := List.mem_map.1 (List.mem_of_find?_eq_some h)
  have := List.mem_range.1 hi
  unfold coreOfBlock
  omega

theorem room_core {s : State} {core n k : Nat} {p : Nat × Nat} (h : s.room core n k = some p) : coreOfBlock p.1 = core := by
  unfold State.room at h
  split at h
  · cases h
  · split at h
    · next b o hb _ =>
      cases h
      exact freeContextBlock_core hb
    · cases h

theorem findPlace_core {s : State} {l core b stash : Nat} {ban : BitVec 8} (h : s.findPlace l ban = some (core, b, stash)) : coreOfBlock b = core := by
  unfold State.findPlace at h
  dsimp only at h
  obtain ⟨d, _, hd⟩ := List.exists_of_findSome?_eq_some h
  obtain ⟨c, _, hc⟩ := List.exists_of_findSome?_eq_some hd
  obtain ⟨p, hp, hcore⟩ := Option.map_eq_some_iff.1 hc
  cases hcore
  exact room_core hp

/-- The identifier of the next block of a launch. -/
def State.nextIdent (s : State) (l : Nat) : Nat :=
  blockIdent ((s.launches.get l).rec_.widths.drop (s.launches.get l).rec_.level) ((s.launches.get l).rec_.extents.drop (s.launches.get l).rec_.level)
    (s.launches.get l).placed

/-- The state in which the next block of a launch stands at its place, of that in which its groups have started. -/
def State.standing (u : State) (y : Block) (l core b ctx now : Nat) : State :=
  ((((u.onBlock b (fun _ => y)).onLaunch l (fun k => { k with placed := k.placed + 1 })).onCtx ctx
      (fun c => { c with sliceStart := some (c.sliceStart.getD now) })).onDie (dieOfCore core)
    (fun k => { k with place := (core % 32 + 1) % 32 })).onLaunch l (fun k => { k with lastDie := some (dieOfCore core) })

theorem standing_launch (u : State) (y : Block) (l core b ctx now : Nat) : (u.standing y l core b ctx now).launches.get l
    = { u.launches.get l with placed := (u.launches.get l).placed + 1, lastDie := some (dieOfCore core) } := by
  simp [State.standing, Store.get_upd]
theorem standing_die (u : State) (y : Block) (l core b ctx now : Nat) : (u.standing y l core b ctx now).dies.get (dieOfCore core)
    = { u.dies.get (dieOfCore core) with place := (core % 32 + 1) % 32 } := by
  simp [State.standing, Store.get_upd]
theorem standing_block (u : State) (y : Block) (l core b ctx now : Nat) : (u.standing y l core b ctx now).blocks.get b = y := by
  simp [State.standing, Store.get_upd]

theorem standing_group (u : State) (y : Block) (l core b ctx now g : Nat) : (u.standing y l core b ctx now).group g = u.group g := by
  simp [State.standing, State.group]
theorem standing_bytes (u : State) (y : Block) (l core b ctx now : Nat) : SameBytes u (u.standing y l core b ctx now) := by
  intro a
  unfold State.byteAt
  simp [State.standing]

/-- The next block of a launch, placed. -/
def State.placeAt (s : State) (l core b stash : Nat) : State :=
  (s.addGroups l b stash).1.standing (s.freshBlock l b stash (s.nextIdent l)) l core b (s.launches.get l).ctx s.now

section
variable {s : State} {l core b stash : Nat} (hw : s.waitingLaunches = [l]) (hs : s.waitingSaved = []) (hc : (s.launches.get l).child = false)
  (hr : (s.launches.get l).rec_.coresident = false) (hp : s.findPlace l 0 = some (core, b, stash))
include hw hs hc hr hp

/-- The only waiting launch places its next block, with no saved block before it. -/
theorem blockPlacement_places : exec .blockPlacement s = .next ((s.placeAt l core b stash).post .blockPlacement) := by
  have hban : s.savedBan l = 0 := by unfold State.savedBan; rw [hs]; rfl
  have hplace : s.tryPlace l 0 = some (s.placeAt l core b stash) := by
    unfold State.tryPlace State.placeNext
    dsimp only
    rw [hr, if_neg (by simp), hp]
    rfl
  have hnext : s.nextPlacement = some (l, s.placeAt l core b stash) := by
    unfold State.nextPlacement
    rw [hw, State.placeFirst, hc, hban, Bool.false_and, if_neg (by simp), show (0 ||| 0 : BitVec 8) = 0 from rfl, hplace]
  have hrestore : s.nextRestore = none := by unfold State.nextRestore; rw [hs]; rfl
  show execBlockPlacement s = _
  unfold execBlockPlacement
  rw [hnext, hrestore]
end

theorem sameBytes_of_ungrouped {s t : State} (h : t.ungrouped = s.ungrouped) : SameBytes s t := by
  have hm : t.mem = s.mem := (congrArg State.mem h :)
  have hh : t.home = s.home := (congrArg State.home h :)
  have hcores : t.cores = s.cores := (congrArg State.cores h :)
  intro a
  unfold State.byteAt
  rw [hm, hh, hcores]

theorem sameBytes_placeAt (s : State) (l core b stash : Nat) : SameBytes s (s.placeAt l core b stash) :=
  (sameBytes_of_ungrouped (ungrouped_addGroups s l b stash)).trans (standing_bytes _ _ _ _ _ _ _)

theorem sameBytes_post (s : State) (e : Instr) : SameBytes s (s.post e) := fun _ => rfl
theorem group_post (s : State) (e : Instr) (g : Nat) : (s.post e).group g = s.group g := rfl

theorem launch_placeAt (s : State) (l core b stash : Nat) : (s.placeAt l core b stash).launches.get l
    = { s.launches.get l with placed := (s.launches.get l).placed + 1, lastDie := some (dieOfCore core) } := by
  have hl : (s.addGroups l b stash).1.launches = s.launches := (congrArg State.launches (ungrouped_addGroups s l b stash) :)
  rw [State.placeAt, standing_launch, hl]

theorem block_placeAt (s : State) (l core b stash : Nat) : (s.placeAt l core b stash).blocks.get b = s.freshBlock l b stash (s.nextIdent l) :=
  standing_block _ _ _ _ _ _ _
theorem die_placeAt (s : State) (l core b stash : Nat) : ((s.placeAt l core b stash).dies.get (dieOfCore core)).place = (core % 32 + 1) % 32 := by
  rw [State.placeAt, standing_die]
theorem group_placeAt (s : State) (l core b stash g : Nat) : (s.placeAt l core b stash).group g = (s.addGroups l b stash).1.group g :=
  standing_group _ _ _ _ _ _ _ _

/-- R17, R41: BLOCK_PLACEMENT of the only waiting launch. -/
theorem blockPlacement_starts {s : State} {l core b stash : Nat} (hw : s.waitingLaunches = [l]) (hs : s.waitingSaved = [])
    (hc : (s.launches.get l).child = false) (hr : (s.launches.get l).rec_.coresident = false) (hp : s.findPlace l 0 = some (core, b, stash)) :
    let x := s.launches.get l
    let r := x.rec_
    Completes .blockPlacement s (fun t => SameBytes s t ∧ .blockPlacement ∈ t.pending
        ∧ (t.launches.get l).placed = x.placed + 1 ∧ (t.launches.get l).lastDie = some (dieOfCore core)
        ∧ (t.dies.get (dieOfCore core)).place = (core % 32 + 1) % 32
        ∧ (let y := t.blocks.get b
           y.live = true ∧ y.launch = l ∧ y.number = x.placed ∧ y.ctx = x.ctx ∧ y.core = core ∧ y.stash = stash
           ∧ y.stashSize = r.stash ∧ y.groups.length = r.groups
           ∧ y.ident = blockIdent (r.widths.drop r.level) (r.extents.drop r.level) x.placed)
        ∧ (r.groups = 1 → let g := s.pickSlot core
            (t.blocks.get b).groups = [g] ∧ (t.group g).live = true ∧ (t.group g).block = b ∧ (t.group g).index = 0
            ∧ (t.group g).exited = 0
            ∧ (∀ L, L < 32 → inMask (t.group g).exist_ L = decide (L < r.lanes) ∧ (t.group g).plane.get L = 0
                ∧ (t.group g).depth.get L = 0
                ∧ ∀ q, (t.group g).vAt q L = if q = 0 ∧ L < r.lanes then BitVec.ofNat 32 L else 0)
            ∧ (∀ q, (t.group g).sAt q = match q with
                | 0 => r.argument.extractLsb' 0 32 | 1 => r.argument.extractLsb' 32 32 | 2 => BitVec.ofNat 32 stash
                | 4 => x.addr.extractLsb' 0 32 | 5 => x.addr.extractLsb' 32 32 | _ => 0)
            ∧ (∀ q L, L < 32 → (t.group g).pAt q L = false)
            ∧ (t.group g).armed = x.requested)) := by
  have hcore := findPlace_core hp
  refine ⟨_, blockPlacement_places hw hs hc hr hp, (sameBytes_placeAt s l core b stash).trans (sameBytes_post _ _),
    List.mem_append_right _ (List.mem_singleton.2 rfl), ?_, ?_, ?_, ?_, ?_⟩
  · rw [State.post_launches, launch_placeAt]
  · rw [State.post_launches, launch_placeAt]
  · rw [State.post_dies, die_placeAt]
  · rw [State.post_blocks, block_placeAt]
    exact ⟨rfl, rfl, rfl, rfl, hcore, rfl, rfl, length_addGroups s l b stash, rfl⟩
  · intro hone
    obtain ⟨hgs, n, hg⟩ := addGroups_one hone b stash
    rw [hcore] at hgs hg
    dsimp only
    rw [State.post_blocks, block_placeAt, group_post, group_placeAt, hg]
    exact ⟨hgs, rfl, rfl, rfl, rfl, fun L hL => ⟨firstGroup_exist _ _ _ _ _ _ _ _ hL, rfl, rfl, fun q => firstGroup_vAt _ _ _ _ _ _ _ _ q hL⟩,
      firstGroup_sAt _ _ _ _ _ _ _ _, fun q L _ => BitVec.getLsbD_zero, rfl⟩

end Sys2Proof.Machine
end

section
/-! ## Acceptance of a launch (R318, R319) -/

namespace Sys2Proof.Machine

theorem collectDescriptor_none {s : State} (hnc : s.noCopies = true) (ctx : Nat) (a : DWord) (n : Nat) : s.collectDescriptor ctx a n = s := by
  unfold State.collectDescriptor
  dsimp only
  rw [hubCollect_none _ _ _ _ hnc]
  split
  · rw [hubCollect_none _ _ _ _ hnc]
  · rfl

theorem collectRecord_none {s : State} (hnc : s.noCopies = true) (ctx : Nat) (a : DWord) : s.collectRecord ctx a = s := by
  unfold State.collectRecord State.collectVersion
  dsimp only
  rw [collectDescriptor_none hnc]
  split
  · rw [collectDescriptor_none hnc, collectDescriptor_none hnc]
  · rfl

/-- What the checks of a record read: memory, as the hub sees it, and the cores that there are. -/
theorem checkRecord_congr {s t : State} (hread : ∀ ctx a n cl, t.agentRead ctx a n cl = s.agentRead ctx a n cl)
    (hcap : ∀ r, t.capacity r = s.capacity r) (ctx : Nat) (a : DWord) : t.checkRecord ctx a = s.checkRecord ctx a := by
  unfold State.checkRecord State.readKernel State.readEntry State.descriptor State.descriptorPart
  simp only [hread, hcap]

theorem agentRead_dropSub {s : State} (hnc : s.noCopies = true) (sub ctx : Nat) (a : DWord) (n : Nat) (cl : List Nat) :
    (s.dropSub sub).agentRead ctx a n cl = s.agentRead ctx a n cl := by
  have hbyte (pa : Nat) : (s.dropSub sub).hubByte pa = s.hubByte pa := by
    unfold State.hubByte
    rw [collect_none _ _ hnc, collect_none (s.dropSub sub) _ hnc]
    rfl
  have hpa (x : DWord) : (s.dropSub sub).agentPa ctx x .read cl = s.agentPa ctx x .read cl := rfl
  unfold State.agentRead
  simp only [hbyte, hpa]

theorem checkRecord_dropSub {s : State} (hnc : s.noCopies = true) (sub ctx : Nat) (a : DWord) :
    (s.dropSub sub).checkRecord ctx a = s.checkRecord ctx a :=
  checkRecord_congr (agentRead_dropSub hnc sub) (fun _ => rfl) ctx a

section
variable {s : State} {sub run node : Nat} {x : Submission} (hsubs : s.subs = [(sub, x)]) (ho : x.origin = .node run node)
  (hst : (s.ctxs.get x.ctx).st = .running) (hnc : s.noCopies = true) {l : Nat} (hfree : s.freeLaunch = some l)
include hsubs ho hst hnc hfree

omit ho hst hnc hfree in
theorem dropSub_none : (s.dropSub sub).subs = [] := by
  show s.subs.filter _ = []
  rw [hsubs]; simp

theorem launchAccept_checks : exec (.launchAccept sub) s = .next (match s.checkRecord x.ctx x.addr with
    | .error e => ((s.dropSub sub).queueError ((s.dropSub sub).runQueue run).1 e).post (.graphNodeComplete run node)
    | .ok (rec_, e) => (s.dropSub sub).acceptLaunch l x.ctx x.addr rec_ e (some ((s.dropSub sub).runQueue run).1) ((s.dropSub sub).runQueue run).2
        (some (run, node))) := by
  have hfind : s.subs.find? (fun e => e.1 == sub) = some (sub, x) := by rw [hsubs]; simp
  have hnc' : (s.dropSub sub).noCopies = true := hnc
  show execLaunchAccept sub s = _
  unfold execLaunchAccept
  rw [hfind]
  dsimp only
  rw [if_neg (fun h => h hst), ho]
  dsimp only
  unfold State.acceptNode
  rw [hfree]
  dsimp only
  rw [collectRecord_none hnc', checkRecord_dropSub hnc] <;> rfl

/-- R318, R319: a record that passes the checks takes the free slot. -/
theorem launchAccept_accepts {r : Record} {e : VersionEntry} (hok : s.checkRecord x.ctx x.addr = .ok (r, e)) :
    Completes (.launchAccept sub) s (fun t => SameRegs s t ∧ SameBytes s t ∧ t.subs = [] ∧ .blockPlacement ∈ t.pending ∧ t.nextOrder = s.nextOrder + 1
        ∧ (∀ k, k ≠ l → t.launches.get k = s.launches.get k)
        ∧ (let y := t.launches.get l
           y.live = true ∧ y.ctx = x.ctx ∧ y.addr = x.addr ∧ y.rec_ = r ∧ y.start = r.version ∧ y.placed = 0 ∧ y.ended = 0
           ∧ y.node = some (run, node) ∧ y.order = s.nextOrder ∧ y.child = false)) := by
  have hgo := launchAccept_checks hsubs ho hst hnc hfree
  rw [hok] at hgo
  have hring : (if ((s.dropSub sub).ctxs.get x.ctx).traceRing = 0 then s.dropSub sub
      else (s.dropSub sub).hubCollect x.ctx ((s.dropSub sub).ctxs.get x.ctx).traceRing 32) = s.dropSub sub := by
    rw [hubCollect_none (s.dropSub sub) _ _ _ hnc, ite_self]
  unfold State.acceptLaunch at hgo
  dsimp only at hgo
  rw [hring] at hgo
  refine ⟨_, hgo, fun _ => rfl, fun _ => rfl, dropSub_none hsubs, List.mem_append_right _ (List.mem_singleton.2 rfl), rfl, ?_, ?_⟩
  · intro k hk
    rw [State.post_launches, State.onLaunch_launches, Store.get_upd, if_neg hk]
    rfl
  · dsimp only
    rw [State.post_launches, State.onLaunch_launches, Store.get_upd, if_pos rfl]
    exact ⟨rfl, rfl, rfl, rfl, rfl, rfl, rfl, rfl, rfl, rfl⟩

/-- R318: a record that fails starts nothing; its node completes. -/
theorem launchAccept_fails {er : ErrorRec} (hbad : s.checkRecord x.ctx x.addr = .error er) : Completes (.launchAccept sub) s (fun t =>
    t.subs = [] ∧ (∀ k, (t.launches.get k).live = (s.launches.get k).live) ∧ .graphNodeComplete run node ∈ t.pending) := by
  have hgo := launchAccept_checks hsubs ho hst hnc hfree
  rw [hbad] at hgo
  have hk : ((s.dropSub sub).queueError ((s.dropSub sub).runQueue run).1 er).kept = (s.dropSub sub).kept := kept_postError _ _ _
  refine ⟨_, hgo, ?_, fun k => ?_, List.mem_append_right _ (List.mem_singleton.2 rfl)⟩
  · exact (congrArg (fun y : Kept => y.rest.subs) hk).trans (dropSub_none hsubs)
  · exact (congrArg Launch.live (launch_of_kept hk k) :)
end

end Sys2Proof.Machine
end

section
/-! ## Completion, time slices and waiting budgets (R319, R324–R326) -/

namespace Sys2Proof.Machine

/-! ### What stands in a store -/

section
variable {α : Type} [Inhabited α]

/-- What a key reads as stands under it, or is the default. -/
theorem get_stands (m : Store α) (k : Nat) : (∃ e ∈ m, e.1 = k ∧ m.get k = e.2) ∨ m.get k = default := by
  induction m with
  | nil => exact .inr rfl
  | cons x t ih =>
    by_cases h : x.1 = k
    · exact .inl ⟨x, List.mem_cons_self, h, by simp [Store.get, h]⟩
    · have hget : Store.get (x :: t) k = Store.get t k := by simp [Store.get, h]
      rw [hget]
      exact ih.imp (fun ⟨e, he, hk⟩ => ⟨e, List.mem_cons_of_mem _ he, hk⟩) id

/-- Everything in a store changed by one rule that keeps the default. -/
theorem get_map_default (m : Store α) (f : α → α) (hf : f default = default) (j : Nat) :
    Store.get (m.map (fun e => (e.1, f e.2))) j = f (m.get j) := by
  induction m with
  | nil => exact hf.symm
  | cons e t ih =>
    by_cases h : e.1 = j
    · simp [Store.get, h]
    · simpa [Store.get, h] using ih
end

/-! ### Blocks that wait for their successors' room -/

theorem retryEnds_none {s : State} (h : ∀ k, (s.blocks.get k).live = true → (s.blocks.get k).groups ≠ []) : s.retryEnds = s := by
  unfold State.retryEnds
  refine List.foldl_fixed' (fun e => ?_) _
  refine if_neg fun hc => ?_
  rw [Bool.and_eq_true, beq_iff_eq] at hc
  exact h e.1 hc.1 hc.2

theorem noneAwaited_get {s : State} (h : NoneAwaited s) (k : Nat) (hk : (s.blocks.get k).live = true) : (s.blocks.get k).groups ≠ [] := by
  rcases get_stands s.blocks k with ⟨e, he, _, hget⟩ | hget
  · rw [hget] at hk ⊢
    exact h e he hk
  · rw [hget] at hk
    cases hk

/-- Nothing that is posted is lost when the waiting blocks are told of. -/
theorem mem_postWaiting {s : State} {e : Instr} (h : e ∈ s.pending) : e ∈ s.postWaiting.pending := by
  have hfold (l : List (Nat × Context)) : ∀ u : State, e ∈ u.pending → e ∈ (l.foldl (fun (st : State) c =>
      if c.2.saved = [] ∨ c.2.st ≠ .running then st else st.post (.blockRestore c.1)) u).pending := by
    induction l with
    | nil => exact fun _ h => h
    | cons c t ih =>
      intro u hu
      rw [List.foldl_cons]
      refine ih _ ?_
      split
      · exact hu
      · exact List.mem_append_left _ hu
  unfold State.postWaiting
  refine hfold _ _ ?_
  split
  · exact List.mem_append_left _ h
  · exact h

/-! ### Completion (R319) -/

theorem collectCore_none {s : State} {core : Nat} {keep : Nat → Bool} (h : ∀ e ∈ (s.cores.get core).l1, updateOp e.2 ≠ none → e.2.ctxs.any keep = false) :
    (s.collectCore core keep).1 = s := by
  have hnil : (s.cores.get core).l1.filter (fun e => (updateOp e.2).isSome && e.2.ctxs.any keep) = [] := by
    refine List.filter_eq_nil_iff.2 fun e he hc => ?_
    rw [Bool.and_eq_true] at hc
    have hsome : updateOp e.2 ≠ none := fun hn => by rw [hn] at hc; cases hc.1
    rw [h e he hsome] at hc
    cases hc.2
  unfold State.collectCore
  dsimp only
  rw [hnil]
  rfl

theorem flushContext_none {s : State} {ctx : Nat} (h : NothingHeld s ctx) : s.flushContext ctx = s := by
  unfold State.flushContext
  refine List.foldl_fixed' (fun e => ?_) _
  obtain ⟨hw, hl⟩ := h e.1
  dsimp only
  rw [hw, Bool.false_and, if_neg Bool.false_ne_true]
  refine collectCore_none fun x hx hu => ?_
  rw [List.any_eq_false]
  exact fun c hc hcc => hl x hx hu ((beq_iff_eq.1 hcc) ▸ hc)

/-- R319: the completion store of a launch, where the hub reaches its address. -/
theorem completionStore_stores {s : State} {l : Nat} (h : (s.launches.get l).rec_.doneAddr = 0
      ∨ ((s.launches.get l).rec_.doneAddr.toNat % 4 = 0 ∧ HubBytes s (s.launches.get l).ctx (s.launches.get l).rec_.doneAddr 4)) :
    (s.completionStore l).residents = s.residents
    ∧ if (s.launches.get l).rec_.doneAddr = 0 then SameBytes s (s.completionStore l)
      else HubStored s (s.completionStore l) (s.launches.get l).ctx (s.launches.get l).rec_.doneAddr
        (splitBytes (s.launches.get l).rec_.doneValue.toNat 4) := by
  unfold State.completionStore
  dsimp only
  by_cases h0 : (s.launches.get l).rec_.doneAddr = 0
  · rw [if_pos h0, if_pos h0]
    exact ⟨rfl, fun _ => rfl⟩
  · rw [if_neg h0, if_neg h0]
    obtain ⟨hal, hb⟩ := h.resolve_left h0
    have hlen : (splitBytes (s.launches.get l).rec_.doneValue.toNat 4).length = 4 := by simp [splitBytes]
    obtain ⟨t, c, ht, hst, hres⟩ := agentWrite_window (bs := splitBytes (s.launches.get l).rec_.doneValue.toNat 4) (classes := [1, 2, 3])
      (by simp) (by simp) (.inl hlen) (by rw [hlen]; exact hal) (by rw [hlen]; exact hb)
    have hcan : canonical57 (s.launches.get l).rec_.doneAddr = true := by
      have := (hb.2.2.2 0 (by omega)).1
      simpa using this
    have hstore : s.hubStore (s.launches.get l).ctx (s.launches.get l).rec_.doneAddr (s.launches.get l).rec_.doneValue = (t, none, c) := by
      unfold State.hubStore
      rw [hcan, if_neg (by simp), if_neg (fun hne => hne hal), ht]
    rw [hstore]
    exact ⟨hres, hst⟩

/-- A launch slot is free again, and the launch's node is complete. -/
def State.freeLaunchSlot (s : State) (l : Nat) (node : Option (Nat × Nat)) : State :=
  match node with
  | some (r, n) => (s.onLaunch l (fun _ => {})).post (.graphNodeComplete r n)
  | none => s.onLaunch l (fun _ => {})

theorem freeLaunchSlot_fields (s : State) (l : Nat) (node : Option (Nat × Nat)) : (s.freeLaunchSlot l node).blocks = s.blocks
    ∧ SameBytes s (s.freeLaunchSlot l node) ∧ ((s.freeLaunchSlot l node).launches.get l).live = false
    ∧ (∀ k, k ≠ l → (s.freeLaunchSlot l node).launches.get k = s.launches.get k)
    ∧ ∀ r n, node = some (r, n) → .graphNodeComplete r n ∈ (s.freeLaunchSlot l node).pending := by
  have hl (k : Nat) : (s.onLaunch l (fun _ => {})).launches.get k = if k = l then {} else s.launches.get k := Store.get_upd s.launches l (fun _ => {}) k
  have hlive : ((s.onLaunch l (fun _ => {})).launches.get l).live = false := by rw [hl, if_pos rfl]
  have hother (k : Nat) (hk : k ≠ l) : (s.onLaunch l (fun _ => {})).launches.get k = s.launches.get k := by rw [hl, if_neg hk]
  cases node with
  | none => exact ⟨rfl, fun _ => rfl, hlive, hother, fun _ _ h => nomatch h⟩
  | some p =>
    refine ⟨rfl, fun _ => rfl, hlive, hother, fun r n h => ?_⟩
    cases h
    exact List.mem_append_right _ (List.mem_singleton.2 rfl)

theorem launchComplete_completes {s : State} {l : Nat} (hlive : (s.launches.get l).live = true)
    (hended : (s.launches.get l).rec_.blocks ≤ (s.launches.get l).ended) (hsettled : (s.launches.get l).settled ≤ s.now)
    (hheld : NothingHeld s (s.launches.get l).ctx) (hnone : NoneAwaited s) (hdone : (s.launches.get l).rec_.doneAddr = 0
      ∨ ((s.launches.get l).rec_.doneAddr.toNat % 4 = 0 ∧ HubBytes s (s.launches.get l).ctx (s.launches.get l).rec_.doneAddr 4)) :
    Completes (.launchComplete l) s (fun t => (t.launches.get l).live = false ∧ (∀ k, k ≠ l → t.launches.get k = s.launches.get k)
      ∧ (∀ r n, (s.launches.get l).node = some (r, n) → .graphNodeComplete r n ∈ t.pending)
      ∧ (if (s.launches.get l).rec_.doneAddr = 0 then SameBytes s t
         else HubStored s t (s.launches.get l).ctx (s.launches.get l).rec_.doneAddr (splitBytes (s.launches.get l).rec_.doneValue.toNat 4))) := by
  obtain ⟨hres, hstored⟩ := completionStore_stores hdone
  have hgo : exec (.launchComplete l) s
      = .next ((s.completionStore l).freeLaunchSlot l (s.launches.get l).node).retryEnds.postWaiting := by
    show execLaunchComplete l s = _
    unfold execLaunchComplete
    dsimp only
    rw [hlive, if_neg (by simp; omega), flushContext_none hheld, if_neg (by omega)]
    unfold State.freeLaunchSlot
    cases (s.launches.get l).node <;> rfl
  generalize s.completionStore l = u at hgo hres hstored
  obtain ⟨hblocks, hbytes, hfree, hother, hnode⟩ := freeLaunchSlot_fields u l (s.launches.get l).node
  rw [retryEnds_none (fun k => by
    rw [hblocks, show u.blocks = s.blocks from congrArg Prod.snd hres]
    exact noneAwaited_get hnone k)] at hgo
  have hpw := postWaiting_pending (u.freeLaunchSlot l (s.launches.get l).node)
  have hpl : (u.freeLaunchSlot l (s.launches.get l).node).postWaiting.launches = (u.freeLaunchSlot l (s.launches.get l).node).launches :=
    (congrArg State.launches hpw :)
  have hpb (a : Nat) : (u.freeLaunchSlot l (s.launches.get l).node).postWaiting.byteAt a = u.byteAt a :=
    (congrArg (fun t : State => t.byteAt a) hpw :).trans (hbytes a)
  refine ⟨_, hgo, by rw [hpl]; exact hfree, fun k hk => ?_, fun r n h => mem_postWaiting (hnode r n h), ?_⟩
  · rw [hpl, hother k hk, show u.launches = s.launches from congrArg Prod.fst hres]
  · split
    · next h0 =>
      rw [if_pos h0] at hstored
      exact fun a => (hpb a).trans (hstored a)
    · next h0 =>
      rw [if_neg h0] at hstored
      exact fun a => (hpb a).trans (hstored a)

/-! ### Time slices (R324) -/

section
variable {s : State} {ctx t0 : Nat} (ht : (s.ctxs.get ctx).sliceStart = some t0) (hover : t0 + (s.ctxs.get ctx).sliceNs ≤ s.now)
include ht hover

/-- The state in which a context's next slice has begun. -/
def State.newSlice (s : State) (ctx : Nat) : State := s.onCtx ctx (fun c => { c with sliceStart := some s.now })

theorem timeSlice_eq : exec (.timeSliceExpiry ctx) s = .next (if s.blocksOf ctx (fun d => decide (d < 8) && s.contended ctx d) = [] then s.newSlice ctx
    else ((s.newSlice ctx).preemptBlocks (s.whole (s.blocksOf ctx (fun d => decide (d < 8) && s.contended ctx d))) (some 0)).postWaiting) := by
  have hdies : (fun d => ((List.range 8).filter (fun d => s.contended ctx d)).contains d) = fun d => decide (d < 8) && s.contended ctx d := by
    funext d
    rw [Bool.eq_iff_iff, List.contains_iff_mem, List.mem_filter, List.mem_range, Bool.and_eq_true, decide_eq_true_eq]
  show execTimeSliceExpiry ctx s = _
  unfold execTimeSliceExpiry
  rw [ht]
  dsimp only
  rw [if_neg (by omega), hdies]
  split <;> rfl

theorem timeSlice_begins (hfree : ∀ d, d < 8 → s.contended ctx d = false) : Completes (.timeSliceExpiry ctx) s (fun t => SameRegs s t ∧ SameBytes s t
    ∧ (t.ctxs.get ctx).sliceStart = some s.now ∧ t.blocks = s.blocks) := by
  have hnone : s.blocksOf ctx (fun d => decide (d < 8) && s.contended ctx d) = [] := by
    unfold State.blocksOf
    refine List.map_eq_nil_iff.2 (List.filter_eq_nil_iff.2 fun e _ h => ?_)
    simp only [Bool.and_eq_true, decide_eq_true_eq] at h
    rw [hfree _ h.2.1] at h
    cases h.2.2
  refine ⟨_, (timeSlice_eq ht hover).trans (congrArg Host.Outcome.next (if_pos hnone)), fun _ => rfl, fun _ => rfl, ?_, rfl⟩
  show ((s.ctxs.upd ctx (fun c => { c with sliceStart := some s.now })).get ctx).sliceStart = _
  rw [Store.get_upd, if_pos rfl]

theorem timeSlice_preempts {b : Nat} (hb : s.whole (s.blocksOf ctx (fun d => decide (d < 8) && s.contended ctx d)) = [b]) :
    Completes (.timeSliceExpiry ctx) s (fun t => (t.blocks.get b).live = false) := by
  have hsome : s.blocksOf ctx (fun d => decide (d < 8) && s.contended ctx d) ≠ [] := fun h => by
    rw [h] at hb
    have hnil : s.whole [] = [] := List.map_eq_nil_iff.2 (List.filter_eq_nil_iff.2 fun e _ => by simp)
    rw [hnil] at hb
    cases hb
  have hgo := (timeSlice_eq ht hover).trans (congrArg Host.Outcome.next (if_neg hsome))
  rw [hb] at hgo
  refine ⟨_, hgo, ?_⟩
  have hout := (outline_postWaiting _).trans (outline_preemptBlocks (s.newSlice ctx) [b] (some 0))
  exact (congrArg (fun o : Outline => o.blocks b) hout).trans (if_pos (List.mem_singleton.2 rfl))
end

end Sys2Proof.Machine
end

section
/-! ## Waiting budgets (R325, R326) -/

namespace Sys2Proof.Machine

/-- The launches of a context give up their slots. -/
def Launch.giveSlot (ctx : Nat) (x : Launch) : Launch := if x.live && x.ctx == ctx then { x with slotFree := true } else x
def State.giveSlots (s : State) (ctx : Nat) : State := { s with launches := s.launches.map (fun e => (e.1, e.2.giveSlot ctx)) }

theorem giveSlots_launch (s : State) (ctx l : Nat) : (s.giveSlots ctx).launches.get l = (s.launches.get l).giveSlot ctx :=
  get_map_default s.launches (Launch.giveSlot ctx) rfl l

theorem live_giveSlot (ctx : Nat) (x : Launch) : (x.giveSlot ctx).live = x.live := by unfold Launch.giveSlot; split <;> rfl
theorem slotFree_giveSlot {ctx : Nat} {x : Launch} (hl : x.live = true) (hc : x.ctx = ctx) : (x.giveSlot ctx).slotFree = true := by
  unfold Launch.giveSlot
  rw [if_pos (by simp [hl, hc])]

theorem Launch.ctx_of_kept {x y : Launch} (h : x.kept = y.kept) : x.ctx = y.ctx := (congrArg Launch.ctx h :)
theorem Launch.live_of_kept {x y : Launch} (h : x.kept = y.kept) : x.live = y.live := (congrArg Launch.live h :)
theorem Block.ctx_of_kept {x y : Block} (h : x.kept = y.kept) : x.ctx = y.ctx := (congrArg Block.ctx h :)
theorem Block.live_of_kept {x y : Block} (h : x.kept = y.kept) : x.live = y.live := (congrArg Block.live h :)

/-- The only block of a context is among its live ones. -/
theorem mem_blocksOf {s : State} {b ctx : Nat} (hl : (s.blocks.get b).live = true) (hc : (s.blocks.get b).ctx = ctx) :
    b ∈ s.blocksOf ctx (fun _ => true) := by
  rcases get_stands s.blocks b with ⟨e, he, hk, hget⟩ | hget
  · rw [hget] at hl hc
    exact List.mem_map.2 ⟨e, List.mem_filter.2 ⟨he, by simp [hl, hc]⟩, hk⟩
  · rw [hget] at hl
    cases hl

/-- The snapshot of a waiting budget's end goes to the event ring; what is kept of the state stays. -/
theorem waitbudget_eq {s : State} {b : Nat} (hl : (s.blocks.get b).live = true)
    (hover : (s.ctxs.get (s.blocks.get b).ctx).budgetNs ≤ s.clockOf b) (hst : (s.ctxs.get (s.blocks.get b).ctx).st = .running) :
    ∃ u : State, u.kept = s.kept ∧ exec (.waitbudgetExpiry b) s
      = .next (((u.giveSlots (s.blocks.get b).ctx).stopContext (s.blocks.get b).ctx .held).retryEnds) := by
  refine ⟨_, ?_, if_neg ?_⟩
  · exact (kept_foldl State.kept _ (fun t bs => kept_ringWrite t _ _ _) _ _).trans (kept_postTrap s _ _)
  · rw [hl, hst]
    simp
    exact hover

theorem waitbudget_holds {s : State} {b : Nat} (hl : (s.blocks.get b).live = true)
    (hover : (s.ctxs.get (s.blocks.get b).ctx).budgetNs ≤ s.clockOf b) (hst : (s.ctxs.get (s.blocks.get b).ctx).st = .running)
    (honly : ∀ e ∈ s.blocks, e.1 = b) (hall : s.launches.all (fun e => e.2.live && e.2.ctx == (s.blocks.get b).ctx) = true) :
    Completes (.waitbudgetExpiry b) s (fun t => (t.ctxs.get (s.blocks.get b).ctx).st = .held
      ∧ ∀ l, (t.launches.get l).live = true → (t.launches.get l).slotFree = true) := by
  obtain ⟨u, hk, hgo⟩ := waitbudget_eq hl hover hst
  have hstops := stopContext_stops (u.giveSlots (s.blocks.get b).ctx) (s.blocks.get b).ctx .held
  generalize (u.giveSlots (s.blocks.get b).ctx).stopContext (s.blocks.get b).ctx .held = v at hgo hstops
  obtain ⟨hheld, hout⟩ := hstops
  have hmem : b ∈ (u.giveSlots (s.blocks.get b).ctx).blocksOf (s.blocks.get b).ctx (fun _ => true) := by
    have hb := block_of_kept hk b
    exact mem_blocksOf (s := u.giveSlots (s.blocks.get b).ctx) ((Block.live_of_kept hb).trans hl) (Block.ctx_of_kept hb)
  have hdead (k : Nat) : (v.blocks.get k).live = false := by
    have hv : (v.blocks.get k).live = (if k ∈ (u.giveSlots (s.blocks.get b).ctx).blocksOf (s.blocks.get b).ctx (fun _ => true) then false
        else (u.blocks.get k).live) := congrArg (fun o : Outline => o.blocks k) hout
    rw [hv]
    split
    · rfl
    · next hnot =>
      rw [Block.live_of_kept (block_of_kept hk k)]
      rcases get_stands s.blocks k with ⟨e, he, hek, _⟩ | hget
      · exact absurd ((honly e he).symm.trans hek ▸ hmem) hnot
      · rw [hget]; rfl
  rw [retryEnds_none (fun k hkl => by rw [hdead k] at hkl; cases hkl)] at hgo
  refine ⟨v, hgo, hheld, fun l => ?_⟩
  have hv : ((v.launches.get l).live, (v.launches.get l).slotFree)
      = (((u.launches.get l).giveSlot (s.blocks.get b).ctx).live, ((u.launches.get l).giveSlot (s.blocks.get b).ctx).slotFree) := by
    rw [← giveSlots_launch]
    exact congrArg (fun o : Outline => o.launches l) hout
  obtain ⟨hvl, hvf⟩ := Prod.mk.injEq .. ▸ hv
  rw [hvl, hvf, live_giveSlot]
  intro hul
  have hkl := launch_of_kept hk l
  rw [Launch.live_of_kept hkl] at hul
  refine slotFree_giveSlot ((Launch.live_of_kept hkl).trans hul) ((Launch.ctx_of_kept hkl).trans ?_)
  rcases get_stands s.launches l with ⟨e, he, _, hget⟩ | hget
  · rw [hget]
    have := List.all_eq_true.1 hall e he
    rw [Bool.and_eq_true, beq_iff_eq] at this
    exact this.2
  · rw [hget] at hul
    cases hul

end Sys2Proof.Machine
end

section
/-! ## Restoring a saved block (R335) -/

namespace Sys2Proof.Machine

/-! ### What the restored block finds -/

theorem get_filter_key {α : Type} [Inhabited α] (m : Store α) (p : Nat → Bool) (k : Nat) :
    Store.get (m.filter (fun e => p e.1)) k = if p k then m.get k else default := by
  induction m with
  | nil => simp
  | cons e t ih =>
    rw [List.filter_cons]
    by_cases hk : e.1 = k
    · by_cases hp : p k = true
      · simp [Store.get, hk, hp]
      · rw [if_neg (hk ▸ hp), ih, if_neg hp, if_neg hp]
    · have hget : Store.get (e :: t) k = Store.get t k := by simp [Store.get, hk]
      rw [hget, ← ih]
      split
      · simp [Store.get, hk]
      · rfl

/-- The stash of a core on which a block's ranges are put back. -/
theorem stash_putRegions (s : State) (core : Nat) (rs : List (Nat × Nat)) (bs : List (Nat × Byte)) (off : Nat) :
    (s.putRegions core rs bs).stashByte core off
      = laid bs (fun a => if rs.any (fun r => decide (r.1 ≤ a ∧ a < r.1 + r.2)) then 0 else s.stashByte core a) off := by
  have hget : ((s.putRegions core rs bs).cores.get core).stash
      = putBytes ((s.cores.get core).stash.filter (fun e => !(rs.any (fun a => decide (a.1 ≤ e.1 ∧ e.1 < a.1 + a.2))))) bs := by
    unfold State.putRegions State.putStash
    rw [State.onCore_cores, Store.get_upd, if_pos rfl, State.onCore_cores, Store.get_upd, if_pos rfl]
  rw [State.stashByte, hget, get_putBytes]
  refine congrArg (fun f => laid bs f off) (funext fun a => ?_)
  refine (get_filter_key (s.cores.get core).stash (fun x => !(rs.any (fun r => decide (r.1 ≤ x ∧ x < r.1 + r.2)))) a).trans ?_
  cases rs.any (fun r => decide (r.1 ≤ a ∧ a < r.1 + r.2)) <;> rfl

theorem overWaits_none {s : State} {g : Nat} {x : Split} (h : (s.group g).splits = [x]) (hx : x.waits = []) (f : State → Split → Wait → State) :
    s.overWaits g f = s := by
  unfold State.overWaits
  rw [h, List.foldl_cons, hx]
  rfl

/-- R145: without a record, the stub's waits go on. -/
theorem serveStub_none {s : State} {l : Nat} (h : (s.launches.get l).stubQ = []) : s.serveStub l = s := by
  have htake (g u : Nat) (d : Reg) (off : Word) (n : Nat) : s.takeRecord l g u d off n = s := by
    unfold State.takeRecord
    dsimp only
    rw [h]
    split <;> rfl
  unfold State.serveStub
  refine List.foldl_fixed' (fun g => ?_) _
  unfold State.overWaits
  refine List.foldl_fixed' (fun x => ?_) _
  refine List.foldl_fixed' (fun w => ?_) _
  split
  · cases w with
    | debug d off n => exact htake _ _ _ _ _
    | _ => rfl
  · rfl

/-! ### The block stands again -/

/-- A group returns to a block. -/
def Group.returned (k : Group) (b : Nat) : Group :=
  { k with block := b, stamp := k.stamp.map (fun p => ({ p with moved := true } : Stamp)) }

/-- A block of one group returns to a core. -/
def Block.returned (y : Block) (core : Nat) (m : List (Nat × Nat)) : Block :=
  { y with
    core := core, groups := y.groups.map (renamed m)
    queues := y.queues.map (fun e => (e.1, { e.2 with pushes := e.2.pushes.map (fun x => (renamed m x.1, x.2)), pops := e.2.pops.map (fun x => (renamed m x.1, x.2)) })) }

/-! The names of groups in the stub's records and selections change together. -/

section
variable (u : State) (m : List (Nat × Nat))

theorem renameRefs_group (j : Nat) : (u.renameRefs m).group j
    = { u.group j with selected := (u.group j).selected.map (fun e => (renamed m e.1, e.2)) } :=
  get_map_default u.groups (fun x => { x with selected := x.selected.map (fun e => (renamed m e.1, e.2)) }) rfl j

theorem renameRefs_stubQ (l : Nat) : ((u.renameRefs m).launches.get l).stubQ
    = (u.launches.get l).stubQ.map (fun r => { r with grp := renamed m r.grp }) := by
  refine (congrArg Launch.stubQ (get_map_default u.launches (fun x =>
    { x with stubQ := x.stubQ.map (fun r => { r with grp := renamed m r.grp })
             stubWait := x.stubWait.map (fun l => l.map (fun r => { r with grp := renamed m r.grp })) }) rfl l) :)

theorem renameRefs_saved (c : Nat) : ((u.renameRefs m).ctxs.get c).saved
    = (u.ctxs.get c).saved.map (fun v =>
      { v with groups := v.groups.map (fun e => (e.1, { e.2 with selected := e.2.selected.map (fun e => (renamed m e.1, e.2)) })) }) := by
  refine (congrArg Context.saved (get_map_default u.ctxs (fun x => { x with saved := x.saved.map (fun v =>
      { v with groups := v.groups.map (fun e => (e.1, { e.2 with selected := e.2.selected.map (fun e => (renamed m e.1, e.2)) })) }) }) rfl c) :)
end

/-- A block of one group, its group and its stash ranges are on a core. -/
def State.seated (s : State) (v : Saved) (g h : Nat) (k : Group) (core b : Nat) : State :=
  ((s.onGroup h (fun _ => k.returned b)).onBlock b (fun _ => v.block.returned core [(g, h)])).putRegions core v.block.regions v.stash

/-- The block stands again, its group under its new name. -/
def State.returned (s : State) (v : Saved) (g h : Nat) (k : Group) (core b : Nat) : State :=
  ((s.seated v g h k core b).renameRefs [(savedKey v.turn g, h)]).onEngine core (fun n => { n with queue := n.queue ++ [] })

/-- Memory and the homes of its lines. -/
def State.memory (s : State) : Store Byte × Store HomeLine := (s.mem, s.home)

section
variable (u : State)
theorem memory_onGroup (g : Nat) (f : Group → Group) : (u.onGroup g f).memory = u.memory := rfl
theorem memory_onBlock (b : Nat) (f : Block → Block) : (u.onBlock b f).memory = u.memory := rfl
theorem memory_onEngine (c : Nat) (f : Engine → Engine) : (u.onEngine c f).memory = u.memory := rfl
theorem memory_renameRefs (m : List (Nat × Nat)) : (u.renameRefs m).memory = u.memory := rfl
theorem memory_putRegions (c : Nat) (rs : List (Nat × Nat)) (bs : List (Nat × Byte)) : (u.putRegions c rs bs).memory = u.memory := rfl
end

theorem stashByte_onEngine (u : State) (c : Nat) (f : Engine → Engine) (core off : Nat) :
    (u.onEngine c f).stashByte core off = u.stashByte core off := by
  unfold State.stashByte State.onEngine
  rw [State.onCore_cores, Store.get_upd]
  split
  · next hc => rw [hc]
  · rfl

section
variable (s : State) (v : Saved) (g h : Nat) (k : Group) (core b : Nat)

theorem seated_group : (s.seated v g h k core b).group h = k.returned b :=
  (group_onGroup s h (fun _ => k.returned b) h).trans (if_pos rfl)

theorem returned_group : ∃ sel, (s.returned v g h k core b).group h = { k.returned b with selected := sel } :=
  ⟨_, (renameRefs_group (s.seated v g h k core b) [(savedKey v.turn g, h)] h).trans (congrArg
    (fun x : Group => { x with selected := x.selected.map (fun e : Nat × Nat => (renamed [(savedKey v.turn g, h)] e.1, e.2)) })
    (seated_group s v g h k core b))⟩

theorem returned_block (j : Nat) : (s.returned v g h k core b).blocks.get j = if j = b then v.block.returned core [(g, h)] else s.blocks.get j :=
  Store.get_upd s.blocks b (fun _ => v.block.returned core [(g, h)]) j

theorem returned_stash (off : Nat) : (s.returned v g h k core b).stashByte core off
    = laid v.stash (fun a => if v.block.regions.any (fun r => decide (r.1 ≤ a ∧ a < r.1 + r.2)) then 0 else s.stashByte core a) off :=
  (stashByte_onEngine ((s.seated v g h k core b).renameRefs [(savedKey v.turn g, h)]) core _ core off).trans
    (stash_putRegions ((s.onGroup h (fun _ => k.returned b)).onBlock b (fun _ => v.block.returned core [(g, h)])) core v.block.regions v.stash off)

theorem returned_memory : (s.returned v g h k core b).memory = s.memory := by
  unfold State.returned State.seated
  rw [memory_onEngine, memory_renameRefs, memory_putRegions, memory_onBlock, memory_onGroup]

theorem returned_stubQ {l : Nat} (hq : (s.launches.get l).stubQ = []) : ((s.returned v g h k core b).launches.get l).stubQ = [] := by
  have hmap := renameRefs_stubQ (s.seated v g h k core b) [(savedKey v.turn g, h)] l
  rw [show (s.seated v g h k core b).launches = s.launches from rfl, hq] at hmap
  exact hmap

theorem returned_saved {ctx : Nat} (hs : (s.ctxs.get ctx).saved = []) : ((s.returned v g h k core b).ctxs.get ctx).saved = [] := by
  have hmap := renameRefs_saved (s.seated v g h k core b) [(savedKey v.turn g, h)] ctx
  rw [show (s.seated v g h k core b).ctxs = s.ctxs from rfl, hs] at hmap
  exact hmap
end

/-! ### The block goes on -/

/-- A restored group goes on: its waits, its copies, its splits. -/
def State.goesOn (s : State) (h : Nat) : State :=
  let k := s.group h
  let s1 := s.overWaits h (fun st x w => st.rearmWait h x w)
  let s2 := k.copies.foldl (fun (st : State) c => st.post (.copyComplete h c.id)) s1
  (if k.closed = [] ∧ k.batchTimes = [] then s2 else s2.post (.batchComplete h)).settleGroup h

/-- R246: what the core had leased is not read again. -/
def Core.unleased (c : Core) : Core := { c with l1 := c.l1.filter (fun e => match e.2.st with | .leased _ => false | _ => true) }

/-- A restored block's core and context go on. -/
def State.rejoined (s : State) (core ctx now : Nat) : State :=
  ((s.onCore core Core.unleased).grantEngine core).onCtx ctx (fun c => { c with sliceStart := some (c.sliceStart.getD now) })

theorem restoreBlock_one {s : State} {v : Saved} {g core b : Nat} {k : Group} (hg : v.groups = [(g, k)]) (ht : v.tiles = none)
    (hq : v.queued = []) (htok : v.token = []) (hops : v.ops = []) (hgong : v.gong = []) :
    s.restoreBlock v core b = ((s.returned v g (s.pickSlot core) k core b).goesOn (s.pickSlot core)).rejoined core v.block.ctx s.now := by
  unfold State.restoreBlock State.returned State.seated
  rw [hg, ht, hq, htok, hops, hgong]
  simp only [List.foldl_cons, List.foldl_nil, List.map_cons, List.map_nil, List.nil_append, List.filter_nil]
  rfl

end Sys2Proof.Machine
end

section
/-! ## What a restore leaves as it was (R335) -/

namespace Sys2Proof.Machine

/-- What going on leaves as it was: memory, launches, what the contexts have saved, the stashes, and the blocks but for
their barriers and clocks. -/
structure Afoot where
  memory : Store Byte × Store HomeLine
  launches : Store Launch
  saved : Nat → List Saved
  stash : Nat → Store Byte
  blocks : Nat → Block

def State.afoot (s : State) : Afoot where
  memory := s.memory
  launches := s.launches
  saved c := (s.ctxs.get c).saved
  stash c := (s.cores.get c).stash
  blocks b := (s.blocks.get b).synced

theorem afoot_of_synced {s t : State} (h : t.synced = s.synced) : t.afoot = s.afoot := by
  have hm : t.memory = s.memory := (congrArg (fun x : Synced => x.rest.memory) h :)
  unfold State.afoot
  rw [hm, launches_of_synced h, ctxs_of_synced h]
  congr 1
  · exact funext fun c => (congrArg Core.stash (core_of_synced h c) :)
  · exact funext fun b => block_of_synced h b

section
variable {s t : State} (h : t.afoot = s.afoot)
include h

theorem memory_of_afoot : t.memory = s.memory := congrArg Afoot.memory h
theorem launches_of_afoot : t.launches = s.launches := congrArg Afoot.launches h
theorem saved_of_afoot (c : Nat) : (t.ctxs.get c).saved = (s.ctxs.get c).saved := congrFun (congrArg Afoot.saved h) c
theorem block_of_afoot (b : Nat) : (t.blocks.get b).synced = (s.blocks.get b).synced := congrFun (congrArg Afoot.blocks h) b
theorem stashByte_of_afoot (core off : Nat) : t.stashByte core off = s.stashByte core off :=
  congrArg (fun m : Store Byte => m.get off) (congrFun (congrArg Afoot.stash h) core)
end

theorem afoot_onCore (s : State) (c : Nat) (f : Core → Core) (hf : ∀ k, (f k).stash = k.stash) : (s.onCore c f).afoot = s.afoot :=
  (congrArg (fun st => ({ s.afoot with stash := st } : Afoot)) (funext (proj_get_upd Core.stash s.cores c f hf)) :)

theorem afoot_onCtx (s : State) (c : Nat) (f : Context → Context) (hf : ∀ k, (f k).saved = k.saved) : (s.onCtx c f).afoot = s.afoot :=
  (congrArg (fun st => ({ s.afoot with saved := st } : Afoot)) (funext (proj_get_upd Context.saved s.ctxs c f hf)) :)

theorem afoot_rejoined (s : State) (core ctx now : Nat) : (s.rejoined core ctx now).afoot = s.afoot :=
  (afoot_onCtx _ ctx (fun c => { c with sliceStart := some (c.sliceStart.getD now) }) (fun _ => rfl)).trans
    ((afoot_of_synced (synced_grantEngine (s.onCore core Core.unleased) core)).trans (afoot_onCore s core _ (fun _ => rfl)))

theorem bare_rejoined (s : State) (core ctx now : Nat) : (s.rejoined core ctx now).bare = s.bare :=
  bare_grantEngine (s.onCore core Core.unleased) core

theorem goesOn_keeps {s : State} {h : Nat} {x : Split} (hx : (s.group h).splits = [x]) (hw : x.waits = []) (hcp : (s.group h).copies = []) :
    (s.goesOn h).afoot = s.afoot ∧ (s.goesOn h).bare = s.bare := by
  unfold State.goesOn
  dsimp only
  rw [overWaits_none hx hw, hcp, List.foldl_nil]
  constructor
  · refine (afoot_of_synced (synced_settleGroup _ h)).trans ?_
    split
    · rfl
    · exact afoot_of_synced (synced_post s _)
  · refine (bare_settleGroup _ h).trans ?_
    split
    · rfl
    · exact bare_post s _

theorem waits_none {x : Split} (hc : x.cond = .runnable) (ha : x.also = []) : x.waits = [] := by
  unfold Split.waits
  rw [hc, ha]
  rfl

theorem collectAreas_none {s : State} (hnc : s.noCopies = true) (v : Saved) : s.collectAreas v = s :=
  List.foldl_fixed' (fun _ => hubCollect_none s _ _ _ hnc) v.areas

/-- R335: the restore of one block whose areas read as it was saved. -/
theorem restoreOne_one {s : State} {ctx core b : Nat} {v : Saved} (hs : (s.ctxs.get ctx).saved = [v]) (hops : v.ops = [])
    (hr : s.readAreas v = some v) (hco : (s.launches.get v.block.launch).rec_.coresident = false) (hp : s.restorePlace v = some (core, b))
    (hnc : s.noCopies = true) :
    s.restoreOne (ctx, v) = some (((s.onCtx ctx (fun c => { c with saved := [] })).restoreBlock v core b).serveStub v.block.launch) := by
  have htog : together s (s.ctxs.get ctx).saved v = ([v], []) := by
    unfold together
    rw [if_neg (by rw [hco]; exact Bool.false_ne_true), hs]
    simp
  unfold State.restoreOne
  dsimp only
  rw [htog, List.foldl_cons, List.foldl_nil, collectAreas_none hnc]
  have hread : [v].mapM s.readAreas = some [v] := by simp [hr]
  rw [hread]
  dsimp only
  have hp' : (s.onCtx ctx (fun c => { c with saved := [] })).restorePlace v = some (core, b) := hp
  unfold State.restoreAll
  rw [hp']
  dsimp only
  rw [hops, List.foldl_nil]
  unfold State.restoreAll
  rfl

section
variable {s : State} {ctx g core b : Nat} {v : Saved} {k : Group} {x : Split}

/-- The state in which the block stands again. -/
def State.restoredTo (s : State) (ctx : Nat) (v : Saved) (g : Nat) (k : Group) (core b : Nat) : State :=
  (((s.onCtx ctx (fun c => { c with saved := [] })).returned v g (s.pickSlot core) k core b).goesOn (s.pickSlot core)).rejoined core v.block.ctx s.now

theorem restoredTo_keeps (ctx : Nat) (v : Saved) (g core b : Nat) (hx : k.splits = [x]) (hw : x.waits = []) (hcp : k.copies = []) :
    (s.restoredTo ctx v g k core b).afoot = ((s.onCtx ctx (fun c => { c with saved := [] })).returned v g (s.pickSlot core) k core b).afoot
    ∧ (s.restoredTo ctx v g k core b).bare = ((s.onCtx ctx (fun c => { c with saved := [] })).returned v g (s.pickSlot core) k core b).bare := by
  obtain ⟨sel, hgrp⟩ := returned_group (s.onCtx ctx (fun c => { c with saved := [] })) v g (s.pickSlot core) k core b
  obtain ⟨ha, hb⟩ := goesOn_keeps (s := (s.onCtx ctx (fun c => { c with saved := [] })).returned v g (s.pickSlot core) k core b)
    (by rw [hgrp]; exact (splits_of_ent rfl rfl).trans hx) hw (by rw [hgrp]; exact hcp)
  exact ⟨(afoot_rejoined _ _ _ _).trans ha, (bare_rejoined _ _ _ _).trans hb⟩

theorem restoredTo_group (ctx : Nat) (v : Saved) (g core b : Nat) (hx : k.splits = [x]) (hw : x.waits = []) (hcp : k.copies = []) :
    ∃ sel, ((s.restoredTo ctx v g k core b).group (s.pickSlot core)).bare = { k.returned b with selected := sel : Group }.bare := by
  obtain ⟨sel, hgrp⟩ := returned_group (s.onCtx ctx (fun c => { c with saved := [] })) v g (s.pickSlot core) k core b
  exact ⟨sel, (congrFun (restoredTo_keeps ctx v g core b hx hw hcp).2 (s.pickSlot core)).trans (congrArg Group.bare hgrp)⟩

theorem Block.live_of_synced {y z : Block} (h : y.synced = z.synced) : y.live = z.live := (congrArg Block.live h :)
theorem Block.groups_of_synced {y z : Block} (h : y.synced = z.synced) : y.groups = z.groups := (congrArg Block.groups h :)

theorem restoredTo_block (ctx : Nat) (v : Saved) (g core b : Nat) (hx : k.splits = [x]) (hw : x.waits = []) (hcp : k.copies = []) (j : Nat) :
    ((s.restoredTo ctx v g k core b).blocks.get j).synced
      = (if j = b then v.block.returned core [(g, s.pickSlot core)] else s.blocks.get j).synced :=
  (block_of_afoot (restoredTo_keeps ctx v g core b hx hw hcp).1 j).trans
    (congrArg Block.synced (returned_block _ v g _ k core b j))

theorem groups_returned {y : Block} {g h : Nat} (hbg : y.groups = [g]) (core : Nat) : (y.returned core [(g, h)]).groups = [h] := by
  show y.groups.map _ = _
  rw [hbg]
  simp [renamed]

theorem restoredTo_stubQ (ctx g core b : Nat) (hx : k.splits = [x]) (hw : x.waits = []) (hcp : k.copies = [])
    {l : Nat} (hstub : (s.launches.get l).stubQ = []) : ((s.restoredTo ctx v g k core b).launches.get l).stubQ = [] := by
  rw [launches_of_afoot (restoredTo_keeps ctx v g core b hx hw hcp).1]
  exact returned_stubQ (s.onCtx ctx (fun c => { c with saved := [] })) v g _ k core b hstub

/-- No block waits for its successor's room once the block stands again. -/
theorem retryEnds_restoredTo (ctx core b : Nat) (hbg : v.block.groups = [g]) (hx : k.splits = [x]) (hw : x.waits = []) (hcp : k.copies = [])
    (hna : NoneAwaited s) : (s.restoredTo ctx v g k core b).retryEnds = s.restoredTo ctx v g k core b := by
  refine retryEnds_none fun j hj => ?_
  have hjb := restoredTo_block (s := s) ctx v g core b hx hw hcp j
  rw [Block.groups_of_synced hjb]
  rw [Block.live_of_synced hjb] at hj
  split at hj
  · next hjb' => rw [if_pos hjb', groups_returned hbg]; exact List.cons_ne_nil _ _
  · next hjb' => rw [if_neg hjb']; exact noneAwaited_get hna j hj

theorem blockRestore_restores (hs : (s.ctxs.get ctx).saved = [v]) (hlive : v.block.live = true) (hbg : v.block.groups = [g])
    (hg : v.groups = [(g, k)]) (hx : k.splits = [x]) (hcond : x.cond = .runnable) (hcp : k.copies = []) (ht : v.tiles = none) (hq : v.queued = [])
    (htok : v.token = []) (hops : v.ops = []) (hgong : v.gong = []) (halso : x.also = []) (hr : s.readAreas v = some v)
    (hco : (s.launches.get v.block.launch).rec_.coresident = false) (hstub : (s.launches.get v.block.launch).stubQ = [])
    (hwait : s.waitingSaved = [(ctx, v)]) (hplace : s.nextPlacement = none) (hout : s.outranked v = false)
    (hp : s.restorePlace v = some (core, b)) (hna : NoneAwaited s) (hnc : s.noCopies = true) :
    Completes (.blockRestore ctx) s (fun t => (∀ p, (s.home.get (lineOf p)).owner = none → t.byteAt p = s.byteAt p) ∧
        (t.ctxs.get ctx).saved = [] ∧ (t.blocks.get b).live = true ∧ (t.blocks.get b).core = core
        ∧ (t.blocks.get b).stash = v.block.stash ∧ (t.blocks.get b).launch = v.block.launch
        ∧ (∀ off, t.stashByte core off = laid v.stash (fun a => if v.block.regions.any (fun r => decide (r.1 ≤ a ∧ a < r.1 + r.2)) then 0 else s.stashByte core a) off)
        ∧ (let h := s.pickSlot core
           (t.blocks.get b).groups = [h] ∧ (t.group h).v = k.v ∧ (t.group h).s = k.s ∧ (t.group h).p = k.p
           ∧ (t.group h).depth = k.depth ∧ (t.group h).plane = k.plane ∧ (t.group h).retired = k.retired)) := by
  have hw := waits_none hcond halso
  have hone : s.restoreOne (ctx, v) = some (s.restoredTo ctx v g k core b) := by
    rw [restoreOne_one hs hops hr hco hp hnc, restoreBlock_one hg ht hq htok hops hgong]
    exact congrArg some (serveStub_none (restoredTo_stubQ ctx g core b hx hw hcp hstub))
  have hnext : s.nextRestore = some (ctx, v, s.restoredTo ctx v g k core b) := by
    unfold State.nextRestore State.restoreFirst
    rw [hwait]
    dsimp only
    rw [hout, if_neg Bool.false_ne_true, hone]
  have hgo : exec (.blockRestore ctx) s = .next ((s.restoredTo ctx v g k core b).post (.blockRestore ctx)) := by
    show execBlockRestore ctx s = _
    unfold execBlockRestore
    dsimp only
    rw [hwait, hnext, hplace]
    dsimp only
    rw [if_neg (by simp), if_neg Bool.false_ne_true, if_pos rfl, retryEnds_restoredTo ctx core b hbg hx hw hcp hna]
  obtain ⟨hkeep, -⟩ := restoredTo_keeps (s := s) ctx v g core b hx hw hcp
  obtain ⟨sel, hgrp⟩ := restoredTo_group (s := s) ctx v g core b hx hw hcp
  have hb := restoredTo_block (s := s) ctx v g core b hx hw hcp b
  rw [if_pos rfl] at hb
  have hmem : (s.restoredTo ctx v g k core b).memory = s.memory :=
    (memory_of_afoot hkeep).trans (returned_memory (s.onCtx ctx (fun c => { c with saved := [] })) v g _ k core b)
  have hsaved : ((s.restoredTo ctx v g k core b).ctxs.get ctx).saved = [] := by
    refine (saved_of_afoot hkeep ctx).trans (returned_saved _ v g _ k core b ?_)
    rw [State.onCtx_ctxs, Store.get_upd, if_pos rfl]
  have hstash (off : Nat) := (stashByte_of_afoot hkeep core off).trans
    (returned_stash (s.onCtx ctx (fun c => { c with saved := [] })) v g _ k core b off)
  generalize s.restoredTo ctx v g k core b = t at hgo hgrp hb hmem hsaved hstash
  refine ⟨_, hgo, fun p hown => ?_, hsaved, (congrArg Block.live hb :).trans hlive,
    (congrArg Block.core hb :), (congrArg Block.stash hb :), (congrArg Block.launch hb :), hstash,
    (congrArg Block.groups hb :).trans (groups_returned hbg core), (congrArg Group.v hgrp :), (congrArg Group.s hgrp :), (congrArg Group.p hgrp :),
    (congrArg Group.depth hgrp :), (congrArg Group.plane hgrp :), (congrArg Group.retired hgrp :)⟩
  obtain ⟨hm, hh⟩ := Prod.mk.injEq .. ▸ hmem
  rw [byteAt_of_no_owner s p hown]
  exact (byteAt_of_no_owner t p (by rw [hh]; exact hown)).trans (by rw [hm])
end

end Sys2Proof.Machine
end

section
/-! ## Launches -/

namespace Sys2Proof.Machine

/-- Settles O50: one lemma for each event. What an event does is traced to the one change that it makes; the rest of
the machine keeps what `kept`, `synced`, `outline` and `afoot` compare. -/
theorem launches : Obligations.Launches := by
  unfold Obligations.Launches
  refine ⟨?_, ?_, ?_, ?_, ?_, ?_⟩
  · intro s sub run node x hsubs ho hst hnc
    exact ⟨fun l r e hfree hok => launchAccept_accepts hsubs ho hst hnc hfree hok,
      fun l er hfree hbad => launchAccept_fails hsubs ho hst hnc hfree hbad⟩
  · intro s l core b stash x r hw hs hc hr hp
    exact blockPlacement_starts hw hs hc hr hp
  · intro s l x hlive hended hsettled hheld hnone hdone
    exact launchComplete_completes hlive hended hsettled hheld hnone hdone
  · intro s ctx g v k x core b _ hs _ hlive hbg hg hx hcond _ hcp _ ht hq htok hops hgong halso hr hco hstub hwait hplace hout hp hna hnc
    exact blockRestore_restores hs hlive hbg hg hx hcond hcp ht hq htok hops hgong halso hr hco hstub hwait hplace hout hp hna hnc
  · intro s ctx t0 ht hover
    exact ⟨fun hfree => timeSlice_begins ht hover hfree, fun b hb => timeSlice_preempts ht hover hb⟩
  · intro s b y hl hover hst honly _ _ hall
    exact waitbudget_holds hl hover hst honly hall

end Sys2Proof.Machine
end

section
/-! ## Rounding (R73, R75, R86) -/

namespace Sys2Proof.Machine

/-! ### A discarded part (R86) -/

theorem shiftRound_rz (neg : Bool) (m k : Nat) : shiftRound .rz neg m k = m / 2 ^ k := by
  by_cases hk : k = 0 <;> simp [shiftRound, hk]

/-- The direction away from 0 for a sign. -/
theorem shiftRound_away (neg : Bool) (m k : Nat) :
    shiftRound (if neg then .rd else .ru) neg m k = if m % 2 ^ k = 0 then m / 2 ^ k else m / 2 ^ k + 1 := by
  by_cases hk : k = 0
  · simp [shiftRound, hk, Nat.mod_one]
  · cases neg <;> by_cases hx : m % 2 ^ k = 0 <;> simp [shiftRound, hk, hx]

theorem shiftRound_rne (neg : Bool) (m k : Nat) : shiftRound .rne neg m k =
    if 2 ^ k < 2 * (m % 2 ^ k) ∨ (2 * (m % 2 ^ k) = 2 ^ k ∧ m / 2 ^ k % 2 = 1) then m / 2 ^ k + 1 else m / 2 ^ k := by
  by_cases hk : k = 0
  · simp [shiftRound, hk, Nat.mod_one]
  · simp [shiftRound, hk]

theorem shiftRound_rne_nearest (neg : Bool) (m k : Nat) :
    2 * ((2 ^ k * shiftRound .rne neg m k : Nat) - (m : Int)).natAbs ≤ 2 ^ k
    ∧ (0 < k → 2 * ((2 ^ k * shiftRound .rne neg m k : Nat) - (m : Int)).natAbs = 2 ^ k → shiftRound .rne neg m k % 2 = 0) := by
  have hm : 2 ^ k * (m / 2 ^ k) + m % 2 ^ k = m := Nat.div_add_mod m (2 ^ k)
  have hx : m % 2 ^ k < 2 ^ k := Nat.mod_lt _ (by positivity)
  rw [shiftRound_rne]
  split
  · rw [Nat.mul_add_one]; omega
  · omega

theorem shiftRound_rz_below (neg : Bool) (m k : Nat) :
    2 ^ k * shiftRound .rz neg m k ≤ m ∧ m < 2 ^ k * (shiftRound .rz neg m k + 1) := by
  rw [shiftRound_rz]
  exact ⟨Nat.mul_div_le _ _, Nat.lt_mul_div_succ _ (by positivity)⟩

theorem shiftRound_away_above (neg : Bool) (m k : Nat) :
    m ≤ 2 ^ k * shiftRound (if neg then .rd else .ru) neg m k
    ∧ (0 < shiftRound (if neg then .rd else .ru) neg m k → 2 ^ k * (shiftRound (if neg then .rd else .ru) neg m k - 1) < m) := by
  have hm : 2 ^ k * (m / 2 ^ k) + m % 2 ^ k = m := Nat.div_add_mod m (2 ^ k)
  have hx : m % 2 ^ k < 2 ^ k := Nat.mod_lt _ (by positivity)
  rw [shiftRound_away]
  split
  · refine ⟨by omega, fun hq => ?_⟩
    have hpos : 0 < 2 ^ k * (m / 2 ^ k) := Nat.mul_pos (by positivity) hq
    rw [Nat.mul_sub_one]; omega
  · rw [Nat.mul_add_one, Nat.add_sub_cancel]; omega

/-! ### Values of a layout are given back (R86) -/

/-- R73: q units of 2^u, in the place of a normal or a subnormal number of the layout, and no more than its largest. -/
structure Layout.Holds (f : Layout) (q : Nat) (u : Int) : Prop where
  pos : 0 < q
  width : q < 2 ^ (f.mbits + 1)
  place : f.emin ≤ u ∧ (u = f.emin ∨ 2 ^ f.mbits ≤ q)
  largest : q ≤ f.maxMag.1 ∧ u ≤ f.maxMag.2

/-- The last place of such a value is its own exponent. -/
theorem Layout.Holds.place_eq {f : Layout} {q : Nat} {u : Int} (h : f.Holds q u) : f.place q u = u := by
  have hlog : Nat.log2 q < f.mbits + 1 := (Nat.log2_lt h.pos.ne').2 h.width
  obtain ⟨hmin, hsub | hnorm⟩ := h.place
  · unfold Layout.place; omega
  · have : f.mbits ≤ Nat.log2 q := (Nat.le_log2 h.pos.ne').2 hnorm
    unfold Layout.place; omega

theorem Layout.Holds.not_above_max {f : Layout} {q : Nat} {u : Int} (h : f.Holds q u) :
    magLt f.maxMag.1 f.maxMag.2 q u = false := by
  obtain ⟨hq, hu⟩ := h.largest
  have : q ≤ f.maxMag.1 * 2 ^ (f.maxMag.2 - u).toNat := hq.trans (Nat.le_mul_of_pos_right _ (by positivity))
  simp [magLt, magLe, hu, this]

/-- R86: rounding leaves such a value, in every direction. -/
theorem Layout.Holds.round_eq {f : Layout} {q : Nat} {u : Int} (h : f.Holds q u) (r : Rounding) (neg : Bool) :
    f.round r (.fin neg q u) = f.encodeUnits neg q u := by
  have hunits : f.roundUnits r neg q u = (q, u) := by simp [Layout.roundUnits, h.place_eq]
  simp [Layout.round, h.pos.ne', hunits, h.not_above_max]

/-! ### FP32 words (R73, R75) -/

/-- R73: sign, exponent and mantissa make up the word. -/
theorem word_fields (w : Word) : w.toNat = (if w.toNat / 2 ^ 31 % 2 = 1 then 2 ^ 31 else 0)
    + w.toNat / 2 ^ 23 % 2 ^ 8 * 2 ^ 23 + w.toNat % 2 ^ 23 := by
  have hw := w.isLt
  split <;> omega

/-- R73: the value of an FP32 word by its three fields. -/
theorem f32_eq (w : Word) : f32 w =
    if w.toNat / 2 ^ 23 % 2 ^ 8 = 255 then (if w.toNat % 2 ^ 23 = 0 then .inf (decide (w.toNat / 2 ^ 31 % 2 = 1)) else .nan)
    else if w.toNat / 2 ^ 23 % 2 ^ 8 = 0 then .fin (decide (w.toNat / 2 ^ 31 % 2 = 1)) (w.toNat % 2 ^ 23) (-149)
    else .fin (decide (w.toNat / 2 ^ 31 % 2 = 1)) (2 ^ 23 + w.toNat % 2 ^ 23) (-149 + (w.toNat / 2 ^ 23 % 2 ^ 8 : Nat) - 1) := rfl

/-- The units of a finite FP32 value of a magnitude other than 0. -/
theorem layFP32_holds_subnormal {q : Nat} (h0 : 0 < q) (h : q < 2 ^ 23) : layFP32.Holds q (-149) :=
  ⟨h0, by simp only [layFP32]; omega, ⟨by decide, .inl rfl⟩, by simp only [Layout.maxMag, Layout.maxFields, Layout.emin, layFP32]; omega⟩

theorem layFP32_holds_normal {m e : Nat} (hm : m < 2 ^ 23) (h0 : e ≠ 0) (h : e < 255) : layFP32.Holds (2 ^ 23 + m) (-149 + (e : Nat) - 1) :=
  ⟨by omega, by simp only [layFP32]; omega, by simp only [Layout.emin, layFP32]; omega,
    by simp only [Layout.maxMag, Layout.maxFields, Layout.emin, layFP32]; omega⟩

/-- R86: the value of an FP32 word, rounded to FP32, is the word itself. -/
theorem layFP32_round_f32 (r : Rounding) (w : Word) (h : f32 w ≠ .nan) : layFP32.round r (f32 w) = w.toNat := by
  have hw := word_fields w
  have hm : w.toNat % 2 ^ 23 < 2 ^ 23 := Nat.mod_lt _ (by decide)
  have he : w.toNat / 2 ^ 23 % 2 ^ 8 < 2 ^ 8 := Nat.mod_lt _ (by decide)
  have hsign : layFP32.signBit (decide (w.toNat / 2 ^ 31 % 2 = 1)) = if w.toNat / 2 ^ 31 % 2 = 1 then 2 ^ 31 else 0 := by
    simp [Layout.signBit, layFP32]
  rw [f32_eq] at h ⊢
  generalize w.toNat / 2 ^ 31 % 2 = s at *
  generalize w.toNat / 2 ^ 23 % 2 ^ 8 = e at *
  generalize w.toNat % 2 ^ 23 = m at *
  split at h
  case isTrue htop =>
    have hm0 : m = 0 := by by_contra hm0; simp [hm0] at h
    simp only [htop, hm0, if_true, Layout.round, Layout.infBits, hsign]
    rw [hw, htop, hm0]
    rfl
  case isFalse htop =>
    rw [if_neg htop]
    split
    case isTrue hsub =>
      rcases Nat.eq_zero_or_pos m with hm0 | hm0
      · simp only [Layout.round, hm0, if_true, hsign]
        rw [hw, hsub, hm0]; rfl
      · rw [(layFP32_holds_subnormal hm0 hm).round_eq, Layout.encodeUnits, if_pos (show m < 2 ^ layFP32.mbits from hm), hsign, hw, hsub]; omega
    case isFalse hnorm =>
      rw [(layFP32_holds_normal hm hnorm (by omega)).round_eq, Layout.encodeUnits, if_neg (by simp only [layFP32]; omega),
        if_pos (by simp only [layFP32]; omega), hsign, hw]
      simp only [Layout.emin, layFP32]
      omega

theorem isNaN32_iff (w : Word) : isNaN32 w = true ↔ f32 w = .nan := beq_iff_eq

theorem toF32_f32 (r : Rounding) (w : Word) (h : isNaN32 w = false) : toF32 r (f32 w) = w := by
  have hn : f32 w ≠ .nan := fun hn => by simp [(isNaN32_iff w).2 hn] at h
  rw [toF32, layFP32_round_f32 r w hn, BitVec.ofNat_toNat, BitVec.setWidth_eq]

theorem toF32_nan (r : Rounding) : toF32 r .nan = 0x7FC00000 := rfl

/-- Settles O16: the discarded part direction by direction; a word by its fields, whose rounding to FP32 is exact. -/
theorem roundingDirections : Obligations.RoundingDirections := by
  unfold Obligations.RoundingDirections
  refine ⟨shiftRound_rne_nearest, shiftRound_rz_below, fun m k => ⟨?_, ?_⟩, shiftRound_away_above, toF32_f32, fun r w h => ?_⟩
  · simp [shiftRound]
  · simp [shiftRound]
  · rw [(isNaN32_iff w).1 h, toF32_nan]

end Sys2Proof.Machine
end

section
/-! ## Lane-wise results by the function they compute (R112) -/

namespace Sys2Proof.Machine

/-- An instruction of the lane-wise form has the result that its function gives. -/
theorem vectorResult_of_lanewise {i : Instr} {d : Reg} {val : State → Nat → Word} (hi : ∀ s, exec i s = lanewise s d (val s)) :
    VectorResult i d val := by
  intro s
  obtain ⟨t, ht, hr⟩ := lanewise_result s d (val s)
  exact ⟨t, (hi s).trans ht, hr⟩

/-- Only the values in the lanes of the pass count. -/
theorem VectorResult.congr {i : Instr} {d : Reg} {f val : State → Nat → Word} (h : VectorResult i d f)
    (hf : ∀ s L, L < 32 → s.inPass L = true → f s L = val s L) : VectorResult i d val := by
  intro s
  obtain ⟨t, ht, hv, hr⟩ := h s
  refine ⟨t, ht, hv, fun r L hL => (hr r L hL).trans ?_⟩
  split
  · next h => exact hf s L hL h.2
  · rfl

theorem vector1_of_vvv {v : Reg → Reg → Instr} {g : Word → Word → Word} {op : Word → Word}
    (hi : ∀ d a s, exec (v d a) s = vvv s g d a 0) (hg : ∀ x y, g x y = op x) : Vector1 v op :=
  fun d a => (vectorResult_of_lanewise (hi d a)).congr fun _ _ _ _ => hg _ _

theorem vector2_of_vvv {v : Reg → Reg → Reg → Instr} {g op : Word → Word → Word}
    (hi : ∀ d a b s, exec (v d a b) s = vvv s g d a b) (hg : ∀ x y, g x y = op x y) : Vector2 v op :=
  fun d a b => (vectorResult_of_lanewise (hi d a b)).congr fun _ _ _ _ => hg _ _

end Sys2Proof.Machine
end

section
/-! ## Conversions (R76, R89, R157) -/

namespace Sys2Proof.Machine

/-! ### Saturation (R87, R89) -/

theorem encodeInt_eq (signed : Bool) (n : Nat) (lo hi i : Int) (hlo : lo = if signed then -((2 ^ (n - 1) : Nat) : Int) else 0)
    (hhi : hi = if signed then ((2 ^ (n - 1) : Nat) : Int) - 1 else ((2 ^ n : Nat) : Int) - 1) (h : lo ≤ hi) :
    BitVec.ofNat n (encodeInt signed n i) = BitVec.ofInt n (max lo (min hi i)) := by
  have hclamp : (if i < lo then lo else if hi < i then hi else i) = max lo (min hi i) := by
    split
    · omega
    · split <;> omega
  apply BitVec.eq_of_toNat_eq
  rw [encodeInt, ← hlo, ← hhi, hclamp, BitVec.toNat_ofInt, BitVec.toNat_ofNat, Nat.mod_eq_of_lt]
  have := Int.emod_lt_of_pos (max lo (min hi i)) (b := (2 ^ n : Nat)) (by positivity)
  omega

/-- R89, R157: a saturating conversion, told by what it gives a NaN, an infinity and a finite value. -/
theorem fToInt_eq {signed : Bool} (lo hi : Int) (hlo : lo = if signed then -2 ^ 31 else 0)
    (hhi : hi = if signed then 2 ^ 31 - 1 else 2 ^ 32 - 1) (r : Rounding) (sat : Word → Word)
    (hnan : ∀ x, f32 x = .nan → sat x = 0)
    (hinf : ∀ x neg, f32 x = .inf neg → sat x = BitVec.ofInt 32 (if neg then lo else hi))
    (hfin : ∀ x neg m e, f32 x = .fin neg m e → sat x = BitVec.ofInt 32 (max lo (min hi (roundInt r neg m e)))) (x y : Word) :
    fToInt r signed x y = sat x := by
  unfold fToInt
  cases hx : f32 x with
  | nan => exact (hnan x hx).symm
  | inf neg =>
    rw [hinf x neg hx, hlo, hhi]
    cases neg <;> cases signed <;> rfl
  | fin neg m e =>
    rw [hfin x neg m e hx]
    exact encodeInt_eq signed 32 lo hi _ (by simpa using hlo) (by simpa using hhi) (by rw [hlo, hhi]; cases signed <;> decide)

/-! ### Halves (R153, R157) -/

theorem halves_eq (lo hi : Nat) : halves lo hi = BitVec.ofNat 16 hi ++ BitVec.ofNat 16 lo := by
  apply BitVec.eq_of_toNat_eq
  rw [BitVec.toNat_append, BitVec.toNat_ofNat, BitVec.toNat_ofNat, ← Nat.shiftLeft_add_eq_or_of_lt (Nat.mod_lt _ (by decide)),
    halves, BitVec.toNat_ofNat, Nat.shiftLeft_eq]
  omega

/-- Settles O17: each minor by the function of its word; the four saturating ones by `fToInt_eq`. -/
theorem conversions : Obligations.Conversions := by
  unfold Obligations.Conversions
  refine ⟨vector1_of_vvv (fun _ _ _ => rfl) fun _ _ => rfl, vector1_of_vvv (fun _ _ _ => rfl) fun _ _ => rfl,
    vector1_of_vvv (fun _ _ _ => rfl) (fToInt_eq (-2 ^ 31) (2 ^ 31 - 1) rfl rfl _ _ ?_ ?_ ?_),
    vector1_of_vvv (fun _ _ _ => rfl) (fToInt_eq 0 (2 ^ 32 - 1) rfl rfl _ _ ?_ ?_ ?_),
    vector1_of_vvv (fun _ _ _ => rfl) (fToInt_eq (-2 ^ 31) (2 ^ 31 - 1) rfl rfl _ _ ?_ ?_ ?_),
    vector1_of_vvv (fun _ _ _ => rfl) (fToInt_eq 0 (2 ^ 32 - 1) rfl rfl _ _ ?_ ?_ ?_),
    vector2_of_vvv (fun _ _ _ _ => rfl) fun _ _ => halves_eq _ _, vector2_of_vvv (fun _ _ _ _ => rfl) fun _ _ => halves_eq _ _,
    vector1_of_vvv (fun _ _ _ => rfl) fun _ _ => rfl, vector1_of_vvv (fun _ _ _ => rfl) fun _ _ => rfl,
    vector1_of_vvv (fun _ _ _ => rfl) fun _ _ => rfl, vector1_of_vvv (fun _ _ _ => rfl) fun _ _ => rfl,
    vector1_of_vvv (fun _ _ _ => rfl) fun _ _ => by rw [f2f19, Nat.mul_comm]⟩
  -- the saturated value of each kind of operand, by what the operand is
  all_goals
    intros
    simp only [*]

end Sys2Proof.Machine
end

section
/-! ## Slot packing and dot products (R81, R90, R158–R163) -/

namespace Sys2Proof.Machine

/-- R162: a signed element is the integer of its bits. -/
theorem sfield_eq (x : Word) (lo n : Nat) : sfield x lo n = ((x >>> lo).extractLsb' 0 n).toInt := by
  have hbits : ((x >>> lo).extractLsb' 0 n).toNat = (x.toNat >>> lo) % 2 ^ n := by
    simp [BitVec.extractLsb'_toNat]
  have hmsb : ((x >>> lo).extractLsb' 0 n).msb = ((x.toNat >>> lo) % 2 ^ n).testBit (n - 1) := by
    rw [BitVec.msb_eq_getLsbD_last, BitVec.getLsbD, hbits]
  rw [BitVec.toInt_eq_msb_cond, hmsb, hbits, sfield]
  push_cast
  rfl

theorem ufield_eq (x : Word) (lo n : Nat) : ufield x lo n = ((x >>> lo).extractLsb' 0 n).toNat := by
  simp [ufield, BitVec.extractLsb'_toNat]

/-- R162: the integer dot product, told by the integers of its elements. -/
theorem intDot_eq (n : Nat) (sa sb : Bool) (d a b : Word) : intDot n sa sb d a b =
    BitVec.ofInt 32 (d.toInt + ((List.range (32 / n)).map (fun k =>
      (if sa then ((a >>> (n * k)).extractLsb' 0 n).toInt else ((a >>> (n * k)).extractLsb' 0 n).toNat)
      * (if sb then ((b >>> (n * k)).extractLsb' 0 n).toInt else ((b >>> (n * k)).extractLsb' 0 n).toNat))).sum) := by
  simp only [intDot, dotField, sfield_eq, ufield_eq]

/-- An instruction that accumulates into its destination, in the lanes of the pass. -/
theorem vectorResult_of_vvvv {i : Reg → Reg → Reg → Instr} {g op : Word → Word → Word → Word}
    (hi : ∀ d a b s, exec (i d a b) s = vvvv s g d d a b) (hg : ∀ x y z, g x y z = op x y z) (d a b : Reg) :
    VectorResult (i d a b) d (fun s L => op (s.vR d L) (s.vR a L) (s.vR b L)) :=
  (vectorResult_of_lanewise (hi d a b)).congr fun _ _ _ _ => hg _ _ _

/-! ### The worked cases of the rules -/

theorem intDot_worked : intDot 8 true false 100 0xFF020380 0x040102FF = 0xFFFF80E8 := by decide +kernel
theorem fpackWord_worked :
    fpackWord 5 (fun k => ([0x3F800000, 0x41880000, 0x43FA0000, 0x7FC00000].getD k 0)) = 0x7F7E5838 := by decide +kernel
theorem funpkWord_worked : funpkWord 5 0x7F7E5838 2 = 0x43E00000 ∧ funpkWord 5 0x7F7E5838 3 = 0x7FC00000 := by decide +kernel
theorem fdotWord_worked : fdotWord 2 0x4B800000 0x3C003C00 0x3C003C00 = 0x4B800001 := by decide +kernel

/-- Settles O18: each instruction by the function of its word, the integer dot products by the integers of their elements. -/
theorem slotsAndDots : Obligations.SlotsAndDots := by
  unfold Obligations.SlotsAndDots
  exact ⟨fun _ _ _ => vectorResult_of_lanewise fun _ => rfl,
    fun _ _ _ _ => vectorResult_of_lanewise fun _ => rfl,
    fun _ _ _ _ => vectorResult_of_lanewise fun _ => rfl,
    vectorResult_of_vvvv (fun _ _ _ _ => rfl) (intDot_eq 8 true true),
    vectorResult_of_vvvv (fun _ _ _ _ => rfl) (intDot_eq 8 false false),
    vectorResult_of_vvvv (fun _ _ _ _ => rfl) (intDot_eq 8 true false),
    vectorResult_of_vvvv (fun _ _ _ _ => rfl) (intDot_eq 4 true true),
    vectorResult_of_vvvv (fun _ _ _ _ => rfl) (intDot_eq 4 false false),
    vectorResult_of_vvvv (fun _ _ _ _ => rfl) (intDot_eq 4 true false),
    vectorResult_of_vvvv (fun _ _ _ _ => rfl) (intDot_eq 2 true true),
    vectorResult_of_vvvv (fun _ _ _ _ => rfl) (intDot_eq 16 true true),
    fun _ _ _ _ => vectorResult_of_lanewise fun _ => rfl,
    (intDot_eq 8 true false _ _ _).symm.trans intDot_worked, fpackWord_worked, funpkWord_worked.1, funpkWord_worked.2,
    fdotWord_worked⟩

end Sys2Proof.Machine
end

section
/-! ## Moves across lanes, reductions and the scan (R90, R92, R164, R165) -/

namespace Sys2Proof.Machine

/-! ### Reductions of a list -/

/-- Additions modulo 2^32 give the sum of the numbers. -/
theorem foldl_add_eq (l : List Nat) (f : Nat → Word) : ∀ w : Word,
    l.foldl (fun w M => w + f M) w = w + BitVec.ofNat 32 (l.map (fun M => (f M).toNat)).sum := by
  induction l with
  | nil => simp
  | cons M t ih =>
    intro w
    rw [List.foldl_cons, ih, List.map_cons, List.sum_cons, BitVec.ofNat_add, BitVec.ofNat_toNat, BitVec.setWidth_eq, BitVec.add_assoc]

theorem foldWords_aluAdd (l : List Nat) (f : Nat → Word) :
    foldWords aluAdd (l.map f) = BitVec.ofNat 32 (l.map (fun M => (f M).toNat)).sum := by
  cases l with
  | nil => rfl
  | cons M t =>
    show (t.map f).foldl (fun w x => w + x) (f M) = _
    rw [List.foldl_map, foldl_add_eq, List.map_cons, List.sum_cons, BitVec.ofNat_add, BitVec.ofNat_toNat, BitVec.setWidth_eq]

/-- An operation that chooses, of two words, one that comes first in a preorder. -/
structure Chooses (le : Word → Word → Prop) (f : Word → Word → Word) : Prop where
  refl : ∀ x, le x x
  trans : ∀ x y z, le x y → le y z → le x z
  pick : ∀ x y, (f x y = x ∨ f x y = y) ∧ le (f x y) x ∧ le (f x y) y

theorem chooses_aluMin : Chooses (fun x y => x.toInt ≤ y.toInt) aluMin :=
  ⟨fun _ => le_rfl, fun _ _ _ => le_trans, fun x y => by unfold aluMin; split <;> simp <;> omega⟩

theorem chooses_aluMax : Chooses (fun x y => y.toInt ≤ x.toInt) aluMax :=
  ⟨fun _ => le_rfl, fun _ _ _ => ge_trans, fun x y => by unfold aluMax; split <;> simp <;> omega⟩

section
variable {le : Word → Word → Prop} {f : Word → Word → Word}

/-- Such an operation chooses the first of a list. -/
theorem Chooses.foldl_first (h : Chooses le f) (t : List Word) : ∀ w, t.foldl f w ∈ w :: t ∧ ∀ x ∈ w :: t, le (t.foldl f w) x := by
  induction t with
  | nil => simp [h.refl]
  | cons y t ih =>
    intro w
    obtain ⟨hmem, hle⟩ := ih (f w y)
    obtain ⟨hpick, hw, hy⟩ := h.pick w y
    have hfirst : le (t.foldl f (f w y)) (f w y) := hle _ List.mem_cons_self
    rw [List.foldl_cons]
    refine ⟨?_, fun x hx => ?_⟩
    · rcases List.mem_cons.1 hmem with he | ht
      · rw [he]; rcases hpick with hp | hp <;> simp [hp]
      · simp [ht]
    · rcases List.mem_cons.1 hx with rfl | hx
      · exact h.trans _ _ _ hfirst hw
      · rcases List.mem_cons.1 hx with rfl | hx
        · exact h.trans _ _ _ hfirst hy
        · exact hle x (List.mem_cons_of_mem _ hx)

theorem Chooses.foldWords_first (h : Chooses le f) {ws : List Word} (hne : ws ≠ []) :
    foldWords f ws ∈ ws ∧ ∀ x ∈ ws, le (foldWords f ws) x := by
  cases ws with
  | nil => exact absurd rfl hne
  | cons w t => exact h.foldl_first t w

end

/-! ### Over the lanes of the pass -/

theorem mem_passWords {s : State} {a : Reg} {w : Word} : w ∈ s.passWords a ↔ ∃ M, s.inPass M = true ∧ w = s.vR a M := by
  simp only [State.passWords, List.mem_map, mem_lanesOf]
  exact ⟨fun ⟨M, h, e⟩ => ⟨M, h.2, e.symm⟩, fun ⟨M, h, e⟩ => ⟨M, ⟨inMask_lt h, h⟩, e.symm⟩⟩

/-- R164: what a choosing operation gives over the lanes of a pass that holds a lane. -/
theorem Chooses.passWords_first {le : Word → Word → Prop} {f : Word → Word → Word} (h : Chooses le f) (s : State) (a : Reg) {L : Nat}
    (hL : s.inPass L = true) : (∃ M, s.inPass M = true ∧ foldWords f (s.passWords a) = s.vR a M)
    ∧ ∀ M, s.inPass M = true → le (foldWords f (s.passWords a)) (s.vR a M) := by
  obtain ⟨hmem, hle⟩ := h.foldWords_first (List.ne_nil_of_mem (mem_passWords.2 ⟨L, hL, rfl⟩))
  exact ⟨mem_passWords.1 hmem, fun M hM => hle _ (mem_passWords.2 ⟨M, hM, rfl⟩)⟩

/-- R165: the lanes of a pass below a lane. -/
theorem lanesOf_below (m : Mask) {L : Nat} (hL : L < 32) :
    (lanesOf m).filter (fun M => decide (M < L)) = (List.range L).filter (inMask m) := by
  have hrange : List.range 32 = List.range L ++ (List.range (32 - L)).map (L + ·) := by
    rw [← List.range_add, Nat.add_sub_cancel' hL.le]
  have hlow : (List.range 32).filter (fun M => decide (M < L)) = List.range L := by
    rw [hrange, List.filter_append, List.filter_eq_self.2 (by simp), List.filter_eq_nil_iff.2 (by simp), List.append_nil]
  rw [lanesOf, List.filter_comm, hlow]

/-! ### One lane written (R164) -/

/-- A write of a vector register in the lanes of a mask changes nothing else. -/
theorem setV_writes (s : State) (d : Reg) (m : Mask) (f : Nat → Word) : OnlyV s (s.setV d m f) ∧ ∀ r L, L < 32 →
    (s.setV d m f).cur.vAt r L = if r = d.toNat ∧ inMask m L = true then f L else s.cur.vAt r L :=
  ⟨⟨onlyCur_onCur s _, by rw [State.setV, cur_onCur]; rfl⟩, fun r L hL => by rw [State.setV, cur_onCur, vAt_setV _ _ _ _ _ _ hL]⟩

theorem wrlane_writes (d a b : Reg) (s : State) : Completes (.wrlane d a b) s (fun t => OnlyV s t ∧ ∀ r L, L < 32 →
    t.cur.vAt r L = if r = d.toNat ∧ s.inPass L = true ∧ L = s.laneArg b (lowLane s.focus.mask)
      then s.vR a (lowLane s.focus.mask) else s.cur.vAt r L) := by
  obtain ⟨hv, hr⟩ := setV_writes s d (s.focus.mask &&& maskOf (fun t => t == s.laneArg b (lowLane s.focus.mask)))
    (fun _ => s.vR a (lowLane s.focus.mask))
  refine ⟨_, rfl, hv, fun r L hL => (hr r L hL).trans ?_⟩
  exact if_congr (by simp [State.inPass, hL]) rfl rfl

/-- Settles O19: the moves by the source lane that their words name, WRLANE by its one lane; the sums over the lanes of the
pass by `foldl_add_eq`, the smallest and the largest by `Chooses.passWords_first`. -/
theorem laneMovesAndReductions : Obligations.LaneMovesAndReductions := by
  unfold Obligations.LaneMovesAndReductions
  refine ⟨⟨fun _ _ _ => vectorResult_of_lanewise fun _ => rfl, fun _ _ _ => vectorResult_of_lanewise fun _ => rfl,
    fun _ _ _ => vectorResult_of_lanewise fun _ => rfl, fun _ _ _ => vectorResult_of_lanewise fun _ => rfl,
    fun _ _ _ => vectorResult_of_lanewise fun _ => rfl, wrlane_writes⟩, ?add, ?min, ?max, ?fadd, ?scan⟩
  case add => exact fun d a => (vectorResult_of_lanewise fun _ => rfl).congr fun _ _ _ _ => foldWords_aluAdd _ _
  case min => exact fun d a => ⟨_, vectorResult_of_lanewise fun _ => rfl, fun s L hL => chooses_aluMin.passWords_first s a hL⟩
  case max => exact fun d a => ⟨_, vectorResult_of_lanewise fun _ => rfl, fun s L hL => chooses_aluMax.passWords_first s a hL⟩
  case fadd =>
    refine fun d a => (vectorResult_of_lanewise fun _ => rfl).congr fun s L _ _ => ?_
    rw [reduxFadd, State.passWords, List.map_map]; rfl
  case scan =>
    refine fun d a => (vectorResult_of_lanewise fun _ => rfl).congr fun s L hL _ => ?_
    rw [lanesOf_below _ hL, foldl_add_eq, zero_add]; rfl

end Sys2Proof.Machine
end

section
/-! ## The encoding (R93–R109): decoding inverts encoding, and encoding decoding -/

namespace Sys2Proof

-- one theorem after another: a theorem that waits for the check of the ones before it would hold a thread
set_option Elab.async false

/-! ### The bits of a code -/

-- Neither equation is proved by `rfl`: the kernel would unfold the powers of two by hand.
theorem codeOf_nil (n : Nat) : codeOf n [] = n := by rw [codeOf, List.foldl_nil]
theorem codeOf_cons (n lo v : Nat) (fs : List (Nat × Nat)) : codeOf n ((lo, v) :: fs) = codeOf (n + v * 2 ^ lo) fs := by
  rw [codeOf, List.foldl_cons, codeOf]

/-- A field changes nothing below it. -/
theorem mod_below (n v : Nat) {p m : Nat} (h : m ∣ p) : (n + v * p) % m = n % m := by
  obtain ⟨r, rfl⟩ := h
  rw [Nat.mul_left_comm, Nat.add_mul_mod_self_left]

theorem digit_below (n v : Nat) {p q m : Nat} (h : q * m ∣ p) : (n + v * p) / q % m = n / q % m := by
  obtain ⟨r, rfl⟩ := h
  rcases Nat.eq_zero_or_pos q with rfl | hq
  · simp
  · rw [show v * (q * m * r) = q * (m * (v * r)) by ring, Nat.add_mul_div_left _ _ hq, Nat.add_mul_mod_self_left]

theorem digit_here (n v : Nat) {p m : Nat} (hp : 0 < p) : (n + v * p) / p % m = (n / p % m + v) % m := by
  rw [Nat.add_mul_div_right _ _ hp, Nat.mod_add_mod]

/-- Above a field of k bits only its carry counts, and it has none where its own bits were free. -/
theorem div_above {k : Nat} (n : Nat) (d : BitVec k) {p q : Nat} (hq : p * 2 ^ k ∣ q) (hp : 0 < p) :
    (n + d.toNat * p) / q = ((n / p % 2 ^ k + d.toNat) / 2 ^ k + n / (p * 2 ^ k)) / (q / (p * 2 ^ k)) := by
  obtain ⟨r, rfl⟩ := hq
  have hn : n / p + d.toNat = (n / p % 2 ^ k + d.toNat) + 2 ^ k * (n / p / 2 ^ k) := by
    have := Nat.mod_add_div (n / p) (2 ^ k); omega
  rw [Nat.mul_div_cancel_left _ (Nat.mul_pos hp (Nat.two_pow_pos k)), ← Nat.div_div_eq_div_mul, ← Nat.div_div_eq_div_mul,
    Nat.add_mul_div_right _ _ hp, hn, Nat.add_mul_div_left _ _ (Nat.two_pow_pos k), Nat.div_div_eq_div_mul n]

theorem toNat_mod {k : Nat} (d : BitVec k) {m : Nat} (h : m = 2 ^ k) : d.toNat % m = d.toNat := by simp [h]
theorem toNat_div {k : Nat} (d : BitVec k) {m : Nat} (h : m = 2 ^ k) : d.toNat / m = 0 := by simp [h, Nat.div_eq_of_lt d.isLt]

theorem fld_eq_digit (w lo n : Nat) : fld w lo n = BitVec.ofNat n (w / 2 ^ lo % 2 ^ n) := by
  apply BitVec.eq_of_toNat_eq; simp [fld]
theorem fld1_eq_digit (w lo : Nat) : fld1 w lo = (w / 2 ^ lo % 2 == 1) := rfl
theorem toNat_bool (b : Bool) : b.toNat = (BitVec.ofBool b).toNat := by cases b <;> rfl
theorem ofBool_beq_one (b : Bool) : ((BitVec.ofBool b).toNat == 1) = b := by cases b <;> rfl

/-! ### From an instruction to its words and back

The default tactics below run once for each instruction: they find its row of the decoder from the fixed bits of its
code (`digit_below`, `div_above`) and read its fields (`digit_here`). -/

/-- A row accepts a well-formed instruction where the zero fields are zero. -/
theorem row_ok {w : Nat} {zeros : List (Nat × Nat)} {i j : Instr} (hw : i.wf = true) (hj : j = i)
    (hz : zeros.all (fun z => w / 2 ^ z.1 % 2 ^ z.2 == 0) = true) : row w zeros j = .ok i := by
  subst hj
  simp only [Instr.wf, Bool.and_eq_true] at hw
  simp [row, hz, hw]

theorem wf_canonical {i : Instr} (h : i.wf = true) : (canonical i).wf = true := by
  unfold canonical; split <;> exact h

/-- A code decodes to the instruction it stands for. -/
def DecodesTo (i : Instr) : Option Code → Prop
  | none => True
  | some (.half w) => (w % 2 = 0 ∧ w / 2 ^ 16 = 0) ∧ decodeHalf w = canonical i
  | some (.word w) => (w % 2 = 1 ∧ w / 2 ^ 32 = 0) ∧ decodeWord w = .ok (canonical i)

/-- A well-formed instruction comes back from its code. -/
def Back (i : Instr) : Prop := i.wf = true → DecodesTo i (encode i)

/-- An instruction with a major opcode of its own. -/
theorem back_major {i : Instr} {c : Nat} (hc : encode i = some (.word c))
    (hlen : c % 2 = 1 ∧ c / 2 ^ 32 = 0 := by
      constructor <;> simp only [codeOf_cons, codeOf_nil, toNat_bool, mod_below, digit_below, digit_here, div_above, toNat_mod, toNat_div,
        Nat.reducePow, Nat.reduceMul, Nat.reduceDiv, Nat.reduceMod, Nat.reduceDvd, Nat.reduceLT, Nat.zero_add, Nat.div_one, Nat.zero_div])
    (hdec : ∀ w, c = w → i.wf = true → decodeWord w = .ok (canonical i) := by
      intro w h hw
      simp only [codeOf_cons, codeOf_nil, toNat_bool] at h
      rw [decodeWord]
      generalize hk : w / _ % _ = k
      simp only [← h, digit_below, Nat.reducePow, Nat.reduceMul, Nat.reduceDiv, Nat.reduceMod, Nat.reduceDvd] at hk
      subst hk
      refine row_ok (wf_canonical hw) ?_ ?_
      all_goals simp only [← h, canonical, fld_eq_digit, fld1_eq_digit, ofBool_beq_one, BitVec.ofNat_toNat, BitVec.setWidth_eq,
        List.all_nil, List.all_cons, beq_self_eq_true, Bool.and_true, digit_below, digit_here, div_above, toNat_mod, toNat_div,
        Nat.reducePow, Nat.reduceMul, Nat.reduceDiv, Nat.reduceMod, Nat.reduceDvd, Nat.reduceLT, Nat.zero_add, Nat.div_one]) :
    Back i := by
  intro hw
  rw [hc]
  exact ⟨hlen, hdec _ rfl hw⟩

/-- An instruction that shares its major opcode with others. -/
theorem back_minor {i : Instr} {c : Nat} (hc : encode i = some (.word c))
    (hlen : c % 2 = 1 ∧ c / 2 ^ 32 = 0 := by
      constructor <;> simp only [codeOf_cons, codeOf_nil, toNat_bool, mod_below, digit_below, digit_here, div_above, toNat_mod, toNat_div,
        Nat.reducePow, Nat.reduceMul, Nat.reduceDiv, Nat.reduceMod, Nat.reduceDvd, Nat.reduceLT, Nat.zero_add, Nat.div_one, Nat.zero_div])
    (hdec : ∀ w, c = w → i.wf = true → decodeWord w = .ok (canonical i) := by
      intro w h hw
      simp only [codeOf_cons, codeOf_nil, toNat_bool] at h
      rw [decodeWord]
      generalize hk : w / _ % _ = k
      simp only [← h, digit_below, Nat.reducePow, Nat.reduceMul, Nat.reduceDiv, Nat.reduceMod, Nat.reduceDvd] at hk
      subst hk
      conv_lhs => whnf
      generalize hk : w / _ % _ = k
      simp only [← h, digit_below, digit_here, div_above, toNat_mod, toNat_div,
        Nat.reducePow, Nat.reduceMul, Nat.reduceDiv, Nat.reduceMod, Nat.reduceDvd, Nat.reduceLT, Nat.zero_add, Nat.div_one] at hk
      subst hk
      refine row_ok (wf_canonical hw) ?_ ?_
      all_goals simp only [← h, canonical, fld_eq_digit, fld1_eq_digit, ofBool_beq_one, BitVec.ofNat_toNat, BitVec.setWidth_eq,
        List.all_nil, List.all_cons, beq_self_eq_true, Bool.and_true, digit_below, digit_here, div_above, toNat_mod, toNat_div,
        Nat.reducePow, Nat.reduceMul, Nat.reduceDiv, Nat.reduceMod, Nat.reduceDvd, Nat.reduceLT, Nat.zero_add, Nat.div_one]) :
    Back i :=
  back_major hc hlen hdec

/-- A 16-bit instruction. -/
theorem back_short {i : Instr} {c : Nat} (hc : encode i = some (.half c))
    (hlen : c % 2 = 0 ∧ c / 2 ^ 16 = 0 := by
      constructor <;> simp only [codeOf_cons, codeOf_nil, mod_below, digit_below, digit_here, div_above, toNat_mod, toNat_div,
        Nat.reducePow, Nat.reduceMul, Nat.reduceDiv, Nat.reduceMod, Nat.reduceDvd, Nat.reduceLT, Nat.zero_add, Nat.div_one, Nat.zero_div])
    (hdec : ∀ w, c = w → i.wf = true → decodeHalf w = canonical i := by
      intro w h _
      simp only [codeOf_cons, codeOf_nil] at h
      rw [decodeHalf]
      generalize hk : w / _ % _ = k
      simp only [← h, digit_below, Nat.reducePow, Nat.reduceMul, Nat.reduceDiv, Nat.reduceMod, Nat.reduceDvd] at hk
      subst hk
      simp only [← h, canonical, fld_eq_digit, BitVec.ofNat_toNat, BitVec.setWidth_eq, digit_below, digit_here, div_above, toNat_mod, toNat_div,
        Nat.reducePow, Nat.reduceMul, Nat.reduceDiv, Nat.reduceMod, Nat.reduceDvd, Nat.reduceLT, Nat.zero_add, Nat.div_one]) :
    Back i := by
  intro hw
  rw [hc]
  exact ⟨hlen, hdec _ rfl hw⟩

theorem back_vector_integer :
    (∀ f ∈ [Instr.iadd, .iaddVs, .isub, .isubVs, .imul, .imulVs, .imulhi, .imulhiVs, .umulhi, .umulhiVs, .imin, .iminVs, .imax,
      .imaxVs, .umin, .uminVs, .umax, .umaxVs, .and, .andVs, .or, .orVs, .xor, .xorVs, .andn, .andnVs, .shl, .shlVs, .shr, .shrVs,
      .sar, .sarVs, .rol, .rolVs, .iabsd, .iabsdVs, .iadds, .iaddsVs, .isubs, .isubsVs, .uadds, .uaddsVs, .usubs, .usubsVs, .bfe,
      .bfeVs, .ubfe, .ubfeVs, .isetLt, .isetLtVs, .isetLe, .isetLeVs, .isetEq, .isetEqVs, .isetNe, .isetNeVs, .usetLt, .usetLtVs,
      .usetLe, .usetLeVs, .iaddD, .isubD, .shlD, .shrD, .sarD, .imulw, .umulw, .iaddw, .uaddw], ∀ d a b, Back (f d a b)) ∧
    (∀ f ∈ [Instr.popc, .popcVs, .clz, .clzVs, .brev, .brevVs, .mov, .movVs], ∀ d a, Back (f d a)) := by
  simp only [List.forall_mem_cons, List.not_mem_nil, IsEmpty.forall_iff, implies_true, and_true]
  and_intros <;> intros <;> exact back_minor rfl

theorem back_scalar_integer_and_predicate :
    (∀ f ∈ [Instr.iaddS, .isubS, .imulS, .imulhiS, .umulhiS, .iminS, .imaxS, .uminS, .umaxS, .andS, .orS, .xorS, .andnS, .shlS,
      .shrS, .sarS, .rolS, .iabsdS, .iaddsS, .isubsS, .uaddsS, .usubsS, .bfeS, .ubfeS, .isetLtS, .isetLeS, .isetEqS, .isetNeS,
      .usetLtS, .usetLeS, .iaddDS, .isubDS, .shlDS, .shrDS, .sarDS, .imulwS, .umulwS, .iaddwS, .uaddwS], ∀ d a b, Back (f d a b)) ∧
    (∀ f ∈ [Instr.popcS, .clzS, .brevS, .movS], ∀ d a, Back (f d a)) ∧
    (∀ f ∈ [Instr.pand, .por, .pxor, .pandn], ∀ d a b, Back (f d a b)) ∧
    (∀ d a, Back (.pnot d a)) ∧
    (∀ f ∈ [Instr.psetPred, .pclr], ∀ d, Back (f d)) ∧
    (∀ f ∈ [Instr.ballot, .ptov, .vany, .vall], ∀ d a, Back (f d a)) ∧
    (∀ f ∈ [Instr.pfrom, .pload], ∀ d a, Back (f d a)) ∧
    (∀ d, Back (.mask d)) := by
  simp only [List.forall_mem_cons, List.not_mem_nil, IsEmpty.forall_iff, implies_true, and_true]
  and_intros <;> intros <;> exact back_minor rfl

theorem back_float_and_lane :
    (∀ f ∈ [Instr.fadd, .faddVs, .faddRz, .faddRzVs, .faddRd, .faddRdVs, .faddRu, .faddRuVs, .fsub, .fsubVs, .fmul, .fmulVs,
      .fmulRz, .fmulRzVs, .fmulRd, .fmulRdVs, .fmulRu, .fmulRuVs, .fmin, .fminVs, .fmax, .fmaxVs, .fminnum, .fminnumVs, .fmaxnum,
      .fmaxnumVs, .fcopysign, .fcopysignVs, .hadd2, .hsub2, .hmul2, .hmin2, .hmax2, .badd2, .bsub2, .bmul2, .bmin2, .bmax2, .pkh,
      .pkb, .dot4Ss, .dot4Uu, .dot4Su, .dot8Ss, .dot8Uu, .dot8Su, .dot16Ss, .dot2Ss, .shflIdx, .shflUp, .shflDn, .shflXor, .rdlane,
      .wrlane], ∀ d a b, Back (f d a b)) ∧
    (∀ f ∈ [Instr.fabs, .fabsVs, .fneg, .fnegVs, .ffloor, .ffloorVs, .fceil, .fceilVs, .ftrunc, .ftruncVs, .frint, .frintVs,
      .fclamp01, .fclamp01Vs, .i2f, .u2f, .f2i, .f2u, .f2in, .f2un, .uphLo, .uphHi, .upbLo, .upbHi, .f2f19, .reduxAdd, .reduxMin,
      .reduxMax, .reduxFadd, .scanxAdd], ∀ d a, Back (f d a)) ∧
    (∀ d a x, Back (.fpack d a x)) ∧
    (∀ f ∈ [Instr.fpackSr, .fdot], ∀ d a b x, Back (f d a b x)) ∧
    (∀ d a k x, Back (.funpk d a k x)) := by
  simp only [List.forall_mem_cons, List.not_mem_nil, IsEmpty.forall_iff, implies_true, and_true]
  and_intros <;> intros <;> exact back_minor rfl

theorem back_control_and_system :
    (∀ f ∈ [Instr.calli, .ret, .brx, .exitc, .pmov, .pget, .xfer, .xqry, .version, .stampOpen], ∀ a, Back (f a)) ∧
    (∀ i ∈ [Instr.exit, .xclr, .nop, .yield, .brkpt, .dbls, .stampClose], Back i) ∧
    (∀ k, Back (.pset k)) ∧
    (∀ g p k, Back (.psel g p k)) ∧
    (∀ f ∈ [Instr.sread, .swrite], ∀ d a b, Back (f d a b)) ∧
    (∀ f ∈ [Instr.trap, .dbgwait, .dbgrd, .dbgwr, .dbgctlResume, .dbgctlStep, .dbgctlHalt, .dbgctlResumeall, .dbgctlBkset,
      .dbgctlBkclr, .dbgctlWset, .dbgctlWclr, .mboxw], ∀ a b, Back (f a b)) := by
  simp only [List.forall_mem_cons, List.not_mem_nil, IsEmpty.forall_iff, implies_true, and_true]
  and_intros <;> intros <;> exact back_minor rfl

theorem back_long_function_and_work :
    (∀ f ∈ [Instr.fdiv, .wltake], ∀ la d a b, Back (f la d a b)) ∧
    (∀ f ∈ [Instr.fsqrt, .frcp, .frsq, .fexp2, .flog2, .fsint, .fcost, .ftanh, .fsigm, .ferf, .launch, .wlapp], ∀ la d a, Back (f la
      d a)) ∧
    (∀ f ∈ [Instr.c1hadd, .c1hsub, .c1hmul, .c1hfma, .c1cas], ∀ d a b, Back (f d a b)) ∧
    (∀ f ∈ [Instr.c1f2i, .c1bar], ∀ d a, Back (f d a)) := by
  simp only [List.forall_mem_cons, List.not_mem_nil, IsEmpty.forall_iff, implies_true, and_true]
  and_intros <;> intros <;> exact back_minor rfl

theorem back_memory_and_matrix :
    (∀ f ∈ [Instr.ldsSb, .ldsZb, .ldsSh, .ldsZh, .ldsW, .ldsD, .ldsQ, .stsB, .stsH, .stsW, .stsD, .stsQ], ∀ la d a s, Back (f la d a
      s)) ∧
    (∀ f ∈ [Instr.atomAdd, .atomAnd, .atomOr, .atomXor, .atomMin, .atomMax, .atomUmin, .atomUmax, .atomXchg, .atomCas, .atomFadd,
      .atomFmin, .atomFmax, .atomAddD, .atomXchgD, .atomCasD, .redAdd, .redAnd, .redOr, .redXor, .redMin, .redMax, .redUmin, .redUmax,
      .redFadd, .redFmin, .redFmax, .redAddD], ∀ la d a c, Back (f la d a c)) ∧
    (∀ f ∈ [Instr.cpyG2s, .cpyS2g, .cpyG2s2d, .cpyS2g2d, .cpyG2g], ∀ x y n p, Back (f x y n p)) ∧
    (∀ f ∈ [Instr.cbclose, .cwait, .cqry, .sfree, .smap, .sunmap, .sflush, .txabort, .txqry], ∀ d, Back (f d)) ∧
    (∀ f ∈ [Instr.salloc, .sigwait], ∀ d a, Back (f d a)) ∧
    (∀ f ∈ [Instr.fenceRel, .fenceAcq, .fenceAr, .fenceSc, .mzero], ∀ c, Back (f c)) ∧
    (∀ f ∈ [Instr.barInit, .barWait], ∀ k b, Back (f k b)) ∧
    (∀ d k, Back (.barArrive d k)) ∧
    (∀ k, Back (.barSync k)) ∧
    (∀ f ∈ [Instr.qinit, .qpush], ∀ k b, Back (f k b)) ∧
    (∀ f ∈ [Instr.qpop, .txend], ∀ d k, Back (f d k)) ∧
    (∀ d k b, Back (.qtry d k b)) ∧
    (∀ i ∈ [Instr.txbegin, .txirr, .txire, .macq, .mrel, .mwait], Back i) ∧
    (∀ f ∈ [Instr.mma, .mmaz, .mmai, .mmaiz], ∀ la x y q c a b, Back (f la x y q c a b)) ∧
    (∀ f ∈ [Instr.mld, .mst], ∀ d c g, Back (f d c g)) := by
  simp only [List.forall_mem_cons, List.not_mem_nil, IsEmpty.forall_iff, implies_true, and_true]
  and_intros <;> intros <;> exact back_minor rfl

theorem back_global_access :
    (∀ f ∈ [Instr.ldgSb, .ldgZb, .ldgSh, .ldgZh, .ldgW, .ldgD, .ldgQ, .stgB, .stgH, .stgW, .stgD, .stgQ, .ldaW, .ldaD, .stlW, .stlD,
      .stgc], ∀ la d a s m p, Back (f la d a s m p)) ∧
    (∀ la a s m p, Back (.pfg la a s m p)) ∧
    (∀ f ∈ [Instr.mmas, .mmasz], ∀ la x s q c a b, Back (f la x s q c a b)) := by
  simp only [List.forall_mem_cons, List.not_mem_nil, IsEmpty.forall_iff, implies_true, and_true]
  and_intros <;> intros <;> exact back_major rfl

theorem back_own_major :
    (∀ f ∈ [Instr.iaddi, .andi, .ori, .xori, .iaddiS, .andiS, .oriS, .xoriS], ∀ d a i, Back (f d a i)) ∧
    (∀ f ∈ [Instr.shli, .shri, .sari, .shliS, .shriS, .sariS], ∀ d a i, Back (f d a i)) ∧
    (∀ f ∈ [Instr.movk, .movkh, .movkS, .movkhS], ∀ d k, Back (f d k)) ∧
    (∀ f ∈ [Instr.imad, .imadS, .bfi, .ssel, .ffma, .ffms, .ffnma, .ffmaRz, .ffmaRd, .ffmaRu, .hfma2, .bfma2], ∀ d a b c, Back (f d
      a b c)) ∧
    (∀ d a b p g, Back (.sel d a b p g)) ∧
    (∀ p r a i, Back (.cmpi p r a i)) ∧
    (∀ f ∈ [Instr.ifP, .bra], ∀ p g off, Back (f p g off)) ∧
    (∀ f ∈ [Instr.elseP, .loop, .endloop, .jmp, .call], ∀ off, Back (f off)) ∧
    (∀ i ∈ [Instr.endif, .join], Back i) ∧
    (∀ p g n off, Back (.brk p g n off)) ∧
    (∀ s r off, Back (.bsc s r off)) ∧
    (∀ n, Back (.safe n)) := by
  simp only [List.forall_mem_cons, List.not_mem_nil, IsEmpty.forall_iff, implies_true, and_true]
  and_intros <;> intros <;> exact back_major rfl

theorem back_half :
    (∀ f ∈ [Instr.iadd16, .isub16, .imul16, .and16, .or16, .xor16, .shl16, .shr16, .sar16, .fadd16, .fsub16, .fmul16, .fmin16,
      .fmax16], ∀ d s, Back (f d s)) := by
  simp only [List.forall_mem_cons, List.not_mem_nil, IsEmpty.forall_iff, implies_true, and_true]
  and_intros <;> intros <;> exact back_short rfl

theorem back_iaddI5 (d : Reg) (k : BitVec 5) : Back (.iaddI5 d k) := back_short rfl
theorem back_nop16 : Back .nop16 := back_short rfl (hdec := fun _ h _ => by subst h; rfl)

/-- MOV of v0 to v0 would be the word 0, which is NOP: it is no well-formed instruction. -/
theorem back_mov16 (d : Reg) (b : BitVec 5) : Back (.mov16 d b) := by
  refine back_short rfl (hlen := by simp only [codeOf_cons, codeOf_nil]; omega) (hdec := fun w h hw => ?_)
  have hne : ¬ (d = 0 ∧ b = 0) := by simpa [Instr.assigned, imp_iff_not_or] using (Bool.and_eq_true_iff.1 hw).2
  simp only [codeOf_cons, codeOf_nil] at h
  have h0 : w ≠ 0 := fun h0 => hne ⟨BitVec.eq_of_toNat_eq (by simp; omega), BitVec.eq_of_toNat_eq (by simp; omega)⟩
  rw [decodeHalf, show w / 2 % 16 = 0 by omega]
  simp only [h0, if_false, canonical]
  rw [show fld w 5 6 = d by unfold fld; bv_omega, show fld w 11 5 = b by unfold fld; bv_omega]

/-- CMP has a type and a relation below 6 (R108). -/
theorem back_compare : ∀ f ∈ [Instr.cmp, .cmpVs], ∀ p a b r t, Back (f p a b r t) := by
  simp only [List.forall_mem_cons, List.not_mem_nil, IsEmpty.forall_iff, implies_true, and_true]
  and_intros
  all_goals
    intro p a b r t
    refine back_major rfl (hdec := fun w h hw => ?_)
    have hrt : t.toNat < 6 ∧ r.toNat < 6 := of_decide_eq_true (Bool.and_eq_true_iff.1 hw).2
    simp only [codeOf_cons, codeOf_nil] at h
    rw [decodeWord]
    generalize hk : w / _ % _ = k
    simp only [← h, digit_below, Nat.reducePow, Nat.reduceMul, Nat.reduceDiv, Nat.reduceMod, Nat.reduceDvd] at hk
    subst hk
    show (if _ then _ else _) = _
    rw [if_pos (by omega)]
    refine row_ok (wf_canonical hw) ?_ ?_
    all_goals simp only [← h, canonical, fld_eq_digit, BitVec.ofNat_toNat, BitVec.setWidth_eq,
      List.all_nil, List.all_cons, beq_self_eq_true, Bool.and_true, digit_below, digit_here, div_above, toNat_mod, toNat_div,
        Nat.reducePow, Nat.reduceMul, Nat.reduceDiv, Nat.reduceMod, Nat.reduceDvd, Nat.reduceLT, Nat.zero_add, Nat.div_one]

/-- The constructors up to the matrix engine's: events, long-latency instructions, work and memory. -/
theorem back_below {i : Instr} (hi : i.ctorIdx.blt 205 = true) : Back i := by
  have h1 := back_long_function_and_work
  have h2 := back_global_access
  have h3 := back_memory_and_matrix
  simp only [List.forall_mem_cons, List.not_mem_nil, IsEmpty.forall_iff, implies_true, and_true] at h1 h2 h3
  cases i
  any_goals exact Bool.noConfusion hi
  any_goals simp only [h1, h2, h3]
  all_goals exact fun _ => trivial

/-- The others: integers, predicates, numbers, lanes, control and system. -/
theorem back_from {i : Instr} (hi : i.ctorIdx.blt 205 = false) : Back i := by
  have h1 := back_vector_integer
  have h2 := back_scalar_integer_and_predicate
  have h3 := back_float_and_lane
  have h4 := back_control_and_system
  have h5 := back_own_major
  have h6 := back_half
  have h7 := back_compare
  simp only [List.forall_mem_cons, List.not_mem_nil, IsEmpty.forall_iff, implies_true, and_true] at h1 h2 h3 h4 h5 h6 h7
  cases i
  any_goals exact Bool.noConfusion hi
  all_goals simp only [h1, h2, h3, h4, h5, h6, h7, back_iaddI5, back_nop16, back_mov16]

theorem back_all (i : Instr) : Back i :=
  match hi : i.ctorIdx.blt 205 with
  | true => back_below hi
  | false => back_from hi


/-! ### From a word to its instruction and back -/

/-- The bits of a word from bit k upwards. -/
def top (w k : Nat) : ℤ := (w / 2 ^ k : Nat)

/-- A digit is what stands above its lowest bit, without what stands above its highest: so a sum of digits telescopes. -/
theorem cast_digit (w lo n : Nat) : ((w / 2 ^ lo % 2 ^ n : Nat) : ℤ) = top w lo - 2 ^ n * top w (lo + n) := by
  have h := congrArg (Nat.cast (R := ℤ)) (Nat.mod_add_div (w / 2 ^ lo) (2 ^ n))
  rw [Nat.div_div_eq_div_mul, ← pow_add, Nat.cast_add, Nat.cast_mul, Nat.cast_pow, Nat.cast_ofNat] at h
  exact eq_sub_of_add_eq h

theorem cast_fld (w lo n : Nat) : ((fld w lo n).toNat : ℤ) = top w lo - 2 ^ n * top w (lo + n) := by
  rw [fld_eq_digit, BitVec.toNat_ofNat, Nat.mod_mod, cast_digit]
theorem cast_fld1 (w lo : Nat) : ((fld1 w lo).toNat : ℤ) = top w lo - 2 * top w (lo + 1) := by
  rw [show (fld1 w lo).toNat = w / 2 ^ lo % 2 ^ 1 by rcases Nat.mod_two_eq_zero_or_one (w / 2 ^ lo) with h | h <;> simp [fld1, h]]
  exact cast_digit w lo 1

theorem digit_eq_iff (w lo n k : Nat) : w / 2 ^ lo % 2 ^ n = k ↔ top w lo - 2 ^ n * top w (lo + n) = k := by
  rw [← cast_digit w lo n, Nat.cast_inj]
theorem major_eq_iff (w k : Nat) : w / 2 % 128 = k ↔ top w 1 - 128 * top w 8 = k := digit_eq_iff w 1 7 k
theorem minor_eq_iff (w lo k : Nat) : (w / 2 ^ lo % 64 = k ↔ top w lo - 64 * top w (lo + 6) = k)
    ∧ (w / 2 ^ lo % 16 = k ↔ top w lo - 16 * top w (lo + 4) = k) ∧ (w / 2 ^ lo % 8 = k ↔ top w lo - 8 * top w (lo + 3) = k)
    ∧ (w / 2 ^ lo % 4 = k ↔ top w lo - 4 * top w (lo + 2) = k) :=
  ⟨digit_eq_iff w lo 6 k, digit_eq_iff w lo 4 k, digit_eq_iff w lo 3 k, digit_eq_iff w lo 2 k⟩

theorem top_word {w : Nat} (hw : w < 2 ^ 32) (hodd : w % 2 = 1) :
    top w 0 = w ∧ top w 0 - 2 * top w 1 = 1 ∧ top w 32 = 0 := by
  unfold top; omega

/-- Whatever is read from the word is a well-formed instruction whose word it is. -/
def Reads (w : Nat) (r : Except DecodeError Instr) : Prop := ∀ i, r = .ok i → i.wf = true ∧ encode i = some (.word w)

section
variable {w : Nat}

theorem reads_error (w : Nat) (e : DecodeError) : Reads w (.error e) := fun _ h => nomatch h

theorem row_eq_ok {zeros : List (Nat × Nat)} {i j : Instr} (h : row w zeros j = .ok i) :
    j = i ∧ zeros.all (fun z => w / 2 ^ z.1 % 2 ^ z.2 == 0) = true ∧ j.zeroOk = true ∧ j.aligned = true ∧ j.listed = true := by
  unfold row at h
  split at h
  case isFalse => cases h
  rename_i hz
  split at h
  case isFalse => cases h
  rename_i ha
  split at h
  case isFalse => cases h
  rename_i hl
  cases h
  obtain ⟨hz, hzo⟩ := Bool.and_eq_true_iff.1 hz
  exact ⟨rfl, hz, hzo, ha, hl⟩

/-- A row reads back where its fixed bits, its fields and its zero fields make up the word. -/
theorem reads_row {zeros : List (Nat × Nat)} {j : Instr} {c : Nat} (hc : encode j = some (.word c)) (ha : j.assigned = true)
    (hsum : zeros.all (fun z => w / 2 ^ z.1 % 2 ^ z.2 == 0) = true → (c : ℤ) = w := by
      intro hz
      simp only [List.all_cons, List.all_nil, Bool.and_eq_true, beq_iff_eq, digit_eq_iff, Nat.reduceAdd] at hz
      simp only [codeOf_cons, codeOf_nil, Nat.cast_add, Nat.cast_mul, Nat.cast_ofNat, Nat.cast_pow, cast_fld, cast_fld1,
        Nat.reduceAdd]
      omega) :
    Reads w (row w zeros j) := by
  intro i hi
  obtain ⟨rfl, hz, hzo, hal, hl⟩ := row_eq_ok hi
  obtain rfl : c = w := Int.ofNat_inj.1 (hsum hz)
  exact ⟨by simp [Instr.wf, hzo, ha, hal, hl], hc⟩

theorem reads_vector_integer (hw : w < 2 ^ 32) (hodd : w % 2 = 1) :
    (w / 2 % 128 = 0x01 → Reads w (decode01 w)) ∧ (w / 2 % 128 = 0x02 → Reads w (decode02 w)) ∧ (w / 2 % 128 = 0x03 → Reads w (decode03 w)) := by
  simp only [major_eq_iff]
  have htop := top_word hw hodd
  and_intros <;> intro h
  all_goals delta decode01 decode02 decode03; split
  any_goals exact reads_error _ _
  all_goals
    rename_i hk
    simp only [minor_eq_iff, Nat.reduceAdd] at hk
    exact reads_row rfl rfl

theorem reads_scalar_integer_and_predicate (hw : w < 2 ^ 32) (hodd : w % 2 = 1) :
    (w / 2 % 128 = 0x30 → Reads w (decode30 w)) ∧ (w / 2 % 128 = 0x3C → Reads w (decode3C w)) ∧ (w / 2 % 128 = 0x1B → Reads w (decode1B w)) := by
  simp only [major_eq_iff]
  have htop := top_word hw hodd
  and_intros <;> intro h
  all_goals delta decode30 decode3C decode1B; split
  any_goals exact reads_error _ _
  all_goals
    rename_i hk
    simp only [minor_eq_iff, Nat.reduceAdd] at hk
    exact reads_row rfl rfl

theorem reads_float (hw : w < 2 ^ 32) (hodd : w % 2 = 1) :
    (w / 2 % 128 = 0x10 → Reads w (decode10 w)) ∧ (w / 2 % 128 = 0x11 → Reads w (decode11 w)) ∧ (w / 2 % 128 = 0x1C → Reads w (decode1C w))
    ∧ (w / 2 % 128 = 0x1F → Reads w (decode1F w)) := by
  simp only [major_eq_iff]
  have htop := top_word hw hodd
  and_intros <;> intro h
  all_goals delta decode10 decode11 decode1C decode1F; split
  any_goals exact reads_error _ _
  all_goals
    rename_i hk
    simp only [minor_eq_iff, Nat.reduceAdd] at hk
    exact reads_row rfl rfl

theorem reads_dots_and_lanes (hw : w < 2 ^ 32) (hodd : w % 2 = 1) :
    (w / 2 % 128 = 0x20 → Reads w (decode20 w)) ∧ (w / 2 % 128 = 0x21 → Reads w (decode21 w)) ∧ (w / 2 % 128 = 0x22 → Reads w (decode22 w))
    ∧ (w / 2 % 128 = 0x23 → Reads w (decode23 w)) ∧ (w / 2 % 128 = 0x26 → Reads w (decode26 w)) := by
  simp only [major_eq_iff]
  have htop := top_word hw hodd
  and_intros <;> intro h
  all_goals delta decode20 decode21 decode22 decode23 decode26; split
  any_goals exact reads_error _ _
  all_goals
    rename_i hk
    simp only [minor_eq_iff, Nat.reduceAdd] at hk
    exact reads_row rfl rfl

theorem reads_control_and_system (hw : w < 2 ^ 32) (hodd : w % 2 = 1) :
    (w / 2 % 128 = 0x4A → Reads w (decode4A w)) ∧ (w / 2 % 128 = 0x4B → Reads w (decode4B w)) ∧ (w / 2 % 128 = 0x4C → Reads w (decode4C w))
    ∧ (w / 2 % 128 = 0x4E → Reads w (decode4E w)) ∧ (w / 2 % 128 = 0x50 → Reads w (decode50 w)) ∧ (w / 2 % 128 = 0x51 → Reads w (decode51 w))
    ∧ (w / 2 % 128 = 0x52 → Reads w (decode52 w)) ∧ (w / 2 % 128 = 0x53 → Reads w (decode53 w)) ∧ (w / 2 % 128 = 0x54 → Reads w (decode54 w)) := by
  simp only [major_eq_iff]
  have htop := top_word hw hodd
  and_intros <;> intro h
  all_goals delta decode4A decode4B decode4C decode4E decode50 decode51 decode52 decode53 decode54; split
  any_goals exact reads_error _ _
  all_goals
    rename_i hk
    simp only [minor_eq_iff, Nat.reduceAdd] at hk
    exact reads_row rfl rfl

theorem reads_memory (hw : w < 2 ^ 32) (hodd : w % 2 = 1) :
    (w / 2 % 128 = 0x70 → Reads w (decode70 w)) ∧ (w / 2 % 128 = 0x71 → Reads w (decode71 w)) ∧ (w / 2 % 128 = 0x75 → Reads w (decode75 w))
    ∧ (w / 2 % 128 = 0x76 → Reads w (decode76 w)) ∧ (w / 2 % 128 = 0x77 → Reads w (decode77 w)) := by
  simp only [major_eq_iff]
  have htop := top_word hw hodd
  and_intros <;> intro h
  all_goals delta decode70 decode71 decode75 decode76 decode77; split
  any_goals exact reads_error _ _
  all_goals
    rename_i hk
    simp only [minor_eq_iff, Nat.reduceAdd] at hk
    exact reads_row rfl rfl

theorem reads_sync_and_matrix (hw : w < 2 ^ 32) (hodd : w % 2 = 1) :
    (w / 2 % 128 = 0x78 → Reads w (decode78 w)) ∧ (w / 2 % 128 = 0x79 → Reads w (decode79 w)) ∧ (w / 2 % 128 = 0x7A → Reads w (decode7A w))
    ∧ (w / 2 % 128 = 0x7B → Reads w (decode7B w)) ∧ (w / 2 % 128 = 0x7C → Reads w (decode7C w)) ∧ (w / 2 % 128 = 0x7F → Reads w (decode7F w)) := by
  simp only [major_eq_iff]
  have htop := top_word hw hodd
  and_intros <;> intro h
  all_goals delta decode78 decode79 decode7A decode7B decode7C decode7F; split
  any_goals exact reads_error _ _
  all_goals
    rename_i hk
    simp only [minor_eq_iff, Nat.reduceAdd] at hk
    exact reads_row rfl rfl

/-- The decoders that give every minor a meaning: their last arm is the last value that the minor can take. -/
theorem reads_every_minor (hw : w < 2 ^ 32) (hodd : w % 2 = 1) :
    (w / 2 % 128 = 0x24 → Reads w (decode24 w)) ∧ (w / 2 % 128 = 0x25 → Reads w (decode25 w))
    ∧ (w / 2 % 128 = 0x74 → Reads w (decode74 w)) := by
  simp only [major_eq_iff]
  have htop := top_word hw hodd
  have h4 : w / 2 ^ 30 % 4 < 4 := Nat.mod_lt _ (by decide)
  have h16 : w / 2 ^ 24 % 16 < 16 := Nat.mod_lt _ (by decide)
  generalize hk : w / 2 ^ 30 % 4 = k at h4
  generalize hm : w / 2 ^ 24 % 16 = m at h16
  simp only [decode24, decode25, decode74, hk, hm]
  simp only [minor_eq_iff, Nat.reduceAdd] at hk hm
  and_intros <;> intro h
  · interval_cases k <;> exact reads_row rfl rfl
  · interval_cases k <;> exact reads_row rfl rfl
  · interval_cases m <;> exact reads_row rfl rfl

theorem reads_decodeWord (hw : w < 2 ^ 32) (hodd : w % 2 = 1) : Reads w (decodeWord w) := by
  have htop := top_word hw hodd
  rw [decodeWord]
  split
  any_goals exact reads_error _ _
  all_goals rename_i h
  any_goals simp only [h, reads_vector_integer hw hodd, reads_scalar_integer_and_predicate hw hodd, reads_float hw hodd,
    reads_dots_and_lanes hw hodd, reads_control_and_system hw hodd, reads_memory hw hodd, reads_sync_and_matrix hw hodd,
    reads_every_minor hw hodd]
  all_goals simp only [major_eq_iff] at h
  case h_25 | h_26 =>
    split
    · rename_i hrt
      refine reads_row rfl (decide_eq_true ?_)
      simpa only [fld_eq_digit, BitVec.toNat_ofNat, Nat.mod_mod, Nat.reducePow] using hrt
    · exact reads_error _ _
  all_goals exact reads_row rfl rfl

theorem half_reads {j : Instr} {c : Nat} (hj : j.wf = true) (hc : encode j = some (.half c))
    (hsum : c = w := by
      simp only [codeOf_cons, codeOf_nil, fld_eq_digit, BitVec.toNat_ofNat, Nat.mod_mod]
      omega) : j.wf = true ∧ encode j = some (.half w) := ⟨hj, hsum ▸ hc⟩

/-- R95: every 16-bit word is a well-formed instruction, whose word it is. -/
theorem decodeHalf_reads (hw : w < 2 ^ 16) (heven : w % 2 = 0) :
    (decodeHalf w).wf = true ∧ encode (decodeHalf w) = some (.half w) := by
  have h16 : w / 2 % 16 < 16 := Nat.mod_lt _ (by decide)
  generalize hk : w / 2 % 16 = k at h16
  rcases Nat.eq_zero_or_pos k with rfl | hpos
  · rw [decodeHalf, hk]
    by_cases h0 : w = 0
    · subst h0; exact ⟨rfl, rfl⟩
    · simp only [h0, if_false]
      refine half_reads ?_ rfl
      have hne : ¬ (fld w 5 6 = 0 ∧ fld w 11 5 = 0) := by
        rintro ⟨hd, hb⟩
        have hd : (fld w 5 6).toNat = 0 := by rw [hd]; rfl
        have hb : (fld w 11 5).toNat = 0 := by rw [hb]; rfl
        simp only [fld_eq_digit, BitVec.toNat_ofNat, Nat.mod_mod] at hd hb
        omega
      simpa [Instr.wf, Instr.zeroOk, Instr.aligned, Instr.listed, Instr.assigned, imp_iff_not_or] using hne
  · simp only [decodeHalf, hk]
    interval_cases k <;> exact half_reads rfl rfl

end

/-! ### Bytes -/

theorem ofNat_toNat_add_mul (a : Byte) (n : Nat) : BitVec.ofNat 8 (a.toNat + 256 * n) = a := by
  apply BitVec.eq_of_toNat_eq
  rw [BitVec.toNat_ofNat, Nat.add_mul_mod_self_left, Nat.mod_eq_of_lt a.isLt]
theorem toNat_add_mul_div (a : Byte) (n : Nat) : (a.toNat + 256 * n) / 256 = n := by
  have := a.isLt; omega

theorem bytesLE_succ_add (k : Nat) (a : Byte) (n : Nat) : bytesLE (k + 1) (a.toNat + 256 * n) = a :: bytesLE k n := by
  rw [bytesLE, ofNat_toNat_add_mul, toNat_add_mul_div]

theorem bytesLE_two (a b : Byte) : bytesLE 2 (a.toNat + 256 * b.toNat) = [a, b] := by
  rw [bytesLE_succ_add]
  exact congrArg (a :: ·) (bytesLE_succ_add 0 b 0)

theorem bytesLE_four (a b c d : Byte) :
    bytesLE 4 (a.toNat + 256 * b.toNat + 65536 * c.toNat + 16777216 * d.toNat) = [a, b, c, d] := by
  rw [show a.toNat + 256 * b.toNat + 65536 * c.toNat + 16777216 * d.toNat
      = a.toNat + 256 * (b.toNat + 256 * (c.toNat + 256 * d.toNat)) by ring, bytesLE_succ_add, bytesLE_succ_add, bytesLE_two]

theorem toNat_byte (n : Nat) : (BitVec.ofNat 8 n).toNat = n % 256 := BitVec.toNat_ofNat n 8

theorem decode_half {w : Nat} (heven : w % 2 = 0) (hw : w / 2 ^ 16 = 0) (rest : List Byte) :
    decode (bytesLE 2 w ++ rest) = .ok (decodeHalf w, rest) := by
  simp only [bytesLE, List.cons_append, List.nil_append, decode]
  rw [toNat_byte, toNat_byte, if_pos (by omega), show w % 256 + 256 * (w / 256 % 256) = w by omega]

theorem decode_word {w : Nat} {i : Instr} (hodd : w % 2 = 1) (hw : w / 2 ^ 32 = 0) (hi : decodeWord w = .ok i) (rest : List Byte) :
    decode (bytesLE 4 w ++ rest) = .ok (i, rest) := by
  simp only [bytesLE, List.cons_append, List.nil_append, decode]
  rw [toNat_byte, toNat_byte, toNat_byte, toNat_byte, if_neg (by omega),
    show w % 256 + 256 * (w / 256 % 256) + 65536 * (w / 256 / 256 % 256) + 16777216 * (w / 256 / 256 / 256 % 256) = w by omega, hi]

/-- What is decoded is a half or a word, and its bytes are those taken. -/
theorem decode_eq_ok {bs rest : List Byte} {i : Instr} (h : decode bs = .ok (i, rest)) :
    (∃ w, w < 2 ^ 16 ∧ w % 2 = 0 ∧ decodeHalf w = i ∧ bytesLE 2 w ++ rest = bs)
    ∨ ∃ w, w < 2 ^ 32 ∧ w % 2 = 1 ∧ decodeWord w = .ok i ∧ bytesLE 4 w ++ rest = bs := by
  rcases bs with _ | ⟨a, _ | ⟨b, bs⟩⟩
  · cases h
  · cases h
  have ha := a.isLt
  have hb := b.isLt
  by_cases heven : a.toNat % 2 = 0
  · simp only [decode, heven, if_true] at h
    cases h
    exact .inl ⟨_, by omega, by omega, rfl, by rw [bytesLE_two]; rfl⟩
  simp only [decode, heven, if_false] at h
  rcases bs with _ | ⟨c, _ | ⟨d, bs⟩⟩
  · cases h
  · cases h
  have hc := c.isLt
  have hd := d.isLt
  dsimp only at h
  split at h
  · rename_i hi
    cases h
    exact .inr ⟨_, by omega, by omega, hi, by rw [bytesLE_four]; rfl⟩
  · cases h

/-- Settles O57: an instruction comes back from its code by `back_all`; what is read is a half by `decodeHalf_reads` or a word
by `reads_decodeWord`. -/
theorem encodeDecode : Obligations.EncodeDecode := by
  unfold Obligations.EncodeDecode
  refine ⟨fun i c rest hw hc => ?_, fun bs rest i h => ?_⟩
  · have hb := back_all i hw
    rw [hc] at hb
    cases c with
    | half w =>
      obtain ⟨⟨heven, hlt⟩, hd⟩ := hb
      rw [← hd]; exact decode_half heven hlt rest
    | word w =>
      obtain ⟨⟨hodd, hlt⟩, hd⟩ := hb
      exact decode_word hodd hlt hd rest
  · rcases decode_eq_ok h with ⟨w, hw, heven, rfl, hbs⟩ | ⟨w, hw, hodd, hi, hbs⟩
    · obtain ⟨hwf, hc⟩ := decodeHalf_reads hw heven
      exact ⟨hwf, _, hc, hbs⟩
    · obtain ⟨hwf, hc⟩ := reads_decodeWord hw hodd i hi
      exact ⟨hwf, _, hc, hbs⟩

end Sys2Proof
end

section
/-! ## Immediates, short forms, compares and FP32 arithmetic (R95, R114–R117, R122, R123, R149, R150) -/

namespace Sys2Proof.Machine

-- one theorem after another: a theorem that waits for the check of the ones before it would hold a thread
set_option Elab.async false

/-! ### Results by the function they compute -/

/-- An instruction of the scalar form has the result that its function gives. -/
theorem scalarResult_of_scalar {i : Instr} {d : Reg} {f val : State → Word} (hi : ∀ s, exec i s = scalar s d (f s))
    (hf : ∀ s, f s = val s) : ScalarResult i d val := by
  intro s
  obtain ⟨t, ht, hr⟩ := scalar_result s d (f s)
  exact ⟨t, (hi s).trans ht, hf s ▸ hr⟩

/-- An instruction of the predicate form has the result that its function gives. -/
theorem predResult_of_lanewisePred {i : Instr} {p : BitVec 3} {f val : State → Nat → Bool}
    (hi : ∀ s, exec i s = lanewisePred s p (f s)) (hf : ∀ s L, f s L = val s L) : PredResult i p val := by
  intro s
  obtain ⟨t, ht, hr⟩ := lanewisePred_result s p (f s)
  exact ⟨t, (hi s).trans ht, (funext (hf s) : f s = val s) ▸ hr⟩

/-- R116: an instruction with an immediate, by the function of its two forms. -/
theorem withImmediate_of_vvi {n : Nat} {v sc : Reg → Reg → BitVec n → Instr} {g : Word → Word → Word} {ext : BitVec n → Word}
    {op : Word → BitVec n → Word} (hv : ∀ d a k s, exec (v d a k) s = vvi s g d a (ext k))
    (hs : ∀ d a k s, exec (sc d a k) s = ssi s g d a (ext k)) (hg : ∀ x k, g x (ext k) = op x k) : WithImmediate v sc op :=
  ⟨fun d a k => (vectorResult_of_lanewise (hv d a k)).congr fun _ _ _ _ => hg _ _,
    fun d a k => scalarResult_of_scalar (hs d a k) fun _ => hg _ _⟩

/-- R150: an instruction of two sources, by the function of its two forms. -/
theorem twoForms_of_vvv {v vs : Reg → Reg → Reg → Instr} {g op : Word → Word → Word}
    (hv : ∀ d a b s, exec (v d a b) s = vvv s g d a b) (hs : ∀ d a b s, exec (vs d a b) s = vvs s g d a b)
    (hg : ∀ x y, g x y = op x y) : TwoForms v vs op :=
  ⟨fun d a b => (vectorResult_of_lanewise (hv d a b)).congr fun _ _ _ _ => hg _ _,
    fun d a b => (vectorResult_of_lanewise (hs d a b)).congr fun _ _ _ _ => hg _ _⟩

/-! ### The short form (R95) -/

/-- A 5-bit field names the register of its number. -/
theorem vR_reg5 (s : State) (b : BitVec 5) (L : Nat) : s.vR (reg5 b) L = s.cur.vAt b.toNat L := by
  rw [State.vR, reg5, BitVec.toNat_setWidth, Nat.mod_eq_of_lt (b.isLt.trans (by decide))]

theorem short2_of_short {v : Reg → BitVec 5 → Instr} {g op : Word → Word → Word}
    (hi : ∀ d b s, exec (v d b) s = short s g d (reg5 b)) (hg : ∀ x y, g x y = op x y) : Short2 v op :=
  fun d b => (vectorResult_of_lanewise (hi d b)).congr fun s L _ _ => by rw [hg, vR_reg5]

/-- R115: a shift count is the number in bits 4:0. -/
theorem count5_eq (y : Word) : count5 y = (y.extractLsb' 0 5).toNat := by
  rw [count5, BitVec.extractLsb'_toNat]; rfl

/-- R116: a 5-bit count is its own shift count. -/
theorem count5_setWidth (k : BitVec 5) : count5 (k.setWidth 32) = k.toNat := by
  rw [count5, BitVec.toNat_setWidth, Nat.mod_eq_of_lt (k.isLt.trans (by decide)), Nat.mod_eq_of_lt k.isLt]

/-- The word 0 writes v0 with itself. -/
theorem nop16_result (s : State) : Completes .nop16 s (fun t => OnlyV s t ∧ ∀ r L, L < 32 → t.cur.vAt r L = s.cur.vAt r L) := by
  obtain ⟨t, ht, hv, hr⟩ := vectorResult_of_lanewise (i := .nop16) (fun _ => rfl) s
  refine ⟨t, ht, hv, fun r L hL => (hr r L hL).trans ?_⟩
  split
  · next h => rw [h.1]; rfl
  · rfl

/-! ### The truth of a compare (R122, R123) -/

/-- A relation of integers, from their order. -/
theorem relInt_eq (rel : Nat) (x y : Int) : relInt rel x y = relation rel (decide (x < y)) (decide (x = y)) := by
  have hle : decide (x ≤ y) = (decide (x < y) || decide (x = y)) := by rw [← Bool.decide_or, decide_eq_decide]; omega
  have hgt : decide (y < x) = (!decide (x < y) && !decide (x = y)) := by
    rw [← decide_not, ← decide_not, ← Bool.decide_and, decide_eq_decide]; omega
  have hge : decide (y ≤ x) = !decide (x < y) := by rw [← decide_not, decide_eq_decide]; omega
  rcases rel with _ | _ | _ | _ | _ | rel
  · rfl
  · exact decide_not
  · rfl
  · exact hle
  · exact hgt
  · exact hge

theorem relInt_toInt {n : Nat} (rel : Nat) (x y : BitVec n) :
    relInt rel x.toInt y.toInt = relation rel (decide (x.toInt < y.toInt)) (decide (x = y)) := by
  rw [relInt_eq, decide_eq_decide.2 BitVec.toInt_inj]

theorem relInt_toNat {n : Nat} (rel : Nat) (x y : BitVec n) :
    relInt rel x.toNat y.toNat = relation rel (decide (x.toNat < y.toNat)) (decide (x = y)) := by
  rw [relInt_eq, decide_eq_decide.2 Int.ofNat_lt, decide_eq_decide.2 (Int.ofNat_inj.trans BitVec.toNat_inj)]

/-- A relation of floats: the answer of an unordered pair, or the relation of the two values. -/
theorem relFloat_eq (unord : Bool) {rel : Nat} (hrel : rel < 6) (x y : Word) : relFloat unord rel x y =
    if (isNaN32 x || isNaN32 y) = true then unord
    else relation rel (Num.lt (f32 x) (f32 y)) (!Num.lt (f32 x) (f32 y) && !Num.lt (f32 y) (f32 x)) := by
  unfold relFloat fCompare
  by_cases hn : (isNaN32 x || isNaN32 y) = true
  · rw [if_pos hn, if_pos hn]
  · rw [if_neg hn, if_neg hn]
    cases Num.lt (f32 x) (f32 y) <;> cases Num.lt (f32 y) (f32 x) <;> interval_cases rel <;> rfl

theorem loWord_setWidth (x : Word) : loWord (x.setWidth 64) = x := by
  simp [loWord]

/-- R122: the truth that the model gives a compare of a type, on words for the types below 4. -/
theorem cmpTruth_eq {type rel : Nat} (hrel : rel < 6) (x y : Word) (x2 y2 : DWord) :
    cmpTruth type rel (if type < 4 then x.setWidth 64 else x2) (if type < 4 then y.setWidth 64 else y2)
    = compareTruth type rel x y x2 y2 := by
  rcases type with _ | _ | _ | _ | _ | type
  · simp only [cmpTruth, compareTruth, Nat.ofNat_pos, if_true, loWord_setWidth, relInt_toInt]
  · simp only [cmpTruth, compareTruth, Nat.reduceAdd, Nat.reduceLT, if_true, loWord_setWidth, relInt_toNat]
  · simp only [cmpTruth, compareTruth, Nat.reduceAdd, Nat.reduceLT, if_true, loWord_setWidth, relFloat_eq _ hrel]
    cases isNaN32 x <;> cases isNaN32 y <;> simp
  · simp only [cmpTruth, compareTruth, Nat.reduceAdd, Nat.reduceLT, if_true, loWord_setWidth, relFloat_eq _ hrel]
    cases isNaN32 x <;> cases isNaN32 y <;> simp
  · exact relInt_toInt _ _ _
  · rw [if_neg (by omega), if_neg (by omega)]
    exact relInt_toNat _ _ _

/-- R123: the eight relations of CMPI. -/
theorem cmpiTruth_eq {rel : Nat} (hrel : rel < 8) (x y : Word) : cmpiTruth rel x y =
    if rel < 6 then relation rel (decide (x.toInt < y.toInt)) (decide (x = y))
    else if rel = 6 then decide (x.toNat < y.toNat) else decide (y.toNat ≤ x.toNat) := by
  rcases Nat.lt_or_ge rel 6 with h | h
  · rw [if_pos h, ← relInt_toInt]
    interval_cases rel <;> rfl
  · interval_cases rel <;> rfl

/-! ### The obligations -/

/-- Settles O4: each immediate form by its function; a raw count is its own shift count. -/
theorem immediates : Obligations.Immediates := by
  unfold Obligations.Immediates
  refine ⟨withImmediate_of_vvi (fun _ _ _ _ => rfl) (fun _ _ _ _ => rfl) fun _ _ => rfl,
    withImmediate_of_vvi (fun _ _ _ _ => rfl) (fun _ _ _ _ => rfl) fun _ _ => rfl,
    withImmediate_of_vvi (fun _ _ _ _ => rfl) (fun _ _ _ _ => rfl) fun _ _ => rfl,
    withImmediate_of_vvi (fun _ _ _ _ => rfl) (fun _ _ _ _ => rfl) fun _ _ => rfl,
    withImmediate_of_vvi (fun _ _ _ _ => rfl) (fun _ _ _ _ => rfl) fun _ k => ?shl,
    withImmediate_of_vvi (fun _ _ _ _ => rfl) (fun _ _ _ _ => rfl) fun _ k => ?shr,
    withImmediate_of_vvi (fun _ _ _ _ => rfl) (fun _ _ _ _ => rfl) fun _ k => ?sar,
    fun _ _ => vectorResult_of_lanewise fun _ => rfl, fun _ _ => scalarResult_of_scalar (fun _ => rfl) fun _ => rfl,
    fun _ _ => vectorResult_of_lanewise fun _ => rfl, fun _ _ => scalarResult_of_scalar (fun _ => rfl) fun _ => rfl,
    fun _ _ => vectorResult_of_lanewise fun _ => rfl⟩
  case shl => rw [aluShl, count5_setWidth]
  case shr => rw [aluShr, count5_setWidth]
  case sar => rw [aluSar, count5_setWidth]

/-- Settles O9: the short form of each minor by its function, and the word 0 by `nop16_result`. -/
theorem shortIntegerForms : Obligations.ShortIntegerForms := by
  unfold Obligations.ShortIntegerForms
  refine ⟨fun d b => (vectorResult_of_lanewise fun _ => rfl).congr fun s L _ _ => vR_reg5 s b L,
    short2_of_short (fun _ _ _ => rfl) fun _ _ => rfl, short2_of_short (fun _ _ _ => rfl) fun _ _ => rfl,
    short2_of_short (fun _ _ _ => rfl) fun _ _ => rfl, short2_of_short (fun _ _ _ => rfl) fun _ _ => rfl,
    short2_of_short (fun _ _ _ => rfl) fun _ _ => rfl, short2_of_short (fun _ _ _ => rfl) fun _ _ => rfl,
    short2_of_short (fun _ _ _ => rfl) fun _ y => ?shl, short2_of_short (fun _ _ _ => rfl) fun _ y => ?shr,
    short2_of_short (fun _ _ _ => rfl) fun _ y => ?sar, nop16_result⟩
  case shl => rw [aluShl, count5_eq, BitVec.shiftLeft_eq']
  case shr => rw [aluShr, count5_eq, BitVec.ushiftRight_eq']
  case sar => rw [aluSar, count5_eq]

/-- Settles O10: the truth of the model by `cmpTruth_eq` and `cmpiTruth_eq`; the worked cases of R122 by evaluation. -/
theorem compares : Obligations.Compares := by
  unfold Obligations.Compares
  refine ⟨fun p a b rel type hrel _ => predResult_of_lanewisePred (fun _ => rfl) fun s L => cmpTruth_eq hrel _ _ _ _,
    fun p a b rel type hrel _ => predResult_of_lanewisePred (fun _ => rfl) fun s L => cmpTruth_eq hrel _ _ _ _,
    fun p a k rel => predResult_of_lanewisePred (fun _ => rfl) fun s L => cmpiTruth_eq rel.isLt _ _, ?_⟩
  decide +kernel

/-- Settles O13: each form by its function, which rounds the exact result once. -/
theorem floatArithmetic : Obligations.FloatArithmetic := by
  unfold Obligations.FloatArithmetic
  exact ⟨twoForms_of_vvv (fun _ _ _ _ => rfl) (fun _ _ _ _ => rfl) fun _ _ => rfl,
    twoForms_of_vvv (fun _ _ _ _ => rfl) (fun _ _ _ _ => rfl) fun _ _ => rfl,
    twoForms_of_vvv (fun _ _ _ _ => rfl) (fun _ _ _ _ => rfl) fun _ _ => rfl,
    twoForms_of_vvv (fun _ _ _ _ => rfl) (fun _ _ _ _ => rfl) fun _ _ => rfl,
    twoForms_of_vvv (fun _ _ _ _ => rfl) (fun _ _ _ _ => rfl) fun _ _ => rfl,
    twoForms_of_vvv (fun _ _ _ _ => rfl) (fun _ _ _ _ => rfl) fun _ _ => rfl,
    twoForms_of_vvv (fun _ _ _ _ => rfl) (fun _ _ _ _ => rfl) fun _ _ => rfl,
    twoForms_of_vvv (fun _ _ _ _ => rfl) (fun _ _ _ _ => rfl) fun _ _ => rfl,
    twoForms_of_vvv (fun _ _ _ _ => rfl) (fun _ _ _ _ => rfl) fun _ _ => rfl,
    short2_of_short (fun _ _ _ => rfl) fun _ _ => rfl, short2_of_short (fun _ _ _ => rfl) fun _ _ => rfl,
    short2_of_short (fun _ _ _ => rfl) fun _ _ => rfl⟩

end Sys2Proof.Machine

namespace Sys2Proof

-- one theorem after another: a theorem that waits for the check of the ones before it would hold a thread
set_option Elab.async false

/-- Settles O56: each word by running the decoder on its bytes. -/
theorem decodesSpecWords : Obligations.DecodesSpecWords := by
  unfold Obligations.DecodesSpecWords WordIs
  and_intros <;> rfl

end Sys2Proof
end

section
/-! ## Stash management (R110, R174, R176, R177) -/

namespace Sys2Proof.Machine

/-! ### Instructions that act once on the block in focus -/

/-- What such an instruction leaves: the scalars and the block as said, all else as before. -/
structure ChangesBlock (s t : State) (scalars : Nat → Word) (block : Block → Block) : Prop where
  bytes : SameBytes s t
  stash : ∀ c off, t.stashByte c off = s.stashByte c off
  group : { t.cur with s := s.cur.s } = s.cur
  others : ∀ g, g ≠ s.focus.grp → t.group g = s.group g
  scalar : ∀ r, t.cur.sAt r = scalars r
  blocks : ∀ b, b ≠ s.cur.block → t.blocks.get b = s.blocks.get b
  block : t.blocks.get s.cur.block = block s.curBlock

theorem changesBlock_refl (s : State) : ChangesBlock s s s.cur.sAt id :=
  ⟨fun _ => rfl, fun _ _ => rfl, rfl, fun _ _ => rfl, fun _ => rfl, fun _ _ => rfl, rfl⟩

theorem changesBlock_onBlock (s : State) (f : Block → Block) : ChangesBlock s (s.onBlock s.cur.block f) s.cur.sAt f := by
  refine ⟨fun _ => rfl, fun _ _ => rfl, rfl, fun _ _ => rfl, fun _ => rfl, fun b hb => ?_, ?_⟩
  · rw [State.onBlock, Store.get_upd, if_neg hb]
  · rw [State.onBlock, Store.get_upd, if_pos rfl]; rfl

theorem ChangesBlock.setS {s t : State} {scalars : Nat → Word} {block : Block → Block} (h : ChangesBlock s t scalars block)
    (hfocus : t.focus = s.focus) (d : Reg) (w : Word) :
    ChangesBlock s (t.setS d w) (fun r => if r = d.toNat then w else scalars r) block := by
  have hcur : (t.setS d w).cur = t.cur.setS d.toNat w := cur_onCur t _
  obtain ⟨-, hother, hbytes⟩ := onlyCur_onCur t (fun g => g.setS d.toNat w)
  refine ⟨fun a => (hbytes a).trans (h.bytes a), h.stash, ?_, fun g hg => (hother g (hfocus ▸ hg)).trans (h.others g hg),
    fun r => ?_, h.blocks, h.block⟩
  · rw [hcur]; exact h.group
  · rw [hcur, sAt_setS, h.scalar]

/-- R170: an instruction that acts once, from what it does where it acts. -/
theorem onceOnBlock_of_once {i : Instr} {s : State} {f : Mask → Out} {scalars : Nat → Word} {block : Block → Block}
    (hi : exec i s = once170 s f) (hf : ∃ t, f s.onceSet = .next t ∧ ChangesBlock s t scalars block) :
    OnceOnBlock i s scalars block := by
  rw [once170_eq] at hi
  unfold OnceOnBlock
  by_cases hact : s.actsOnce = true
  · obtain ⟨t, ht, h⟩ := hf
    rw [if_pos hact] at hi
    refine ⟨t, hi.trans ht, h.bytes, h.stash, h.group, h.others, fun r => ?_, h.blocks, ?_⟩
    · rw [if_pos hact, h.scalar]
    · rw [if_pos hact, h.block]
  · rw [if_neg hact] at hi
    refine ⟨s, hi, fun _ => rfl, fun _ _ => rfl, rfl, fun _ _ => rfl, fun r => ?_, fun _ _ => rfl, ?_⟩
    · rw [if_neg hact]
    · rw [if_neg hact]; rfl

theorem badArgument_of_once {i : Instr} {s : State} {f : Mask → Out} {major : Nat} (hi : exec i s = once170 s f)
    (hf : f s.onceSet = .next (s.illop 0x0B major)) : BadArgument i s major := by
  intro hact
  rw [hi, once170_eq, if_pos hact, hf]; rfl

/-! ### Maps with no owned line (R177) -/

theorem awaitFlush_nothing (s : State) : s.awaitFlush {} = s := if_pos (Nat.zero_le _)

section
variable {s : State} {b : Nat} {m : StashMap}

/-- Nothing is written back where no line is owned. -/
theorem writeBackMap_unowned (h : ∀ l ∈ m.lines, ((s.blocks.get b).mapLines.get l).owned = false) (drop : Bool) :
    s.writeBackMap b m drop = (s, {}) := by
  rw [State.writeBackMap, List.filter_eq_nil_iff.2 fun l hl => by simp [h l hl]]; rfl

theorem unmap_unowned (h : ∀ l ∈ m.lines, ((s.blocks.get b).mapLines.get l).owned = false) :
    s.unmap b m = (s.onBlock b (fun y => { y with
      maps := y.maps.filter (fun x => decide (x ≠ m)), mapLines := m.lines.foldl (fun t l => t.erase l) y.mapLines }), {}) := by
  rw [State.unmap, writeBackMap_unowned h]

end

/-- A flush of maps with no owned line writes nothing back. -/
theorem flush_unowned {s : State} {b : Nat} {ms : List StashMap}
    (h : ∀ m ∈ ms, ∀ l ∈ m.lines, ((s.blocks.get b).mapLines.get l).owned = false) :
    ms.foldl (fun (st : State × Times) m => ((st.1.writeBackMap b m false).1, st.2.join (st.1.writeBackMap b m false).2)) (s, {}) = (s, {}) := by
  induction ms with
  | nil => rfl
  | cons m ms ih =>
    rw [List.foldl_cons, writeBackMap_unowned (h m List.mem_cons_self)]
    exact ih fun m hm => h m (List.mem_cons_of_mem _ hm)

/-! ### The five instructions -/

section
variable (s : State) (d a : Reg)

theorem exec_salloc : exec (.salloc d a) s = execSalloc d a s := rfl
theorem exec_sfree : exec (.sfree a) s = execSfree a s := rfl
theorem exec_smap : exec (.smap a) s = execSmap a s := rfl
theorem exec_sunmap : exec (.sunmap a) s = execSunmap a s := rfl
theorem exec_sflush : exec (.sflush a) s = execSflush a s := rfl

theorem salloc_out_of_range (h : (s.sR a).toNat = 0 ∨ 524288 < (s.sR a).toNat) : BadArgument (.salloc d a) s 0x78 :=
  badArgument_of_once (exec_salloc s d a) (if_pos h)

theorem salloc_no_room (h : ¬ ((s.sR a).toNat = 0 ∨ 524288 < (s.sR a).toNat))
    (hplace : stashPlace (s.coreAllocs s.curCore) (s.sR a).toNat = none) :
    OnceOnBlock (.salloc d a) s (fun r => if r = d.toNat then 0xFFFFFFFF else s.cur.sAt r) id :=
  onceOnBlock_of_once (exec_salloc s d a) ⟨_, by simp only [if_neg h, hplace], (changesBlock_refl s).setS rfl d _⟩

theorem salloc_placed {o : Nat} (h : ¬ ((s.sR a).toNat = 0 ∨ 524288 < (s.sR a).toNat))
    (hplace : stashPlace (s.coreAllocs s.curCore) (s.sR a).toNat = some o) :
    OnceOnBlock (.salloc d a) s (fun r => if r = d.toNat then BitVec.ofNat 32 o else s.cur.sAt r)
      (fun b => { b with allocs := b.allocs ++ [(o, (s.sR a).toNat)] }) :=
  onceOnBlock_of_once (exec_salloc s d a) ⟨_, by simp only [if_neg h, hplace], (changesBlock_onBlock s _).setS rfl d _⟩

theorem sfree_unallocated (h : s.curBlock.allocs.find? (fun x => x.1 == (s.sR a).toNat) = none) : BadArgument (.sfree a) s 0x78 :=
  badArgument_of_once (exec_sfree s a) (by simp only [h])

theorem sfree_unmapped {x : Nat × Nat} (h : s.curBlock.allocs.find? (fun x => x.1 == (s.sR a).toNat) = some x)
    (hmaps : ∀ m ∈ s.curBlock.maps, ¬ (x.1 ≤ m.stash ∧ m.stash < x.1 + granules x.2)) :
    OnceOnBlock (.sfree a) s s.cur.sAt (fun b => { b with allocs := b.allocs.filter (fun z => decide (z ≠ x)) }) := by
  have hx : x.1 = (s.sR a).toNat := by simpa using List.find?_some h
  have hnone : s.curBlock.maps.filter (fun m => decide ((s.sR a).toNat ≤ m.stash ∧ m.stash < (s.sR a).toNat + granules x.2)) = [] :=
    List.filter_eq_nil_iff.2 fun m hm => by simpa [hx] using hmaps m hm
  exact onceOnBlock_of_once (exec_sfree s a) ⟨_, by simp only [h, hnone, List.foldl_nil, awaitFlush_nothing], changesBlock_onBlock s _⟩

theorem smap_allowed (h : s.curBlock.mapOk (s.mapAsked a) = true) :
    OnceOnBlock (.smap a) s s.cur.sAt (fun b => { b with maps := b.maps ++ [s.mapAsked a] }) :=
  onceOnBlock_of_once (exec_smap s a) ⟨_, if_pos h, changesBlock_onBlock s _⟩

theorem smap_refused (h : ¬ s.curBlock.mapOk (s.mapAsked a) = true) : BadArgument (.smap a) s 0x78 :=
  badArgument_of_once (exec_smap s a) (if_neg h)

theorem sunmap_unmapped (h : s.mapAtStart (s.sR a).toNat = none) : BadArgument (.sunmap a) s 0x78 :=
  badArgument_of_once (exec_sunmap s a) (by simp only [h])

theorem sunmap_unowned {m : StashMap} (h : s.mapAtStart (s.sR a).toNat = some m)
    (hlines : ∀ l ∈ m.lines, (s.curBlock.mapLines.get l).owned = false) :
    OnceOnBlock (.sunmap a) s s.cur.sAt (fun b => { b with
      maps := b.maps.filter (fun x => decide (x ≠ m)), mapLines := m.lines.foldl (fun t l => t.erase l) b.mapLines }) :=
  onceOnBlock_of_once (exec_sunmap s a)
    ⟨_, by simp only [h, unmap_unowned (b := s.cur.block) hlines, awaitFlush_nothing], changesBlock_onBlock s _⟩

theorem sflush_unmapped (hw : s.sR a ≠ 0xFFFFFFFF) (h : s.mapAtStart (s.sR a).toNat = none) : BadArgument (.sflush a) s 0x78 := by
  refine badArgument_of_once (exec_sflush s a) ?_
  simp only [h, if_neg hw]
  exact if_pos ⟨rfl, hw⟩

/-- The maps that SFLUSH names are maps of the block, and there is one unless all are named. -/
theorem sflush_unowned (h : s.sR a = 0xFFFFFFFF ∨ (s.mapAtStart (s.sR a).toNat).isSome = true)
    (hlines : ∀ m ∈ s.curBlock.maps, ∀ l ∈ m.lines, (s.curBlock.mapLines.get l).owned = false) :
    OnceOnBlock (.sflush a) s s.cur.sAt id := by
  refine onceOnBlock_of_once (exec_sflush s a) ⟨s, ?_, changesBlock_refl s⟩
  dsimp only
  by_cases hw : s.sR a = 0xFFFFFFFF
  · rw [if_pos hw, if_neg fun hne => hne.2 hw, flush_unowned (b := s.cur.block) hlines, awaitFlush_nothing]
  · obtain ⟨m, hm⟩ := Option.isSome_iff_exists.1 (h.resolve_left hw)
    rw [if_neg hw, hm, if_neg (by simp), flush_unowned, awaitFlush_nothing]
    intro x hx
    obtain rfl : x = m := by simpa using hx
    exact hlines x (List.mem_of_find?_eq_some hm)

end

/-- Settles O40: one lemma for each instruction and each of its outcomes. -/
theorem stashManagement : Obligations.StashManagement := by
  unfold Obligations.StashManagement
  refine ⟨fun s d a => ?_, fun s a => ?_, fun s a => ?_, fun s a => ?_, fun s a => ⟨sflush_unmapped s a, sflush_unowned s a⟩⟩
  · dsimp only
    split
    · next h => exact salloc_out_of_range s d a h
    · next h =>
      split
      · next hplace => exact salloc_no_room s d a h hplace
      · next hplace => exact salloc_placed s d a h hplace
  · split
    · next h => exact sfree_unallocated s a h
    · next h => exact sfree_unmapped s a h
  · split
    · next h => exact smap_allowed s a h
    · next h => exact smap_refused s a h
  · split
    · next h => exact sunmap_unmapped s a h
    · next h => exact sunmap_unowned s a h

end Sys2Proof.Machine
end

section
/-! ## Taking a trap (R102, R341, R342, R385) -/

namespace Sys2Proof.Machine

/-! ### A stub takes a record: the pass in focus stays as it is -/

section
variable (s : State)

theorem outline_onGroup (g : Nat) (f : Group → Group) : (s.onGroup g f).outline = s.outline := rfl
theorem outline_onHome (l : Nat) (f : HomeLine → HomeLine) : (s.onHome l f).outline = s.outline := rfl
theorem outline_putStash (c : Nat) (bs : List (Nat × Byte)) : (s.putStash c bs).outline = s.outline := rfl

theorem outline_landStores (c l : Nat) : (s.landStores c l).outline = s.outline := by
  unfold State.landStores
  dsimp only
  split
  · rfl
  refine kept_foldl State.outline _ (fun t e => ?_) _ s
  split
  · exact outline_ite (outline_applyStore t _ _) rfl
  · rfl

theorem outline_tryOwn (b sl : Nat) (k : Access) (fill : Bool) : (s.tryOwn b sl k fill).1.outline = s.outline := by
  have hlook (c x : Nat) (a : DWord) : (s.lookupNow c x a).2.outline = s.outline := outline_of_kept (kept_lookupNow s c x a)
  have hfirst (t : State) (c l : Nat) : ((((t.flushWcFor c l).landStores c l).recall l).collect l).outline = t.outline := by
    rw [outline_of_kept (kept_collect _ _), outline_of_kept (kept_recall _ _), outline_landStores, outline_flushWcFor]
  unfold State.tryOwn
  dsimp only
  split
  · rfl
  split
  · rfl
  split
  · rfl
  split
  · exact hlook _ _ _
  · exact hlook _ _ _
  split
  · exact hlook _ _ _
  split
  · dsimp only
    refine (outline_onBlock _ _ _ ?_).trans (hlook _ _ _)
    exact fun _ => rfl
  · dsimp only
    refine (outline_onBlock _ _ _ ?_).trans ?_
    · exact fun _ => rfl
    rw [outline_onHome]
    refine outline_ite ?_ ?_
    · rw [outline_putStash, hfirst]; exact hlook _ _ _
    · rw [hfirst]; exact hlook _ _ _

theorem outline_giveUp (b sl : Nat) : (s.giveUp b sl).outline = s.outline := outline_onBlock _ _ _ fun _ => rfl

theorem outline_ownLine (b sl : Nat) (k : Access) (fill : Bool) : (s.ownLine b sl k fill).1.outline = s.outline := by
  have hfirst : (if (s.blocks.get b).owns sl = true then s.flushWcFor (coreOfBlock b) (lineOf ((s.blocks.get b).mapLines.get sl).pa)
      else s).outline = s.outline := outline_ite (outline_flushWcFor s _ _) rfl
  unfold State.ownLine
  dsimp only
  generalize (if (s.blocks.get b).owns sl = true then s.flushWcFor (coreOfBlock b) (lineOf ((s.blocks.get b).mapLines.get sl).pa)
    else s) = u at hfirst ⊢
  have htry := (outline_tryOwn u b sl k fill).trans hfirst
  revert htry
  generalize u.tryOwn b sl k fill = r
  obtain ⟨t, o⟩ := r
  intro htry
  cases o with
  | owned =>
    dsimp only at htry ⊢
    split
    · rw [outline_giveUp]; exact htry
    · exact htry
  | wait => exact htry
  | fault => exact htry

theorem outline_ownLines (b : Nat) (ls : List Nat) (k : Access) (fill : Bool) : (s.ownLines b ls k fill).1.outline = s.outline := by
  unfold State.ownLines
  refine kept_foldl_fst State.outline _ (fun r l => ?_) ls (s, Piece.done)
  split
  · exact outline_ownLine r.1 b l k fill
  · rfl

theorem outline_stashWrite (b : Nat) (bs : List (Nat × Byte)) : (s.stashWrite b bs).outline = s.outline := by
  unfold State.stashWrite
  dsimp only
  exact (kept_foldl State.outline _ (fun t l => outline_of_kept (kept_wakeSignals t _)) _ _).trans (outline_onBlock _ _ _)

theorem refillStub_slots (fuel : Nat) : ∀ x : Launch, ((x.refillStub fuel).live, (x.refillStub fuel).slotFree) = (x.live, x.slotFree) := by
  induction fuel with
  | zero => exact fun _ => rfl
  | succ f ih =>
    intro x
    unfold Launch.refillStub
    split
    · rfl
    split
    · exact ih _
    · rfl

/-- Records come to a launch's queue, or leave it. -/
theorem outline_refill (l fuel : Nat) (f : Launch → Launch)
    (hf : ∀ x, ((f x).live, (f x).slotFree) = (x.live, x.slotFree) := by intro _; rfl) :
    (s.onLaunch l (fun x => (f x).refillStub fuel)).outline = s.outline :=
  congrArg (fun x => { s.outline with launches := x })
    (funext (proj_get_upd (fun x : Launch => (x.live, x.slotFree)) s.launches l _ fun x => (refillStub_slots fuel _).trans (hf x)))

theorem outline_takeRecord (l g u : Nat) (d : Reg) (off : Word) (n : Nat) : (s.takeRecord l g u d off n).outline = s.outline := by
  unfold State.takeRecord
  dsimp only
  split
  · rfl
  split
  · rfl
  next r rest _ =>
    have hown := outline_ownLines s (s.group g).block (if ((s.blockOf g).mapAt off.toNat).isSome = true then [off.toNat / 64] else []) .write false
    split
    · next t h => rwa [h] at hown
    · next t _ _ h =>
      rw [h] at hown
      rw [outline_endWait, outline_onGroup, outline_stashWrite, outline_refill _ l 64 (fun x => { x with stubQ := rest })]
      exact hown

theorem outline_serveStub (l : Nat) : (s.serveStub l).outline = s.outline :=
  kept_foldl State.outline _ (fun t g => outline_overWaits t g _ fun u x w => by
    cases w
    case debug => exact outline_takeRecord u _ _ _ _ _ _
    all_goals rfl) _ s

theorem outline_queueStub (l : Nat) (batch : List StubRecord) : (s.queueStub l batch).outline = s.outline :=
  (outline_serveStub _ l).trans (outline_refill s l 64 (fun x => { x with stubWait := x.stubWait ++ [batch] }))

theorem outline_settleGroup (g : Nat) : (s.settleGroup g).outline = s.outline := by
  unfold State.settleGroup
  split
  · exact outline_onGroup s g _
  · rfl

theorem focus_queueStub (l : Nat) (batch : List StubRecord) : (s.queueStub l batch).focus = s.focus :=
  (congrArg Outline.focus (outline_queueStub s l batch) :)
theorem focus_settleGroup (g : Nat) : (s.settleGroup g).focus = s.focus := (congrArg Outline.focus (outline_settleGroup s g) :)

/-- The stub takes the record, or the context stops: the pass in focus stays. -/
theorem focus_deliver (g u : Nat) (r : TrapRecord) : (s.deliver g u r).focus = s.focus := by
  unfold State.deliver
  dsimp only
  split
  · rw [focus_queueStub, focus_settleGroup]
    split
    · rfl
    · rfl
  · rw [focus_stopContext, focus_of_kept (kept_postTrap (s.onSplit g u (fun x => { x with trap := none })) (s.ctxOf g) r)]
    rfl

end

/-! ### Issue stops for the group -/

/-- A change of the splits in a list of names keeps their outstanding instructions where it does so for each. -/
theorem out_onSplit (k : Group) (u v : Nat) (f : Split → Split) (hf : ∀ x, (f x).mask = x.mask ∧ (f x).uid = x.uid ∧ (f x).out = x.out) :
    (((k.onSplit u f).findSplit v).getD default).out = ((k.findSplit v).getD default).out := by
  rw [findSplit_onSplit k u v f (fun x => (hf x).1) (fun x => (hf x).2.1)]
  cases k.findSplit v with
  | none => rfl
  | some x =>
    show (if x.uid = u then f x else x).out = x.out
    split
    · exact (hf x).2.2
    · rfl

theorem splitOut_stopIssue (s : State) (g u : Nat) : ((s.stopIssue g).splitOf g u).out = (s.splitOf g u).out := by
  obtain h | ⟨q, f, h | ⟨c, h⟩⟩ := stopIssue_eq s g <;> rw [h]
  · rfl
  · unfold State.splitOf
    rw [State.onSplit, group_onGroup, if_pos rfl]
    exact out_onSplit _ _ _ _ fun _ => ⟨rfl, rfl, rfl⟩

/-- What is left of the passes of the focus's offset, for a split of its name. -/
def State.leftIssue (s : State) (x : Split) : Option Issue :=
  match (s.quads.get (quadOfGroup s.focus.grp)).cur with
  | some k => if k.grp = s.focus.grp ∧ k.uid = s.focus.uid ∧ k.fresh = false then some k else x.rest
  | none => x.rest

/-- Where issue stops, a split of the focus's name keeps what is left, and nothing else of it changes. -/
theorem stopIssue_splits {s : State} {x : Split} (hx : x ∈ s.cur.splits) (hu : x.uid = s.focus.uid) :
    { x with rest := s.leftIssue x } ∈ ((s.stopIssue s.focus.grp).group s.focus.grp).splits := by
  unfold State.leftIssue State.stopIssue
  dsimp only
  cases hq : (s.quads.get (quadOfGroup s.focus.grp)).cur with
  | none => exact hx
  | some c =>
    dsimp only
    by_cases hg : c.grp = s.focus.grp
    · rw [if_neg (not_not.2 hg)]
      cases hf : c.fresh with
      | true =>
        rw [if_pos rfl, if_neg fun h => Bool.noConfusion h.2.2]
        exact hx
      | false =>
        have hin : (((s.onQuad (quadOfGroup s.focus.grp) (fun k => { k with cur := none })).onSplit s.focus.grp c.uid
            (fun x => { x with rest := some c })).group s.focus.grp).splits
            = s.cur.splits.map (fun x => if x.uid = c.uid then { x with rest := some c } else x) := by
          rw [State.onSplit, group_onGroup, if_pos rfl]
          exact splits_onSplit s.cur c.uid _ fun _ => rfl
        refine hin.symm ▸ List.mem_map.2 ⟨x, hx, ?_⟩
        by_cases hcu : c.uid = s.focus.uid
        · rw [if_pos (hu.trans hcu.symm), if_pos ⟨hg, hcu, rfl⟩]
        · rw [if_neg fun h => hcu (h.symm.trans hu), if_neg fun h => hcu h.2.1]
    · rw [if_pos hg, if_neg fun h => hg h.1]
      exact hx

/-- The quad of the group issues nothing more of it. -/
theorem stopIssue_quad {s : State} {g : Nat} (h : ∀ k, (s.quads.get (quadOfGroup g)).cur = some k → k.grp = g) :
    ((s.stopIssue g).quads.get (quadOfGroup g)).cur = none := by
  unfold State.stopIssue
  dsimp only
  cases hq : (s.quads.get (quadOfGroup g)).cur with
  | none => exact hq
  | some c =>
    have hnone : ((s.onQuad (quadOfGroup g) (fun k => { k with cur := none })).quads.get (quadOfGroup g)).cur = none := by
      rw [State.onQuad, Store.get_upd, if_pos rfl]
    dsimp only
    rw [if_neg (not_not.2 (h c hq))]
    split
    · exact hnone
    · exact hnone

/-! ### The trap -/

section
variable (s : State)

theorem focus_trapping : s.trapping.focus = { s.focus with trapped := true } :=
  congrArg (fun f : Focus => { f with trapped := true }) (focus_stopIssue s s.focus.grp)

theorem blocks_trapping : s.trapping.blocks = s.blocks ∧ s.trapping.launches = s.launches := by
  show (s.stopIssue s.focus.grp).blocks = s.blocks ∧ (s.stopIssue s.focus.grp).launches = s.launches
  obtain h | ⟨q, f, h | ⟨c, h⟩⟩ := stopIssue_eq s s.focus.grp <;> rw [h] <;> exact ⟨rfl, rfl⟩

theorem bare_trapping (g : Nat) : (s.trapping.group g).bare = (s.group g).bare := congrFun (bare_stopIssue s s.focus.grp) g

theorem blockOf_trapping (g : Nat) : s.trapping.blockOf g = s.blockOf g := by
  have hblock : (s.trapping.group g).block = (s.group g).block := (congrArg Group.block (bare_trapping s g) :)
  rw [State.blockOf, State.blockOf, hblock, (blocks_trapping s).1]

theorem ctxOf_trapping (g : Nat) : s.trapping.ctxOf g = s.ctxOf g := congrArg Block.ctx (blockOf_trapping s g)

/-- Whether a stub takes a stop is the launch's and the group's own. -/
theorem hasStub_trapping (g u : Nat) (f : Split → Split) (h : Nat) (c : Cause) :
    (s.trapping.onSplit g u f).hasStub h c = s.hasStub h c := by
  have hbare : ((s.trapping.onSplit g u f).group h).bare = (s.group h).bare := (congrFun (bare_onSplit s.trapping g u f) h).trans (bare_trapping s h)
  have hblock : ((s.trapping.onSplit g u f).group h).block = (s.group h).block := (congrArg Group.block hbare :)
  have hlaunch : (s.trapping.onSplit g u f).launchOf h = s.launchOf h := by
    show s.trapping.launches.get (s.trapping.blocks.get _).launch = s.launches.get (s.blocks.get _).launch
    rw [hblock, (blocks_trapping s).1, (blocks_trapping s).2]
  have hstub : ((s.trapping.onSplit g u f).group h).stub = (s.group h).stub := (congrArg Group.stub hbare :)
  unfold State.hasStub
  rw [hlaunch, hstub]

variable (c : Cause) (detail : Nat) (hit : Mask) (addr : DWord)

/-- The record of the trap at the pass in focus. -/
def State.trapRecord : TrapRecord :=
  s.record s.focus.grp s.focus.uid c detail hit addr s.focus.offset s.focus.lanes s.focus.plane.toNat

theorem takeTrap_eq : s.takeTrap c detail hit addr =
    if (s.splitOf s.focus.grp s.focus.uid).out = [] then s.trapping.deliver s.focus.grp s.focus.uid (s.trapRecord c detail hit addr)
    else s.trapping.onSplit s.focus.grp s.focus.uid (fun x => { x with trap := some (s.trapRecord c detail hit addr) }) := by
  have h : s.takeTrap c detail hit addr = s.trapping.trapSplit s.focus.grp s.focus.uid (s.trapRecord c detail hit addr) := rfl
  have hout : (s.trapping.splitOf s.focus.grp s.focus.uid).out = (s.splitOf s.focus.grp s.focus.uid).out := splitOut_stopIssue s _ _
  rw [h, State.trapSplit, hout]

theorem takeTrap_trapped : (s.takeTrap c detail hit addr).focus.trapped = true := by
  have htrap : s.trapping.focus.trapped = true := (congrArg Focus.trapped (focus_trapping s) :)
  rw [takeTrap_eq]
  split
  · rw [focus_deliver]; exact htrap
  · exact htrap

theorem takeTrap_stops (hout : (s.splitOf s.focus.grp s.focus.uid).out = []) (hstub : s.hasStub s.focus.grp c = false) :
    ((s.takeTrap c detail hit addr).ctxs.get (s.ctxOf s.focus.grp)).st = .stopped := by
  rw [takeTrap_eq, if_pos hout, State.deliver]
  dsimp only
  rw [hasStub_trapping, show (s.trapRecord c detail hit addr).cause = c from rfl, hstub, if_neg Bool.false_ne_true, ctxOf_trapping]
  exact (stopContext_stops _ _ _).1

variable (hout : (s.splitOf s.focus.grp s.focus.uid).out ≠ [])
include hout

theorem takeTrap_waits : s.takeTrap c detail hit addr
    = s.trapping.onSplit s.focus.grp s.focus.uid (fun x => { x with trap := some (s.trapRecord c detail hit addr) }) := by
  rw [takeTrap_eq, if_neg hout]

theorem cur_takeTrap : (s.takeTrap c detail hit addr).cur
    = s.trapping.cur.onSplit s.focus.uid (fun x => { x with trap := some (s.trapRecord c detail hit addr) }) := by
  have hgrp : s.trapping.focus.grp = s.focus.grp := (congrArg Focus.grp (focus_trapping s) :)
  rw [takeTrap_waits s c detail hit addr hout, ← hgrp]
  exact cur_onSplit s.trapping _ _

theorem takeTrap_keeps : (s.takeTrap c detail hit addr).cur.v = s.cur.v ∧ (s.takeTrap c detail hit addr).cur.s = s.cur.s
    ∧ (s.takeTrap c detail hit addr).cur.p = s.cur.p ∧ SameBytes s (s.takeTrap c detail hit addr) := by
  have hgrp : s.trapping.focus.grp = s.focus.grp := (congrArg Focus.grp (focus_trapping s) :)
  have hbare : s.trapping.cur.bare = s.cur.bare := by rw [State.cur, hgrp]; exact bare_trapping s _
  rw [cur_takeTrap s c detail hit addr hout, onSplit_v, onSplit_s, onSplit_p]
  refine ⟨(congrArg Group.v hbare :), (congrArg Group.s hbare :), (congrArg Group.p hbare :), ?_⟩
  rw [takeTrap_waits s c detail hit addr hout]
  exact fun a => sameBytes_stopIssue s s.focus.grp a

theorem takeTrap_record {x : Split} (hx : x ∈ s.cur.splits) (hu : x.uid = s.focus.uid) :
    { x with trap := some (s.trapRecord c detail hit addr), rest := s.leftIssue x } ∈ (s.takeTrap c detail hit addr).cur.splits := by
  have hgrp : s.trapping.focus.grp = s.focus.grp := (congrArg Focus.grp (focus_trapping s) :)
  have hin : { x with rest := s.leftIssue x } ∈ s.trapping.cur.splits := by
    rw [State.cur, hgrp]; exact stopIssue_splits hx hu
  rw [cur_takeTrap s c detail hit addr hout]
  exact mem_splits_onSplit (f := fun x => { x with trap := some (s.trapRecord c detail hit addr) }) (fun _ => rfl) hin hu

end

/-- Settles O21: what a trap waits for decides (`takeTrap_eq`): its record is kept (`takeTrap_record`), or delivered. -/
theorem trapTaken : Obligations.TrapTaken := by
  unfold Obligations.TrapTaken
  intro s c detail hit addr
  refine ⟨takeTrap_trapped s c detail hit addr, fun hout => ?_, takeTrap_stops s c detail hit addr⟩
  obtain ⟨hv, hs, hp, hbytes⟩ := takeTrap_keeps s c detail hit addr hout
  refine ⟨hv, hs, hp, hbytes, fun hq => ?_, fun x hx hu => ⟨_, takeTrap_record s c detail hit addr hout hx hu, _, rfl,
    rfl, rfl, rfl, rfl, rfl, rfl, rfl, rfl, rfl, rfl, rfl, rfl, rfl, rfl, rfl⟩⟩
  rw [takeTrap_waits s c detail hit addr hout]
  exact stopIssue_quad hq

end Sys2Proof.Machine
end

section
/-! ## The return of data (R99, R101, R171–R173, R186, R231) -/

namespace Sys2Proof.Machine

/-! ### Words written to registers -/

section
variable (s : State) (i d : Nat) (f : Word → Word)

theorem writeDest_succ (n : Nat) : s.writeDest i d (n + 1) f = (s.writeDest i d n f).onGroup (s.op i).grp (fun g =>
    g.setV (d + n) ((s.op i).mask &&& ~~~(maskOf (fun L => (s.op i).wrote.get (4 * L + n)))) (fun L => f ((s.op i).got.get (4 * L + n)))) := by
  unfold State.writeDest
  rw [List.range_succ, List.foldl_append]; rfl

/-- A write of vector registers of a group leaves the rest of the machine. -/
theorem writeDest_frame (n : Nat) : { s.writeDest i d n f with groups := s.groups } = s
    ∧ ∀ g, { (s.writeDest i d n f).group g with v := (s.group g).v } = s.group g := by
  induction n with
  | zero => exact ⟨rfl, fun _ => rfl⟩
  | succ n ih =>
    rw [writeDest_succ]
    refine ⟨ih.1, fun g => ?_⟩
    rw [group_onGroup]
    split
    · next hg => subst hg; exact ih.2 _
    · exact ih.2 g

/-- R99, R101: the words that were not written before reach their registers. -/
theorem vAt_writeDest (n g r : Nat) {L : Nat} (hL : L < 32) : ((s.writeDest i d n f).group g).vAt r L =
    if g = (s.op i).grp ∧ inMask (s.op i).mask L = true ∧ d ≤ r ∧ r < d + n ∧ (s.op i).wrote.get (4 * L + (r - d)) = false
    then f ((s.op i).got.get (4 * L + (r - d))) else (s.group g).vAt r L := by
  induction n with
  | zero => rw [if_neg (by omega)]; rfl
  | succ n ih =>
    have hmask : inMask ((s.op i).mask &&& ~~~(maskOf (fun L => (s.op i).wrote.get (4 * L + n)))) L = true
        ↔ inMask (s.op i).mask L = true ∧ (s.op i).wrote.get (4 * L + n) = false := by
      simp [inMask_not, hL]
    rw [writeDest_succ, group_onGroup]
    by_cases hg : g = (s.op i).grp
    · rw [if_pos hg, vAt_setV _ _ _ _ _ _ hL, ← hg, ih]
      simp only [hmask]
      by_cases hr : r = d + n
      · subst hr
        simp [hg]
      · have : r < d + (n + 1) ↔ r < d + n := by omega
        simp only [hg, hr, true_and, false_and, if_false, this]
    · rw [if_neg hg, ih, if_neg (fun h => hg h.1), if_neg (fun h => hg h.1)]

end

/-! ### What a reply brings besides its data -/

theorem raiseSettled_frame (s : State) (l : Nat) (t : Times) : { s.raiseSettled l t with launches := s.launches } = s := by
  unfold State.raiseSettled
  dsimp only
  split <;> rfl

/-- A change of splits, and of what a launch waits for: registers and memory stay. -/
structure OnlySplits (s t : State) : Prop where
  rest : { t with groups := s.groups, launches := s.launches } = s
  bare : t.bare = s.bare

theorem onlySplits_refl (s : State) : OnlySplits s s := ⟨rfl, rfl⟩

theorem OnlySplits.trans {s t u : State} (h : OnlySplits s t) (k : OnlySplits t u) : OnlySplits s u :=
  ⟨(congrArg (fun x : State => { x with groups := s.groups, launches := s.launches }) k.rest).trans h.rest, k.bare.trans h.bare⟩

theorem onlySplits_onSplit (s : State) (g u : Nat) (f : Split → Split) : OnlySplits s (s.onSplit g u f) := ⟨rfl, bare_onSplit s g u f⟩

theorem onlySplits_noteTimes (s : State) (g u : Nat) (t : Times) : OnlySplits s (s.noteTimes g u t) := by
  have hrest := raiseSettled_frame (s.onSplit g u (fun x => x.noteTimes t)) (s.blockOf g).launch t
  have hgroups : (s.noteTimes g u t).groups = (s.onSplit g u (fun x => x.noteTimes t)).groups := (congrArg State.groups hrest :)
  refine ⟨(congrArg (fun x : State => { x with groups := s.groups }) hrest :), ?_⟩
  rw [← bare_onSplit s g u (fun x => x.noteTimes t)]
  funext k
  show ((s.noteTimes g u t).groups.get k).bare = ((s.onSplit g u (fun x => x.noteTimes t)).groups.get k).bare
  rw [hgroups]

/-- R188: there is nothing to collect or drain. -/
theorem flushWc_empty {s : State} {core : Nat} (h : (s.cores.get core).wc.held = false) : s.flushWc core = s := by
  unfold State.flushWc
  exact if_pos (by rw [h]; rfl)

theorem onlySplits_releaseAt {s : State} {g : Nat} (h : NothingToRelease s (coreOfGroup g)) (u scope : Nat) :
    OnlySplits s (s.releaseAt g u scope) := by
  unfold State.releaseAt
  dsimp only
  rw [flushWc_empty h.1, collectCore_none fun e he hne => absurd (h.2 e he) hne]
  split
  · exact onlySplits_refl s
  · exact onlySplits_noteTimes s _ _ _

theorem onlySplits_acquireAt {s : State} {g : Nat} (h : NothingToRelease s (coreOfGroup g)) (u scope : Nat) :
    OnlySplits s (s.acquireAt g u scope) := by
  unfold State.acquireAt
  dsimp only
  rw [collectCore_none fun e he hne => absurd (h.2 e he) hne]
  split
  · exact onlySplits_refl s
  split
  · exact (onlySplits_releaseAt h u 3).trans (onlySplits_onSplit _ _ _ _)
  · exact onlySplits_noteTimes s _ _ _

/-- R172, R215, R238: an instruction that takes no count, and acquires only where nothing is to be released. -/
theorem onlySplits_noteDone {s : State} {i : Nat} (hcount : countDest (s.op i).instr = none)
    (hquiet : isLda (s.op i).instr = true → NothingToRelease s (coreOfGroup (s.op i).grp)) : OnlySplits s (s.noteDone i) := by
  unfold State.noteDone
  dsimp only
  rw [hcount]
  split
  · next h => exact onlySplits_acquireAt (hquiet h) _ _
  rw [if_neg (by simp)]
  split
  · exact onlySplits_noteTimes s _ _ _
  · exact onlySplits_refl s

/-! ### Completion -/

theorem onlySplits_completeOp (s : State) (i : Nat) : OnlySplits { s with ops := s.ops.erase i } (s.completeOp i) :=
  onlySplits_onSplit { s with ops := s.ops.erase i } _ _ _

theorem live_completeOp (s : State) (i : Nat) : ((s.completeOp i).op i).live = false := by
  show ((s.ops.erase i).get i).live = false
  rw [Store.get_erase, if_pos rfl]; rfl

/-- R99, R101: an instruction with a destination completes: its words reach their registers. -/
theorem finishOp_delivers {s : State} {i d n : Nat} {f : Word → Word} (hdest : destOf (s.op i).instr = some (d, n, f))
    (hcount : countDest (s.op i).instr = none)
    (hquiet : isLda (s.op i).instr = true → NothingToRelease s (coreOfGroup (s.op i).grp)) : Delivers s (s.finishOp i) i d n f := by
  obtain ⟨hw, hwg⟩ := writeDest_frame s i d f n
  have hop : (s.writeDest i d n f).op i = s.op i := congrArg (fun m : Store Op => m.get i) (congrArg State.ops hw :)
  have hcores : (s.writeDest i d n f).cores = s.cores := (congrArg State.cores hw :)
  have hcnt : (s.writeDest i d n f).writeCount i = s.writeDest i d n f := by
    unfold State.writeCount
    dsimp only
    rw [hop, hcount]
  have hnote : OnlySplits (s.writeDest i d n f) ((s.writeDest i d n f).noteDone i) := by
    refine onlySplits_noteDone (by rw [hop]; exact hcount) fun h => ?_
    rw [hop] at h ⊢
    unfold NothingToRelease
    rw [hcores]
    exact hquiet h
  have hfin : s.finishOp i = ((s.writeDest i d n f).noteDone i).completeOp i := by
    unfold State.finishOp
    rw [hdest]
    dsimp only
    rw [hcnt]
  have hcomp := onlySplits_completeOp ((s.writeDest i d n f).noteDone i) i
  have hbare (g : Nat) : ((s.finishOp i).group g).bare = ((s.writeDest i d n f).group g).bare := by
    rw [hfin]
    exact (congrFun hcomp.bare g).trans (congrFun hnote.bare g)
  have hbyte (t u : State) (hcores : t.cores = u.cores) (hmem : t.mem = u.mem) (hhome : t.home = u.home) (a : Nat) : t.byteAt a = u.byteAt a := by
    unfold State.byteAt
    rw [hcores, hmem, hhome]
  refine ⟨by rw [hfin]; exact live_completeOp _ i, fun a => ?_, fun g => ⟨?_, ?_⟩, fun g r L hL => ?_⟩
  · rw [hfin]
    refine (hbyte _ { (s.writeDest i d n f).noteDone i with ops := ((s.writeDest i d n f).noteDone i).ops.erase i }
      (congrArg State.cores hcomp.rest :) (congrArg State.mem hcomp.rest :) (congrArg State.home hcomp.rest :) a).trans ?_
    refine (hbyte ((s.writeDest i d n f).noteDone i) (s.writeDest i d n f)
      (congrArg State.cores hnote.rest :) (congrArg State.mem hnote.rest :) (congrArg State.home hnote.rest :) a).trans ?_
    exact hbyte _ s hcores (congrArg State.mem hw :) (congrArg State.home hw :) a
  · exact (congrArg Group.s (hbare g) :).trans (congrArg Group.s (hwg g) :)
  · exact (congrArg Group.p (hbare g) :).trans (congrArg Group.p (hwg g) :)
  · have hv : ((s.finishOp i).group g).v = ((s.writeDest i d n f).group g).v := (congrArg Group.v (hbare g) :)
    have hat : ((s.finishOp i).group g).vAt r L = ((s.writeDest i d n f).group g).vAt r L := congrArg (fun v : Store Word => v.get (vKey r L)) hv
    rw [hat, vAt_writeDest s i d f n g r hL]

/-! ### Loads, ATOM and LDS -/

/-- R171: the extension of a word, by the size of the load. -/
theorem extendLoad_eq (h : Shape) (w : Word) : extendLoad h w =
    if h.bytes = 1 ∧ h.signed = true then (w.extractLsb' 0 8).signExtend 32
    else if h.bytes = 2 ∧ h.signed = true then (w.extractLsb' 0 16).signExtend 32 else w := by
  have h8 : w.setWidth 8 = w.extractLsb' 0 8 := by ext i hi; simp
  have h16 : w.setWidth 16 = w.extractLsb' 0 16 := by ext i hi; simp
  unfold extendLoad
  split
  · next hb hs => rw [if_pos ⟨hb, hs⟩, h8]
  · next hb hs => rw [if_neg (by omega), if_pos ⟨hb, hs⟩, h16]
  · next h1 h2 =>
    rw [if_neg fun h => h1 h.1 h.2, if_neg fun h => h2 h.1 h.2]

theorem countDest_of_dest {i : Instr} (h : (shapeOf i).isSome = true ∨ (stashShape i).isSome = true) : countDest i = none := by
  unfold countDest
  split
  · rcases h with h | h <;> exact absurd h (by simp [shapeOf, stashShape])
  · rfl

section
variable {s : State} {k : Nat}

/-- With its data there, a load or an ATOM is complete, whether its home has answered or not. -/
theorem dataReturn_finishes {h : Shape} (hs : shapeOf (s.op k).instr = some h) (hm : h.move = .load ∨ h.move = .atom)
    (hlive : (s.op k).live = true) (hhave : (s.op k).have_ = (s.op k).mask) (hst : (s.op k).status = .flying ∨ (s.op k).status = .accepted)
    (herr : ∀ L, L < 32 → inMask (s.op k).mask L = true → s.lineError (lineOf ((s.op k).pa.get L)) = none) :
    exec (.loadDataReturn k) s = .next (s.finishOp k) := by
  have hread : s.readRegisters k h.bytes = s := by
    have hnone : (s.op k).mask &&& ~~~(s.op k).have_ = 0 := by rw [hhave]; exact BitVec.and_not_self _
    unfold State.readRegisters
    rw [hnone, show lanesOf (0 : Mask) = [] from lanesOf_zero]
    split <;> rfl
  have hbad : s.badLanes (s.op k) = [] := List.filterMap_eq_nil_iff.2 fun L hL => by
    obtain ⟨hlt, hin⟩ := mem_lanesOf.1 hL
    rw [herr L hlt hin]
    split <;> rfl
  have hdeliver : s.deliverOp k = s.finishOp k := by
    unfold State.deliverOp
    rw [hbad]
  show execLoadDataReturn k s = _
  unfold execLoadDataReturn
  simp only [hlive, hs, Bool.not_true, Bool.false_eq_true, if_false]
  rw [if_neg (by rcases hm with hm | hm <;> simp [hm])]
  rcases hst with hst | hst <;> simp only [hst]
  simp only [hread, hhave, if_true, hdeliver, ite_self]

theorem load_returns {h : Shape} (hs : shapeOf (s.op k).instr = some h) (hm : h.move = .load)
    (hgo : exec (.loadDataReturn k) s = .next (s.finishOp k))
    (hquiet : isLda (s.op k).instr = true → NothingToRelease s (coreOfGroup (s.op k).grp)) :
    Completes (.loadDataReturn k) s (fun t => Delivers s t k h.d h.regs (fun w =>
      if h.bytes = 1 ∧ h.signed = true then (w.extractLsb' 0 8).signExtend 32
      else if h.bytes = 2 ∧ h.signed = true then (w.extractLsb' 0 16).signExtend 32 else w)) := by
  have hdest : destOf (s.op k).instr = some (h.d, h.regs, extendLoad h) := by
    unfold destOf
    rw [hs]
    exact if_pos hm
  have := finishOp_delivers hdest (countDest_of_dest (.inl (by rw [hs]; rfl))) hquiet
  rw [funext (extendLoad_eq h)] at this
  exact ⟨_, hgo, this⟩

theorem atom_returns {h : Shape} (hs : shapeOf (s.op k).instr = some h) (hm : h.move = .atom)
    (hgo : exec (.loadDataReturn k) s = .next (s.finishOp k))
    (hquiet : isLda (s.op k).instr = true → NothingToRelease s (coreOfGroup (s.op k).grp)) :
    Completes (.loadDataReturn k) s (fun t => Delivers s t k h.d (h.bytes / 4) id) := by
  have hdest : destOf (s.op k).instr = some (h.d, h.bytes / 4, id) := by
    unfold destOf
    rw [hs]
    exact (if_neg (by rw [hm]; decide)).trans (if_pos hm)
  exact ⟨_, hgo, finishOp_delivers hdest (countDest_of_dest (.inl (by rw [hs]; rfl))) hquiet⟩

theorem lds_returns {h : StashShape} (hno : shapeOf (s.op k).instr = none) (hs : stashShape (s.op k).instr = some h) (hst : h.store = false)
    (hlive : (s.op k).live = true) (hacc : (s.op k).status = .accepted) :
    Completes (.loadDataReturn k) s (fun t => Delivers s t k h.d h.regs (fun w =>
      if h.bytes = 1 ∧ h.signed = true then (w.extractLsb' 0 8).signExtend 32
      else if h.bytes = 2 ∧ h.signed = true then (w.extractLsb' 0 16).signExtend 32 else w)) := by
  have hgo : exec (.loadDataReturn k) s = .next (s.finishOp k) := by
    show execLoadDataReturn k s = _
    unfold execLoadDataReturn
    simp only [hlive, hno, hacc, Bool.not_true, Bool.false_eq_true, if_false, if_true]
  have hdest : destOf (s.op k).instr = some (h.d, h.regs, extendLoad h.toShape) := by
    unfold destOf
    rw [hno, hs]
    exact if_neg (by rw [hst]; decide)
  have hlda : isLda (s.op k).instr = false := by
    unfold isLda
    split
    · next heq => rw [heq] at hs; exact nomatch hs
    · next heq => rw [heq] at hs; exact nomatch hs
    · rfl
  have := finishOp_delivers hdest (countDest_of_dest (.inr (by rw [hs]; rfl))) fun h => absurd h (by rw [hlda]; decide)
  rw [funext (extendLoad_eq h.toShape)] at this
  exact ⟨_, hgo, this⟩

end

/-! ### Data taken lane by lane -/

/-- A load that has taken the data of the lanes of a list. -/
def Op.takes (o : Op) (n : Nat) (ls : List Nat) (byte : Nat → Nat → Byte) : Op := ls.foldl (fun x L => takeLane x n L (byte L)) o

/-- Word k of the bytes that a lane takes. -/
def loadedWord (n : Nat) (byte : Nat → Byte) (k : Nat) : Word :=
  BitVec.ofNat 32 (joinBytes ((List.range (min 4 n)).map (fun i => byte (4 * k + i))))

theorem got_takeLane (o : Op) (n L : Nat) (byte : Nat → Byte) {K k : Nat} (hn : n ≤ 16) (hk : k < (n + 3) / 4) :
    (takeLane o n L byte).got.get (4 * K + k) = if K = L then loadedWord n byte k else o.got.get (4 * K + k) := by
  have hput := get_putList ((List.range ((n + 3) / 4)).map (fun k => 4 * L + k)) (fun key => loadedWord n byte (key - 4 * L)) (4 * K + k) o.got
  rw [List.foldl_map] at hput
  simp only [Nat.add_sub_cancel_left] at hput
  refine hput.trans ?_
  by_cases hKL : K = L
  · subst hKL
    rw [if_pos (List.mem_map.2 ⟨k, List.mem_range.2 hk, rfl⟩), if_pos rfl, Nat.add_sub_cancel_left]
  · rw [if_neg hKL, if_neg]
    simp only [List.mem_map, List.mem_range, not_exists, not_and]
    omega

section
variable (o : Op) (n : Nat) (byte : Nat → Nat → Byte)

theorem takes_cons (L : Nat) (ls : List Nat) : o.takes n (L :: ls) byte = (takeLane o n L (byte L)).takes n ls byte := rfl

theorem takes_append (ls : List Nat) (L : Nat) : o.takes n (ls ++ [L]) byte = takeLane (o.takes n ls byte) n L (byte L) :=
  List.foldl_append ..

/-- Taking data changes nothing else of the load. -/
theorem takes_frame (ls : List Nat) : ∀ o : Op, { o.takes n ls byte with have_ := o.have_, got := o.got } = o := by
  induction ls with
  | nil => exact fun _ => rfl
  | cons L ls ih => exact fun o => (congrArg (fun x : Op => { x with have_ := o.have_, got := o.got }) (ih (takeLane o n L (byte L))) :)

theorem have_takes (ls : List Nat) {K : Nat} (hK : K < 32) :
    ∀ o : Op, inMask (o.takes n ls byte).have_ K = (inMask o.have_ K || decide (K ∈ ls)) := by
  induction ls with
  | nil => simp [Op.takes]
  | cons L ls ih =>
    intro o
    rw [takes_cons, ih]
    simp [takeLane, hK, Bool.or_assoc, beq_eq_decide]

theorem got_takes (hn : n ≤ 16) {K k : Nat} (hk : k < (n + 3) / 4) (ls : List Nat) :
    ∀ o : Op, (o.takes n ls byte).got.get (4 * K + k) = if K ∈ ls then loadedWord n (byte K) k else o.got.get (4 * K + k) := by
  induction ls with
  | nil => simp [Op.takes]
  | cons L ls ih =>
    intro o
    rw [takes_cons, ih, got_takeLane _ _ _ _ hn hk]
    by_cases hKL : K = L
    · subst hKL; simp
    · simp [hKL]

end

/-- R171: a load has one register for each of its words. -/
theorem regs_of_load {i : Instr} {h : Shape} (hs : shapeOf i = some h) (hm : h.move = .load) : h.bytes ≤ 16 ∧ h.regs = (h.bytes + 3) / 4 := by
  unfold shapeOf sh at hs
  split at hs <;> cases hs <;> simp_all

/-! ### Loads from register pages (R231) -/

section
variable {s : State} {i : Nat}

/-- Nothing but an outstanding instruction and splits have changed. -/
structure OnlyOp (s t : State) (i : Nat) (o : Op) : Prop where
  rest : { t with groups := s.groups, ops := s.ops } = s
  bare : t.bare = s.bare
  op : t.op i = o

theorem takeDirect_register {t : State} {n L : Nat} (ht : OnlyOp s t i ((s.op i).takes n ls (fun K j => s.byteAt ((s.op i).pa.get K + j))))
    (hcls : (s.op i).cls.get L = 3) :
    OnlyOp s (t.takeDirect i n L) i ((s.op i).takes n (ls ++ [L]) (fun K j => s.byteAt ((s.op i).pa.get K + j))) := by
  have hframe := takes_frame n (fun K j => s.byteAt ((s.op i).pa.get K + j)) ls (s.op i)
  have hc : (t.op i).cls.get L = 3 := by
    rw [ht.op]
    exact (congrArg (fun c : Store Nat => c.get L) (congrArg Op.cls hframe :)).trans hcls
  have hpa : (t.op i).pa = (s.op i).pa := by
    rw [ht.op]
    exact (congrArg Op.pa hframe :)
  have hbyte (a : Nat) : t.byteAt a = s.byteAt a := by
    unfold State.byteAt
    rw [show t.cores = s.cores from (congrArg State.cores ht.rest :), show t.mem = s.mem from (congrArg State.mem ht.rest :),
      show t.home = s.home from (congrArg State.home ht.rest :)]
  have htake : t.takeDirect i n L = noteSettle (t.onOp i (fun x => takeLane x n L (fun k => s.byteAt ((s.op i).pa.get L + k)))) (t.op i).grp (t.op i).uid 0 := by
    unfold State.takeDirect
    dsimp only
    rw [if_pos hc, if_pos hc, hpa]
    simp only [hbyte]
  rw [htake]
  refine ⟨(congrArg (fun x : State => { x with ops := s.ops }) ht.rest :), ?_, ?_⟩
  · exact (bare_onSplit _ _ _ _).trans ht.bare
  · refine (Store.get_upd t.ops i (fun x => takeLane x n L (fun k => s.byteAt ((s.op i).pa.get L + k))) i).trans ?_
    rw [if_pos rfl, takes_append]
    exact congrArg (fun x : Op => takeLane x n L (fun k => s.byteAt ((s.op i).pa.get L + k))) ht.op

theorem readRegisters_takes (n : Nat) (hgo : s.registerBefore i = false) (hnone : (s.op i).have_ = 0)
    (hcls : ∀ L, L < 32 → inMask (s.op i).mask L = true → (s.op i).cls.get L = 3) :
    OnlyOp s (s.readRegisters i n) i ((s.op i).takes n (lanesOf (s.op i).mask) (fun K j => s.byteAt ((s.op i).pa.get K + j))) := by
  have hmask : (s.op i).mask &&& ~~~(s.op i).have_ = (s.op i).mask := by
    rw [hnone]
    exact (congrArg ((s.op i).mask &&& ·) BitVec.not_zero).trans BitVec.and_allOnes
  have hfold (ls : List Nat) : (∀ L ∈ ls, (s.op i).cls.get L = 3) → ∀ done t,
      OnlyOp s t i ((s.op i).takes n done (fun K j => s.byteAt ((s.op i).pa.get K + j))) →
      OnlyOp s (ls.foldl (fun st L => if (s.op i).cls.get L = 3 then st.takeDirect i n L else st) t) i
        ((s.op i).takes n (done ++ ls) (fun K j => s.byteAt ((s.op i).pa.get K + j))) := by
    induction ls with
    | nil => intro _ done t ht; rw [List.append_nil]; exact ht
    | cons L ls ih =>
      intro hl done t ht
      rw [List.foldl_cons, if_pos (hl L List.mem_cons_self), List.append_cons]
      exact ih (fun K hK => hl K (List.mem_cons_of_mem _ hK)) _ _ (takeDirect_register ht (hl L List.mem_cons_self))
  unfold State.readRegisters
  rw [hgo, hmask]
  exact hfold _ (fun L hL => hcls L (mem_lanesOf.1 hL).1 (mem_lanesOf.1 hL).2) [] s ⟨rfl, rfl, rfl⟩

variable {h : Shape} (hs : shapeOf (s.op i).instr = some h) (hm : h.move = .load) (hlive : (s.op i).live = true)
  (hst : (s.op i).status = .flying) (hnone : (s.op i).have_ = 0)

include hs hm hlive hst in
theorem exec_loadDataReturn_flying : exec (.loadDataReturn i) s = .next (
    if ((s.readRegisters i h.bytes).op i).have_ = (s.op i).mask then (s.readRegisters i h.bytes).deliverOp i
    else (s.readRegisters i h.bytes).later (.loadDataReturn i)) := by
  show execLoadDataReturn i s = _
  unfold execLoadDataReturn
  simp only [hlive, hs, hm, hst, Bool.not_true, Bool.false_eq_true, if_false, ne_eq, not_true_eq_false, false_and, reduceCtorEq]

include hs hm hlive hst hnone in
/-- R231: behind an unanswered access to a register page a load waits. -/
theorem registerLoad_waits (hmask : (s.op i).mask ≠ 0) (hbefore : s.registerBefore i = true) :
    exec (.loadDataReturn i) s = .next (s.later (.loadDataReturn i)) := by
  have hread : s.readRegisters i h.bytes = s := if_pos hbefore
  rw [exec_loadDataReturn_flying hs hm hlive hst, hread, hnone, if_neg (Ne.symm hmask)]

include hs hm hlive hst hnone in
theorem registerLoad_reads (hgo : s.registerBefore i = false)
    (hcls : ∀ L, L < 32 → inMask (s.op i).mask L = true → (s.op i).cls.get L = 3)
    (hquiet : isLda (s.op i).instr = true → NothingToRelease s (coreOfGroup (s.op i).grp)) :
    Completes (.loadDataReturn i) s (fun t => (t.op i).live = false ∧ SameBytes s t ∧ ∀ g r L, L < 32 → (t.group g).vAt r L
      = let o := s.op i
        if g = o.grp ∧ inMask o.mask L = true ∧ h.d ≤ r ∧ r < h.d + h.regs ∧ o.wrote.get (4 * L + (r - h.d)) = false then
          extendLoad h (BitVec.ofNat 32 (s.readPa (o.pa.get L + 4 * (r - h.d)) (min 4 h.bytes)))
        else (s.group g).vAt r L) := by
  obtain ⟨hn, hregs⟩ := regs_of_load hs hm
  obtain ⟨hrest, hbare, hop⟩ := readRegisters_takes h.bytes hgo hnone hcls
  have hframe := takes_frame h.bytes (fun K j => s.byteAt ((s.op i).pa.get K + j)) (lanesOf (s.op i).mask) (s.op i)
  rw [← hop] at hframe
  have hinstr : ((s.readRegisters i h.bytes).op i).instr = (s.op i).instr := (congrArg Op.instr hframe :)
  have hmask : ((s.readRegisters i h.bytes).op i).mask = (s.op i).mask := (congrArg Op.mask hframe :)
  have hgrp : ((s.readRegisters i h.bytes).op i).grp = (s.op i).grp := (congrArg Op.grp hframe :)
  have hwrote : ((s.readRegisters i h.bytes).op i).wrote = (s.op i).wrote := (congrArg Op.wrote hframe :)
  have hall : ((s.readRegisters i h.bytes).op i).have_ = (s.op i).mask := BitVec.eq_of_getLsbD_eq fun L hL => by
    show inMask _ L = inMask _ L
    rw [hop, have_takes _ _ _ hL, hnone]
    simp [mem_lanesOf, hL, inMask]
  have hbad : (s.readRegisters i h.bytes).badLanes ((s.readRegisters i h.bytes).op i) = [] :=
    List.filterMap_eq_nil_iff.2 fun L hL => by
      rw [hmask] at hL
      have hc : ((s.readRegisters i h.bytes).op i).cls.get L = 3 :=
        (congrArg (fun c : Store Nat => c.get L) (congrArg Op.cls hframe :)).trans (hcls L (mem_lanesOf.1 hL).1 (mem_lanesOf.1 hL).2)
      exact if_pos hc
  have hdeliver : (s.readRegisters i h.bytes).deliverOp i = (s.readRegisters i h.bytes).finishOp i := by
    unfold State.deliverOp
    rw [hbad]
  have hdest : destOf ((s.readRegisters i h.bytes).op i).instr = some (h.d, h.regs, extendLoad h) := by
    rw [hinstr]
    unfold destOf
    rw [hs]
    exact if_pos hm
  have hcores : (s.readRegisters i h.bytes).cores = s.cores := (congrArg State.cores hrest :)
  obtain ⟨hdone, hbytes, -, hv⟩ := finishOp_delivers hdest (countDest_of_dest (.inl (by rw [hinstr, hs]; rfl))) (by
    rw [hinstr, hgrp]
    intro hl
    unfold NothingToRelease
    rw [hcores]
    exact hquiet hl)
  have hsame : SameBytes s (s.readRegisters i h.bytes) := fun a => by
    unfold State.byteAt
    rw [hcores, show (s.readRegisters i h.bytes).mem = s.mem from (congrArg State.mem hrest :),
      show (s.readRegisters i h.bytes).home = s.home from (congrArg State.home hrest :)]
  refine ⟨_, (exec_loadDataReturn_flying hs hm hlive hst).trans (by rw [if_pos hall, hdeliver]), hdone, hsame.trans hbytes, fun g r L hL => ?_⟩
  rw [hv g r L hL]
  dsimp only
  rw [hmask, hgrp, hwrote]
  have hkeep : ((s.readRegisters i h.bytes).group g).vAt r L = (s.group g).vAt r L :=
    congrArg (fun v : Store Word => v.get (vKey r L)) (congrArg Group.v (congrFun hbare g) :)
  by_cases hc : g = (s.op i).grp ∧ inMask (s.op i).mask L = true ∧ h.d ≤ r ∧ r < h.d + h.regs ∧ (s.op i).wrote.get (4 * L + (r - h.d)) = false
  · rw [if_pos hc, if_pos hc, hop, got_takes _ _ hn (by omega), if_pos (mem_lanesOf.2 ⟨hL, hc.2.1⟩)]
    unfold loadedWord State.readPa
    simp only [Nat.add_assoc]
  · rw [if_neg hc, if_neg hc, hkeep]

end

/-- Settles O34, through what completion does to registers (`finishOp_delivers`) and what a load takes lane by lane. -/
theorem dataReturns : Obligations.DataReturns := by
  refine ⟨fun s k h hs hlive hhave hst hquiet herr => ⟨fun hm => ?_, fun hm => ?_⟩,
    fun s k h hs hm hlive hnone hmask hst hcls hquiet => ⟨fun hb => ?_, fun hb => ?_⟩, fun s k h hno hs hst hlive hacc => ?_⟩
  · exact load_returns hs hm (dataReturn_finishes hs (.inl hm) hlive hhave hst herr) hquiet
  · exact atom_returns hs hm (dataReturn_finishes hs (.inr hm) hlive hhave hst herr) hquiet
  · exact registerLoad_waits hs hm hlive hst hnone hmask hb
  · exact registerLoad_reads hs hm hlive hst hnone hb hcls hquiet
  · exact lds_returns hno hs hst hlive hacc

end Sys2Proof.Machine
end

section
/-! ## Memory accesses at issue: what stays, and how an access starts (R98, R101, R167, R168) -/

namespace Sys2Proof.Machine

/-! ### What an access at issue leaves as it is -/

/-- A core but for its L1 and its write-combining buffer. -/
def Core.outer (k : Core) : Core := { k with l1 := [], wc := {} }
/-- The name of a split, and what it has outstanding. -/
def Split.outs (x : Split) : Nat × List Ahead := (x.uid, x.out)

/-- Only L1s, write-combining buffers, outstanding instructions and splits' bookkeeping differ, and more is under way. -/
structure Quiet (s t : State) : Prop where
  rest : { t with cores := s.cores, groups := s.groups, ops := s.ops, pending := s.pending } = s
  cores : ∀ c, (t.cores.get c).outer = (s.cores.get c).outer
  bare : t.bare = s.bare
  outs : ∀ g, (t.group g).splits.map Split.outs = (s.group g).splits.map Split.outs
  pending : ∀ e ∈ s.pending, e ∈ t.pending

theorem Quiet.refl (s : State) : Quiet s s := ⟨rfl, fun _ => rfl, rfl, fun _ => rfl, fun _ h => h⟩

theorem Quiet.trans {s t u : State} (h : Quiet s t) (k : Quiet t u) : Quiet s u :=
  ⟨(congrArg (fun x : State => { x with cores := s.cores, groups := s.groups, ops := s.ops, pending := s.pending }) k.rest).trans h.rest,
    fun c => (k.cores c).trans (h.cores c), k.bare.trans h.bare, fun g => (k.outs g).trans (h.outs g), fun e he => k.pending e (h.pending e he)⟩

theorem Quiet.foldl {ι : Type} {f : State → ι → State} (hf : ∀ s i, Quiet s (f s i)) (l : List ι) : ∀ s, Quiet s (l.foldl f s) := by
  induction l with
  | nil => exact Quiet.refl
  | cons i l ih => exact fun s => (hf s i).trans (ih _)

section
variable {s t : State} (h : Quiet s t)
include h

theorem Quiet.now : t.now = s.now := (congrArg State.now h.rest :)
theorem Quiet.mem : t.mem = s.mem := (congrArg State.mem h.rest :)
theorem Quiet.home : t.home = s.home := (congrArg State.home h.rest :)
theorem Quiet.focus : t.focus = s.focus := (congrArg State.focus h.rest :)
theorem Quiet.nextOp : t.nextOp = s.nextOp := (congrArg State.nextOp h.rest :)

theorem Quiet.block (g : Nat) : (t.group g).block = (s.group g).block := (congrArg Group.block (congrFun h.bare g) :)

theorem Quiet.ctxOf (g : Nat) : t.ctxOf g = s.ctxOf g := by
  unfold State.ctxOf State.blockOf
  rw [h.block, show t.blocks = s.blocks from (congrArg State.blocks h.rest :)]

theorem Quiet.launchOf (g : Nat) : t.launchOf g = s.launchOf g := by
  unfold State.launchOf State.blockOf
  rw [h.block, show t.blocks = s.blocks from (congrArg State.blocks h.rest :), show t.launches = s.launches from (congrArg State.launches h.rest :)]

theorem Quiet.l1Valid (l : L1Line) : t.l1Valid l = s.l1Valid l := by
  unfold State.l1Valid
  rw [h.now]

theorem Quiet.sameRegs : SameRegs s t := sameRegs_of_bare h.bare

theorem Quiet.sameBytes : SameBytes s t := fun a => by
  unfold State.byteAt
  rw [h.mem, h.home]
  split
  · rfl
  · next b sl _ => exact congrArg (fun m : Store Byte => m.get (64 * sl + a % 64)) (congrArg Core.stash (h.cores (coreOfBlock b)) :)

theorem Quiet.out {g u : Nat} {e : Ahead} (he : ∀ x ∈ (s.group g).splits, x.uid = u → e ∈ x.out) {x : Split} (hx : x ∈ (t.group g).splits)
    (hu : x.uid = u) : e ∈ x.out := by
  have hmem : x.outs ∈ (s.group g).splits.map Split.outs := h.outs g ▸ List.mem_map_of_mem hx
  obtain ⟨y, hy, hyx⟩ := List.mem_map.1 hmem
  have huid : y.uid = x.uid := (congrArg Prod.fst hyx :)
  have hout : y.out = x.out := (congrArg Prod.snd hyx :)
  exact hout ▸ he y hy (huid.trans hu)

end

section
variable (s : State)

theorem quiet_onOp (i : Nat) (f : Op → Op) : Quiet s (s.onOp i f) := ⟨rfl, fun _ => rfl, rfl, fun _ => rfl, fun _ h => h⟩
theorem quiet_post (e : Instr) : Quiet s (s.post e) := ⟨rfl, fun _ => rfl, rfl, fun _ => rfl, fun _ h => List.mem_append_left _ h⟩

theorem quiet_onCore (c : Nat) (f : Core → Core) (hf : ∀ k, (f k).outer = k.outer := by intro _; rfl) : Quiet s (s.onCore c f) :=
  ⟨rfl, proj_get_upd Core.outer s.cores c f hf, rfl, fun _ => rfl, fun _ h => h⟩

theorem outs_onSplit (k : Group) (u : Nat) (f : Split → Split) (hm : ∀ x, (f x).mask = x.mask) (ho : ∀ x, (f x).outs = x.outs) :
    (k.onSplit u f).splits.map Split.outs = k.splits.map Split.outs := by
  rw [splits_onSplit k u f hm, List.map_map]
  refine List.map_congr_left fun x _ => ?_
  show (if x.uid = u then f x else x).outs = x.outs
  split
  · exact ho x
  · rfl

theorem quiet_onSplit (g u : Nat) (f : Split → Split) (hm : ∀ x, (f x).mask = x.mask := by intro _; rfl)
    (ho : ∀ x, (f x).outs = x.outs := by intro _; rfl) : Quiet s (s.onSplit g u f) := by
  refine ⟨rfl, fun _ => rfl, bare_onSplit s g u f, fun k => ?_, fun _ h => h⟩
  unfold State.onSplit
  rw [group_onGroup]
  split
  · next hk => subst hk; exact outs_onSplit _ u f hm ho
  · rfl

theorem quiet_noteSettle (g u t : Nat) : Quiet s (noteSettle s g u t) := quiet_onSplit s g u _

end

/-! ### Lines of an L1 -/

/-- A line of a core's L1, by its number. -/
def State.lineAt (s : State) (core line : Nat) : L1Line := (s.cores.get core).l1.get line

theorem l1At_eq (s : State) (core pa : Nat) : l1At s core pa = s.lineAt core (lineOf pa) := rfl

section
variable (s : State) (core line : Nat)

/-- The L1 of a core with one line written. -/
def State.putLine (l : L1Line) : State := s.onCore core (fun k => { k with l1 := k.l1.put line l })

theorem quiet_putLine (l : L1Line) : Quiet s (s.putLine core line l) := quiet_onCore s core _

theorem lineAt_putLine (l : L1Line) (n : Nat) : (s.putLine core line l).lineAt core n = if n = line then l else s.lineAt core n := by
  show ((s.cores.upd core (fun k => { k with l1 := k.l1.put line l })).get core).l1.get n = _
  rw [Store.get_upd, if_pos rfl]
  exact Store.get_put _ _ _ _

theorem wc_putLine (l : L1Line) (c : Nat) : ((s.putLine core line l).cores.get c).wc = (s.cores.get c).wc :=
  proj_get_upd Core.wc s.cores core (fun k => { k with l1 := k.l1.put line l }) (fun _ => rfl) c

end

/-- The step t of s is a write of one line of a core's L1, or nothing where the line is that already. -/
def Lined (s : State) (core line : Nat) (l : L1Line) (t : State) : Prop :=
  t = s.putLine core line l ∨ t = s ∧ l = s.lineAt core line

section
variable {s t : State} {core line : Nat} {l : L1Line} (h : Lined s core line l t)
include h

theorem Lined.quiet : Quiet s t := by
  rcases h with rfl | ⟨rfl, -⟩
  · exact quiet_putLine ..
  · exact Quiet.refl t

theorem Lined.lineAt (n : Nat) : t.lineAt core n = if n = line then l else s.lineAt core n := by
  rcases h with rfl | ⟨rfl, rfl⟩
  · exact lineAt_putLine ..
  · split
    · next hn => rw [hn]
    · rfl

theorem Lined.wc (c : Nat) : (t.cores.get c).wc = (s.cores.get c).wc := by
  rcases h with rfl | ⟨rfl, -⟩
  · exact wc_putLine ..
  · rfl

theorem Lined.ops : t.ops = s.ops := by
  rcases h with rfl | ⟨rfl, -⟩ <;> rfl

theorem Lined.pending_eq : t.pending = s.pending := by
  rcases h with rfl | ⟨rfl, -⟩ <;> rfl

end

section
variable (s : State) (core line : Nat)

/-- R169: an access leaves a line its priority or raises it. -/
theorem lined_polL1 (was : Bool) (p : BitVec 2) : ∃ q, Lined s core line { s.lineAt core line with pol := q } (s.polL1 core line was p) := by
  by_cases hq : (s.lineAt core line).st = .invalid
      ∨ (s.lineAt core line).pol = (if was then raisePol (s.lineAt core line).pol (polOf p) else polOf p)
  · exact ⟨_, .inr ⟨if_pos hq, rfl⟩⟩
  · exact ⟨_, .inl (if_neg hq)⟩

/-- R229: the line that a class 0 access works on. -/
def State.privateLine (ctx : Nat) : L1Line :=
  if (s.lineAt core line).st = .priv then
    (if (s.lineAt core line).ctxs.contains ctx then s.lineAt core line
     else { s.lineAt core line with ctxs := (s.lineAt core line).ctxs ++ [ctx] })
  else { st := .priv, ctx := ctx, ctxs := [ctx], bytes := putBytes [] ((List.range 64).map (fun i => (i, s.mem.get (64 * line + i)))) }

theorem lined_fillPrivate (ctx : Nat) : Lined s core line (s.privateLine core line ctx) (s.fillPrivate core ctx line) := by
  unfold State.privateLine
  by_cases hp : (s.lineAt core line).st = .priv
  · rw [if_pos hp]
    by_cases hc : (s.lineAt core line).ctxs.contains ctx = true
    · rw [if_pos hc]
      exact .inr ⟨(if_pos hp).trans (if_pos hc), rfl⟩
    · rw [if_neg hc]
      exact .inl ((if_pos hp).trans (if_neg hc))
  · rw [if_neg hp]
    exact .inl (if_neg hp)

theorem privateLine_st (ctx : Nat) : (s.privateLine core line ctx).st = .priv := by
  unfold State.privateLine
  split
  · next h => split <;> exact h
  · rfl

/-- R237: bytes laid into a line; a line of class 0 notes them as written. -/
def L1Line.take (l : L1Line) (bs : List (Nat × Byte)) : L1Line :=
  { l with
    bytes := putBytes l.bytes (bs.map (fun e => (e.1 % 64, e.2)))
    touched := if l.st = .priv then bs.foldl (fun m e => m.put (e.1 % 64) true) l.touched else l.touched }

theorem lined_l1Update (bs : List (Nat × Byte)) : Lined s core line
    (if s.l1Valid (s.lineAt core line) = true then (s.lineAt core line).take bs else s.lineAt core line) (s.l1Update core line bs) := by
  by_cases hv : s.l1Valid (s.lineAt core line) = true
  · rw [if_pos hv]
    exact .inl (if_pos hv)
  · rw [if_neg hv]
    exact .inr ⟨if_neg hv, rfl⟩

variable {s core}

/-- With the write-combining buffer empty there is nothing to flush. -/
theorem flushWcFor_empty (h : (s.cores.get core).wc.held = false) : s.flushWcFor core line = s := by
  unfold State.flushWcFor
  exact if_neg (by rw [h]; simp)

/-- With no watchpoint set nothing is noted. -/
theorem watch_none {g : Nat} (h : (s.launchOf g).watches = []) (u : Nat) (m : Mask) (next : Word) (plane : Nat) (a b c : Bool) (n : Nat)
    (lanes : List (Nat × Nat)) : s.watch g u m next plane a b c n lanes = s := by
  have : watchMatch (s.launchOf g).watches a (s.blockOf g).number b c n lanes = none := by
    unfold watchMatch
    rw [h]
    have hfind : lanes.find? (fun _ => false) = none := List.find?_eq_none.2 (fun _ _ => by simp)
    simp only [List.filter_nil, List.any_nil, hfind]
  unfold State.watch
  rw [this]

end

end Sys2Proof.Machine
end

section
/-! ## How a memory access starts -/

namespace Sys2Proof.Machine

/-! ### The checks pass -/

/-- R168: an operation whose lanes are translated. -/
def Op.translated (o : Op) (e : Nat → TlbEntry) : Op := { o with
  pa := (lanesOf o.mask).foldl (fun m L => m.put L ((e L).pa (o.addr.get L))) o.pa
  cls := (lanesOf o.mask).foldl (fun m L => m.put L (e L).cls.toNat) o.cls }

section
variable {s : State} {i : Nat} {core : Nat}

theorem mem_coreOps {x : Nat × Op} (hx : x ∈ s.coreOps core) : x ∈ s.ops ∧ x.2.live = true ∧ coreOfGroup x.2.grp = core := by
  obtain ⟨hmem, hp⟩ := List.mem_filter.1 hx
  simp only [Bool.and_eq_true, beq_iff_eq] at hp
  exact ⟨hmem, hp⟩

/-- The only instruction outstanding in its core. -/
def State.alone (s : State) (i : Nat) : Prop := ∀ x ∈ s.ops, x.2.live = true → coreOfGroup x.2.grp = coreOfGroup (s.op i).grp → x.1 = i

variable (h : s.alone i)
include h

theorem older_none (p : Nat × Op → Bool) (hp : ∀ x, p x = true → x.2.live = true ∧ x.2.grp = (s.op i).grp ∧ x.1 ≠ i) : s.ops.any p = false :=
  List.any_eq_false.2 fun x hx hpx => by
    obtain ⟨hl, hg, hne⟩ := hp x hpx
    exact hne (h x hx hl (by rw [hg]))

theorem unsettledStore_none : s.unsettledStore i = false := older_none h _ fun x hx => by
  simp only [Bool.and_eq_true, decide_eq_true_eq, beq_iff_eq] at hx
  obtain ⟨⟨⟨⟨hlt, hl⟩, hg⟩, -⟩, -⟩ := hx
  exact ⟨hl, hg, by omega⟩

theorem loadBefore_none : s.loadBefore i = false := older_none h _ fun x hx => by
  simp only [Bool.and_eq_true, decide_eq_true_eq, beq_iff_eq] at hx
  obtain ⟨⟨⟨⟨⟨⟨hlt, hl⟩, hg⟩, -⟩, -⟩, -⟩, -⟩ := hx
  exact ⟨hl, hg, by omega⟩

theorem lineHeld_none (m : Move) : s.lineHeld i m = false := List.any_eq_false.2 fun x hx hp => by
  obtain ⟨hmem, hl, hg⟩ := mem_coreOps hx
  have heq := h x hmem hl hg
  simp only [Bool.and_eq_true, Bool.or_eq_true, decide_eq_true_eq] at hp
  rcases hp.1.1 with hlt | ⟨-, hne⟩
  · omega
  · exact hne heq

theorem storeBefore_none (line : Nat) : s.storeBefore (coreOfGroup (s.op i).grp) i line = false := List.any_eq_false.2 fun x hx hp => by
  obtain ⟨hmem, hl, hg⟩ := mem_coreOps hx
  simp only [Bool.and_eq_true, decide_eq_true_eq] at hp
  exact hp.1.1.1 (h x hmem hl hg)

theorem wcHeld_none : s.wcHeld i = false := by
  unfold State.wcHeld
  dsimp only
  rw [Bool.and_eq_false_iff]
  exact .inr (List.any_eq_false.2 fun l _ hl => by rw [storeBefore_none h l] at hl; cases hl)

end

theorem mem_put {α : Type} [Inhabited α] [DecidableEq α] {m : Store α} {k : Nat} {v : α} {e : Nat × α} (h : e ∈ m.put k v) : e = (k, v) ∨ e ∈ m := by
  unfold Store.put at h
  split at h
  · exact .inr (Store.mem_erase h)
  · exact (Store.mem_place h).imp_right Store.mem_erase

theorem alone_onOp {s : State} {i : Nat} (h : s.alone i) (f : Op → Op) (hf : (f (s.op i)).grp = (s.op i).grp) : (s.onOp i f).alone i := by
  have hgrp : ((s.onOp i f).op i).grp = (s.op i).grp := by
    show ((s.ops.upd i f).get i).grp = _
    rw [Store.get_upd, if_pos rfl]
    exact hf
  intro x hx hl hg
  rcases mem_put hx with rfl | hm
  · rfl
  · exact h x hm hl (hg.trans (congrArg coreOfGroup hgrp))

theorem op_onOp (s : State) (i : Nat) (f : Op → Op) : (s.onOp i f).op i = f (s.op i) := by
  show (s.ops.upd i f).get i = _
  rw [Store.get_upd, if_pos rfl]; rfl

/-- R168: the lanes of an operation that their translations do not allow. -/
def Op.denied (o : Op) (h : Shape) (e : Nat → TlbEntry) : List (Nat × DWord × Cause × Nat) :=
  (lanesOf o.mask).filterMap (fun L => (permit (e L) (accessFor h.move) (classesFor h.move h.bytes)).map (fun f => (L, o.addr.get L, f)))

section
variable {s : State} {i : Nat} {h : Shape} {e : Nat → TlbEntry}
  (hs : shapeOf (s.op i).instr = some h) (hhave : (s.op i).have_ = 0)
  (hcanon : ∀ L ∈ lanesOf (s.op i).mask, canonical57 ((s.op i).addr.get L) = true)
  (hlook : ∀ L ∈ lanesOf (s.op i).mask, s.lookup (coreOfGroup (s.op i).grp) (s.ctxOf (s.op i).grp) ((s.op i).addr.get L) = .hit (e L))
include hs hhave hcanon hlook

/-- R167, R168: with every address canonical and translated, what is left is the permission. -/
theorem startOp_checked :
    s.startOp i = match (s.op i).denied h e with
      | f :: _ => s.faultOp i f.2.2.1 f.2.2.2 (maskOf (fun L => ((s.op i).denied h e).any (fun x => x.1 == L))) f.2.1
      | [] => if s.unsettledStore i || (h.move = .load && s.loadBefore i) || (s.onOp i (fun x => x.translated e)).lineHeld i h.move
            || (s.onOp i (fun x => x.translated e)).wcHeld i then (s.onOp i (fun x => x.translated e)).holdOp i h.move
          else (s.onOp i (fun x => x.translated e)).launchOp i h := by
  have hmask : (s.op i).mask &&& ~~~(s.op i).have_ = (s.op i).mask := by
    rw [hhave]
    exact (congrArg ((s.op i).mask &&& ·) BitVec.not_zero).trans BitVec.and_allOnes
  have hfind : ((lanesOf (s.op i).mask).map (fun L => (L, (s.op i).addr.get L))).find? (fun e => !canonical57 e.2) = none :=
    List.find?_eq_none.2 fun x hx => by
      obtain ⟨L, hL, rfl⟩ := List.mem_map.1 hx
      simp [hcanon L hL]
  have hlooks : ((lanesOf (s.op i).mask).map (fun L => (L, (s.op i).addr.get L))).map
        (fun e => (e.1, e.2, s.lookup (coreOfGroup (s.op i).grp) (s.ctxOf (s.op i).grp) e.2))
      = (lanesOf (s.op i).mask).map (fun L => (L, (s.op i).addr.get L, Look.hit (e L))) := by
    rw [List.map_map]
    exact List.map_congr_left fun L hL => by simp [hlook L hL]
  have hmiss : ((lanesOf (s.op i).mask).map (fun L => (L, (s.op i).addr.get L, Look.hit (e L)))).filter (fun e => decide (e.2.2 = .miss)) = [] :=
    List.filter_eq_nil_iff.2 fun x hx => by
      obtain ⟨L, hL, rfl⟩ := List.mem_map.1 hx
      simp
  unfold State.startOp Op.denied
  dsimp only
  rw [hs]
  dsimp only
  rw [hmask, hfind]
  dsimp only
  rw [hlooks, hmiss, if_neg (by simp)]
  simp only [List.filterMap_map, List.filterMap_filterMap, List.foldl_filterMap]
  rfl

/-- R168, R171: an operation that is allowed, and the only one of its core, acts. -/
theorem startOp_launches (halone : s.alone i) (hpermit : ∀ L ∈ lanesOf (s.op i).mask, permit (e L) (accessFor h.move) (classesFor h.move h.bytes) = none) :
    s.startOp i = (s.onOp i (fun x => x.translated e)).launchOp i h := by
  have hnone : (s.op i).denied h e = [] :=
    List.filterMap_eq_nil_iff.2 fun L hL => by rw [hpermit L hL]; rfl
  have htrans : (s.onOp i (fun x => x.translated e)).alone i := alone_onOp halone _ rfl
  rw [startOp_checked hs hhave hcanon hlook, hnone]
  dsimp only
  rw [unsettledStore_none halone, loadBefore_none halone, lineHeld_none htrans, wcHeld_none htrans]
  simp

/-- R168: where no lane is allowed, all of them fail, the lowest first. -/
theorem startOp_faults {c : Cause} {d : Nat} (hm : (s.op i).mask ≠ 0)
    (hpermit : ∀ L ∈ lanesOf (s.op i).mask, permit (e L) (accessFor h.move) (classesFor h.move h.bytes) = some (c, d)) :
    s.startOp i = s.faultOp i c d (s.op i).mask ((s.op i).addr.get (lowLane (s.op i).mask)) := by
  have hall : (s.op i).denied h e = (lanesOf (s.op i).mask).map (fun L => (L, (s.op i).addr.get L, c, d)) := by
    unfold Op.denied
    rw [← List.filterMap_eq_map]
    exact List.filterMap_congr fun L hL => by rw [hpermit L hL]; rfl
  have hhit : maskOf (fun L => ((s.op i).denied h e).any (fun x => x.1 == L)) = (s.op i).mask :=
    BitVec.eq_of_getLsbD_eq fun L hL => by
      show inMask _ L = inMask _ L
      rw [inMask_maskOf, hall, List.any_map]
      simp only [hL, decide_true, Bool.true_and]
      rw [Bool.eq_iff_iff, List.any_eq_true]
      simp [mem_lanesOf, hL]
  rw [startOp_checked hs hhave hcanon hlook, hhit, hall]
  unfold lowLane
  cases hl : lanesOf (s.op i).mask with
  | nil => exact absurd ((mask_eq_zero_iff _).2 fun L hL => Bool.eq_false_iff.2 fun hin => by
      have := mem_lanesOf.2 ⟨hL, hin⟩
      rw [hl] at this
      cases this) hm
  | cons L ls => rfl

end

/-! ### A state but for open stamps -/

/-- Only the open stamps of groups differ. -/
structure Restamped (s u : State) : Prop where
  rest : { u with groups := s.groups } = s
  group : ∀ g, { u.group g with stamp := (s.group g).stamp } = s.group g

theorem Restamped.refl (s : State) : Restamped s s := ⟨rfl, fun _ => rfl⟩

theorem Restamped.trans {s t u : State} (h : Restamped s t) (k : Restamped t u) : Restamped s u :=
  ⟨(congrArg (fun x : State => { x with groups := s.groups }) k.rest).trans h.rest,
    fun g => (congrArg (fun x : Group => { x with stamp := (s.group g).stamp }) (k.group g)).trans (h.group g)⟩

theorem restamped_doom {s : State} {m : Mask} (h : m &&& s.cur.txOpen = 0) (c : Word) : Restamped s (s.doom m c) := by
  refine ⟨rfl, fun g => ?_⟩
  unfold State.doom State.onCur
  rw [group_onGroup]
  split
  · next hg =>
    rw [hg, show (s.group s.focus.grp).doomLanes m c = s.group s.focus.grp from doomLanes_none s.cur m c h]
  · rfl

theorem restamped_stampStore (s : State) : Restamped s s.stampStore := by
  unfold State.stampStore State.stampEvent
  split
  · exact Restamped.refl s
  · refine ⟨rfl, fun g => ?_⟩
    rw [group_onGroup]
    split
    · next hg => rw [hg]
    · rfl

section
variable {s u : State} (h : Restamped s u)
include h

theorem Restamped.focus : u.focus = s.focus := (congrArg State.focus h.rest :)
theorem Restamped.nextOp : u.nextOp = s.nextOp := (congrArg State.nextOp h.rest :)
theorem Restamped.bare : u.bare = s.bare := funext fun g => (congrArg Group.bare (h.group g) :)

theorem Restamped.cur_v : u.cur.v = s.cur.v := by
  unfold State.cur
  rw [h.focus]
  exact (congrArg Group.v (h.group s.focus.grp) :)

theorem Restamped.cur_s : u.cur.s = s.cur.s := by
  unfold State.cur
  rw [h.focus]
  exact (congrArg Group.s (h.group s.focus.grp) :)

theorem Restamped.vAt (r L : Nat) : u.cur.vAt r L = s.cur.vAt r L := congrArg (fun v : Store Word => v.get (vKey r L)) h.cur_v

theorem Restamped.opHere (i : Instr) (m : Mask) : u.opHere i m = s.opHere i m := by
  unfold State.opHere State.stampFor
  rw [h.focus, show u.token = s.token from (congrArg State.token h.rest :)]

theorem Restamped.vP (a : Reg) (L : Nat) : u.vP a L = s.vP a L := by
  unfold State.vP Group.vPair
  rw [h.vAt, h.vAt]

theorem Restamped.addrM (sp : BitVec 5) (m : Bool) (a : Reg) (L : Nat) : u.addrM sp m a L = s.addrM sp m a L := by
  unfold State.addrM State.vR Group.sPair Group.sAt
  rw [h.vP, h.vAt, h.cur_s]

end

/-! ### An access becomes outstanding and starts -/

/-- The state in which an access acts: it is outstanding with its operands, its lanes are translated, and nothing else
has changed. -/
structure Ready (s w : State) (i : Instr) (la : BitVec 4) (h : Shape) (addr : Nat → DWord) (e : Nat → TlbEntry) : Prop where
  rest : { w with groups := s.groups, ops := s.ops, nextOp := s.nextOp } = s
  nextOp : w.nextOp = s.nextOp + 1
  bare : w.bare = s.bare
  out : ∀ x ∈ (w.group s.focus.grp).splits, x.uid = s.focus.uid → ⟨s.nextOp, la.toNat + 1⟩ ∈ x.out
  op : { w.op s.nextOp with addr := [], pa := [], cls := [], data := [] } = { s.opHere i s.focus.mask with live := true }
  lane : ∀ L, L < 32 → s.inPass L = true → (w.op s.nextOp).addr.get L = addr L
    ∧ (w.op s.nextOp).pa.get L = (e L).pa (addr L) ∧ (w.op s.nextOp).cls.get L = (e L).cls.toNat
  data : h.move ≠ .load → h.regs ≤ 4 → ∀ L k, L < 32 → k < h.regs → s.inPass L = true →
    (w.op s.nextOp).data.get (4 * L + k) = s.cur.vAt ((BitVec.ofNat 6 h.d).toNat + k) L

theorem get_laneStore (m : Mask) (f : Nat → DWord) {L : Nat} (hL : L < 32) : (laneStore m f).get L = if inMask m L = true then f L else default :=
  get_putMask m f [] hL

theorem get_takeData (s : State) (m : Mask) (d : Reg) {n : Nat} (hn : n ≤ 4) {L k : Nat} (hL : L < 32) (hk : k < n) (hm : inMask m L = true) :
    (s.takeData m d n).get (4 * L + k) = s.cur.vAt (d.toNat + k) L := by
  have hlane (K : Nat) (acc : Store Word) : ((List.range n).foldl (fun (a : Store Word) k => a.put (4 * K + k) (s.cur.vAt (d.toNat + k) K)) acc).get (4 * L + k)
      = if L = K then s.cur.vAt (d.toNat + k) L else acc.get (4 * L + k) := by
    have hput := get_putList ((List.range n).map (fun k => 4 * K + k)) (fun key => s.cur.vAt (d.toNat + (key - 4 * K)) K) (4 * L + k) acc
    rw [List.foldl_map] at hput
    simp only [Nat.add_sub_cancel_left] at hput
    refine hput.trans ?_
    by_cases hKL : L = K
    · subst hKL
      rw [if_pos (List.mem_map.2 ⟨k, List.mem_range.2 hk, rfl⟩), if_pos rfl, Nat.add_sub_cancel_left]
    · rw [if_neg hKL, if_neg]
      simp only [List.mem_map, List.mem_range, not_exists, not_and]
      omega
  have hfold (ls : List Nat) : ∀ acc : Store Word, (ls.foldl (fun acc L => (List.range n).foldl (fun (a : Store Word) k => a.put (4 * L + k) (s.cur.vAt (d.toNat + k) L)) acc) acc).get (4 * L + k)
      = if L ∈ ls then s.cur.vAt (d.toNat + k) L else acc.get (4 * L + k) := by
    induction ls with
    | nil => simp
    | cons K ls ih =>
      intro acc
      rw [List.foldl_cons, ih, hlane]
      by_cases hKL : L = K <;> by_cases hls : L ∈ ls <;> simp [hKL, hls]
  exact (hfold _ []).trans (if_pos (mem_lanesOf.2 ⟨hL, hm⟩))

section
variable {s u : State} {i : Instr} (la : BitVec 4) {h : Shape} (hu : Restamped s u) (hs : shapeOf i = some h)
  {n : Nat} {rd wr : Bool} {cls : BitVec 2 → Bool} {addr : Nat → DWord} {e : Nat → TlbEntry} (hr : Reaches s n rd wr cls addr e)

/-- The state in which an access is outstanding and not yet translated. -/
def State.outstanding (u : State) (i : Instr) (la : BitVec 4) (h : Shape) (m : Mask) (addr : Nat → DWord) : State :=
  (u.newOp { u.opHere i m with
    addr := laneStore m addr
    data := if h.move = .load then [] else u.takeData m (BitVec.ofNat 6 h.d) h.regs } la.toNat).1

include hu in
theorem op_outstanding : (u.outstanding i la h s.focus.mask addr).op s.nextOp = { s.opHere i s.focus.mask with
    live := true
    addr := laneStore s.focus.mask addr
    data := if h.move = .load then [] else u.takeData s.focus.mask (BitVec.ofNat 6 h.d) h.regs } := by
  unfold State.outstanding
  rw [← hu.nextOp, (newOp_op _ _ _).1, hu.opHere]

include hu in
theorem rest_outstanding : { u.outstanding i la h s.focus.mask addr with groups := s.groups, ops := s.ops, nextOp := s.nextOp } = s := by
  have := hu.rest
  rw [← hu.nextOp]
  exact (congrArg (fun x : State => { x with ops := s.ops, nextOp := u.nextOp }) hu.rest :).trans (by rw [hu.nextOp])

include hu in
theorem begin_eq : u.begin i la h s.focus.mask addr = (u.outstanding i la h s.focus.mask addr).startOp s.nextOp := by
  rw [← hu.nextOp]; rfl

include hu hs in
theorem shape_outstanding : shapeOf ((u.outstanding i la h s.focus.mask addr).op s.nextOp).instr = some h := by
  rw [op_outstanding la hu]
  exact hs

include hu in
theorem addr_outstanding {L : Nat} (hL : L ∈ lanesOf s.focus.mask) :
    ((u.outstanding i la h s.focus.mask addr).op s.nextOp).addr.get L = addr L := by
  rw [op_outstanding la hu]
  exact (get_laneStore _ _ (mem_lanesOf.1 hL).1).trans (if_pos (mem_lanesOf.1 hL).2)

include hu in
theorem lanes_outstanding {L : Nat} (hL : L ∈ lanesOf ((u.outstanding i la h s.focus.mask addr).op s.nextOp).mask) : L ∈ lanesOf s.focus.mask := by
  rw [op_outstanding la hu] at hL
  exact hL

include hu in
theorem block_outstanding (g : Nat) : ((u.outstanding i la h s.focus.mask addr).group g).block = (s.group g).block := by
  refine (congrArg Group.block (congrFun (bare_newOp u _ _) g) :).trans ?_
  exact (congrArg Group.block (congrFun hu.bare g) :)

include hu in
theorem ctxOf_outstanding (g : Nat) : (u.outstanding i la h s.focus.mask addr).ctxOf g = s.ctxOf g := by
  unfold State.ctxOf State.blockOf
  rw [block_outstanding la hu]
  exact congrArg (fun b : Store Block => (b.get (s.group g).block).ctx) (congrArg State.blocks (rest_outstanding (i := i) (h := h) (addr := addr) la hu) :)

include hu hr in
theorem lookup_outstanding {L : Nat} (hL : L ∈ lanesOf s.focus.mask) :
    (u.outstanding i la h s.focus.mask addr).lookup (coreOfGroup ((u.outstanding i la h s.focus.mask addr).op s.nextOp).grp)
      ((u.outstanding i la h s.focus.mask addr).ctxOf ((u.outstanding i la h s.focus.mask addr).op s.nextOp).grp)
      (((u.outstanding i la h s.focus.mask addr).op s.nextOp).addr.get L) = .hit (e L) := by
  obtain ⟨-, -, -, -, -, hlane⟩ := hr
  obtain ⟨hlt, hin⟩ := mem_lanesOf.1 hL
  have hgrp : ((u.outstanding i la h s.focus.mask addr).op s.nextOp).grp = s.focus.grp := by rw [op_outstanding la hu]; rfl
  rw [addr_outstanding la hu hL, hgrp, ctxOf_outstanding la hu]
  refine (congrArg (fun x : State => x.lookup s.curCore (s.ctxOf s.focus.grp) (addr L)) (rest_outstanding (i := i) (h := h) (addr := addr) la hu) :).trans ?_
  exact (hlane L hlt hin).2.2.1

include hu hr in
theorem canon_outstanding {L : Nat} (hL : L ∈ lanesOf s.focus.mask) :
    canonical57 (((u.outstanding i la h s.focus.mask addr).op s.nextOp).addr.get L) = true := by
  obtain ⟨-, -, -, -, -, hlane⟩ := hr
  rw [addr_outstanding la hu hL]
  exact (hlane L (mem_lanesOf.1 hL).1 (mem_lanesOf.1 hL).2).1

include hu hr in
theorem alone_outstanding : (u.outstanding i la h s.focus.mask addr).alone s.nextOp := by
  obtain ⟨-, -, hfree, -, -, -⟩ := hr
  intro x hx hl hg
  rw [op_outstanding la hu] at hg
  have hput : x ∈ u.ops.put u.nextOp { u.opHere i s.focus.mask with
      live := true
      addr := laneStore s.focus.mask addr
      data := if h.move = .load then [] else u.takeData s.focus.mask (BitVec.ofNat 6 h.d) h.regs } := hx
  rcases mem_put hput with rfl | hm
  · exact hu.nextOp
  · rw [show u.ops = s.ops from (congrArg State.ops hu.rest :)] at hm
    exact absurd hg (hfree x hm hl)

include hu in
theorem out_outstanding {x : Split} (hx : x ∈ ((u.outstanding i la h s.focus.mask addr).group s.focus.grp).splits)
    (hux : x.uid = s.focus.uid) : ⟨s.nextOp, la.toNat + 1⟩ ∈ x.out := by
  have hg : (u.outstanding i la h s.focus.mask addr).group s.focus.grp = (u.group s.focus.grp).onSplit s.focus.uid
      (fun x => { x with out := x.out ++ [⟨s.nextOp, la.toNat + 1⟩] }) := by
    unfold State.outstanding State.newOp State.onSplit
    rw [hu.opHere, hu.nextOp, group_onGroup]
    exact if_pos rfl
  rw [hg, splits_onSplit (u.group s.focus.grp) s.focus.uid (fun x => { x with out := x.out ++ [⟨s.nextOp, la.toNat + 1⟩] }) (fun _ => rfl)] at hx
  obtain ⟨y, -, rfl⟩ := List.mem_map.1 hx
  by_cases hy : y.uid = s.focus.uid
  · rw [if_pos hy]
    exact List.mem_append_right _ (List.mem_singleton.2 rfl)
  · rw [if_neg hy] at hux
    exact absurd hux hy

include hu hr hs

/-- R98, R101, R167, R168: an access that is allowed in every lane is outstanding and acts. -/
theorem begin_ready (hpermit : ∀ t : TlbEntry, cls t.cls = true → (rd = true → t.r = true) → (wr = true → t.w = true ∧ t.cow = false) →
      permit t (accessFor h.move) (classesFor h.move h.bytes) = none) :
    ∃ w, u.begin i la h s.focus.mask addr = w.launchOp s.nextOp h ∧ Ready s w i la h addr e := by
  refine ⟨(u.outstanding i la h s.focus.mask addr).onOp s.nextOp (fun x => x.translated e), ?_, ?_⟩
  · refine (begin_eq la hu).trans (startOp_launches (shape_outstanding la hu hs) (by rw [op_outstanding la hu]; rfl)
      (fun L hL => canon_outstanding la hu hr (lanes_outstanding la hu hL)) (fun L hL => lookup_outstanding la hu hr (lanes_outstanding la hu hL))
      (alone_outstanding la hu hr) fun L hL => ?_)
    obtain ⟨-, -, -, -, -, hlane⟩ := hr
    obtain ⟨hlt, hin⟩ := mem_lanesOf.1 (lanes_outstanding la hu hL)
    obtain ⟨-, -, -, hc, hrd, hwr⟩ := hlane L hlt hin
    exact hpermit (e L) hc hrd hwr
  · have hop := op_outstanding (s := s) (u := u) (i := i) la hu (h := h) (addr := addr)
    refine ⟨?_, ?_, (bare_newOp u _ _).trans hu.bare, fun x hx hux => out_outstanding la hu hx hux, ?_, fun L hL hin => ?_, fun hm hregs L k hL hk hin => ?_⟩
    · exact (congrArg (fun x : State => { x with ops := s.ops }) (rest_outstanding (i := i) (h := h) (addr := addr) la hu) :)
    · show u.nextOp + 1 = _
      rw [hu.nextOp]
    · rw [op_onOp, hop]; rfl
    · have hmem := mem_lanesOf.2 ⟨hL, hin⟩
      have haddr (K : Nat) (hK : K ∈ lanesOf s.focus.mask) := addr_outstanding (s := s) (u := u) (i := i) la (h := h) (addr := addr) hu hK
      rw [op_onOp]
      refine ⟨haddr L hmem, ?_, ?_⟩
      · refine (get_putMask _ _ _ hL).trans ?_
        rw [haddr L hmem]
        exact if_pos (by rw [hop]; exact hin)
      · refine (get_putMask _ _ _ hL).trans (if_pos (by rw [hop]; exact hin))
    · rw [op_onOp]
      show ((u.outstanding i la h s.focus.mask addr).op s.nextOp).data.get (4 * L + k) = _
      rw [hop]
      dsimp only
      rw [if_neg hm, get_takeData u _ _ hregs hL hk hin]
      exact hu.vAt _ _

/-- R168: an access that is allowed in no lane faults, and stays logged. -/
theorem begin_faults {c : Cause} {d : Nat} (hpermit : ∀ t : TlbEntry, cls t.cls = true → (rd = true → t.r = true) → (wr = true → t.w = true ∧ t.cow = false) →
      permit t (accessFor h.move) (classesFor h.move h.bytes) = some (c, d)) :
    u.begin i la h s.focus.mask addr
      = (u.outstanding i la h s.focus.mask addr).faultOp s.nextOp c d s.focus.mask (addr (lowLane s.focus.mask)) := by
  have hmask : ((u.outstanding i la h s.focus.mask addr).op s.nextOp).mask = s.focus.mask := by rw [op_outstanding la hu]; rfl
  have hlow : lowLane s.focus.mask ∈ lanesOf s.focus.mask := by
    unfold lowLane
    cases hl : lanesOf s.focus.mask with
    | nil => exact absurd ((mask_eq_zero_iff _).2 fun L hL => Bool.eq_false_iff.2 fun hin => by
        have := mem_lanesOf.2 ⟨hL, hin⟩
        rw [hl] at this
        cases this) hr.1
    | cons L ls => exact List.mem_cons_self
  refine (begin_eq la hu).trans ((startOp_faults (c := c) (d := d) (shape_outstanding la hu hs) (by rw [op_outstanding la hu]; rfl)
    (fun L hL => canon_outstanding la hu hr (lanes_outstanding la hu hL)) (fun L hL => lookup_outstanding la hu hr (lanes_outstanding la hu hL))
    (by rw [hmask]; exact hr.1) fun L hL => ?_).trans ?_)
  · obtain ⟨-, -, -, -, -, hlane⟩ := hr
    obtain ⟨hlt, hin⟩ := mem_lanesOf.1 (lanes_outstanding la hu hL)
    obtain ⟨-, -, -, hc, hrd, hwr⟩ := hlane L hlt hin
    exact hpermit (e L) hc hrd hwr
  · rw [hmask, addr_outstanding la hu hlow]

end

end Sys2Proof.Machine
end

section
/-! ## Loads at issue (R171, R172, R229–R231) -/

namespace Sys2Proof.Machine

/-! ### Runs over lanes -/

/-- A property of the lanes done so far holds after all of them. -/
theorem foldl_upto {σ : Type} {f : σ → Nat → σ} {ls : List Nat} (inv : List Nat → σ → Prop)
    (step : ∀ done L st, L ∈ ls → inv done st → inv (done ++ [L]) (f st L)) {st : σ} (h0 : inv [] st) : inv ls (ls.foldl f st) := by
  have hrun (rest : List Nat) : (∀ L ∈ rest, L ∈ ls) → ∀ done st, inv done st → inv (done ++ rest) (rest.foldl f st) := by
    induction rest with
    | nil => intro _ done st h; rw [List.append_nil]; exact h
    | cons L rest ih =>
      intro hmem done st h
      rw [List.foldl_cons, List.append_cons]
      exact ih (fun K hK => hmem K (List.mem_cons_of_mem _ hK)) _ _ (step done L st (hmem L List.mem_cons_self) h)
  exact hrun ls (fun _ h => h) [] st h0

/-- The same where no lane is met twice. -/
theorem foldl_upto_nodup {σ : Type} {f : σ → Nat → σ} {ls : List Nat} (hnd : ls.Nodup) (inv : List Nat → σ → Prop)
    (step : ∀ done L st, L ∈ ls → L ∉ done → inv done st → inv (done ++ [L]) (f st L)) {st : σ} (h0 : inv [] st) : inv ls (ls.foldl f st) := by
  have hrun (rest : List Nat) : ∀ done st, done ++ rest = ls → inv done st → inv (done ++ rest) (rest.foldl f st) := by
    induction rest with
    | nil => intro done st _ h; rw [List.append_nil]; exact h
    | cons L rest ih =>
      intro done st hls h
      have hnew : L ∉ done := fun hd => (List.nodup_append.1 (hls ▸ hnd)).2.2 L hd L List.mem_cons_self rfl
      rw [List.foldl_cons, List.append_cons]
      exact ih _ _ (by rw [← hls, List.append_assoc]; rfl) (step done L st (hls ▸ List.mem_append_right _ List.mem_cons_self) hnew h)
  exact hrun ls [] st rfl h0

/-! ### What starts an access -/

/-- An acquiring load holds back the accesses of its split. -/
def State.acquires (t : State) (i : Instr) (g u n : Nat) : State :=
  if isLda i then t.onSplit g u (fun x => { x with acquiring := x.acquiring ++ [n] }) else t

/-- In a pass with no open transaction and with aligned addresses, an instruction starts an access. -/
def StartsAccess (i : Instr) (la : BitVec 4) (h : Shape) (addr : State → Nat → DWord) : Prop :=
  ∀ s : State, s.focus.mask ≠ 0 → s.focus.mask &&& s.cur.txOpen = 0 → (∀ L, L < 32 → s.inPass L = true → (addr s L).toNat % h.bytes = 0) →
    ∃ u, Restamped s u ∧ exec i s = .next ((u.begin i la h s.focus.mask (addr s)).acquires i s.focus.grp s.focus.uid s.nextOp)

theorem alignCheck_aligned {t : State} {n : Nat} {m : Mask} {f : Nat → DWord} (h : ∀ L ∈ lanesOf m, (f L).toNat % n = 0) (k : Out) :
    alignCheck t n ((lanesOf m).map (fun L => (L, f L))) k = k := by
  have : misaligned n ((lanesOf m).map (fun L => (L, f L))) = [] := List.filter_eq_nil_iff.2 fun x hx => by
    obtain ⟨L, hL, rfl⟩ := List.mem_map.1 hx
    simp [h L hL]
  unfold alignCheck
  rw [this]

section
variable {i : Instr} {la : BitVec 4} {h : Shape} {addr : State → Nat → DWord} (hs : shapeOf i = some h)
include hs

theorem plainAccess_eq {s : State} (hm : s.focus.mask ≠ 0) (htx : s.focus.mask &&& s.cur.txOpen = 0)
    (hal : ∀ L, L < 32 → s.inPass L = true → (addr s L).toNat % h.bytes = 0) :
    plainAccess i la addr s = .next ((if h.move = .store then s.stampStore else s).begin i la h s.focus.mask (addr s)) := by
  have hmask : s.focus.mask &&& ~~~s.cur.txOpen = s.focus.mask := by
    ext k hk
    have := congrArg (fun x => x.getLsbD k) htx
    simp [hk] at this ⊢
    exact this
  have herr : s.txErrors h [] = [] := by
    unfold State.txErrors
    split <;> rfl
  have hloads : s.txLoads i la h 0 (addr s) = s := if_pos rfl
  unfold plainAccess
  rw [hs]
  simp only
  rw [if_neg hm, hmask, htx, alignCheck_aligned (fun L hL => hal L (mem_lanesOf.1 hL).1 (mem_lanesOf.1 hL).2),
    if_neg (fun h => h.1 rfl), if_pos rfl, show lanesOf (0 : Mask) = [] from lanesOf_zero]
  rw [List.map_nil, herr]
  have hstores (v : Nat → Nat) : s.txStores h 0 (addr s) v = s := by
    unfold State.txStores
    rw [show lanesOf (0 : Mask) = [] from lanesOf_zero]; rfl
  simp only [hm, if_false, hloads, hstores, ite_self]

theorem startsAccess_plain (hexec : ∀ s, exec i s = plainAccess i la addr s) (hlda : isLda i = false) : StartsAccess i la h addr :=
  fun s hm htx hal => by
    refine ⟨if h.move = .store then s.stampStore else s, ?_, ?_⟩
    · split
      · exact restamped_stampStore s
      · exact Restamped.refl s
    · unfold State.acquires
      rw [hexec, plainAccess_eq hs hm htx hal, hlda]; rfl

theorem startsAccess_strong (hexec : ∀ s, exec i s = strongAccess i la addr s) (haddr : ∀ s u, Restamped s u → addr u = addr s) : StartsAccess i la h addr :=
  fun s hm htx hal => by
    have hd : Restamped s (s.doom s.focus.mask 5) := restamped_doom htx 5
    refine ⟨if isStl i then (s.doom s.focus.mask 5).stampStore else s.doom s.focus.mask 5, ?_, ?_⟩
    · split
      · exact hd.trans (restamped_stampStore _)
      · exact hd
    · have hal' : ∀ L ∈ lanesOf s.focus.mask, (addr s L).toNat % h.bytes = 0 := fun L hL => hal L (mem_lanesOf.1 hL).1 (mem_lanesOf.1 hL).2
      rw [hexec]
      unfold strongAccess
      rw [hs]
      dsimp only
      rw [plainLanes_eq _ _ _ hm htx, haddr _ _ hd, alignCheck_aligned hal']
      rfl

end

theorem addrM_restamped (sp : BitVec 5) (m : Bool) (a : Reg) (s u : State) (h : Restamped s u) :
    (fun L => u.addrM sp m a L) = fun L => s.addrM sp m a L := funext (h.addrM sp m a)

theorem vP_restamped (a : Reg) (s u : State) (h : Restamped s u) : u.vP a = s.vP a := funext (h.vP a)

/-! ### One lane of a load -/

/-- A lane asks for its line. -/
def State.ask (s : State) (i L t : Nat) : State := s.onOp i (fun x => { x with asked := x.asked.put L t })

/-- The lanes that a load has looked up for so far have changed nothing but lines, its own data and its split. -/
structure LoadFrame (w st : State) (i core : Nat) : Prop where
  quiet : Quiet w st
  wc : (st.cores.get core).wc.held = false
  op : { st.op i with have_ := (w.op i).have_, got := (w.op i).got, asked := (w.op i).asked } = w.op i

section
variable {w st t : State} {i core : Nat} (hf : LoadFrame w st i core)
include hf

theorem LoadFrame.lined {line : Nat} {l : L1Line} (h : Lined st core line l t) : LoadFrame w t i core := by
  refine ⟨hf.quiet.trans h.quiet, by rw [h.wc]; exact hf.wc, ?_⟩
  rw [show t.op i = st.op i from congrArg (fun m : Store Op => m.get i) h.ops]
  exact hf.op

theorem LoadFrame.post (e : Instr) : LoadFrame w (st.post e) i core := ⟨hf.quiet.trans (quiet_post st e), hf.wc, hf.op⟩

theorem LoadFrame.onOp (f : Op → Op) (h : ∀ x : Op, { f x with have_ := x.have_, got := x.got, asked := x.asked } = x) : LoadFrame w (st.onOp i f) i core := by
  refine ⟨hf.quiet.trans (quiet_onOp st i f), hf.wc, ?_⟩
  rw [op_onOp]
  exact (congrArg (fun x : Op => { x with have_ := (w.op i).have_, got := (w.op i).got, asked := (w.op i).asked }) (h (st.op i)) :).trans hf.op

theorem LoadFrame.ask (L n : Nat) : LoadFrame w (st.ask i L n) i core := hf.onOp _ (fun _ => rfl)

theorem LoadFrame.take (n L g u b : Nat) (byte : Nat → Byte) : LoadFrame w (noteSettle (st.onOp i (fun o => takeLane o n L byte)) g u b) i core := by
  have := hf.onOp (fun o => takeLane o n L byte) (fun _ => rfl)
  exact ⟨this.quiet.trans (quiet_noteSettle _ g u b), this.wc, this.op⟩

theorem LoadFrame.grp : (st.op i).grp = (w.op i).grp := (congrArg Op.grp hf.op :)
theorem LoadFrame.uid : (st.op i).uid = (w.op i).uid := (congrArg Op.uid hf.op :)
theorem LoadFrame.pa (L : Nat) : (st.op i).pa.get L = (w.op i).pa.get L := congrArg (fun m : Store Nat => m.get L) (congrArg Op.pa hf.op :)
theorem LoadFrame.cls (L : Nat) : (st.op i).cls.get L = (w.op i).cls.get L := congrArg (fun m : Store Nat => m.get L) (congrArg Op.cls hf.op :)

end

theorem op_take (s : State) (i n L g u b : Nat) (byte : Nat → Byte) :
    (noteSettle (s.onOp i (fun o => takeLane o n L byte)) g u b).op i = takeLane (s.op i) n L byte :=
  op_onOp s i (fun o => takeLane o n L byte)

section
variable {s : State} {i n L core : Nat} (hcore : core = coreOfGroup (s.op i).grp) (hwc : (s.cores.get core).wc.held = false)
include hcore hwc

/-- R231: a register page is not read at issue. -/
theorem loadLane_register (hc : (s.op i).cls.get L = 3) : s.loadLane i n L = s := by
  subst hcore
  unfold State.loadLane
  exact (if_pos hc).trans (flushWcFor_empty _ hwc)

/-- R229, R230: a lane of a class 0 page takes its data from the core's own line. -/
theorem loadLane_private (hc : (s.op i).cls.get L = 0) : ∃ t₁ t₂ q settle,
    Lined s core (lineOf ((s.op i).pa.get L)) (s.privateLine core (lineOf ((s.op i).pa.get L)) (s.ctxOf (s.op i).grp)) t₁
    ∧ Lined t₁ core (lineOf ((s.op i).pa.get L)) { t₁.lineAt core (lineOf ((s.op i).pa.get L)) with pol := q } t₂
    ∧ s.loadLane i n L = noteSettle (t₂.onOp i (fun o => takeLane o n L (fun k =>
        (t₂.lineAt core (lineOf ((s.op i).pa.get L))).bytes.get ((s.op i).pa.get L % 64 + k)))) (s.op i).grp (s.op i).uid settle := by
  subst hcore
  obtain ⟨q, hq⟩ := lined_polL1 (s.fillPrivate (coreOfGroup (s.op i).grp) (s.ctxOf (s.op i).grp) (lineOf ((s.op i).pa.get L)))
    (coreOfGroup (s.op i).grp) (lineOf ((s.op i).pa.get L))
    (decide (((s.cores.get (coreOfGroup (s.op i).grp)).l1.get (lineOf ((s.op i).pa.get L))).st ≠ .invalid)) (polField (s.op i).instr)
  refine ⟨_, _, q, 0, lined_fillPrivate _ _ _ _, hq, ?_⟩
  unfold State.loadLane
  refine (if_neg (by omega)).trans ((if_pos hc).trans ?_)
  rw [flushWcFor_empty _ hwc]; rfl

/-- R234: a lane whose line the core holds takes its data from it. -/
theorem loadLane_hit (h3 : (s.op i).cls.get L ≠ 3) (h0 : (s.op i).cls.get L ≠ 0)
    (hv : s.l1Valid (s.lineAt core (lineOf ((s.op i).pa.get L))) = true) : ∃ t q settle,
    Lined s core (lineOf ((s.op i).pa.get L)) { s.lineAt core (lineOf ((s.op i).pa.get L)) with pol := q } t
    ∧ s.loadLane i n L = noteSettle (t.onOp i (fun o => takeLane o n L (fun k =>
        (s.lineAt core (lineOf ((s.op i).pa.get L))).bytes.get ((s.op i).pa.get L % 64 + k)))) (s.op i).grp (s.op i).uid settle := by
  subst hcore
  obtain ⟨q, hq⟩ := lined_polL1 s (coreOfGroup (s.op i).grp) (lineOf ((s.op i).pa.get L))
    (decide (((s.cores.get (coreOfGroup (s.op i).grp)).l1.get (lineOf ((s.op i).pa.get L))).st ≠ .invalid)) (polField (s.op i).instr)
  refine ⟨_, q, (s.lineAt (coreOfGroup (s.op i).grp) (lineOf ((s.op i).pa.get L))).settle, hq, ?_⟩
  unfold State.loadLane
  refine (if_neg h3).trans ((if_neg h0).trans ?_)
  rw [flushWcFor_empty _ hwc]
  exact if_pos hv

end

/-- Of the instruction only what it has asked for, and of the core's lines only priorities have changed. -/
structure SameData (s t : State) (i core : Nat) : Prop where
  op : { t.op i with asked := (s.op i).asked } = s.op i
  lines : ∀ n, ∃ q, t.lineAt core n = { s.lineAt core n with pol := q }
  pending : ∀ e ∈ s.pending, e ∈ t.pending

theorem SameData.trans {s t u : State} {i core : Nat} (h : SameData s t i core) (k : SameData t u i core) : SameData s u i core := by
  refine ⟨(congrArg (fun x : Op => { x with asked := (s.op i).asked }) k.op :).trans h.op, fun n => ?_, fun e he => k.pending e (h.pending e he)⟩
  obtain ⟨q, hq⟩ := k.lines n
  obtain ⟨r, hr⟩ := h.lines n
  exact ⟨q, by rw [hq, hr]⟩

section
variable (s : State) (i core : Nat)

theorem sameData_ask (L t : Nat) : SameData s (s.ask i L t) i core := by
  refine ⟨?_, fun n => ⟨_, rfl⟩, fun _ h => h⟩
  rw [State.ask, op_onOp]

theorem sameData_post (e : Instr) : SameData s (s.post e) i core :=
  ⟨rfl, fun _ => ⟨_, rfl⟩, fun _ h => List.mem_append_left _ h⟩

theorem sameData_polL1 (line : Nat) (was : Bool) (p : BitVec 2) : SameData s (s.polL1 core line was p) i core := by
  obtain ⟨q, hq⟩ := lined_polL1 s core line was p
  have hop : (s.polL1 core line was p).op i = s.op i := congrArg (fun m : Store Op => m.get i) hq.ops
  refine ⟨by rw [hop], fun n => ?_, fun e he => by rw [hq.pending_eq]; exact he⟩
  rw [hq.lineAt]
  split
  · next hn => subst hn; exact ⟨q, rfl⟩
  · exact ⟨_, rfl⟩

end

theorem loadFrame_polL1 {w s : State} {i core : Nat} (hf : LoadFrame w s i core) (line : Nat) (was : Bool) (p : BitVec 2) :
    LoadFrame w (s.polL1 core line was p) i core := by
  obtain ⟨q, hq⟩ := lined_polL1 s core line was p
  exact hf.lined hq

/-- A lane whose line the core does not hold asks for it, or lets a collection of the core's own updates come first. -/
structure LaneAsks (w s t : State) (i core line : Nat) : Prop where
  frame : LoadFrame w t i core
  have_ : (t.op i).have_ = (s.op i).have_
  got : (t.op i).got = (s.op i).got
  lines : ∀ n, (∃ q, t.lineAt core n = { s.lineAt core n with pol := q })
    ∨ n = line ∧ ∃ x, (t.lineAt core n).st = .filling x ∧ .fillGrant core line ∈ t.pending
  asked : .fillGrant core line ∈ t.pending ∨ ∃ x, (s.lineAt core line).st = .filling x
  pending : ∀ e ∈ s.pending, e ∈ t.pending

theorem laneAsks_of_sameData {w s t : State} {i core line : Nat} (hf : LoadFrame w t i core) (h : SameData s t i core)
    (hasked : .fillGrant core line ∈ t.pending ∨ ∃ x, (s.lineAt core line).st = .filling x) : LaneAsks w s t i core line :=
  ⟨hf, (congrArg Op.have_ h.op :), (congrArg Op.got h.op :), fun n => .inl (h.lines n), hasked, h.pending⟩

section
variable {s : State} {i n L core : Nat}

/-- R234, R235: a miss joins the fill of the line, waits for a collection of the core's own updates, or starts a fill. -/
theorem loadLane_misses (hcore : core = coreOfGroup (s.op i).grp) (hwc : (s.cores.get core).wc.held = false)
    (h3 : (s.op i).cls.get L ≠ 3) (h0 : (s.op i).cls.get L ≠ 0) (hv : s.l1Valid (s.lineAt core (lineOf ((s.op i).pa.get L))) = false) :
    ∃ was, let line := lineOf ((s.op i).pa.get L)
      let kept (st : State) : State := st.polL1 core line was (polField (s.op i).instr)
      ((∃ x, (s.lineAt core line).st = .filling x) ∧ s.loadLane i n L = (kept s).ask i L s.now)
      ∨ s.loadLane i n L = ((kept s).ask i L s.now).post (.fillGrant core line)
      ∨ s.loadLane i n L = (kept ((s.ask i L s.now).putLine core line { st := .filling s.now, ctx := s.ctxOf (s.op i).grp })).post (.fillGrant core line) := by
  subst hcore
  refine ⟨decide (((s.cores.get (coreOfGroup (s.op i).grp)).l1.get (lineOf ((s.op i).pa.get L))).st ≠ .invalid), ?_⟩
  have hgo : s.loadLane i n L = _ := (if_neg h3).trans ((if_neg h0).trans (by rw [flushWcFor_empty _ hwc]))
  replace hgo := hgo.trans (if_neg (by rw [Bool.eq_false_iff] at hv; exact hv))
  cases hst : (s.lineAt (coreOfGroup (s.op i).grp) (lineOf ((s.op i).pa.get L))).st with
  | filling x => exact .inl ⟨⟨x, hst⟩, hgo.trans (by unfold State.lineAt at hst; rw [hst]; rfl)⟩
  | updateOnly x y => exact .inr (.inl (hgo.trans (by unfold State.lineAt at hst; rw [hst]; rfl)))
  | invalid => exact .inr (.inr (hgo.trans (by unfold State.lineAt at hst; rw [hst]; rfl)))
  | leased x => exact .inr (.inr (hgo.trans (by unfold State.lineAt at hst; rw [hst]; rfl)))
  | priv =>
    unfold State.l1Valid at hv
    rw [hst] at hv
    cases hv

theorem loadLane_miss {w : State} (hf : LoadFrame w s i core) (hcore : core = coreOfGroup (s.op i).grp) (h3 : (s.op i).cls.get L ≠ 3) (h0 : (s.op i).cls.get L ≠ 0)
    (hv : s.l1Valid (s.lineAt core (lineOf ((s.op i).pa.get L))) = false) :
    LaneAsks w s (s.loadLane i n L) i core (lineOf ((s.op i).pa.get L)) := by
  obtain ⟨was, hgo⟩ := loadLane_misses (n := n) hcore hf.wc h3 h0 hv
  have hkept : LoadFrame w ((s.polL1 core (lineOf ((s.op i).pa.get L)) was (polField (s.op i).instr)).ask i L s.now) i core :=
    (loadFrame_polL1 hf _ _ _).ask L s.now
  have hsame : SameData s ((s.polL1 core (lineOf ((s.op i).pa.get L)) was (polField (s.op i).instr)).ask i L s.now) i core :=
    (sameData_polL1 s i core _ _ _).trans (sameData_ask _ i core L s.now)
  rcases hgo with ⟨hfill, hgo⟩ | hgo | hgo <;> rw [hgo]
  · exact laneAsks_of_sameData hkept hsame (.inr hfill)
  · exact laneAsks_of_sameData (hkept.post _) (hsame.trans (sameData_post _ i core _)) (.inl (List.mem_append_right _ (List.mem_singleton.2 rfl)))
  · have hfill := lineAt_putLine (s.ask i L s.now) core (lineOf ((s.op i).pa.get L)) { st := .filling s.now, ctx := s.ctxOf (s.op i).grp }
    have hpol := sameData_polL1 ((s.ask i L s.now).putLine core (lineOf ((s.op i).pa.get L)) { st := .filling s.now, ctx := s.ctxOf (s.op i).grp })
      i core (lineOf ((s.op i).pa.get L)) was (polField (s.op i).instr)
    have hask := sameData_ask s i core L s.now
    refine ⟨(loadFrame_polL1 ((hf.ask L s.now).lined (.inl rfl)) _ _ _).post _, (congrArg Op.have_ hpol.op :).trans (congrArg Op.have_ hask.op :),
      (congrArg Op.got hpol.op :).trans (congrArg Op.got hask.op :), fun k => ?_, .inl (List.mem_append_right _ (List.mem_singleton.2 rfl)),
      fun e he => List.mem_append_left _ (hpol.pending e he)⟩
    obtain ⟨q, hq⟩ := hpol.lines k
    rw [hfill] at hq
    split at hq
    · next hk => exact .inr ⟨hk, s.now, congrArg L1Line.st hq, List.mem_append_right _ (List.mem_singleton.2 rfl)⟩
    · exact .inl ⟨q, hq⟩

end

/-! ### All lanes of a load of class 1 or 2 -/

/-- The address of a lane of an outstanding instruction, and the line of it. -/
def State.lanePa (w : State) (i L : Nat) : Nat := (w.op i).pa.get L

/-- R234, R235: where a load of class 1 or 2 stands after some of its lanes. -/
structure LoadedLanes (w : State) (i core n : Nat) (done : List Nat) (st : State) : Prop where
  frame : LoadFrame w st i core
  have_ : ∀ L, L < 32 → inMask (st.op i).have_ L = (inMask (w.op i).have_ L || (decide (L ∈ done) && w.l1Valid (w.lineAt core (lineOf (w.lanePa i L)))))
  got : ∀ L ∈ done, w.l1Valid (w.lineAt core (lineOf (w.lanePa i L))) = true → ∀ k, k < (n + 3) / 4 →
    (st.op i).got.get (4 * L + k) = loadedWord n (fun j => (w.lineAt core (lineOf (w.lanePa i L))).bytes.get (w.lanePa i L % 64 + j)) k
  lines : ∀ line, (∃ q, st.lineAt core line = { w.lineAt core line with pol := q })
    ∨ w.l1Valid (w.lineAt core line) = false ∧ ∃ x, (st.lineAt core line).st = .filling x ∧ .fillGrant core line ∈ st.pending
  asked : ∀ L ∈ done, w.l1Valid (w.lineAt core (lineOf (w.lanePa i L))) = false →
    .fillGrant core (lineOf (w.lanePa i L)) ∈ st.pending ∨ ∃ x, (w.lineAt core (lineOf (w.lanePa i L))).st = .filling x

section
variable {w st : State} {i core n L : Nat} {done : List Nat} (hcore : core = coreOfGroup (w.op i).grp) (hn : n ≤ 16) (hL : L < 32)
  (h3 : (w.op i).cls.get L ≠ 3) (h0 : (w.op i).cls.get L ≠ 0) (h : LoadedLanes w i core n done st)
include hcore hn hL h3 h0 h

theorem loadedLanes_hit (hv : w.l1Valid (w.lineAt core (lineOf (w.lanePa i L))) = true) : LoadedLanes w i core n (done ++ [L]) (st.loadLane i n L) := by
  have hf := h.frame
  have hpa : (st.op i).pa.get L = w.lanePa i L := hf.pa L
  have hline : ∃ q, st.lineAt core (lineOf (w.lanePa i L)) = { w.lineAt core (lineOf (w.lanePa i L)) with pol := q } := by
    rcases h.lines (lineOf (w.lanePa i L)) with hq | ⟨hn, -⟩
    · exact hq
    · rw [hv] at hn; cases hn
  obtain ⟨q, hq⟩ := hline
  obtain ⟨t, r, settle, ht, hgo⟩ := loadLane_hit (n := n) (L := L) (s := st) (hcore.trans (congrArg coreOfGroup hf.grp.symm)) hf.wc
    (by rw [hf.cls]; exact h3) (by rw [hf.cls]; exact h0) (by rw [hpa, hq, hf.quiet.l1Valid]; exact hv)
  rw [hpa, hq] at ht
  rw [hpa, hq] at hgo
  dsimp only at hgo
  have hop : t.op i = st.op i := congrArg (fun m : Store Op => m.get i) ht.ops
  have hop' : (st.loadLane i n L).op i = takeLane (st.op i) n L (fun k => (w.lineAt core (lineOf (w.lanePa i L))).bytes.get (w.lanePa i L % 64 + k)) := by
    rw [hgo]
    exact (op_take t i n L _ _ _ _).trans (by rw [hop])
  have hpend : (st.loadLane i n L).pending = st.pending := by rw [hgo]; exact ht.pending_eq
  have hlines (k : Nat) : (st.loadLane i n L).lineAt core k = if k = lineOf (w.lanePa i L) then { st.lineAt core k with pol := r } else st.lineAt core k := by
    rw [hgo]
    refine (ht.lineAt k).trans ?_
    split
    · next hk => rw [hk, hq]
    · rfl
  refine ⟨?_, fun K hK => ?_, fun K hK hvK k hk => ?_, fun line => ?_, fun K hK hvK => ?_⟩
  · rw [hgo]
    exact (hf.lined ht).take ..
  · rw [hop']
    show inMask ((st.op i).have_ ||| maskOf (fun K => K == L)) K = _
    rw [inMask_or, inMask_maskOf, h.have_ K hK]
    by_cases hKL : K = L
    · subst hKL; simp [hv, hK]
    · simp [hKL, hK]
  · rw [hop', got_takeLane _ _ _ _ hn hk]
    by_cases hKL : K = L
    · subst hKL; rw [if_pos rfl]
    · rw [if_neg hKL]
      exact h.got K ((List.mem_append.1 hK).resolve_right (by simp [hKL])) hvK k hk
  · rw [hlines, hpend]
    rcases h.lines line with ⟨p, hp⟩ | ⟨hv', x, hx, hin⟩
    · left
      split
      · exact ⟨r, by rw [hp]⟩
      · exact ⟨p, hp⟩
    · right
      refine ⟨hv', x, ?_, hin⟩
      split <;> exact hx
  · rw [hpend]
    refine h.asked K ((List.mem_append.1 hK).resolve_right fun hKL => ?_) hvK
    rw [List.mem_singleton.1 hKL, hv] at hvK
    cases hvK

omit hn in
theorem loadedLanes_miss (hv : w.l1Valid (w.lineAt core (lineOf (w.lanePa i L))) = false) : LoadedLanes w i core n (done ++ [L]) (st.loadLane i n L) := by
  have hf := h.frame
  have hpa : (st.op i).pa.get L = w.lanePa i L := hf.pa L
  have hv' : st.l1Valid (st.lineAt core (lineOf (w.lanePa i L))) = false := by
    rw [hf.quiet.l1Valid]
    rcases h.lines (lineOf (w.lanePa i L)) with ⟨q, hq⟩ | ⟨-, x, hx, -⟩
    · rw [hq]; exact hv
    · unfold State.l1Valid; rw [hx]
  obtain ⟨hframe, hhave, hgot, hlines, hasked, hpend⟩ := loadLane_miss (n := n) hf (hcore.trans (congrArg coreOfGroup hf.grp.symm))
    (by rw [hf.cls]; exact h3) (by rw [hf.cls]; exact h0) (by rw [hpa]; exact hv')
  rw [hpa] at hlines hasked
  refine ⟨hframe, fun K hK => ?_, fun K hK hvK k hk => ?_, fun line => ?_, fun K hK hvK => ?_⟩
  · rw [hhave, h.have_ K hK]
    by_cases hKL : K = L
    · subst hKL; simp [hv]
    · simp [hKL]
  · rw [hgot]
    refine h.got K ((List.mem_append.1 hK).resolve_right fun hKL => ?_) hvK k hk
    rw [List.mem_singleton.1 hKL, hv] at hvK
    cases hvK
  · rcases h.lines line with ⟨p, hp⟩ | ⟨hvl, x, hx, hin⟩
    · rcases hlines line with ⟨q, hq⟩ | ⟨rfl, x, hx, hin⟩
      · exact .inl ⟨q, by rw [hq, hp]⟩
      · exact .inr ⟨hv, x, hx, hin⟩
    · rcases hlines line with ⟨q, hq⟩ | ⟨rfl, x, hx, hin⟩
      · exact .inr ⟨hvl, x, by rw [hq]; exact hx, hpend _ hin⟩
      · exact .inr ⟨hvl, x, hx, hin⟩
  · rcases List.mem_append.1 hK with hK | hK
    · exact (h.asked K hK hvK).imp_left (hpend _)
    · rw [List.mem_singleton.1 hK]
      rcases hasked with hin | ⟨x, hx⟩
      · exact .inl hin
      · rcases h.lines (lineOf (w.lanePa i L)) with ⟨q, hq⟩ | ⟨-, y, -, hin⟩
        · exact .inr ⟨x, by rw [hq] at hx; exact hx⟩
        · exact .inl (hpend _ hin)

end

/-- R171: the loads of all lanes of class 1 or 2. -/
theorem loadedLanes_all {w : State} {i core n : Nat} (hcore : core = coreOfGroup (w.op i).grp) (hn : n ≤ 16) (hwc : (w.cores.get core).wc.held = false)
    (hcls : ∀ L ∈ lanesOf (w.op i).mask, (w.op i).cls.get L = 1 ∨ (w.op i).cls.get L = 2) :
    LoadedLanes w i core n (lanesOf (w.op i).mask) ((lanesOf (w.op i).mask).foldl (fun st L => st.loadLane i n L) w) := by
  refine foldl_upto (LoadedLanes w i core n) (fun done L st hL h => ?_) ?_
  · have hc := hcls L hL
    cases hv : w.l1Valid (w.lineAt core (lineOf (w.lanePa i L))) with
    | true => exact loadedLanes_hit hcore hn (mem_lanesOf.1 hL).1 (by omega) (by omega) h hv
    | false => exact loadedLanes_miss hcore (mem_lanesOf.1 hL).1 (by omega) (by omega) h hv
  · exact ⟨⟨Quiet.refl w, hwc, rfl⟩, by simp, by simp, fun line => .inl ⟨_, rfl⟩, by simp⟩

/-! ### All lanes of a load of class 0 -/

theorem get_putBytes_fresh (f : Nat → Byte) {k : Nat} (hk : k < 64) : (putBytes [] ((List.range 64).map (fun i => (i, f i)))).get k = f k := by
  unfold putBytes
  rw [List.foldl_map]
  exact (get_putList (List.range 64) f k []).trans (if_pos (List.mem_range.2 hk))

theorem privateByte_eq (s : State) (core pa : Nat) : privateByte s core pa =
    if (s.lineAt core (lineOf pa)).st = .priv then (s.lineAt core (lineOf pa)).bytes.get (pa % 64) else s.mem.get pa := rfl

/-- R229: a line that comes in has the bytes that the core saw before. -/
theorem privateLine_byte (s : State) (core ctx pa : Nat) : (s.privateLine core (lineOf pa) ctx).bytes.get (pa % 64) = privateByte s core pa := by
  rw [privateByte_eq]
  unfold State.privateLine
  split
  · split <;> rfl
  · rw [get_putBytes_fresh _ (Nat.mod_lt _ (by norm_num))]
    unfold lineOf
    rw [Nat.div_add_mod]

section
variable {s t : State} {core line : Nat}

theorem privateByte_fill {ctx : Nat} (h : Lined s core line (s.privateLine core line ctx) t) (pa : Nat) : privateByte t core pa = privateByte s core pa := by
  by_cases hl : lineOf pa = line
  · subst hl
    rw [privateByte_eq t, h.lineAt, if_pos rfl, if_pos (privateLine_st ..), privateLine_byte]
  · rw [privateByte_eq t, privateByte_eq s, h.lineAt, if_neg hl, h.quiet.mem]

theorem privateByte_pol {q : BitVec 2} (h : Lined s core line { s.lineAt core line with pol := q } t) (pa : Nat) : privateByte t core pa = privateByte s core pa := by
  rw [privateByte_eq t, privateByte_eq s, h.lineAt, h.quiet.mem]
  by_cases hl : lineOf pa = line
  · rw [if_pos hl, hl]
  · rw [if_neg hl]

/-- A line of class 0 stays so. -/
theorem priv_kept {l : L1Line} (h : Lined s core line l t) (hl : l.st = .priv ∨ l.st = (s.lineAt core line).st) {k : Nat}
    (hk : (s.lineAt core k).st = .priv) : (t.lineAt core k).st = .priv := by
  rw [h.lineAt]
  split
  · next hkl =>
    subst hkl
    exact hl.elim id (fun e => e.trans hk)
  · exact hk

end

/-- The bytes of a lane's access lie in one line. -/
theorem lineOf_add {pa n j : Nat} (hn : n ∣ 64) (hpa : pa % n = 0) (hj : j < n) : lineOf (pa + j) = lineOf pa ∧ (pa + j) % 64 = pa % 64 + j := by
  obtain ⟨m, hm⟩ := hn
  obtain ⟨a, rfl⟩ := Nat.dvd_of_mod_eq_zero hpa
  have hmpos : 0 < m := by
    rcases Nat.eq_zero_or_pos m with h | h
    · subst h; omega
    · exact h
  have hmod : n * a % 64 = n * (a % m) := by rw [hm]; exact Nat.mul_mod_mul_left ..
  have hlt : n * (a % m) + n ≤ 64 := by
    have := Nat.mod_lt a hmpos
    calc n * (a % m) + n = n * (a % m + 1) := by ring
      _ ≤ n * m := Nat.mul_le_mul_left n this
      _ = 64 := hm.symm
  unfold lineOf
  omega

/-- R229, R230: where a load of class 0 stands after some of its lanes. -/
structure PrivateLanes (w : State) (i core n : Nat) (done : List Nat) (st : State) : Prop where
  frame : LoadFrame w st i core
  have_ : ∀ L, L < 32 → inMask (st.op i).have_ L = (inMask (w.op i).have_ L || decide (L ∈ done))
  got : ∀ L ∈ done, ∀ k, k < (n + 3) / 4 → (st.op i).got.get (4 * L + k) = loadedWord n (fun j => privateByte w core (w.lanePa i L + j)) k
  bytes : ∀ a, privateByte st core a = privateByte w core a
  priv : ∀ L ∈ done, (st.lineAt core (lineOf (w.lanePa i L))).st = .priv

theorem loadedWord_congr {n k : Nat} {f g : Nat → Byte} (hn : n ∣ 64) (hk : k < (n + 3) / 4) (h : ∀ j, j < n → f j = g j) : loadedWord n f k = loadedWord n g k := by
  have hle : ∀ i, i < min 4 n → 4 * k + i < n := by
    have : n ∈ Nat.divisors 64 := Nat.mem_divisors.2 ⟨hn, by norm_num⟩
    have hd : Nat.divisors 64 = {1, 2, 4, 8, 16, 32, 64} := by decide
    rw [hd] at this
    simp only [Finset.mem_insert, Finset.mem_singleton] at this
    omega
  unfold loadedWord
  congr 2
  exact List.map_congr_left fun i hi => h _ (hle i (List.mem_range.1 hi))

theorem privateLanes_step {w st : State} {i core n L : Nat} {done : List Nat} (hcore : core = coreOfGroup (w.op i).grp) (hn : n ≤ 16) (hd : n ∣ 64) (hL : L < 32)
    (h0 : (w.op i).cls.get L = 0) (hal : w.lanePa i L % n = 0) (h : PrivateLanes w i core n done st) :
    PrivateLanes w i core n (done ++ [L]) (st.loadLane i n L) := by
  have hf := h.frame
  have hpa : (st.op i).pa.get L = w.lanePa i L := hf.pa L
  obtain ⟨t₁, t₂, q, settle, h₁, h₂, hgo⟩ := loadLane_private (n := n) (L := L) (s := st) (hcore.trans (congrArg coreOfGroup hf.grp.symm)) hf.wc
    (by rw [hf.cls]; exact h0)
  rw [hpa] at h₁ h₂ hgo
  have hline₁ : t₁.lineAt core (lineOf (w.lanePa i L)) = st.privateLine core (lineOf (w.lanePa i L)) (st.ctxOf (st.op i).grp) := by rw [h₁.lineAt, if_pos rfl]
  have hpriv₁ : (t₁.lineAt core (lineOf (w.lanePa i L))).st = .priv := by rw [hline₁]; exact privateLine_st ..
  have hbyte (a : Nat) : privateByte t₂ core a = privateByte w core a := (privateByte_pol h₂ a).trans ((privateByte_fill h₁ a).trans (h.bytes a))
  have hpriv₂ : (t₂.lineAt core (lineOf (w.lanePa i L))).st = .priv := by rw [h₂.lineAt, if_pos rfl]; exact hpriv₁
  have hop : t₂.op i = st.op i := congrArg (fun m : Store Op => m.get i) (h₂.ops.trans h₁.ops)
  have hop' : (st.loadLane i n L).op i = takeLane (st.op i) n L (fun k => (t₂.lineAt core (lineOf (w.lanePa i L))).bytes.get (w.lanePa i L % 64 + k)) := by
    rw [hgo]
    exact (op_take t₂ i n L _ _ _ _).trans (by rw [hop])
  refine ⟨?_, fun K hK => ?_, fun K hK k hk => ?_, fun a => ?_, fun K hK => ?_⟩
  · rw [hgo]
    exact ((hf.lined h₁).lined h₂).take ..
  · rw [hop']
    show inMask ((st.op i).have_ ||| maskOf (fun K => K == L)) K = _
    rw [inMask_or, inMask_maskOf, h.have_ K hK]
    by_cases hKL : K = L
    · subst hKL; simp [hK]
    · simp [hKL]
  · rw [hop', got_takeLane _ _ _ _ hn hk]
    by_cases hKL : K = L
    · subst hKL
      rw [if_pos rfl]
      refine loadedWord_congr hd hk fun j hj => ?_
      obtain ⟨hl, hm⟩ := lineOf_add hd hal hj
      rw [← hbyte, privateByte_eq, hl, if_pos hpriv₂, hm]
    · rw [if_neg hKL]
      exact h.got K ((List.mem_append.1 hK).resolve_right (by simp [hKL])) k hk
  · rw [hgo]
    exact hbyte a
  · rw [hgo]
    show (t₂.lineAt core (lineOf (w.lanePa i K))).st = .priv
    rcases List.mem_append.1 hK with hK | hK
    · exact priv_kept h₂ (.inr rfl) (priv_kept h₁ (.inl (privateLine_st ..)) (h.priv K hK))
    · rw [List.mem_singleton.1 hK]; exact hpriv₂

/-- R229, R230: the loads of all lanes of class 0. -/
theorem privateLanes_all {w : State} {i core n : Nat} (hcore : core = coreOfGroup (w.op i).grp) (hn : n ≤ 16) (hd : n ∣ 64)
    (hwc : (w.cores.get core).wc.held = false)
    (hlane : ∀ L ∈ lanesOf (w.op i).mask, (w.op i).cls.get L = 0 ∧ w.lanePa i L % n = 0) :
    PrivateLanes w i core n (lanesOf (w.op i).mask) ((lanesOf (w.op i).mask).foldl (fun st L => st.loadLane i n L) w) := by
  refine foldl_upto (PrivateLanes w i core n) (fun done L st hL h => ?_) ?_
  · exact privateLanes_step hcore hn hd (mem_lanesOf.1 hL).1 (hlane L hL).1 (hlane L hL).2 h
  · exact ⟨⟨Quiet.refl w, hwc, rfl⟩, by simp, by simp, fun _ => rfl, by simp⟩

/-- R231: a load from register pages reads nothing at issue. -/
theorem registerLanes_all {w : State} {i n : Nat} (hwc : (w.cores.get (coreOfGroup (w.op i).grp)).wc.held = false)
    (hcls : ∀ L ∈ lanesOf (w.op i).mask, (w.op i).cls.get L = 3) :
    (lanesOf (w.op i).mask).foldl (fun st L => st.loadLane i n L) w = w :=
  foldl_upto (fun _ st => st = w) (fun done L st hL h => by rw [h]; exact loadLane_register rfl hwc (hcls L hL)) rfl

/-! ### An access that acts -/

section
variable {s w : State} {i : Instr} {la : BitVec 4} {h : Shape} {addr : Nat → DWord} {e : Nat → TlbEntry} (hr : Ready s w i la h addr e)
include hr

theorem Ready.focus : w.focus = s.focus := (congrArg State.focus hr.rest :)
theorem Ready.now : w.now = s.now := (congrArg State.now hr.rest :)
theorem Ready.mem : w.mem = s.mem := (congrArg State.mem hr.rest :)
theorem Ready.cores : w.cores = s.cores := (congrArg State.cores hr.rest :)
theorem Ready.pending_eq : w.pending = s.pending := (congrArg State.pending hr.rest :)
theorem Ready.op_grp : (w.op s.nextOp).grp = s.focus.grp := (congrArg Op.grp hr.op :)
theorem Ready.op_uid : (w.op s.nextOp).uid = s.focus.uid := (congrArg Op.uid hr.op :)
theorem Ready.op_mask : (w.op s.nextOp).mask = s.focus.mask := (congrArg Op.mask hr.op :)
theorem Ready.op_have : (w.op s.nextOp).have_ = 0 := (congrArg Op.have_ hr.op :)
theorem Ready.op_instr : (w.op s.nextOp).instr = i := (congrArg Op.instr hr.op :)
theorem Ready.core : s.curCore = coreOfGroup (w.op s.nextOp).grp := by rw [hr.op_grp]; rfl
theorem Ready.lineAt (core line : Nat) : w.lineAt core line = s.lineAt core line := by unfold State.lineAt; rw [hr.cores]
theorem Ready.l1Valid (l : L1Line) : w.l1Valid l = s.l1Valid l := by unfold State.l1Valid; rw [hr.now]
theorem Ready.block (g : Nat) : (w.group g).block = (s.group g).block := (congrArg Group.block (congrFun hr.bare g) :)
theorem Ready.blocks : w.blocks = s.blocks := (congrArg State.blocks hr.rest :)
theorem Ready.ctxOf (g : Nat) : w.ctxOf g = s.ctxOf g := by unfold State.ctxOf State.blockOf; rw [hr.block, hr.blocks]
theorem Ready.launchOf (g : Nat) : w.launchOf g = s.launchOf g := by
  unfold State.launchOf State.blockOf
  rw [hr.block, hr.blocks, show w.launches = s.launches from (congrArg State.launches hr.rest :)]
theorem Ready.lanes : lanesOf ((w.op s.nextOp).mask &&& ~~~(w.op s.nextOp).have_) = lanesOf s.focus.mask := by
  rw [hr.op_mask, hr.op_have]
  exact congrArg lanesOf ((congrArg (s.focus.mask &&& ·) BitVec.not_zero).trans BitVec.and_allOnes)
theorem Ready.pa {L : Nat} (hL : L ∈ lanesOf s.focus.mask) : w.lanePa s.nextOp L = (e L).pa (addr L) :=
  (hr.lane L (mem_lanesOf.1 hL).1 (mem_lanesOf.1 hL).2).2.1
theorem Ready.cls {L : Nat} (hL : L ∈ lanesOf s.focus.mask) : (w.op s.nextOp).cls.get L = (e L).cls.toNat :=
  (hr.lane L (mem_lanesOf.1 hL).1 (mem_lanesOf.1 hL).2).2.2
theorem privateByte_of_ready (core pa : Nat) : privateByte w core pa = privateByte s core pa := by
  rw [privateByte_eq, privateByte_eq, hr.lineAt, hr.mem]

/-- It is under way. -/
theorem Ready.flying : Ready s (w.onOp s.nextOp (fun x => { x with status := .flying })) i la h addr e := by
  have hop := op_onOp w s.nextOp (fun x => { x with status := .flying })
  refine ⟨(congrArg (fun x : State => { x with ops := s.ops }) hr.rest :), hr.nextOp, hr.bare, hr.out, ?_, ?_, ?_⟩
  · rw [hop]
    exact (congrArg (fun x : Op => { x with status := .flying }) hr.op :)
  · rw [hop]; exact hr.lane
  · rw [hop]; exact hr.data

theorem Ready.sameBytes : SameBytes s w := fun a => by
  unfold State.byteAt
  rw [hr.cores, hr.mem, show w.home = s.home from (congrArg State.home hr.rest :)]

theorem Ready.sameRegs {t : State} (ht : Quiet w t) : SameRegs s t := sameRegs_of_bare (ht.bare.trans hr.bare)

theorem Ready.wc_held (hwc : (s.cores.get s.curCore).wc = {}) : (w.cores.get (coreOfGroup (w.op s.nextOp).grp)).wc.held = false := by
  rw [hr.cores, ← hr.core, hwc]

theorem Ready.watch {t : State} (ht : Quiet w t) (hw : (s.launchOf s.focus.grp).watches = []) (u : Nat) (m : Mask) (next : Word) (plane : Nat)
    (a b c : Bool) (n : Nat) (lanes : List (Nat × Nat)) : t.watch (w.op s.nextOp).grp u m next plane a b c n lanes = t :=
  watch_none (by rw [hr.op_grp, ht.launchOf, hr.launchOf, hw]) ..

end

/-- What an access at issue says of its instruction, whatever its data are. -/
def Op.issued (o : Op) : Op := { o with have_ := 0, got := [], asked := [], taken := 0 }

theorem issued_of_quiet {s w t : State} {i : Instr} {la : BitVec 4} {h : Shape} {addr : Nat → DWord} {e : Nat → TlbEntry} (hr : Ready s w i la h addr e)
    (ht : Quiet w t) (hop : (t.op s.nextOp).issued = (w.op s.nextOp).issued) : Issued s t i la addr e := by
  have ho : { (t.op s.nextOp).issued with addr := [], pa := [], cls := [], data := [] } = { s.opHere i s.focus.mask with live := true } := by
    rw [hop]
    exact (congrArg Op.issued hr.op :)
  refine ⟨ht.nextOp.trans hr.nextOp, (congrArg Op.live ho :), (congrArg Op.instr ho :), (congrArg Op.grp ho :), (congrArg Op.uid ho :),
    (congrArg Op.mask ho :), (congrArg Op.offset ho :), (congrArg Op.status ho :), fun L hL hin => ?_, fun x hx hux => ?_⟩
  · rw [show (t.op s.nextOp).addr = (w.op s.nextOp).addr from (congrArg Op.addr hop :),
      show (t.op s.nextOp).pa = (w.op s.nextOp).pa from (congrArg Op.pa hop :), show (t.op s.nextOp).cls = (w.op s.nextOp).cls from (congrArg Op.cls hop :)]
    exact hr.lane L hL hin
  · have hcur : t.cur = t.group s.focus.grp := by
      show t.group t.focus.grp = _
      rw [ht.focus, hr.focus]
    rw [hcur] at hx
    exact ht.out hr.out hx hux

/-! ### Loads at issue -/

theorem quiet_acquires (t : State) (i : Instr) (g u n : Nat) : Quiet t (t.acquires i g u n) := by
  unfold State.acquires
  split
  · exact quiet_onSplit t g u _
  · exact Quiet.refl t

theorem acquires_kept (t : State) (i : Instr) (g u n : Nat) :
    (t.acquires i g u n).cores = t.cores ∧ (t.acquires i g u n).ops = t.ops ∧ (t.acquires i g u n).pending = t.pending := by
  unfold State.acquires
  split <;> exact ⟨rfl, rfl, rfl⟩

theorem acquires_waits (t : State) {i : Instr} (hi : isLda i = true) (g u n : Nat) :
    ∀ x ∈ ((t.acquires i g u n).group g).splits, x.uid = u → n ∈ x.acquiring := by
  have hg : (t.acquires i g u n).group g = (t.group g).onSplit u (fun x => { x with acquiring := x.acquiring ++ [n] }) := by
    unfold State.acquires State.onSplit
    rw [if_pos hi, group_onGroup, if_pos rfl]
  intro x hx hux
  rw [hg, splits_onSplit (t.group g) u (fun x => { x with acquiring := x.acquiring ++ [n] }) (fun _ => rfl)] at hx
  obtain ⟨y, -, rfl⟩ := List.mem_map.1 hx
  by_cases hy : y.uid = u
  · rw [if_pos hy]
    exact List.mem_append_right _ (List.mem_singleton.2 rfl)
  · rw [if_neg hy] at hux
    exact absurd hux hy

/-- A load at issue: it is outstanding, its data are on their way, and only its lines and its data are left to say. -/
structure LoadIssue (s : State) (i : Instr) (la : BitVec 4) (addr : Nat → DWord) (e : Nat → TlbEntry) (u t : State) : Prop where
  regs : SameRegs s t
  bytes : SameBytes s t
  issued : Issued s t i la addr e
  returns : .loadDataReturn s.nextOp ∈ t.pending
  acquires : isLda i = true → ∀ x ∈ t.cur.splits, x.uid = s.focus.uid → s.nextOp ∈ x.acquiring
  op : t.op s.nextOp = u.op s.nextOp
  cores : t.cores = u.cores
  pending : ∀ x ∈ u.pending, x ∈ t.pending

section
variable {s : State} {i : Instr} {la : BitVec 4} {h : Shape} {addr : State → Nat → DWord} {e : Nat → TlbEntry} {cls : BitVec 2 → Bool}
  (hs : shapeOf i = some h) (hm : h.move = .load) (hstart : StartsAccess i la h addr) (hreach : Reaches s h.bytes true false cls (addr s) e)

theorem permit_load {t : TlbEntry} {n : Nat} (hc : (classesFor .load n).contains t.cls.toNat = true) (hr : t.r = true) :
    permit t (accessFor .load) (classesFor .load n) = none := by
  unfold permit accessFor
  dsimp only
  rw [hc, hr]
  rfl

include hs hm hstart hreach in
/-- R98, R171, R172: a load that is allowed in every lane looks up its lanes, in a state in which it is outstanding. -/
theorem load_issue (hcls : ∀ c, cls c = true → (classesFor .load h.bytes).contains c.toNat = true)
    (hlook : ∀ w, Ready s w i la h (addr s) e → LoadFrame w ((lanesOf s.focus.mask).foldl (fun st L => st.loadLane s.nextOp h.bytes L) w) s.nextOp s.curCore) :
    ∃ w t, Ready s w i la h (addr s) e ∧ exec i s = .next t
      ∧ LoadIssue s i la (addr s) e ((lanesOf s.focus.mask).foldl (fun st L => st.loadLane s.nextOp h.bytes L) w) t := by
  obtain ⟨hmask, htx, -, hwc, hwatch, hlane⟩ := id hreach
  obtain ⟨u, hu, hexec⟩ := hstart s hmask htx (fun L hL hin => (hlane L hL hin).2.1)
  obtain ⟨w, hbegin, hready⟩ := begin_ready la hu hs hreach (fun t hc hr _ => by rw [hm]; exact permit_load (hcls t.cls hc) (hr rfl))
  have hfly := hready.flying
  have hframe := hlook _ hfly
  have hlaunch : w.launchOp s.nextOp h = ((lanesOf s.focus.mask).foldl (fun st L => st.loadLane s.nextOp h.bytes L)
      (w.onOp s.nextOp (fun x => { x with status := .flying }))).post (.loadDataReturn s.nextOp) := by
    unfold State.launchOp
    rw [hm]
    dsimp only
    rw [hready.lanes, hready.watch ((quiet_onOp w _ _).trans hframe.quiet) hwatch]
  generalize hu' : (lanesOf s.focus.mask).foldl (fun st L => st.loadLane s.nextOp h.bytes L) (w.onOp s.nextOp (fun x => { x with status := .flying })) = v at hframe hlaunch
  obtain ⟨hcores, hops, hpend⟩ := acquires_kept (v.post (.loadDataReturn s.nextOp)) i s.focus.grp s.focus.uid s.nextOp
  have hquiet : Quiet (w.onOp s.nextOp (fun x => { x with status := .flying })) ((v.post (.loadDataReturn s.nextOp)).acquires i s.focus.grp s.focus.uid s.nextOp) :=
    (hframe.quiet.trans (quiet_post v _)).trans (quiet_acquires ..)
  have hop : ((v.post (.loadDataReturn s.nextOp)).acquires i s.focus.grp s.focus.uid s.nextOp).op s.nextOp = v.op s.nextOp :=
    congrArg (fun m : Store Op => m.get s.nextOp) hops
  refine ⟨_, _, hfly, by rw [hexec, hbegin, hlaunch], ?_⟩
  rw [hu']
  refine ⟨hfly.sameRegs hquiet, hfly.sameBytes.trans hquiet.sameBytes, issued_of_quiet hfly hquiet ?_, ?_, fun hi x hx hux => ?_, hop, hcores, fun x hx => ?_⟩
  · rw [hop]
    exact (congrArg (fun x : Op => { x with have_ := 0, got := [], asked := [], taken := 0 }) hframe.op :)
  · rw [hpend]
    exact List.mem_append_right _ (List.mem_singleton.2 rfl)
  · refine acquires_waits (v.post (.loadDataReturn s.nextOp)) hi s.focus.grp s.focus.uid s.nextOp x ?_ hux
    have hx' : x ∈ (((v.post (.loadDataReturn s.nextOp)).acquires i s.focus.grp s.focus.uid s.nextOp).group
      ((v.post (.loadDataReturn s.nextOp)).acquires i s.focus.grp s.focus.uid s.nextOp).focus.grp).splits := hx
    have hcur : ((v.post (.loadDataReturn s.nextOp)).acquires i s.focus.grp s.focus.uid s.nextOp).focus.grp = s.focus.grp := by
      rw [hquiet.focus, hfly.focus]
    rw [hcur] at hx'
    exact hx'
  · rw [hpend]
    exact List.mem_append_left _ hx

/-- R171: what a lane takes from a line. -/
theorem loadedWord_line (l : L1Line) (n pa k : Nat) :
    loadedWord n (fun j => l.bytes.get (pa % 64 + j)) k = BitVec.ofNat 32 (lineElem l.bytes (pa % 64 + 4 * k) (min 4 n)) := by
  unfold loadedWord lineElem
  simp only [Nat.add_assoc]

theorem pa_mod {t : TlbEntry} {a : DWord} {n : Nat} (hn : n ∣ 64) : t.pa a % n = a.toNat % n := by
  have h4096 : n ∣ 4096 := hn.trans (by norm_num)
  have h52 : n ∣ 2 ^ 52 := hn.trans (by norm_num)
  unfold TlbEntry.pa
  rw [Nat.mod_mod_of_dvd _ h52, Nat.add_mod, Nat.mod_eq_zero_of_dvd (h4096.mul_right _), Nat.mod_mod_of_dvd _ (h4096.mul_right _), Nat.zero_add, Nat.mod_mod]

include hs hm hstart in
/-- R171, R172: loads of class 1 or 2 at issue. -/
theorem loadIssues_of_starts (hn : h.bytes ≤ 16) (hregs : h.regs = (h.bytes + 3) / 4) (hcls : (classesFor .load h.bytes).contains 1 = true ∧ (classesFor .load h.bytes).contains 2 = true)
    {acq : Bool} (hacq : acq = true → isLda i = true) : LoadIssues i la h.bytes h.regs acq addr := by
  intro s e hr
  have hwc : (s.cores.get s.curCore).wc.held = false := by
    obtain ⟨-, -, -, hwc, -, -⟩ := hr
    rw [hwc]
  have hlane (L : Nat) (hL : L ∈ lanesOf s.focus.mask) : (e L).cls = 1 ∨ (e L).cls = 2 := by
    obtain ⟨-, -, -, -, -, hlane⟩ := hr
    have := (hlane L (mem_lanesOf.1 hL).1 (mem_lanesOf.1 hL).2).2.2.2.1
    simpa using this
  have hall (w : State) (hw : Ready s w i la h (addr s) e) : LoadedLanes w s.nextOp s.curCore h.bytes (lanesOf s.focus.mask)
      ((lanesOf s.focus.mask).foldl (fun st L => st.loadLane s.nextOp h.bytes L) w) := by
    have := loadedLanes_all (w := w) (i := s.nextOp) (core := s.curCore) hw.core hn (by rw [hw.cores]; exact hwc) fun L hL => by
      rw [hw.op_mask] at hL
      rw [hw.cls hL]
      rcases hlane L hL with h | h <;> simp [h]
    rw [hw.op_mask] at this
    exact this
  obtain ⟨w, t, hw, hexec, hload⟩ := load_issue hs hm hstart hr (fun c hc => by
    have : c = 1 ∨ c = 2 := by simpa using hc
    rcases this with rfl | rfl
    · exact hcls.1
    · exact hcls.2) (fun w hw => (hall w hw).frame)
  obtain ⟨hframe, hhave, hgot, hlines, hasked⟩ := hall w hw
  refine ⟨t, hexec, hload.regs, hload.bytes, hload.issued, hload.returns, fun ha => hload.acquires (hacq ha), fun L hL hin => ?_⟩
  have hmem := mem_lanesOf.2 ⟨hL, hin⟩
  have hpa := hw.pa hmem
  have hl : l1At s s.curCore ((e L).pa (addr s L)) = w.lineAt s.curCore (lineOf (w.lanePa s.nextOp L)) := by rw [hpa, hw.lineAt]; rfl
  dsimp only
  rw [hl, hload.op, ← hw.l1Valid]
  refine ⟨?_, fun hv k hk => ?_, fun hv => ?_⟩
  · rw [hhave L hL, hw.op_have]
    simp [hmem, inMask]
  · rw [hgot L hmem hv k (by omega), ← hpa]
    exact loadedWord_line _ _ _ _
  · rw [← hpa]
    exact (hasked L hmem hv).imp_left (hload.pending _)

include hs hm hstart in
/-- R229, R230: loads of class 0 at issue. -/
theorem privateLoads_of_starts (hn : h.bytes ≤ 16) (hd : h.bytes ∣ 64) (hregs : h.regs = (h.bytes + 3) / 4) (hcls : (classesFor .load h.bytes).contains 0 = true) :
    PrivateLoads i la h.bytes h.regs addr := by
  intro s e hr
  have hwc : (s.cores.get s.curCore).wc.held = false := by
    obtain ⟨-, -, -, hwc, -, -⟩ := hr
    rw [hwc]
  have hlane (L : Nat) (hL : L ∈ lanesOf s.focus.mask) : (e L).cls = 0 ∧ (e L).pa (addr s L) % h.bytes = 0 := by
    obtain ⟨-, -, -, -, -, hlane⟩ := hr
    obtain ⟨-, hal, -, hc, -⟩ := hlane L (mem_lanesOf.1 hL).1 (mem_lanesOf.1 hL).2
    exact ⟨by simpa using hc, by rw [pa_mod hd]; exact hal⟩
  have hall (w : State) (hw : Ready s w i la h (addr s) e) : PrivateLanes w s.nextOp s.curCore h.bytes (lanesOf s.focus.mask)
      ((lanesOf s.focus.mask).foldl (fun st L => st.loadLane s.nextOp h.bytes L) w) := by
    have := privateLanes_all (w := w) (i := s.nextOp) (core := s.curCore) hw.core hn hd (by rw [hw.cores]; exact hwc) fun L hL => by
      rw [hw.op_mask] at hL
      rw [hw.cls hL, hw.pa hL, (hlane L hL).1]
      exact ⟨rfl, (hlane L hL).2⟩
    rw [hw.op_mask] at this
    exact this
  obtain ⟨w, t, hw, hexec, hload⟩ := load_issue hs hm hstart hr (fun c hc => by
    have : c = 0 := by simpa using hc
    rw [this]; exact hcls) (fun w hw => (hall w hw).frame)
  obtain ⟨hframe, hhave, hgot, -, hpriv⟩ := hall w hw
  refine ⟨t, hexec, hload.regs, hload.bytes, hload.issued, hload.returns, fun L hL hin => ?_⟩
  have hmem := mem_lanesOf.2 ⟨hL, hin⟩
  have hpa := hw.pa hmem
  dsimp only
  rw [hload.op]
  refine ⟨?_, ?_, fun k hk => ?_⟩
  · rw [hhave L hL]
    simp [hmem]
  · rw [l1At_eq, ← hpa]
    unfold State.lineAt
    rw [hload.cores]
    exact hpriv L hmem
  · rw [hgot L hmem k (by omega), hpa]
    simp only [privateByte_of_ready hw]
    unfold loadedWord
    simp only [Nat.add_assoc]

include hs hm hstart in
/-- R231: loads from register pages at issue. -/
theorem registerIssues_load (hcls : (classesFor .load h.bytes).contains 3 = true) : RegisterIssues i la h.bytes false addr := by
  intro s e hr
  have hwc : (s.cores.get s.curCore).wc.held = false := by
    obtain ⟨-, -, -, hwc, -, -⟩ := hr
    rw [hwc]
  have hlane (L : Nat) (hL : L ∈ lanesOf s.focus.mask) : (e L).cls = 3 := by
    obtain ⟨-, -, -, -, -, hlane⟩ := hr
    have := (hlane L (mem_lanesOf.1 hL).1 (mem_lanesOf.1 hL).2).2.2.2.1
    simpa using this
  have hall (w : State) (hw : Ready s w i la h (addr s) e) : (lanesOf s.focus.mask).foldl (fun st L => st.loadLane s.nextOp h.bytes L) w = w := by
    have := registerLanes_all (w := w) (i := s.nextOp) (n := h.bytes) (by rw [← hw.core, hw.cores]; exact hwc) fun L hL => by
      rw [hw.op_mask] at hL
      rw [hw.cls hL, hlane L hL]; rfl
    rw [hw.op_mask] at this
    exact this
  obtain ⟨w, t, hw, hexec, hload⟩ := load_issue hs hm hstart hr (fun c hc => by
    have : c = 3 := by simpa using hc
    rw [this]; exact hcls) (fun w hw => by
      rw [hall w hw]
      exact ⟨Quiet.refl w, by rw [hw.cores]; exact hwc, rfl⟩)
  rw [hall w hw] at hload
  refine ⟨t, hexec, hload.regs, hload.bytes, hload.issued, ?_, hload.cores.trans hw.cores, hload.returns⟩
  rw [hload.op, hw.op_have]

end

/-! ### Accesses that a register page does not carry out (R168) -/

theorem permit_class {t : TlbEntry} {m : Move} {n : Nat} {wr : Bool} (hwr : accessFor m = (if wr then (if accessFor m = .both then .both else .write) else .read))
    (hc : (classesFor m n).contains t.cls.toNat = false) : permit t (accessFor m) (classesFor m n) = some (.faultP, if wr then 3 else 2) := by
  unfold permit
  rw [hc]
  cases m <;> cases wr <;> simp_all [accessFor]

theorem registerFaults_of_starts {i : Instr} {la : BitVec 4} {h : Shape} {addr : State → Nat → DWord} {rd wr : Bool} (hs : shapeOf i = some h)
    (hlda : isLda i = false) (hstart : StartsAccess i la h addr)
    (hwr : accessFor h.move = (if wr then (if accessFor h.move = .both then .both else .write) else .read))
    (hcls : (classesFor h.move h.bytes).contains 3 = false) : RegisterFaults i h.bytes rd wr addr := by
  intro s e hr
  obtain ⟨hmask, htx, -, -, -, hlane⟩ := id hr
  obtain ⟨u, hu, hexec⟩ := hstart s hmask htx (fun L hL hin => (hlane L hL hin).2.1)
  have hbegin := begin_faults la hu hs hr (c := .faultP) (d := if wr then 3 else 2) (fun t hc _ _ => permit_class hwr (by
    have : t.cls = 3 := by simpa using hc
    rw [this]; exact hcls))
  have hacq (t : State) : t.acquires i s.focus.grp s.focus.uid s.nextOp = t := if_neg (by rw [hlda]; simp)
  rw [hacq, hbegin] at hexec
  have hrest := rest_outstanding (i := i) (h := h) (addr := addr s) la hu
  have hbare : (u.outstanding i la h s.focus.mask (addr s)).bare = s.bare := (bare_newOp u _ _).trans hu.bare
  refine ⟨_, hexec, sameRegs_of_bare hbare, fun a => ?_, ?_, ?_, ?_⟩
  · exact (congrArg (fun x : State => x.byteAt a) hrest :)
  · exact (congrArg Op.status (op_onOp (u.outstanding i la h s.focus.mask (addr s)) s.nextOp (fun x => { x with status := .faulted })) :)
  · refine List.mem_append_right _ (List.mem_singleton.2 ?_)
    exact congrArg Instr.carillonFaultService (congrArg State.nextFault hrest :).symm
  · refine ⟨_, congrArg₂ (fun (l : List (Nat × FaultRec)) n => l ++ [(n, _)]) (congrArg State.faults hrest :) (congrArg State.nextFault hrest :), rfl, rfl, ?_, rfl, rfl⟩
    cases wr <;> rfl

end Sys2Proof.Machine
end

section
/-! ## Accesses in open transactions (R195, R267) -/

namespace Sys2Proof.Machine

/-! ### What logged accesses leave as it is -/

/-- A group but for its splits, its open stamp and its lanes' transactions. -/
def Group.unlogged (k : Group) : Group := { k with ent := [], spill := [], stamp := none, tx := [] }

/-- Only L1s, write-combining buffers, splits' bookkeeping, outstanding instructions and transactions differ. -/
structure Logs (s t : State) : Prop where
  rest : { t with cores := s.cores, groups := s.groups, ops := s.ops, pending := s.pending } = s
  cores : ∀ c, (t.cores.get c).outer = (s.cores.get c).outer
  group : ∀ g, (t.group g).unlogged = (s.group g).unlogged

theorem Logs.refl (s : State) : Logs s s := ⟨rfl, fun _ => rfl, fun _ => rfl⟩

theorem Logs.trans {s t u : State} (h : Logs s t) (k : Logs t u) : Logs s u :=
  ⟨(congrArg (fun x : State => { x with cores := s.cores, groups := s.groups, ops := s.ops, pending := s.pending }) k.rest).trans h.rest,
    fun c => (k.cores c).trans (h.cores c), fun g => (k.group g).trans (h.group g)⟩

theorem Quiet.logs {s t : State} (h : Quiet s t) : Logs s t :=
  ⟨h.rest, h.cores, fun g => (congrArg (fun k : Group => { k with tx := [] }) (congrFun h.bare g) :)⟩

/-- The log of a lane of the group in focus. -/
def State.putTx (s : State) (g L : Nat) (x : TxLane) : State := s.onGroup g (fun k => { k with tx := k.tx.put L x })

theorem logs_putTx (s : State) (g L : Nat) (x : TxLane) : Logs s (s.putTx g L x) :=
  ⟨rfl, fun _ => rfl, proj_get_upd Group.unlogged s.groups g (fun k => { k with tx := k.tx.put L x }) (fun _ => rfl)⟩

theorem tx_putTx (s : State) (g L K : Nat) (x : TxLane) : ((s.putTx g L x).group g).tx.get K = if K = L then x else (s.group g).tx.get K := by
  unfold State.putTx
  rw [group_onGroup, if_pos rfl]
  exact Store.get_put _ _ _ _

section
variable {s t : State} (h : Logs s t)
include h

theorem Logs.now : t.now = s.now := (congrArg State.now h.rest :)
theorem Logs.mem : t.mem = s.mem := (congrArg State.mem h.rest :)
theorem Logs.focus : t.focus = s.focus := (congrArg State.focus h.rest :)

theorem Logs.block (g : Nat) : (t.group g).block = (s.group g).block := (congrArg Group.block (h.group g) :)

theorem Logs.ctxOf (g : Nat) : t.ctxOf g = s.ctxOf g := by
  unfold State.ctxOf State.blockOf
  rw [h.block, show t.blocks = s.blocks from (congrArg State.blocks h.rest :)]

theorem Logs.launchOf (g : Nat) : t.launchOf g = s.launchOf g := by
  unfold State.launchOf State.blockOf
  rw [h.block, show t.blocks = s.blocks from (congrArg State.blocks h.rest :), show t.launches = s.launches from (congrArg State.launches h.rest :)]

theorem Logs.l1Valid (l : L1Line) : t.l1Valid l = s.l1Valid l := by
  unfold State.l1Valid
  rw [h.now]

theorem Logs.sameBytes : SameBytes s t := fun a => by
  unfold State.byteAt
  rw [h.mem, show t.home = s.home from (congrArg State.home h.rest :)]
  split
  · rfl
  · next b sl _ => exact congrArg (fun m : Store Byte => m.get (64 * sl + a % 64)) (congrArg Core.stash (h.cores (coreOfBlock b)) :)

theorem Logs.stampFor (g : Nat) : t.stampFor g = s.stampFor g := by
  unfold State.stampFor
  rw [show t.token = s.token from (congrArg State.token h.rest :)]

theorem Logs.lookup (core ctx : Nat) (a : DWord) : t.lookup core ctx a = s.lookup core ctx a := by
  unfold State.lookup
  rw [show t.ctxs = s.ctxs from (congrArg State.ctxs h.rest :), show t.dies = s.dies from (congrArg State.dies h.rest :),
    show (t.cores.get core).tlb = (s.cores.get core).tlb from (congrArg Core.tlb (h.cores core) :)]

theorem Logs.sameButLogs : SameButLogs s t := fun g =>
  (congrArg (fun k : Group => { k with ent := (s.group g).ent, spill := (s.group g).spill, stamp := (s.group g).stamp, tx := (s.group g).tx }) (h.group g) :)

end

/-! ### The words of an access -/

theorem mem_wordsOf {pa n w : Nat} (h : w ∈ wordsOf pa n) : ∃ k, k < (n + 3) / 4 ∧ w = pa / 4 * 4 + 4 * k := by
  obtain ⟨k, hk, rfl⟩ := List.mem_map.1 h
  exact ⟨k, List.mem_range.1 hk, rfl⟩

theorem wordsOf_nodup (pa n : Nat) : (wordsOf pa n).Nodup :=
  List.nodup_range.map fun a b h => by omega

theorem wordsOf_length (pa n : Nat) : (wordsOf pa n).length = (n + 3) / 4 := by simp [wordsOf]

theorem divisors_64 {n : Nat} (hd : n ∣ 64) (hn : n ≤ 16) : n = 1 ∨ n = 2 ∨ n = 4 ∨ n = 8 ∨ n = 16 := by
  have : n ∈ Nat.divisors 64 := Nat.mem_divisors.2 ⟨hd, by norm_num⟩
  rw [show Nat.divisors 64 = {1, 2, 4, 8, 16, 32, 64} by decide] at this
  simp only [Finset.mem_insert, Finset.mem_singleton] at this
  omega

/-- The words of an access lie in its line. -/
theorem wordsOf_line {pa n w : Nat} (hd : n ∣ 64) (hn : n ≤ 16) (hal : pa % n = 0) (h : w ∈ wordsOf pa n) : lineOf w = lineOf pa := by
  obtain ⟨k, hk, rfl⟩ := mem_wordsOf h
  unfold lineOf
  rcases divisors_64 hd hn with rfl | rfl | rfl | rfl | rfl <;> omega

/-! ### The address of a logged access -/

theorem txAddress_ok {s : State} {g n : Nat} {a : DWord} {k : Access} {e : TlbEntry} (hcanon : canonical57 a = true) (hal : a.toNat % n = 0)
    (hlook : s.lookup (coreOfGroup g) (s.ctxOf g) a = .hit e) (hcls : e.cls = 1 ∨ e.cls = 2) (hpermit : permit e k [1, 2] = none ∨ permit e k [1, 2] = some (.faultP, 4)) :
    s.txAddress g a n k = (.ok (e.pa a, e.cls.toNat), s) := by
  have hnow : s.lookupNow (coreOfGroup g) (s.ctxOf g) a = (.hit e, s) := by
    unfold State.lookupNow State.lookupWalked
    rw [hlook]
    simp
  have hany : (permit e k [1, 2]).any (fun f => f != (Cause.faultP, 4)) = false := by
    rcases hpermit with h | h <;> rw [h] <;> rfl
  unfold State.txAddress
  rw [hcanon, hnow]
  simp only [Bool.not_true, Bool.false_eq_true, if_false, hal, ne_eq, not_true_eq_false]
  rw [if_neg (by rcases hcls with h | h <;> rw [h] <;> decide), hany]
  simp

/-! ### The logs of a lane -/

/-- R267: a lane's log with words that it has loaded. -/
def TxLane.logReads (t : TxLane) (ws : List Nat) (value : Nat → Word) : TxLane :=
  { t with reads := t.reads ++ ws.map (fun w => ⟨w, value w, false⟩) }

theorem logReads_congr (t : TxLane) {ws : List Nat} {f g : Nat → Word} (h : ∀ w ∈ ws, f w = g w) : t.logReads ws f = t.logReads ws g := by
  unfold TxLane.logReads
  have : ws.map (fun w => (⟨w, f w, false⟩ : ReadEntry)) = ws.map (fun w => ⟨w, g w, false⟩) := List.map_congr_left fun w hw => by rw [h w hw]
  rw [this]

/-- R267: words in neither log enter the read log, with the values that they have. -/
theorem loadWords_fresh (value : Nat → Word) (ws : List Nat) (hnd : ws.Nodup) : ∀ (t : TxLane) (vs : List Word),
    (∀ w ∈ ws, (∀ x ∈ t.reads, x.pa ≠ w) ∧ ∀ x ∈ t.writes, x.pa ≠ w) →
    ws.foldl (fun (st : TxLane × List Word) w => ((st.1.loadWord w (value w)).2, st.2 ++ [(st.1.loadWord w (value w)).1])) (t, vs)
      = (t.logReads ws value, vs ++ ws.map value) := by
  induction ws with
  | nil => intro t vs _; simp [TxLane.logReads]
  | cons w ws ih =>
    intro t vs hfresh
    obtain ⟨hnw, hnd⟩ := List.nodup_cons.1 hnd
    obtain ⟨hreads, hwrites⟩ := hfresh w List.mem_cons_self
    have hr : t.reads.find? (fun r => r.pa == w && !r.isLocal) = none := List.find?_eq_none.2 fun x hx => by simp [hreads x hx]
    have hw : t.writes.find? (fun x => x.pa == w) = none := List.find?_eq_none.2 fun x hx => by simp [hwrites x hx]
    have hload : t.loadWord w (value w) = (value w, { t with reads := t.reads ++ [⟨w, value w, false⟩] }) := by
      unfold TxLane.loadWord
      rw [hr, hw]
    rw [List.foldl_cons, hload]
    dsimp only
    rw [ih hnd]
    · simp [TxLane.logReads]
    · intro v hv
      obtain ⟨hr, hw⟩ := hfresh v (List.mem_cons_of_mem _ hv)
      refine ⟨fun x hx => ?_, hw⟩
      rcases List.mem_append.1 hx with hx | hx
      · exact hr x hx
      · rw [List.mem_singleton.1 hx]
        exact fun h => hnw ((show w = v from h) ▸ hv)

/-- R267: words that are not in the write log enter it. -/
theorem storeWords_fresh (data : Nat × Nat → Word) (bytes : Nat × Nat → BitVec 4) (cls stamp : Nat) (ws : List (Nat × Nat)) (hnd : (ws.map Prod.fst).Nodup) :
    ∀ t : TxLane, (∀ w ∈ ws, ∀ x ∈ t.writes, x.pa ≠ w.1) →
    ws.foldl (fun (t : TxLane) w => t.storeWord w.1 (data w) (bytes w) cls stamp) t
      = { t with writes := t.writes ++ ws.map (fun w => ⟨w.1, data w, bytes w, cls, stamp⟩) } := by
  induction ws with
  | nil => intro t _; simp
  | cons w ws ih =>
    intro t hfresh
    obtain ⟨hnw, hnd⟩ := List.nodup_cons.1 hnd
    have hw : t.writes.find? (fun x => x.pa == w.1) = none := List.find?_eq_none.2 fun x hx => by simp [hfresh w List.mem_cons_self x hx]
    have hstore : t.storeWord w.1 (data w) (bytes w) cls stamp = { t with writes := t.writes ++ [⟨w.1, data w, bytes w, cls, stamp⟩] } := by
      unfold TxLane.storeWord
      rw [hw]
    rw [List.foldl_cons, hstore, ih hnd]
    · simp
    · intro v hv x hx
      rcases List.mem_append.1 hx with hx | hx
      · exact hfresh v (List.mem_cons_of_mem _ hv) x hx
      · rw [List.mem_singleton.1 hx]
        exact fun h => hnw ((show w.1 = v.1 from h) ▸ List.mem_map_of_mem hv)

/-! ### One lane of a logged load -/

/-- The word at an address, from the bytes of its line. -/
def L1Line.word (l : L1Line) (w : Nat) : Word := BitVec.ofNat 32 (lineElem l.bytes (w % 64) 4)

/-- R171, R267: the words that a logged load returns, from the words that it logs. -/
def loggedValues (pa n : Nat) (value : Nat → Word) : List Word :=
  if n < 4 then ((wordsOf pa n).map value).map (fun (w : Word) => (w >>> (8 * (pa % 4))) &&& BitVec.ofNat 32 (2 ^ (8 * n) - 1)) else (wordsOf pa n).map value

section
variable {s : State} {g L n : Nat} {a : DWord} {e : TlbEntry} (hn : n ≤ 16) (hd : n ∣ 64) (hcanon : canonical57 a = true) (hal : a.toNat % n = 0)
  (hlook : s.lookup (coreOfGroup g) (s.ctxOf g) a = .hit e) (hcls : e.cls = 1 ∨ e.cls = 2)
include hn hd hcanon hal hlook hcls

theorem txLoad_logs (i : Instr) (uid : Nat) (hr : e.r = true) (hwc : (s.cores.get (coreOfGroup g)).wc.held = false)
    (hroom : ((s.group g).tx.get L).reads.length + (n + 3) / 4 ≤ 16)
    (hfresh : ∀ w ∈ wordsOf (e.pa a) n, (∀ x ∈ ((s.group g).tx.get L).reads, x.pa ≠ w) ∧ ∀ x ∈ ((s.group g).tx.get L).writes, x.pa ≠ w)
    (hv : s.l1Valid (s.lineAt (coreOfGroup g) (lineOf (e.pa a))) = true) :
    ∃ t q settle, Lined s (coreOfGroup g) (lineOf (e.pa a)) { s.lineAt (coreOfGroup g) (lineOf (e.pa a)) with pol := q } t
      ∧ s.txLoad i g uid L a n = ((noteSettle t g uid settle).putTx g L
          (((s.group g).tx.get L).logReads (wordsOf (e.pa a) n) (s.lineAt (coreOfGroup g) (lineOf (e.pa a))).word),
        some (loggedValues (e.pa a) n (s.lineAt (coreOfGroup g) (lineOf (e.pa a))).word)) := by
  have hpermit : permit e .read [1, 2] = none := by
    unfold permit
    rcases hcls with h | h <;> simp [h, hr]
  have haddr := txAddress_ok (k := .read) hcanon hal hlook hcls (.inl hpermit)
  obtain ⟨q, hq⟩ := lined_polL1 s (coreOfGroup g) (lineOf (e.pa a)) (decide ((s.lineAt (coreOfGroup g) (lineOf (e.pa a))).st ≠ .invalid)) (polField i)
  have hpa : e.pa a % n = 0 := by rw [pa_mod hd]; exact hal
  have hcount : ¬ 16 < ((s.group g).tx.get L).reads.length + ((wordsOf (e.pa a) n).filter (fun w => !isLogged ((s.group g).tx.get L) w false)).length := by
    have := List.length_filter_le (fun w => !isLogged ((s.group g).tx.get L) w false) (wordsOf (e.pa a) n)
    rw [wordsOf_length] at this
    omega
  have hneeds : (wordsOf (e.pa a) n).any ((s.group g).tx.get L).needsMemory = true := by
    have hmem : e.pa a / 4 * 4 ∈ wordsOf (e.pa a) n := by
      refine List.mem_map.2 ⟨0, List.mem_range.2 ?_, rfl⟩
      rcases divisors_64 hd hn with rfl | rfl | rfl | rfl | rfl <;> norm_num
    obtain ⟨hreads, hwrites⟩ := hfresh _ hmem
    refine List.any_eq_true.2 ⟨_, hmem, ?_⟩
    unfold TxLane.needsMemory
    rw [List.any_eq_false.2 fun x hx => by simp [hreads x hx], List.any_eq_false.2 fun x hx => by simp [hwrites x hx]]
    rfl
  have hlog : s.logLine g uid (lineOf (e.pa a)) (polField i) = noteSettle (s.polL1 (coreOfGroup g) (lineOf (e.pa a))
      (decide ((s.lineAt (coreOfGroup g) (lineOf (e.pa a))).st ≠ .invalid)) (polField i)) g uid (s.lineAt (coreOfGroup g) (lineOf (e.pa a))).settle := by
    unfold State.logLine
    dsimp only
    rw [flushWcFor_empty _ hwc]
    exact if_pos hv
  refine ⟨_, q, (s.lineAt (coreOfGroup g) (lineOf (e.pa a))).settle, hq, ?_⟩
  have hword (w : Nat) (hw : w ∈ wordsOf (e.pa a) n) : (s.logLine g uid (lineOf (e.pa a)) (polField i)).coreWord (coreOfGroup g) w
      = (s.lineAt (coreOfGroup g) (lineOf (e.pa a))).word w := by
    have hl : ((s.logLine g uid (lineOf (e.pa a)) (polField i)).cores.get (coreOfGroup g)).l1.get (lineOf w)
        = { s.lineAt (coreOfGroup g) (lineOf (e.pa a)) with pol := q } := by
      rw [wordsOf_line hd hn hpa hw, hlog]
      exact (hq.lineAt _).trans (if_pos rfl)
    have hvalid : (s.logLine g uid (lineOf (e.pa a)) (polField i)).l1Valid { s.lineAt (coreOfGroup g) (lineOf (e.pa a)) with pol := q } = true := by
      rw [hlog]
      exact ((hq.quiet.trans (quiet_noteSettle ..)).l1Valid _).trans hv
    unfold State.coreWord
    rw [hl]
    exact congrArg (BitVec.ofNat 32) (if_pos hvalid)
  have hfold := loadWords_fresh (fun w => (s.logLine g uid (lineOf (e.pa a)) (polField i)).coreWord (coreOfGroup g) w) (wordsOf (e.pa a) n)
    (wordsOf_nodup _ _) ((s.group g).tx.get L) [] hfresh
  rw [logReads_congr _ hword, List.map_congr_left hword, List.nil_append] at hfold
  unfold State.txLoad
  rw [haddr]
  dsimp only
  rw [if_neg hcount, hneeds, if_pos rfl, hfold, ← hlog]
  rfl

end

/-! ### The words that return -/

theorem zipIdx_eq_range {α : Type} (l : List α) (d : α) : l.zipIdx = (List.range l.length).map (fun k => (l.getD k d, k)) := by
  refine List.ext_getElem (by simp) fun k h₁ h₂ => ?_
  have hk : k < l.length := by simpa using h₁
  simp [hk]

/-- Writing a list of words at a lane's keys, read back. -/
theorem get_putWords (ws : List Word) (hl : ws.length ≤ 4) (L : Nat) (m : Store Word) {K k : Nat} (hk : k < ws.length) :
    (ws.zipIdx.foldl (fun (g : Store Word) w => g.put (4 * L + w.2) w.1) m).get (4 * K + k) = if K = L then ws.getD k 0 else m.get (4 * K + k) := by
  have hput := get_putList ((List.range ws.length).map (fun k => 4 * L + k)) (fun key => ws.getD (key - 4 * L) 0) (4 * K + k) m
  rw [List.foldl_map] at hput
  simp only [Nat.add_sub_cancel_left] at hput
  rw [zipIdx_eq_range ws 0, List.foldl_map]
  refine hput.trans ?_
  by_cases hKL : K = L
  · subst hKL
    rw [if_pos (List.mem_map.2 ⟨k, List.mem_range.2 hk, rfl⟩), if_pos rfl, Nat.add_sub_cancel_left]
  · rw [if_neg hKL, if_neg]
    simp only [List.mem_map, List.mem_range, not_exists, not_and]
    omega

/-- Some bytes of a word are the word shifted and cut. -/
theorem joinBytes_part (f : Nat → Byte) {r n : Nat} (hn : n = 1 ∨ n = 2) (hr : r % n = 0) (hr4 : r < 4) :
    joinBytes ((List.range 4).map f) / 2 ^ (8 * r) % 2 ^ (8 * n) = joinBytes ((List.range n).map (fun i => f (r + i))) := by
  have hf (i : Nat) : (f i).toNat < 256 := (f i).isLt
  have h0 := hf 0
  have h1 := hf 1
  have h2 := hf 2
  have h3 := hf 3
  have h4 : joinBytes ((List.range 4).map f) = (f 0).toNat + 256 * ((f 1).toNat + 256 * ((f 2).toNat + 256 * (f 3).toNat)) := rfl
  rw [h4]
  rcases hn with rfl | rfl
  · have h : joinBytes ((List.range 1).map (fun i => f (r + i))) = (f r).toNat := by simp [joinBytes]
    rw [h]
    rcases (by omega : r = 0 ∨ r = 1 ∨ r = 2 ∨ r = 3) with rfl | rfl | rfl | rfl <;> omega
  · have h : joinBytes ((List.range 2).map (fun i => f (r + i))) = (f r).toNat + 256 * (f (r + 1)).toNat := rfl
    rw [h]
    rcases (by omega : r = 0 ∨ r = 2) with rfl | rfl <;> norm_num <;> omega

theorem joinBytes_lt (l : List Byte) : joinBytes l < 2 ^ (8 * l.length) := by
  induction l with
  | nil => simp [joinBytes]
  | cons b l ih =>
    have hb := b.isLt
    show b.toNat + 256 * joinBytes l < _
    rw [List.length_cons, Nat.mul_succ, Nat.pow_add]
    omega

/-- R171, R267: the words of a logged load are those of its line. -/
theorem loggedValues_line (l : L1Line) {pa n k : Nat} (hn : n ≤ 16) (hd : n ∣ 64) (hal : pa % n = 0) (hk : k < (n + 3) / 4) :
    (loggedValues pa n l.word).getD k 0 = BitVec.ofNat 32 (lineElem l.bytes (pa % 64 + 4 * k) (min 4 n)) := by
  have hword : (wordsOf pa n).map l.word = (List.range ((n + 3) / 4)).map (fun k => l.word (pa / 4 * 4 + 4 * k)) := by
    unfold wordsOf
    rw [List.map_map]; rfl
  unfold loggedValues
  by_cases h4 : n < 4
  · have hn' : n = 1 ∨ n = 2 := by rcases divisors_64 hd hn with h | h | h | h | h <;> omega
    have hk0 : k = 0 := by omega
    subst hk0
    have hoff : pa % 64 = pa / 4 * 4 % 64 + pa % 4 := by omega
    rw [if_pos h4, hword]
    have hget : (((List.range ((n + 3) / 4)).map (fun k => l.word (pa / 4 * 4 + 4 * k))).map
        (fun (w : Word) => (w >>> (8 * (pa % 4))) &&& BitVec.ofNat 32 (2 ^ (8 * n) - 1))).getD 0 0
        = (l.word (pa / 4 * 4) >>> (8 * (pa % 4))) &&& BitVec.ofNat 32 (2 ^ (8 * n) - 1) := by
      rcases hn' with rfl | rfl <;> rfl
    rw [hget]
    have hlt : joinBytes ((List.range 4).map (fun i => l.bytes.get (pa / 4 * 4 % 64 + i))) < 2 ^ 32 := by
      simpa using joinBytes_lt ((List.range 4).map (fun i => l.bytes.get (pa / 4 * 4 % 64 + i)))
    have hpart := joinBytes_part (fun i => l.bytes.get (pa / 4 * 4 % 64 + i)) (r := pa % 4) hn' (by rcases hn' with rfl | rfl <;> omega) (Nat.mod_lt _ (by norm_num))
    have helem : lineElem l.bytes (pa % 64 + 4 * 0) (min 4 n) = joinBytes ((List.range n).map (fun i => l.bytes.get (pa / 4 * 4 % 64 + (pa % 4 + i)))) := by
      unfold lineElem
      rw [Nat.min_eq_right (by omega), hoff]
      simp only [Nat.mul_zero, Nat.add_zero, Nat.add_assoc]
    rw [helem, ← hpart]
    refine BitVec.eq_of_toNat_eq ?_
    have hpow : 2 ^ (8 * n) - 1 < 2 ^ 32 := by rcases hn' with rfl | rfl <;> norm_num
    have hle : 2 ^ (8 * n) ≤ 2 ^ 32 := by rcases hn' with rfl | rfl <;> norm_num
    rw [BitVec.toNat_and, BitVec.toNat_ushiftRight, BitVec.toNat_ofNat, BitVec.toNat_ofNat, Nat.mod_eq_of_lt hpow, Nat.and_two_pow_sub_one_eq_mod,
      Nat.shiftRight_eq_div_pow, Nat.mod_eq_of_lt (lt_of_lt_of_le (Nat.mod_lt _ (by positivity)) hle)]
    unfold L1Line.word lineElem
    rw [BitVec.toNat_ofNat, Nat.mod_eq_of_lt hlt]
  · have hoff : (pa / 4 * 4 + 4 * k) % 64 = pa % 64 + 4 * k := by
      rcases divisors_64 hd hn with rfl | rfl | rfl | rfl | rfl <;> omega
    rw [if_neg h4, hword, Nat.min_eq_left (by omega)]
    simp only [List.getD_eq_getElem?_getD, List.getElem?_map, List.getElem?_range hk, Option.map_some, Option.getD_some]
    unfold L1Line.word
    rw [hoff]

/-! ### All lanes of a logged load -/

/-- R267: where a logged load stands after some of its lanes. -/
structure LoggedLanes (w : State) (i g n : Nat) (pa : Nat → Nat) (done : List Nat) (st : State) : Prop where
  logs : Logs w st
  wc : (st.cores.get (coreOfGroup g)).wc.held = false
  op : { st.op i with have_ := (w.op i).have_, got := (w.op i).got } = w.op i
  have_ : ∀ L, L < 32 → inMask (st.op i).have_ L = (inMask (w.op i).have_ L || decide (L ∈ done))
  got : ∀ L ∈ done, ∀ k, k < (n + 3) / 4 → (st.op i).got.get (4 * L + k)
    = BitVec.ofNat 32 (lineElem (w.lineAt (coreOfGroup g) (lineOf (pa L))).bytes (pa L % 64 + 4 * k) (min 4 n))
  lines : ∀ line, ∃ q, st.lineAt (coreOfGroup g) line = { w.lineAt (coreOfGroup g) line with pol := q }
  tx : ∀ L, (st.group g).tx.get L = if L ∈ done then
      ((w.group g).tx.get L).logReads (wordsOf (pa L) n) (w.lineAt (coreOfGroup g) (lineOf (pa L))).word
    else (w.group g).tx.get L

/-- R195, R267: a lane whose load can be logged. -/
structure CanLogLoad (w : State) (g n : Nat) (a : DWord) (e : TlbEntry) (L : Nat) : Prop where
  canon : canonical57 a = true
  aligned : a.toNat % n = 0
  look : w.lookup (coreOfGroup g) (w.ctxOf g) a = .hit e
  cls : e.cls = 1 ∨ e.cls = 2
  read : e.r = true
  room : ((w.group g).tx.get L).reads.length + (n + 3) / 4 ≤ 16
  fresh : ∀ x ∈ wordsOf (e.pa a) n, (∀ r ∈ ((w.group g).tx.get L).reads, r.pa ≠ x) ∧ ∀ r ∈ ((w.group g).tx.get L).writes, r.pa ≠ x
  held : w.l1Valid (w.lineAt (coreOfGroup g) (lineOf (e.pa a))) = true

theorem word_pol (l : L1Line) (q : BitVec 2) : ({ l with pol := q } : L1Line).word = l.word := rfl

theorem tx_lined {s t : State} {core line : Nat} {l : L1Line} (h : Lined s core line l t) (g u b K : Nat) :
    ((noteSettle t g u b).group g).tx.get K = (s.group g).tx.get K := by
  have hq := h.quiet.trans (quiet_noteSettle t g u b)
  exact congrArg (fun m : Store TxLane => m.get K) (congrArg Group.tx (congrFun hq.bare g) :)

section
variable {w st : State} {i n L : Nat} {done : List Nat} {addr : Nat → DWord} {e : Nat → TlbEntry} {h : Shape} (hb : h.bytes = n) (hn : n ≤ 16) (hd : n ∣ 64)
  (hwatch : (w.launchOf w.focus.grp).watches = [])
include hb hn hd hwatch

theorem loggedLanes_step (hL : L ∉ done) (hc : CanLogLoad w w.focus.grp n (addr L) (e L) L)
    (hl : LoggedLanes w i w.focus.grp n (fun L => (e L).pa (addr L)) done st) :
    LoggedLanes w i w.focus.grp n (fun L => (e L).pa (addr L)) (done ++ [L]) (st.txLoadLane h i L (addr L)) := by
  subst hb
  have hpa : (e L).pa (addr L) % h.bytes = 0 := by rw [pa_mod hd]; exact hc.aligned
  have htx : (st.group w.focus.grp).tx.get L = (w.group w.focus.grp).tx.get L := (hl.tx L).trans (if_neg hL)
  obtain ⟨q, hq⟩ := hl.lines (lineOf ((e L).pa (addr L)))
  obtain ⟨t, r, settle, ht, hgo⟩ := txLoad_logs (s := st) (g := w.focus.grp) (L := L) hn hd hc.canon hc.aligned
    (by rw [hl.logs.lookup, hl.logs.ctxOf]; exact hc.look) hc.cls (st.op i).instr w.focus.uid hc.read hl.wc (by rw [htx]; exact hc.room)
    (by rw [htx]; exact hc.fresh) (by rw [hq, hl.logs.l1Valid]; exact hc.held)
  rw [hq, word_pol, htx] at hgo
  generalize hx : ((w.group w.focus.grp).tx.get L).logReads (wordsOf ((e L).pa (addr L)) h.bytes)
    (w.lineAt (coreOfGroup w.focus.grp) (lineOf ((e L).pa (addr L)))).word = x at hgo
  have hquiet : Quiet st (noteSettle t w.focus.grp w.focus.uid settle) := ht.quiet.trans (quiet_noteSettle ..)
  have hlogs : Logs w ((noteSettle t w.focus.grp w.focus.uid settle).putTx w.focus.grp L x) := (hl.logs.trans hquiet.logs).trans (logs_putTx ..)
  have hstep : st.txLoadLane h i L (addr L) = ((noteSettle t w.focus.grp w.focus.uid settle).putTx w.focus.grp L x).onOp i (fun o => { o with
      have_ := o.have_ ||| maskOf (fun K => K == L)
      got := (loggedValues ((e L).pa (addr L)) h.bytes (w.lineAt (coreOfGroup w.focus.grp) (lineOf ((e L).pa (addr L)))).word).zipIdx.foldl
        (fun (g : Store Word) w => g.put (4 * L + w.2) w.1) o.got }) := by
    unfold State.txLoadLane
    rw [hl.logs.focus, hgo]
    dsimp only
    rw [watch_none (by rw [hlogs.launchOf]; exact hwatch)]
  have hop : (st.txLoadLane h i L (addr L)).op i = { st.op i with
      have_ := (st.op i).have_ ||| maskOf (fun K => K == L)
      got := (loggedValues ((e L).pa (addr L)) h.bytes (w.lineAt (coreOfGroup w.focus.grp) (lineOf ((e L).pa (addr L)))).word).zipIdx.foldl
        (fun (g : Store Word) w => g.put (4 * L + w.2) w.1) (st.op i).got } := by
    rw [hstep, op_onOp, show ((noteSettle t w.focus.grp w.focus.uid settle).putTx w.focus.grp L x).op i = st.op i from congrArg (fun m : Store Op => m.get i) ht.ops]
  have hlen : (loggedValues ((e L).pa (addr L)) h.bytes (w.lineAt (coreOfGroup w.focus.grp) (lineOf ((e L).pa (addr L)))).word).length = (h.bytes + 3) / 4 := by
    unfold loggedValues
    split <;> simp [wordsOf_length]
  refine ⟨?_, ?_, ?_, fun K hK => ?_, fun K hK k hk => ?_, fun line => ?_, fun K => ?_⟩
  · rw [hstep]
    exact hlogs.trans (quiet_onOp _ _ _).logs
  · rw [hstep]
    exact (congrArg WcBuffer.held (ht.wc (coreOfGroup w.focus.grp))).trans hl.wc
  · rw [hop]; exact hl.op
  · rw [hop, inMask_or, inMask_maskOf, hl.have_ K hK]
    by_cases hKL : K = L
    · subst hKL; simp [hK]
    · simp [hKL]
  · rw [hop]
    refine (get_putWords _ (by rw [hlen]; omega) L _ (by rw [hlen]; exact hk)).trans ?_
    by_cases hKL : K = L
    · subst hKL
      rw [if_pos rfl]
      exact loggedValues_line _ hn hd hpa hk
    · rw [if_neg hKL]
      exact hl.got K ((List.mem_append.1 hK).resolve_right (by simp [hKL])) k hk
  · obtain ⟨p, hp⟩ := hl.lines line
    rw [hstep]
    have hline : (((noteSettle t w.focus.grp w.focus.uid settle).putTx w.focus.grp L x).lineAt (coreOfGroup w.focus.grp) line) = t.lineAt (coreOfGroup w.focus.grp) line := rfl
    show ∃ q, ((noteSettle t w.focus.grp w.focus.uid settle).putTx w.focus.grp L x).lineAt (coreOfGroup w.focus.grp) line = _
    rw [hline, ht.lineAt]
    split
    · next hl' => subst hl'; exact ⟨r, by rw [hp]⟩
    · exact ⟨p, hp⟩
  · rw [hstep]
    refine (tx_putTx _ _ _ _ _).trans ?_
    rw [tx_lined ht, hl.tx K]
    by_cases hKL : K = L
    · subst hKL; simp [hx]
    · simp [hKL]

end

/-- A pass of lanes with open transactions logs its access (R195). -/
theorem plainAccess_logs {s : State} {i : Instr} {la : BitVec 4} {h : Shape} {addr : State → Nat → DWord} (hs : shapeOf i = some h)
    (hm : s.focus.mask ≠ 0) (hopen : s.focus.mask &&& ~~~s.cur.txOpen = 0)
    (hlook : ∀ L ∈ lanesOf s.focus.mask, s.lookup s.curCore (s.ctxOf s.focus.grp) (addr s L) ≠ .miss)
    (herr : s.txErrors h ((lanesOf s.focus.mask).map (fun L => (L, addr s L))) = []) :
    plainAccess i la addr s = .next (
      if h.move = .load then s.txLoads i la h s.focus.mask (addr s)
      else if h.move = .store then (s.txStores h s.focus.mask (addr s) (fun L => ({ data := s.takeData s.focus.mask (BitVec.ofNat 6 h.d) h.regs } : Op).lane h.regs L)).stampStore
      else s.txStores h s.focus.mask (addr s) (fun L => ({ data := s.takeData s.focus.mask (BitVec.ofNat 6 h.d) h.regs } : Op).lane h.regs L)) := by
  have hmask : s.focus.mask &&& s.cur.txOpen = s.focus.mask := by
    ext k hk
    have := congrArg (fun x => x.getLsbD k) hopen
    simp [hk] at this ⊢
    exact this
  have hwait : s.walkerWait ((lanesOf s.focus.mask).map (addr s)) = false := by
    unfold State.walkerWait
    rw [Bool.and_eq_false_iff]
    refine .inr (List.any_eq_false.2 fun a ha => ?_)
    obtain ⟨L, hL, rfl⟩ := List.mem_map.1 ha
    simp [hlook L hL]
  have halign (k : Out) : alignCheck s h.bytes [] k = k := rfl
  have hfault : s.laneFault h [] = none := rfl
  unfold plainAccess
  rw [hs]
  simp only
  rw [if_neg hm, hopen, hmask, show lanesOf (0 : Mask) = [] from lanesOf_zero, List.map_nil, halign, if_neg (by rw [hwait]; simp), if_neg hm, hfault, herr]
  simp only [if_true]
  by_cases hl : h.move = .load
  · simp [hl]
  · simp [hl]

section
variable {i : Instr} {la : BitVec 4} {h : Shape} {addr : State → Nat → DWord} (hs : shapeOf i = some h) (hn : h.bytes ≤ 16) (hd : h.bytes ∣ 64)
  (hexec : ∀ s, exec i s = plainAccess i la addr s)
include hs hn hd hexec

/-- R195, R267: logged loads. -/
theorem loggedLoads_of_plain (hm : h.move = .load) (hregs : h.regs = (h.bytes + 3) / 4) : LoggedLoads i h.bytes h.regs addr := by
  intro s e hlog hheld
  obtain ⟨hmask, hopen, hwc, hwatch, hlane⟩ := hlog
  have herr : s.txErrors h ((lanesOf s.focus.mask).map (fun L => (L, addr s L))) = [] := by
    unfold State.txErrors
    rw [if_neg (by rw [hm]; simp)]
    refine List.filterMap_eq_nil_iff.2 fun x hx => ?_
    obtain ⟨L, hL, rfl⟩ := List.mem_map.1 hx
    obtain ⟨hlt, hin⟩ := mem_lanesOf.1 hL
    obtain ⟨hc, hal, hlook, hcls, hr, -⟩ := hlane L hlt hin
    have hpermit : permit (e L) .read [1, 2] = none := by
      unfold permit
      rcases hcls with h | h <;> simp [h, hr.1]
    rw [txAddress_ok hc hal hlook hcls (.inl hpermit)]
    dsimp only
    rw [(hheld L hlt hin).2]
    split <;> rfl
  have hrun := plainAccess_logs (la := la) (addr := addr) hs hmask hopen (fun L hL => by
    rw [(hlane L (mem_lanesOf.1 hL).1 (mem_lanesOf.1 hL).2).2.2.1]; simp) herr
  rw [if_pos hm] at hrun
  obtain ⟨hop, -, -, -, -⟩ := newOp_op s { s.opHere i s.focus.mask with status := .accepted } la.toNat
  have hbare : (s.newOp { s.opHere i s.focus.mask with status := .accepted } la.toNat).1.bare = s.bare := bare_newOp s _ _
  have hrest : { (s.newOp { s.opHere i s.focus.mask with status := .accepted } la.toNat).1 with groups := s.groups, ops := s.ops, nextOp := s.nextOp } = s := rfl
  generalize hw : (s.newOp { s.opHere i s.focus.mask with status := .accepted } la.toNat).1 = w at hop hbare hrest
  have hfocus : w.focus = s.focus := (congrArg State.focus hrest :)
  have hcores : w.cores = s.cores := (congrArg State.cores hrest :)
  have htx : (w.group s.focus.grp).tx = (s.group s.focus.grp).tx := (congrArg Group.tx (congrFun hbare s.focus.grp) :)
  have hblock (g : Nat) : (w.group g).block = (s.group g).block := (congrArg Group.block (congrFun hbare g) :)
  have hblocks : w.blocks = s.blocks := (congrArg State.blocks hrest :)
  have hctx (g : Nat) : w.ctxOf g = s.ctxOf g := by unfold State.ctxOf State.blockOf; rw [hblock, hblocks]
  have hlaunch (g : Nat) : w.launchOf g = s.launchOf g := by
    unfold State.launchOf State.blockOf
    rw [hblock, hblocks, show w.launches = s.launches from (congrArg State.launches hrest :)]
  have hlineAt (core line : Nat) : w.lineAt core line = s.lineAt core line := by unfold State.lineAt; rw [hcores]
  have hvalid (l : L1Line) : w.l1Valid l = s.l1Valid l := by unfold State.l1Valid; rw [show w.now = s.now from (congrArg State.now hrest :)]
  have hcan (L : Nat) (hL : L ∈ lanesOf s.focus.mask) : CanLogLoad w w.focus.grp h.bytes (addr s L) (e L) L := by
    obtain ⟨hlt, hin⟩ := mem_lanesOf.1 hL
    obtain ⟨hc, hal, hlook, hcls, hr, hfresh⟩ := hlane L hlt hin
    have hlog : (w.group w.focus.grp).tx.get L = s.cur.tx.get L := by rw [hfocus, htx]; rfl
    refine ⟨hc, hal, ?_, hcls, hr.1, by rw [hlog]; exact hr.2, by rw [hlog]; exact hfresh, ?_⟩
    · rw [hctx, hfocus]
      exact (congrArg (fun x : State => x.lookup s.curCore (s.ctxOf s.focus.grp) (addr s L)) hrest :).trans hlook
    · rw [hvalid, hlineAt, hfocus]
      exact (hheld L hlt hin).1
  have hall : LoggedLanes w s.nextOp w.focus.grp h.bytes (fun L => (e L).pa (addr s L)) (lanesOf s.focus.mask)
      ((lanesOf s.focus.mask).foldl (fun st L => st.txLoadLane h s.nextOp L (addr s L)) w) := by
    refine foldl_upto_nodup (lanesOf_nodup _) (LoggedLanes w s.nextOp w.focus.grp h.bytes (fun L => (e L).pa (addr s L))) (fun done L st hL hnew hst => ?_) ?_
    · exact loggedLanes_step rfl hn hd (by rw [hlaunch, hfocus]; exact hwatch) hnew (hcan L hL) hst
    · exact ⟨Logs.refl w, by rw [hcores, hfocus]; exact hwc, rfl, by simp, by simp, fun line => ⟨_, rfl⟩, by simp⟩
  have hloads : s.txLoads i la h s.focus.mask (addr s) = (((lanesOf s.focus.mask).foldl (fun st L => st.txLoadLane h s.nextOp L (addr s L)) w).onOp s.nextOp
      (fun o => { o with mask := o.have_ })).post (.loadDataReturn s.nextOp) := by
    unfold State.txLoads
    rw [if_neg hmask, ← hw]; rfl
  rw [hloads] at hrun
  generalize (lanesOf s.focus.mask).foldl (fun st L => st.txLoadLane h s.nextOp L (addr s L)) w = v at hall hrun
  obtain ⟨hlogs, -, hvop, hvhave, hvgot, -, hvtx⟩ := hall
  have hlast : Logs w ((v.onOp s.nextOp (fun o => { o with mask := o.have_ })).post (.loadDataReturn s.nextOp)) :=
    hlogs.trans ((quiet_onOp v s.nextOp (fun o => { o with mask := o.have_ })).trans (quiet_post _ _)).logs
  have hopt : ((v.onOp s.nextOp (fun o => { o with mask := o.have_ })).post (.loadDataReturn s.nextOp)).op s.nextOp
      = { v.op s.nextOp with mask := (v.op s.nextOp).have_ } := op_onOp v s.nextOp (fun o => { o with mask := o.have_ })
  have hhave : (v.op s.nextOp).have_ = s.focus.mask := BitVec.eq_of_getLsbD_eq fun L hL => by
    show inMask _ L = inMask _ L
    rw [hvhave L hL, hop]
    simp [State.opHere, mem_lanesOf, hL, inMask]
  rw [hop] at hvop
  refine ⟨_, (hexec s).trans hrun, fun g => ?_, fun a => (hlast.sameBytes a).trans (congrArg (fun x : State => x.byteAt a) hrest :),
    List.mem_append_right _ (List.mem_singleton.2 rfl), ?_, fun L hL hin => ?_⟩
  · have hgroup : (((v.onOp s.nextOp (fun o => { o with mask := o.have_ })).post (.loadDataReturn s.nextOp)).group g).unlogged = (s.group g).unlogged :=
      (hlast.group g).trans (congrArg (fun k : Group => { k with tx := [] }) (congrFun hbare g) :)
    exact (congrArg (fun k : Group => { k with ent := (s.group g).ent, spill := (s.group g).spill, stamp := (s.group g).stamp, tx := (s.group g).tx }) hgroup :)
  · rw [hopt]
    exact ⟨(congrArg Op.live hvop :), (congrArg Op.instr hvop :), hhave, hhave, (congrArg Op.status hvop :)⟩
  · have hmem := mem_lanesOf.2 ⟨hL, hin⟩
    have hcur : ((v.onOp s.nextOp (fun o => { o with mask := o.have_ })).post (.loadDataReturn s.nextOp)).cur = v.group s.focus.grp := by
      show v.group v.focus.grp = _
      rw [hlogs.focus, hfocus]
    have hvL := hvtx L
    rw [if_pos hmem, hfocus, hlineAt, htx] at hvL
    refine ⟨?_, fun k hk => ?_⟩
    · rw [hcur, hvL]; rfl
    · rw [hopt]
      refine (hvgot L hmem k (by omega)).trans ?_
      rw [hlineAt, hfocus]; rfl

end

end Sys2Proof.Machine
end

section
/-! ## LDG and LDA at issue -/

namespace Sys2Proof.Machine

/-- R195: in lanes that all have open transactions nothing is left to act. -/
theorem plainLanes_all_open (s : State) (f : State → Mask → Out) (h : s.focus.mask &&& ~~~s.cur.txOpen = 0) :
    plainLanes s s.focus.mask f = .next (s.doom s.focus.mask 5) := by
  unfold plainLanes State.doom5
  exact if_pos h

theorem dooms_strong {i : Instr} {la : BitVec 4} {h : Shape} {addr : State → Nat → DWord} (hs : shapeOf i = some h)
    (hexec : ∀ s, exec i s = strongAccess i la addr s) : Dooms i := fun s hopen => by
  rw [hexec]
  unfold strongAccess
  rw [hs]
  exact plainLanes_all_open s _ hopen

/-- What every LDG does at issue. -/
def PlainLoad (i : Instr) (la : BitVec 4) (n regs : Nat) (addr : State → Nat → DWord) : Prop :=
  LoadIssues i la n regs false addr ∧ PrivateLoads i la n regs addr ∧ LoggedLoads i n regs addr
  ∧ if n = 16 then RegisterFaults i 16 true false addr else RegisterIssues i la n false addr

/-- What every LDA does at issue. -/
def StrongLoad (i : Instr) (la : BitVec 4) (n regs : Nat) (addr : State → Nat → DWord) : Prop :=
  LoadIssues i la n regs true addr ∧ PrivateLoads i la n regs addr ∧ RegisterIssues i la n false addr ∧ Dooms i

section
variable {i : Instr} {la : BitVec 4} {addr : State → Nat → DWord} {n d regs : Nat} {sg : Bool} (hs : shapeOf i = some ⟨.load, n, d, regs, sg⟩)
  (hd : n ∣ 64) (hn : n ≤ 16) (hregs : regs = (n + 3) / 4)
include hs hd hn hregs

theorem plainLoad_of_exec (hexec : ∀ s, exec i s = plainAccess i la addr s) (hlda : isLda i = false) :
    PlainLoad i la n regs addr := by
  have hstart := startsAccess_plain (addr := addr) hs hexec hlda
  have hclasses : classesFor .load n = if n = 16 then [0, 1, 2] else [0, 1, 2, 3] := rfl
  refine ⟨loadIssues_of_starts hs rfl hstart hn hregs ?_ (fun h => nomatch h), privateLoads_of_starts hs rfl hstart hn hd hregs ?_,
    loggedLoads_of_plain hs hn hd hexec rfl hregs, ?_⟩
  · rw [hclasses]
    split <;> exact ⟨rfl, rfl⟩
  · rw [hclasses]
    split <;> rfl
  · split
    · next h16 => subst h16; exact registerFaults_of_starts (rd := true) (wr := false) hs hlda hstart rfl rfl
    · next h16 =>
      refine registerIssues_load hs rfl hstart ?_
      rw [hclasses, if_neg h16]; rfl

theorem strongLoad_of_exec (hexec : ∀ s, exec i s = strongAccess i la addr s) (haddr : ∀ s u, Restamped s u → addr u = addr s) (hlda : isLda i = true) (h16 : n ≠ 16) :
    StrongLoad i la n regs addr := by
  have hstart := startsAccess_strong (addr := addr) hs hexec haddr
  have hclasses : classesFor .load n = [0, 1, 2, 3] := if_neg h16
  exact ⟨loadIssues_of_starts hs rfl hstart hn hregs (by rw [hclasses]; exact ⟨rfl, rfl⟩) (fun _ => hlda),
    privateLoads_of_starts hs rfl hstart hn hd hregs (by rw [hclasses]; rfl), registerIssues_load hs rfl hstart (by rw [hclasses]; rfl), dooms_strong hs hexec⟩

end

theorem ldg_issues (la : BitVec 4) (d a : Reg) (sp : BitVec 5) (m : Bool) (p : BitVec 2) : let at_ := fun (s : State) L => s.addrM sp m a L
    PlainLoad (.ldgSb la d a sp m p) la 1 1 at_ ∧ PlainLoad (.ldgZb la d a sp m p) la 1 1 at_
    ∧ PlainLoad (.ldgSh la d a sp m p) la 2 1 at_ ∧ PlainLoad (.ldgZh la d a sp m p) la 2 1 at_
    ∧ PlainLoad (.ldgW la d a sp m p) la 4 1 at_ ∧ PlainLoad (.ldgD la d a sp m p) la 8 2 at_ ∧ PlainLoad (.ldgQ la d a sp m p) la 16 4 at_ :=
  ⟨plainLoad_of_exec rfl (by decide) (by decide) rfl (fun _ => rfl) rfl, plainLoad_of_exec rfl (by decide) (by decide) rfl (fun _ => rfl) rfl,
    plainLoad_of_exec rfl (by decide) (by decide) rfl (fun _ => rfl) rfl, plainLoad_of_exec rfl (by decide) (by decide) rfl (fun _ => rfl) rfl,
    plainLoad_of_exec rfl (by decide) (by decide) rfl (fun _ => rfl) rfl, plainLoad_of_exec rfl (by decide) (by decide) rfl (fun _ => rfl) rfl,
    plainLoad_of_exec rfl (by decide) (by decide) rfl (fun _ => rfl) rfl⟩

theorem lda_issues (la : BitVec 4) (d a : Reg) (sp : BitVec 5) (m : Bool) (c : BitVec 2) : let at_ := fun (s : State) L => s.addrM sp m a L
    StrongLoad (.ldaW la d a sp m c) la 4 1 at_ ∧ StrongLoad (.ldaD la d a sp m c) la 8 2 at_ :=
  ⟨strongLoad_of_exec rfl (by decide) (by decide) rfl (fun _ => rfl) (addrM_restamped sp m a) rfl (by decide),
    strongLoad_of_exec rfl (by decide) (by decide) rfl (fun _ => rfl) (addrM_restamped sp m a) rfl (by decide)⟩

/-- Settles O30, through what a load does lane by lane at its L1 (`loadedLanes_all`, `privateLanes_all`, `registerLanes_all`) and in the
read log (`loggedLanes_step`). -/
theorem loadsIssue : Obligations.LoadsIssue := by
  refine ⟨fun la d a sp m p => ?_, ?_⟩
  · obtain ⟨sb, zb, sh, zh, w, dw, q⟩ := ldg_issues la d a sp m p
    obtain ⟨aw, ad⟩ := lda_issues la d a sp m p
    simp only [List.forall_mem_cons]
    exact ⟨⟨sb.2, zb.2, sh.2, zh.2, w.2, dw.2, q.2, List.forall_mem_nil _⟩, aw.2, ad.2, List.forall_mem_nil _⟩
  · refine ⟨?_, ?_, ?_, ?_, ?_, ?_, ?_, fun la d a sp m c => (lda_issues la d a sp m c).1.1, fun la d a sp m c => (lda_issues la d a sp m c).2.1⟩ <;>
      intro la d a sp m p <;> obtain ⟨sb, zb, sh, zh, w, dw, q⟩ := ldg_issues la d a sp m p
    exacts [sb.1, zb.1, sh.1, zh.1, w.1, dw.1, q.1]

end Sys2Proof.Machine
end

section
/-! ## Stores at issue (R171, R172, R229–R231, R237) -/

namespace Sys2Proof.Machine

/-! ### Bytes laid over others -/

theorem laid_append (xs ys : List (Nat × Byte)) (old : Nat → Byte) (a : Nat) : laid (xs ++ ys) old a = laid ys (laid xs old) a := by
  unfold laid
  rw [List.reverse_append, List.find?_append]
  cases ys.reverse.find? (fun x => x.1 == a) <;> rfl

theorem laid_congr {bs : List (Nat × Byte)} {f g : Nat → Byte} {a : Nat} (h : f a = g a) : laid bs f a = laid bs g a := by
  unfold laid
  split
  · rfl
  · exact h

/-- Within a line an address is its offset. -/
theorem laid_offsets {bs : List (Nat × Byte)} {a : Nat} (hbs : ∀ x ∈ bs, lineOf x.1 = lineOf a) (f : Nat → Byte) :
    laid (bs.map (fun e => (e.1 % 64, e.2))) f (a % 64) = laid bs (fun _ => f (a % 64)) a := by
  have hkey (x : Nat × Byte) (hx : x ∈ bs.reverse) : (x.1 % 64 == a % 64) = (x.1 == a) := by
    have := hbs x (List.mem_reverse.1 hx)
    unfold lineOf at this
    rw [Bool.eq_iff_iff, beq_iff_eq, beq_iff_eq]
    omega
  have hfind : (bs.map (fun e => (e.1 % 64, e.2))).reverse.find? (fun x => x.1 == a % 64)
      = (bs.reverse.find? (fun x => x.1 == a)).map (fun e => (e.1 % 64, e.2)) := by
    rw [← List.map_reverse, List.find?_map]
    congr 1
    exact List.find?_congr hkey
  unfold laid
  rw [hfind]
  cases bs.reverse.find? (fun x => x.1 == a) <;> rfl

/-! ### An access that every lane is allowed -/

/-- R98, R101, R167, R168: an access that is allowed in every lane acts, in a state in which it is outstanding. -/
theorem access_starts {s : State} {i : Instr} {la : BitVec 4} {h : Shape} {addr : State → Nat → DWord} {e : Nat → TlbEntry} {cls : BitVec 2 → Bool} {rd wr : Bool}
    (hs : shapeOf i = some h) (hlda : isLda i = false) (hstart : StartsAccess i la h addr) (hreach : Reaches s h.bytes rd wr cls (addr s) e)
    (hpermit : ∀ t : TlbEntry, cls t.cls = true → (rd = true → t.r = true) → (wr = true → t.w = true ∧ t.cow = false) →
      permit t (accessFor h.move) (classesFor h.move h.bytes) = none) :
    ∃ w, Ready s w i la h (addr s) e ∧ exec i s = .next (w.launchOp s.nextOp h) := by
  obtain ⟨hmask, htx, -, -, -, hlane⟩ := id hreach
  obtain ⟨u, hu, hexec⟩ := hstart s hmask htx (fun L hL hin => (hlane L hL hin).2.1)
  obtain ⟨w, hbegin, hready⟩ := begin_ready la hu hs hreach hpermit
  refine ⟨w, hready, hexec.trans ?_⟩
  rw [hbegin]
  exact congrArg Host.Outcome.next (if_neg (by rw [hlda]; simp))

theorem permit_store {t : TlbEntry} {n : Nat} (hc : (classesFor .store n).contains t.cls.toNat = true) (hw : t.w = true ∧ t.cow = false) :
    permit t (accessFor .store) (classesFor .store n) = none := by
  unfold permit accessFor
  dsimp only
  rw [hc, hw.1, hw.2]
  rfl

theorem lanesOf_ne_nil {m : Mask} (hm : m ≠ 0) : lanesOf m ≠ [] := fun hl => hm ((mask_eq_zero_iff m).2 fun L hL => Bool.eq_false_iff.2 fun hin => by
  have := mem_lanesOf.2 ⟨hL, hin⟩
  rw [hl] at this
  cases this)

/-! ### The bytes of a lane -/

/-- The bytes that the lanes of a list store. -/
def Op.bytesOf (o : Op) (h : Shape) (ls : List Nat) : List (Nat × Byte) := ls.flatMap (fun L => o.laneBytes h L)

theorem bytesOf_append (o : Op) (h : Shape) (ls : List Nat) (L : Nat) : o.bytesOf h (ls ++ [L]) = o.bytesOf h ls ++ o.laneBytes h L := by
  unfold Op.bytesOf
  rw [List.flatMap_append, List.flatMap_singleton]

theorem splitBytes_length (v n : Nat) : (splitBytes v n).length = n := by simp [splitBytes]

theorem mem_laneBytes {o : Op} {h : Shape} {L : Nat} {x : Nat × Byte} (hx : x ∈ o.laneBytes h L) : ∃ j, j < h.bytes ∧ x.1 = o.pa.get L + j := by
  obtain ⟨⟨b, j⟩, hb, rfl⟩ := List.mem_map.1 hx
  have := (List.mem_zipIdx hb).2.1
  rw [splitBytes_length] at this
  exact ⟨j, by omega, rfl⟩

theorem laneBytes_line {o : Op} {h : Shape} {L : Nat} (hd : h.bytes ∣ 64) (hal : o.pa.get L % h.bytes = 0) {x : Nat × Byte} (hx : x ∈ o.laneBytes h L) :
    lineOf x.1 = lineOf (o.pa.get L) := by
  obtain ⟨j, hj, hxj⟩ := mem_laneBytes hx
  rw [hxj]
  exact (lineOf_add hd hal hj).1

/-- What the lanes of a ready access store, from the registers of the state at issue. -/
theorem bytesOf_ready {s w : State} {i : Instr} {la : BitVec 4} {h : Shape} {addr : Nat → DWord} {e : Nat → TlbEntry} {d : Reg} (hr : Ready s w i la h addr e)
    (hm : h.move ≠ .load) (hregs : h.regs ≤ 4) (hd : h.d = d.toNat) :
    (w.op s.nextOp).bytesOf h (lanesOf s.focus.mask) = lanesBytes s.focus.mask (fun L => (e L).pa (addr L)) h.bytes (regsValue s d h.regs) := by
  have hreg : (BitVec.ofNat 6 h.d).toNat = d.toNat := by rw [hd]; simp
  unfold Op.bytesOf lanesBytes
  refine List.flatMap_congr fun L hL => ?_
  obtain ⟨hlt, hin⟩ := mem_lanesOf.1 hL
  have hlane : (w.op s.nextOp).lane h.regs L = regsValue s d h.regs L := by
    unfold Op.lane regsValue
    congr 1
    refine List.map_congr_left fun k hk => ?_
    rw [hr.data hm hregs L k hlt (List.mem_range.1 hk) hin, hreg]
  unfold Op.laneBytes
  rw [hlane, show (w.op s.nextOp).pa.get L = (e L).pa (addr L) from hr.pa hL]

/-! ### Acceptance, lane by lane -/

/-- Some lanes of a store have been accepted: only lines and the split have changed. -/
structure StoreFrame (w st : State) (core : Nat) : Prop where
  quiet : Quiet w st
  wc : (st.cores.get core).wc.held = false
  ops : st.ops = w.ops

theorem StoreFrame.lined {w st t : State} {core line : Nat} {l : L1Line} (hf : StoreFrame w st core) (h : Lined st core line l t) : StoreFrame w t core :=
  ⟨hf.quiet.trans h.quiet, by rw [h.wc]; exact hf.wc, h.ops.trans hf.ops⟩

/-- The acceptance of one lane of a store, by the class of its page. -/
def State.storeLane (s : State) (o : Op) (h : Shape) (st : State × Bool) (L : Nat) : State × Bool :=
  let core := coreOfGroup o.grp
  let line := lineOf (o.pa.get L)
  let kept (t : State) : State := t.polL1 core line (decide (((st.1.cores.get core).l1.get line).st ≠ .invalid)) (polField o.instr)
  if o.cls.get L = 0 then (kept (((st.1.flushWcFor core line).fillPrivate core (s.ctxOf o.grp) line).l1Update core line (o.laneBytes h L)), st.2)
  else if o.cls.get L = 3 then (st.1, true)
  else if isWc o.instr ∧ o.cls.get L = 2 then
    ((st.1.l1Update core line (o.laneBytes h L)).wcStore core (s.ctxOf o.grp) o.stamp o.grp o.uid (s.blockOf o.grp).launch line (o.laneBytes h L), st.2)
  else (kept ((st.1.flushWcFor core line).l1Update core line (o.laneBytes h L)), true)

theorem acceptStore_eq (s : State) (i : Nat) (h : Shape) :
    s.acceptStore i h = (lanesOf (s.op i).mask).foldl (s.storeLane (s.op i) h) (s.takePlace i, false) := by
  unfold State.acceptStore
  dsimp only
  congr 1
  funext st L
  unfold State.storeLane
  dsimp only
  split
  · next h0 => rw [if_pos h0]
  · next h3 => rw [if_neg (by omega), if_pos h3]
  · next h0 h3 => rw [if_neg h0, if_neg h3]

section
variable {s : State} {o : Op} {h : Shape} {st : State × Bool} {L core : Nat} (hcore : core = coreOfGroup o.grp)
include hcore

/-- R230: a lane of a class 0 page goes into the core's own line. -/
theorem storeLane_private (h0 : o.cls.get L = 0) (hwc : (st.1.cores.get core).wc.held = false) : ∃ t₁ t₂ t₃ q,
    Lined st.1 core (lineOf (o.pa.get L)) (st.1.privateLine core (lineOf (o.pa.get L)) (s.ctxOf o.grp)) t₁
    ∧ Lined t₁ core (lineOf (o.pa.get L)) ((t₁.lineAt core (lineOf (o.pa.get L))).take (o.laneBytes h L)) t₂
    ∧ Lined t₂ core (lineOf (o.pa.get L)) { t₂.lineAt core (lineOf (o.pa.get L)) with pol := q } t₃
    ∧ s.storeLane o h st L = (t₃, st.2) := by
  subst hcore
  have h₁ := lined_fillPrivate st.1 (coreOfGroup o.grp) (lineOf (o.pa.get L)) (s.ctxOf o.grp)
  have h₂ := lined_l1Update (st.1.fillPrivate (coreOfGroup o.grp) (s.ctxOf o.grp) (lineOf (o.pa.get L))) (coreOfGroup o.grp) (lineOf (o.pa.get L)) (o.laneBytes h L)
  rw [if_pos (by unfold State.l1Valid; rw [h₁.lineAt, if_pos rfl, privateLine_st])] at h₂
  obtain ⟨q, h₃⟩ := lined_polL1 ((st.1.fillPrivate (coreOfGroup o.grp) (s.ctxOf o.grp) (lineOf (o.pa.get L))).l1Update (coreOfGroup o.grp) (lineOf (o.pa.get L)) (o.laneBytes h L))
    (coreOfGroup o.grp) (lineOf (o.pa.get L)) (decide (((st.1.cores.get (coreOfGroup o.grp)).l1.get (lineOf (o.pa.get L))).st ≠ .invalid)) (polField o.instr)
  refine ⟨_, _, _, q, h₁, h₂, h₃, ?_⟩
  unfold State.storeLane
  dsimp only
  rw [if_pos h0, flushWcFor_empty _ hwc]

omit hcore in
/-- R231: a register page is not written at issue. -/
theorem storeLane_register (h3 : o.cls.get L = 3) : s.storeLane o h st L = (st.1, true) := by
  unfold State.storeLane
  exact (if_neg (by omega)).trans (if_pos h3)

/-- R237: a lane of class 1 or 2 updates the core's own copy, and goes home. -/
theorem storeLane_home (h0 : o.cls.get L ≠ 0) (h3 : o.cls.get L ≠ 3) (hwcp : isWc o.instr = false) (hwc : (st.1.cores.get core).wc.held = false) : ∃ t₁ t₂ q,
    Lined st.1 core (lineOf (o.pa.get L)) (if st.1.l1Valid (st.1.lineAt core (lineOf (o.pa.get L))) = true
      then (st.1.lineAt core (lineOf (o.pa.get L))).take (o.laneBytes h L) else st.1.lineAt core (lineOf (o.pa.get L))) t₁
    ∧ Lined t₁ core (lineOf (o.pa.get L)) { t₁.lineAt core (lineOf (o.pa.get L)) with pol := q } t₂
    ∧ s.storeLane o h st L = (t₂, true) := by
  subst hcore
  obtain ⟨q, hq⟩ := lined_polL1 (st.1.l1Update (coreOfGroup o.grp) (lineOf (o.pa.get L)) (o.laneBytes h L)) (coreOfGroup o.grp) (lineOf (o.pa.get L))
    (decide (((st.1.cores.get (coreOfGroup o.grp)).l1.get (lineOf (o.pa.get L))).st ≠ .invalid)) (polField o.instr)
  refine ⟨_, _, q, lined_l1Update _ _ _ _, hq, ?_⟩
  unfold State.storeLane
  dsimp only
  rw [if_neg h0, if_neg h3, if_neg (by rw [hwcp]; simp), flushWcFor_empty _ hwc]

end

/-! ### All lanes of a store of class 0 -/

theorem privateByte_take {s t : State} {core a : Nat} {bs : List (Nat × Byte)} {line : Nat} (hp : (s.lineAt core line).st = .priv)
    (hbs : ∀ x ∈ bs, lineOf x.1 = line) (h : Lined s core line ((s.lineAt core line).take bs) t) :
    privateByte t core a = laid bs (privateByte s core) a := by
  by_cases hl : lineOf a = line
  · subst hl
    have hs : privateByte s core a = (s.lineAt core (lineOf a)).bytes.get (a % 64) := by rw [privateByte_eq, if_pos hp]
    rw [privateByte_eq, h.lineAt, if_pos rfl, if_pos (show ((s.lineAt core (lineOf a)).take bs).st = .priv from hp)]
    refine (get_putBytes _ _ _).trans ((laid_offsets hbs _).trans (laid_congr hs.symm))
  · rw [laid_of_not_mem _ fun x hx hxa => hl (by rw [← hxa]; exact hbs x hx), privateByte_eq t, privateByte_eq s, h.lineAt, if_neg hl, h.quiet.mem]

/-- R230: where a store to class 0 pages stands after some of its lanes. -/
structure PrivateStored (w : State) (o : Op) (h : Shape) (core : Nat) (done : List Nat) (st : State × Bool) : Prop where
  frame : StoreFrame w st.1 core
  home : st.2 = false
  bytes : ∀ a, privateByte st.1 core a = laid (o.bytesOf h done) (privateByte w core) a
  priv : ∀ L ∈ done, (st.1.lineAt core (lineOf (o.pa.get L))).st = .priv

theorem privateStored_all {s w : State} {o : Op} {h : Shape} {core : Nat} (hcore : core = coreOfGroup o.grp) (hd : h.bytes ∣ 64)
    (hwc : (w.cores.get core).wc.held = false) {ls : List Nat} (hlane : ∀ L ∈ ls, o.cls.get L = 0 ∧ o.pa.get L % h.bytes = 0) :
    PrivateStored w o h core ls (ls.foldl (s.storeLane o h) (w, false)) := by
  refine foldl_upto (PrivateStored w o h core) (fun done L st hL hst => ?_) ⟨⟨Quiet.refl w, hwc, rfl⟩, rfl, fun _ => rfl, by simp⟩
  obtain ⟨hf, hhome, hbytes, hpriv⟩ := hst
  obtain ⟨h0, hal⟩ := hlane L hL
  obtain ⟨t₁, t₂, t₃, q, h₁, h₂, h₃, hgo⟩ := storeLane_private (s := s) (h := h) (L := L) (st := st) hcore h0 hf.wc
  have hp₁ : (t₁.lineAt core (lineOf (o.pa.get L))).st = .priv := by rw [h₁.lineAt, if_pos rfl]; exact privateLine_st ..
  have hp₂ : (t₂.lineAt core (lineOf (o.pa.get L))).st = .priv := by rw [h₂.lineAt, if_pos rfl]; exact hp₁
  have hp₃ : (t₃.lineAt core (lineOf (o.pa.get L))).st = .priv := by rw [h₃.lineAt, if_pos rfl]; exact hp₂
  rw [hgo]
  refine ⟨((hf.lined h₁).lined h₂).lined h₃, hhome, fun a => ?_, fun K hK => ?_⟩
  · rw [privateByte_pol h₃, privateByte_take hp₁ (fun x hx => laneBytes_line hd hal hx) h₂, bytesOf_append, laid_append]
    exact laid_congr ((privateByte_fill h₁ a).trans (hbytes a))
  · rcases List.mem_append.1 hK with hK | hK
    · exact priv_kept h₃ (.inr rfl) (priv_kept h₂ (.inr rfl) (priv_kept h₁ (.inl (privateLine_st ..)) (hpriv K hK)))
    · rw [List.mem_singleton.1 hK]; exact hp₃

/-! ### All lanes of a store of class 1 or 2 -/

/-- R237: where a store of class 1 or 2 stands after some of its lanes. -/
structure StoredLanes (w : State) (o : Op) (h : Shape) (core : Nat) (done : List Nat) (st : State × Bool) : Prop where
  frame : StoreFrame w st.1 core
  home : done ≠ [] → st.2 = true
  state : ∀ line, (st.1.lineAt core line).st = (w.lineAt core line).st
  bytes : ∀ line off, off < 64 → w.l1Valid (w.lineAt core line) = true →
    (st.1.lineAt core line).bytes.get off = laid (o.bytesOf h done) (fun _ => (w.lineAt core line).bytes.get off) (64 * line + off)

theorem l1Valid_st {s : State} {l m : L1Line} (h : l.st = m.st) : s.l1Valid l = s.l1Valid m := by
  unfold State.l1Valid
  rw [h]

/-- Bytes of one line laid into it. -/
theorem take_bytes {l : L1Line} {bs : List (Nat × Byte)} {line off : Nat} (hoff : off < 64) (hbs : ∀ x ∈ bs, lineOf x.1 = line) :
    (l.take bs).bytes.get off = laid bs (fun _ => l.bytes.get off) (64 * line + off) := by
  have hline : lineOf (64 * line + off) = line := by unfold lineOf; omega
  have hmod : (64 * line + off) % 64 = off := by omega
  have := laid_offsets (a := 64 * line + off) (by rw [hline]; exact hbs) l.bytes.get
  rw [hmod] at this
  exact (get_putBytes _ _ _).trans this

theorem storedLanes_all {s w : State} {o : Op} {h : Shape} {core : Nat} (hcore : core = coreOfGroup o.grp) (hd : h.bytes ∣ 64) (hwcp : isWc o.instr = false)
    (hwc : (w.cores.get core).wc.held = false) {ls : List Nat} (hlane : ∀ L ∈ ls, o.cls.get L ≠ 0 ∧ o.cls.get L ≠ 3 ∧ o.pa.get L % h.bytes = 0) :
    StoredLanes w o h core ls (ls.foldl (s.storeLane o h) (w, false)) := by
  refine foldl_upto (StoredLanes w o h core) (fun done L st hL hst => ?_) ⟨⟨Quiet.refl w, hwc, rfl⟩, fun h => absurd rfl h, fun _ => rfl, fun _ _ _ _ => rfl⟩
  obtain ⟨hf, hhome, hstate, hbytes⟩ := hst
  obtain ⟨h0, h3, hal⟩ := hlane L hL
  obtain ⟨t₁, t₂, q, h₁, h₂, hgo⟩ := storeLane_home (s := s) (h := h) (L := L) (st := st) hcore h0 h3 hwcp hf.wc
  have hbs (x : Nat × Byte) (hx : x ∈ o.laneBytes h L) : lineOf x.1 = lineOf (o.pa.get L) := laneBytes_line hd hal hx
  have hst₁ (line : Nat) : (t₁.lineAt core line).st = (st.1.lineAt core line).st := by
    rw [h₁.lineAt]
    split
    · next hl => subst hl; split <;> rfl
    · rfl
  have hline₂ (line : Nat) : ∃ q, t₂.lineAt core line = { t₁.lineAt core line with pol := q } := by
    rw [h₂.lineAt]
    split
    · next hl => subst hl; exact ⟨q, rfl⟩
    · exact ⟨_, rfl⟩
  rw [hgo]
  refine ⟨(hf.lined h₁).lined h₂, fun _ => rfl, fun line => ?_, fun line off hoff hv => ?_⟩
  · obtain ⟨q, hq⟩ := hline₂ line
    rw [hq]
    exact (hst₁ line).trans (hstate line)
  · obtain ⟨q, hq⟩ := hline₂ line
    have hv' : st.1.l1Valid (st.1.lineAt core line) = true := by
      rw [hf.quiet.l1Valid, l1Valid_st (hstate line)]
      exact hv
    rw [hq]
    show (t₁.lineAt core line).bytes.get off = _
    rw [bytesOf_append, laid_append, h₁.lineAt]
    split
    · next hl =>
      subst hl
      rw [if_pos hv', take_bytes hoff hbs]
      exact laid_congr (hbytes _ off hoff hv)
    · next hl =>
      rw [laid_of_not_mem, hbytes line off hoff hv]
      intro x hx hxa
      have := hbs x hx
      rw [hxa] at this
      exact hl (by rw [← this]; unfold lineOf; omega)

/-- R231: no lane of a store to register pages is written at issue. -/
theorem registerStores_all {s w : State} {o : Op} {h : Shape} {ls : List Nat} (hne : ls ≠ []) (hcls : ∀ L ∈ ls, o.cls.get L = 3) :
    ls.foldl (s.storeLane o h) (w, false) = (w, true) := by
  have hall := foldl_upto (f := s.storeLane o h) (ls := ls) (fun done st => st.1 = w ∧ (done ≠ [] → st.2 = true))
    (fun done L st hL hst => by rw [storeLane_register (hcls L hL)]; exact ⟨hst.1, fun _ => rfl⟩) (st := (w, false)) ⟨rfl, fun h => absurd rfl h⟩
  exact Prod.ext hall.1 (hall.2 hne)

/-! ### Stores at issue -/

/-- The state in which the lanes of a store are accepted: the store is under way and has its place. -/
def State.queued (w : State) (i : Nat) : State := (w.onOp i (fun x => { x with status := .flying })).takePlace i

section
variable {s w : State} {i : Instr} {la : BitVec 4} {h : Shape} {addr : Nat → DWord} {e : Nat → TlbEntry} (hr : Ready s w i la h addr e)

theorem quiet_queued (w : State) (i : Nat) : Quiet w (w.queued i) := (quiet_onOp w _ _).trans (quiet_onOp _ _ _)

theorem op_takePlace (s : State) (i : Nat) : ∃ n, (s.takePlace i).op i = { s.op i with taken := n } := by
  unfold State.takePlace
  exact ⟨_, op_onOp s i _⟩

theorem op_queued (w : State) (i : Nat) : ∃ n, (w.queued i).op i = { w.op i with status := .flying, taken := n } := by
  obtain ⟨n, hn⟩ := op_takePlace (w.onOp i (fun x => { x with status := .flying })) i
  rw [op_onOp] at hn
  exact ⟨n, hn⟩

theorem lineAt_queued (w : State) (i core line : Nat) : (w.queued i).lineAt core line = w.lineAt core line := rfl

include hr in
theorem issued_queued : ((w.queued s.nextOp).op s.nextOp).issued = (w.op s.nextOp).issued := by
  obtain ⟨n, hn⟩ := op_queued w s.nextOp
  have hst : (w.op s.nextOp).status = .flying := (congrArg Op.status hr.op :)
  rw [hn, ← hst]; rfl

/-- The lanes of a store, accepted one after another. -/
def State.acceptLanes (w : State) (i : Nat) (h : Shape) (ls : List Nat) : State × Bool :=
  ls.foldl ((w.onOp i (fun x => { x with status := .flying })).storeLane ((w.onOp i (fun x => { x with status := .flying })).op i) h) (w.queued i, false)

include hr in
theorem store_launch (hm : h.move = .store) (hstl : isStl i = false) (hwatch : (s.launchOf s.focus.grp).watches = [])
    (hq : Quiet (w.queued s.nextOp) (w.acceptLanes s.nextOp h (lanesOf s.focus.mask)).1) :
    w.launchOp s.nextOp h = if (w.acceptLanes s.nextOp h (lanesOf s.focus.mask)).2 = true
      then (w.acceptLanes s.nextOp h (lanesOf s.focus.mask)).1.post (.storeApply s.nextOp)
      else (w.acceptLanes s.nextOp h (lanesOf s.focus.mask)).1.completeOp s.nextOp := by
  have hmask : ((w.onOp s.nextOp (fun x => { x with status := .flying })).op s.nextOp).mask = s.focus.mask := hr.flying.op_mask
  have haccept : (w.onOp s.nextOp (fun x => { x with status := .flying })).acceptStore s.nextOp h = w.acceptLanes s.nextOp h (lanesOf s.focus.mask) := by
    rw [acceptStore_eq, hmask]; rfl
  unfold State.launchOp
  rw [hm]
  dsimp only
  rw [hr.op_instr, hstl]
  simp only [Bool.false_eq_true, if_false]
  rw [haccept, hr.watch ((quiet_queued w s.nextOp).trans hq) hwatch]

end

section
variable {i : Instr} {la : BitVec 4} {h : Shape} {addr : State → Nat → DWord} (hs : shapeOf i = some h) (hm : h.move = .store)
  (hlda : isLda i = false) (hstl : isStl i = false) (hstart : StartsAccess i la h addr)
include hs hm hlda hstl hstart

omit hstl in
theorem store_starts {s : State} {e : Nat → TlbEntry} {cls : BitVec 2 → Bool} (hreach : Reaches s h.bytes false true cls (addr s) e)
    (hcls : ∀ c, cls c = true → (classesFor .store h.bytes).contains c.toNat = true) :
    ∃ w, Ready s w i la h (addr s) e ∧ exec i s = .next (w.launchOp s.nextOp h) :=
  access_starts hs hlda hstart hreach fun t hc _ hw => by rw [hm]; exact permit_store (hcls t.cls hc) (hw rfl)

/-- R230: stores of class 0 at issue. -/
theorem privateStores_of_starts (hd : h.bytes ∣ 64) (hregs : h.regs ≤ 4) {d : Reg} (hdest : h.d = d.toNat) (hcls : (classesFor .store h.bytes).contains 0 = true) :
    PrivateStores i h.bytes h.regs d addr := by
  intro s e hr
  obtain ⟨-, -, -, hwc, hwatch, hlane⟩ := id hr
  obtain ⟨w, hw, hexec⟩ := store_starts hs hm hlda hstart hr (fun c hc => by
    have : c = 0 := by simpa using hc
    rw [this]; exact hcls)
  have hfly := hw.flying
  have hall : PrivateStored (w.queued s.nextOp) _ h s.curCore (lanesOf s.focus.mask) (w.acceptLanes s.nextOp h (lanesOf s.focus.mask)) :=
    privateStored_all hfly.core hd (by
      show (w.cores.get s.curCore).wc.held = false
      rw [hw.cores, hwc]) fun L hL => by
      obtain ⟨-, hal, -, hc, -⟩ := hlane L (mem_lanesOf.1 hL).1 (mem_lanesOf.1 hL).2
      have hc0 : (e L).cls = 0 := by simpa using hc
      have hpa := hfly.pa hL
      unfold State.lanePa at hpa
      rw [hfly.cls hL, hc0, hpa, pa_mod hd]
      exact ⟨rfl, hal⟩
  have hlaunch := store_launch hw hm hstl hwatch hall.frame.quiet
  rw [hall.home, if_neg (by simp)] at hlaunch
  have hquiet : Quiet w (w.acceptLanes s.nextOp h (lanesOf s.focus.mask)).1 := (quiet_queued w s.nextOp).trans hall.frame.quiet
  refine ⟨_, hexec.trans (congrArg Host.Outcome.next hlaunch), sameRegs_of_bare ((bare_completeOp _ _).trans (hquiet.bare.trans hw.bare)),
    (hw.sameBytes.trans hquiet.sameBytes).trans (sameBytes_completeOp _ _), live_completeOp _ _, fun L hL hin => ?_⟩
  have hmem := mem_lanesOf.2 ⟨hL, hin⟩
  have hpa := hfly.pa hmem
  unfold State.lanePa at hpa
  have hbs := bytesOf_ready hfly (d := d) (by rw [hm]; simp) hregs hdest
  refine ⟨?_, fun off hoff => ?_⟩
  · have := hall.priv L hmem
    rw [hpa] at this
    exact this
  · rw [← hbs]
    refine (hall.bytes _).trans (laid_congr ?_)
    exact privateByte_of_ready hw _ _

/-- R171, R237: stores of class 1 or 2 that are not write-combined, at issue. -/
theorem storeIssues_of_starts (hd : h.bytes ∣ 64) (hregs : h.regs ≤ 4) {d : Reg} (hdest : h.d = d.toNat) (hwcp : isWc i = false)
    (hcls : (classesFor .store h.bytes).contains 1 = true ∧ (classesFor .store h.bytes).contains 2 = true) : StoreIssues i la h.bytes h.regs d addr := by
  intro s e hr
  obtain ⟨hmask, -, -, hwc, hwatch, hlane⟩ := id hr
  obtain ⟨w, hw, hexec⟩ := store_starts hs hm hlda hstart hr (fun c hc => by
    have : c = 1 ∨ c = 2 := by simpa using hc
    rcases this with rfl | rfl
    · exact hcls.1
    · exact hcls.2)
  have hfly := hw.flying
  have hall : StoredLanes (w.queued s.nextOp) _ h s.curCore (lanesOf s.focus.mask) (w.acceptLanes s.nextOp h (lanesOf s.focus.mask)) :=
    storedLanes_all hfly.core hd (by rw [hfly.op_instr]; exact hwcp) (by
      show (w.cores.get s.curCore).wc.held = false
      rw [hw.cores, hwc]) fun L hL => by
      obtain ⟨-, hal, -, hc, -⟩ := hlane L (mem_lanesOf.1 hL).1 (mem_lanesOf.1 hL).2
      have hc12 : (e L).cls = 1 ∨ (e L).cls = 2 := by simpa using hc
      have hpa := hfly.pa hL
      unfold State.lanePa at hpa
      rw [hfly.cls hL, hpa, pa_mod hd]
      rcases hc12 with h | h <;> rw [h] <;> exact ⟨by decide, by decide, hal⟩
  have hlaunch := store_launch hw hm hstl hwatch hall.frame.quiet
  rw [hall.home (lanesOf_ne_nil hmask), if_pos rfl] at hlaunch
  have hquiet : Quiet w ((w.acceptLanes s.nextOp h (lanesOf s.focus.mask)).1.post (.storeApply s.nextOp)) :=
    ((quiet_queued w s.nextOp).trans hall.frame.quiet).trans (quiet_post _ _)
  have hop : ((w.acceptLanes s.nextOp h (lanesOf s.focus.mask)).1.post (.storeApply s.nextOp)).op s.nextOp = (w.queued s.nextOp).op s.nextOp :=
    congrArg (fun m : Store Op => m.get s.nextOp) hall.frame.ops
  have hissued := issued_of_quiet hw hquiet (by rw [hop]; exact issued_queued hw)
  refine ⟨_, hexec.trans (congrArg Host.Outcome.next hlaunch), hw.sameRegs hquiet, hw.sameBytes.trans hquiet.sameBytes, hissued, fun L k hL hk hin => ?_,
    List.mem_append_right _ (List.mem_singleton.2 rfl), fun line off hoff hv => ?_⟩
  · obtain ⟨n, hn⟩ := op_queued w s.nextOp
    rw [hop, hn]
    have := hw.data (by rw [hm]; simp) hregs L k hL hk hin
    rw [hdest] at this
    simpa using this
  · have hline (l : Nat) : lineOf (64 * l) = l := by unfold lineOf; omega
    have hbs := bytesOf_ready hfly (d := d) (by rw [hm]; simp) hregs hdest
    rw [l1At_eq, hline] at hv ⊢
    rw [l1At_eq, hline, ← hbs]
    have := hall.bytes line off hoff (by
      rw [(quiet_queued w s.nextOp).l1Valid, lineAt_queued, hw.l1Valid, hw.lineAt]
      exact hv)
    rw [lineAt_queued, hw.lineAt] at this
    exact this

/-- R231: stores to register pages at issue. -/
theorem registerIssues_store (hcls : (classesFor .store h.bytes).contains 3 = true) : RegisterIssues i la h.bytes true addr := by
  intro s e hr
  obtain ⟨hmask, -, -, hwc, hwatch, hlane⟩ := id hr
  obtain ⟨w, hw, hexec⟩ := store_starts hs hm hlda hstart hr (fun c hc => by
    have : c = 3 := by simpa using hc
    rw [this]; exact hcls)
  have hfly := hw.flying
  have hall : w.acceptLanes s.nextOp h (lanesOf s.focus.mask) = (w.queued s.nextOp, true) := registerStores_all (lanesOf_ne_nil hmask) fun L hL => by
    obtain ⟨-, -, -, hc, -⟩ := hlane L (mem_lanesOf.1 hL).1 (mem_lanesOf.1 hL).2
    have hc3 : (e L).cls = 3 := by simpa using hc
    rw [hfly.cls hL, hc3]; rfl
  have hlaunch := store_launch hw hm hstl hwatch (by rw [hall]; exact Quiet.refl _)
  rw [hall, if_pos rfl] at hlaunch
  have hquiet : Quiet w ((w.queued s.nextOp).post (.storeApply s.nextOp)) := (quiet_queued w s.nextOp).trans (quiet_post _ _)
  refine ⟨_, hexec.trans (congrArg Host.Outcome.next hlaunch), hw.sameRegs hquiet, hw.sameBytes.trans hquiet.sameBytes,
    issued_of_quiet hw hquiet (issued_queued hw), ?_, hw.cores, List.mem_append_right _ (List.mem_singleton.2 rfl)⟩
  obtain ⟨n, hn⟩ := op_queued w s.nextOp
  exact (congrArg Op.have_ hn).trans hw.op_have

end

end Sys2Proof.Machine
end

section
/-! ## Write-combined, releasing, compressed and logged stores at issue (R169, R172, R178, R195, R241, R267) -/

namespace Sys2Proof.Machine

/-! ### The write-combining buffer (R241) -/

/-- The buffer with the bytes of one more store. -/
def WcBuffer.take (b : WcBuffer) (now ctx stamp launch line : Nat) (bs : List (Nat × Byte)) : WcBuffer := { b with
  held := true, line := line, ctxs := if b.ctxs.contains ctx then b.ctxs else b.ctxs ++ [ctx]
  since := if b.held then b.since else now
  bytes := putBytes b.bytes (bs.map (fun e => (e.1 % 64, e.2)))
  mask := bs.foldl (fun m e => m.put (e.1 % 64) true) b.mask
  owners := if b.owners.contains launch then b.owners else b.owners ++ [launch]
  stamp := max b.stamp stamp }

/-- A change of the buffer of a core, read back. -/
theorem wc_onCore (s : State) (core : Nat) (f : WcBuffer → WcBuffer) :
    ((s.onCore core (fun k => { k with wc := f k.wc })).cores.get core).wc = f (s.cores.get core).wc := by
  show ((s.cores.upd core (fun k => { k with wc := f k.wc })).get core).wc = _
  rw [Store.get_upd, if_pos rfl]

section
variable {s : State} {core ctx stamp grp uid launch line : Nat} {bs : List (Nat × Byte)}

/-- A store that the buffer takes without a flush before it or after it. -/
theorem wcStore_takes (hline : (s.cores.get core).wc.held = true → (s.cores.get core).wc.line = line)
    (hroom : ((s.cores.get core).wc.take s.now ctx stamp launch line bs).mask.length ≠ 64) :
    s.wcStore core ctx stamp grp uid launch line bs = (s.onSplit grp uid (fun x => x.gather (line, none))).onCore core
      (fun k => { k with wc := k.wc.take s.now ctx stamp launch line bs }) := by
  have hflush : ¬ ((s.cores.get core).wc.held && (s.cores.get core).wc.line != line) = true := by
    rw [Bool.and_eq_true, bne_iff_ne]
    exact fun h => h.2 (hline h.1)
  have hwc : (((s.onSplit grp uid (fun x => x.gather (line, none))).onCore core (fun k => { k with wc := k.wc.take s.now ctx stamp launch line bs })).cores.get core).wc
      = (s.cores.get core).wc.take s.now ctx stamp launch line bs :=
    wc_onCore (s.onSplit grp uid (fun x => x.gather (line, none))) core (fun b => b.take s.now ctx stamp launch line bs)
  unfold State.wcStore
  dsimp only
  rw [if_neg hflush]
  refine if_neg ?_
  intro hfull
  exact hroom ((congrArg (fun b : WcBuffer => b.mask.length) hwc).symm.trans hfull)

theorem get_marks (bs : List (Nat × Byte)) (off : Nat) : ∀ m : Store Bool,
    (bs.foldl (fun m e => m.put (e.1 % 64) true) m).get off = (bs.any (fun e => e.1 % 64 == off) || m.get off) := by
  induction bs with
  | nil => simp
  | cons e bs ih =>
    intro m
    rw [List.foldl_cons, ih, Store.get_put, List.any_cons]
    by_cases h : e.1 % 64 = off
    · simp [h]
    · have hf : (e.1 % 64 == off) = false := by simpa using h
      rw [if_neg (Ne.symm h), hf, Bool.false_or]

theorem mem_marks {bs : List (Nat × Byte)} {e : Nat × Bool} : ∀ {m : Store Bool}, e ∈ bs.foldl (fun m x => m.put (x.1 % 64) true) m →
    (∃ x ∈ bs, e.1 = x.1 % 64) ∨ e ∈ m := by
  induction bs with
  | nil => exact fun h => .inr h
  | cons x bs ih =>
    intro m h
    rcases ih h with ⟨y, hy, hye⟩ | h
    · exact .inl ⟨y, List.mem_cons_of_mem _ hy, hye⟩
    · rcases mem_put h with rfl | h
      · exact .inl ⟨x, List.mem_cons_self, rfl⟩
      · exact .inr h

end

theorem keys_nodup {α : Type} (m : Store α) : ∀ a, Store.risesFrom a m = true → (m.map Prod.fst).Nodup ∧ ∀ e ∈ m, a ≤ e.1 := by
  induction m with
  | nil => exact fun _ _ => ⟨List.nodup_nil, by simp⟩
  | cons e m ih =>
    obtain ⟨k, v⟩ := e
    intro a h
    simp only [Store.risesFrom, Bool.and_eq_true, decide_eq_true_eq] at h
    obtain ⟨hnd, hle⟩ := ih _ h.2
    refine ⟨?_, fun e he => ?_⟩
    · rw [List.map_cons, List.nodup_cons]
      refine ⟨fun hk => ?_, hnd⟩
      obtain ⟨e, he, hek⟩ := List.mem_map.1 hk
      have h1 := hle e he
      dsimp only at hek
      omega
    · rcases List.mem_cons.1 he with rfl | he
      · exact h.1
      · have := hle e he
        omega

/-- A store of offsets of a line that leaves one out does not hold all 64. -/
theorem length_of_hole {m : Store Bool} (hwf : Store.wf m = true) (hlt : ∀ e ∈ m, e.1 < 64) {hole : Nat} (hh : hole < 64) (hne : ∀ e ∈ m, e.1 ≠ hole) : m.length ≠ 64 := by
  have hrise : Store.risesFrom 0 m = true := by
    unfold Store.wf at hwf
    rw [Bool.and_eq_true] at hwf
    exact hwf.1
  have hsub : m.map Prod.fst ⊆ (List.range 64).erase hole := fun k hk => by
    obtain ⟨e, he, rfl⟩ := List.mem_map.1 hk
    exact (List.mem_erase_of_ne (hne e he)).2 (List.mem_range.2 (hlt e he))
  have hle := ((keys_nodup m 0 hrise).1.subperm hsub).length_le
  rw [List.length_map, List.length_erase_of_mem (List.mem_range.2 hh), List.length_range] at hle
  omega

/-- R241: where a write-combined store to one line of class 2 stands after some of its lanes. -/
structure Combined (w : State) (o : Op) (h : Shape) (core line ctx : Nat) (done : List Nat) (st : State × Bool) : Prop where
  quiet : Quiet w st.1
  home : st.2 = false
  empty : done = [] → (st.1.cores.get core).wc = {}
  buffer : done ≠ [] → (st.1.cores.get core).wc.held = true ∧ (st.1.cores.get core).wc.line = line ∧ (st.1.cores.get core).wc.ctxs = [ctx]
    ∧ (st.1.cores.get core).wc.since = w.now
  wf : Store.wf (st.1.cores.get core).wc.mask = true
  keys : ∀ e ∈ (st.1.cores.get core).wc.mask, ∃ x ∈ o.bytesOf h done, e.1 = x.1 % 64
  mask : ∀ off, off < 64 → (st.1.cores.get core).wc.mask.get off = (o.bytesOf h done).any (fun x => x.1 == 64 * line + off)
  bytes : ∀ off, off < 64 → (st.1.cores.get core).wc.bytes.get off = laid (o.bytesOf h done) (fun _ => 0) (64 * line + off)

section
variable {s w : State} {o : Op} {h : Shape} {core line L : Nat} {st : State × Bool} {done : List Nat} (hcore : core = coreOfGroup o.grp) (hd : h.bytes ∣ 64) (hwcp : isWc o.instr = true)
include hcore hd hwcp

omit hd in
/-- A lane that is write-combined, where the buffer has room for it. -/
theorem storeLane_combines (hcls : o.cls.get L = 2) (hl : lineOf (o.pa.get L) = line)
    (hline : (st.1.cores.get core).wc.held = true → (st.1.cores.get core).wc.line = line)
    (hroom : ((st.1.cores.get core).wc.take st.1.now (s.ctxOf o.grp) o.stamp (s.blockOf o.grp).launch line (o.laneBytes h L)).mask.length ≠ 64) :
    Quiet st.1 (s.storeLane o h st L).1 ∧ (s.storeLane o h st L).2 = st.2
    ∧ ((s.storeLane o h st L).1.cores.get core).wc = (st.1.cores.get core).wc.take st.1.now (s.ctxOf o.grp) o.stamp (s.blockOf o.grp).launch line (o.laneBytes h L) := by
  subst hcore
  subst hl
  have hu := lined_l1Update st.1 (coreOfGroup o.grp) (lineOf (o.pa.get L)) (o.laneBytes h L)
  have hnow : (st.1.l1Update (coreOfGroup o.grp) (lineOf (o.pa.get L)) (o.laneBytes h L)).now = st.1.now := hu.quiet.now
  have hstep : s.storeLane o h st L = ((st.1.l1Update (coreOfGroup o.grp) (lineOf (o.pa.get L)) (o.laneBytes h L)).wcStore (coreOfGroup o.grp) (s.ctxOf o.grp) o.stamp o.grp o.uid
      (s.blockOf o.grp).launch (lineOf (o.pa.get L)) (o.laneBytes h L), st.2) := by
    unfold State.storeLane
    exact (if_neg (by omega)).trans ((if_neg (by omega)).trans (if_pos ⟨hwcp, hcls⟩))
  have hbuf := hu.wc (coreOfGroup o.grp)
  rw [hstep, wcStore_takes (by rw [hbuf]; exact hline) (by rw [hbuf, hnow]; exact hroom), hnow]
  refine ⟨hu.quiet.trans ((quiet_onSplit _ o.grp o.uid (fun x => x.gather (lineOf (o.pa.get L), none))).trans (quiet_onCore _ _ _)), rfl, ?_⟩
  refine (wc_onCore _ _ (fun b => b.take st.1.now (s.ctxOf o.grp) o.stamp (s.blockOf o.grp).launch (lineOf (o.pa.get L)) (o.laneBytes h L))).trans ?_
  exact congrArg (fun b : WcBuffer => b.take st.1.now (s.ctxOf o.grp) o.stamp (s.blockOf o.grp).launch (lineOf (o.pa.get L)) (o.laneBytes h L)) hbuf

theorem combined_step (hcls : o.cls.get L = 2) (hal : o.pa.get L % h.bytes = 0) (hl : lineOf (o.pa.get L) = line) {hole : Nat} (hh : hole < 64)
    (hout : ∀ x ∈ o.bytesOf h (done ++ [L]), lineOf x.1 = line ∧ x.1 ≠ 64 * line + hole)
    (hst : Combined w o h core line (s.ctxOf o.grp) done st) : Combined w o h core line (s.ctxOf o.grp) (done ++ [L]) (s.storeLane o h st L) := by
  obtain ⟨hquiet, hhome, hempty, hbuffer, hwf, hkeys, hmask, hbytes⟩ := hst
  have hbs (x : Nat × Byte) (hx : x ∈ o.laneBytes h L) : lineOf x.1 = line := hl ▸ laneBytes_line hd hal hx
  generalize hb : (st.1.cores.get core).wc.take st.1.now (s.ctxOf o.grp) o.stamp (s.blockOf o.grp).launch line (o.laneBytes h L) = b
  have hbmask : b.mask = (o.laneBytes h L).foldl (fun m e => m.put (e.1 % 64) true) (st.1.cores.get core).wc.mask := by rw [← hb]; rfl
  have hbbytes : b.bytes = putBytes (st.1.cores.get core).wc.bytes ((o.laneBytes h L).map (fun e => (e.1 % 64, e.2))) := by rw [← hb]; rfl
  have hbkeys : ∀ e ∈ b.mask, ∃ x ∈ o.bytesOf h (done ++ [L]), e.1 = x.1 % 64 := fun e he => by
    rw [bytesOf_append]
    rw [hbmask] at he
    rcases mem_marks he with ⟨x, hx, hex⟩ | he
    · exact ⟨x, List.mem_append_right _ hx, hex⟩
    · obtain ⟨x, hx, hex⟩ := hkeys e he
      exact ⟨x, List.mem_append_left _ hx, hex⟩
  have hbwf : Store.wf b.mask = true := by
    rw [hbmask]
    exact Store.wf_foldl _ (fun m e hm => Store.wf_put hm _ _) _ _ hwf
  have hroom : b.mask.length ≠ 64 := length_of_hole hbwf (fun e he => by obtain ⟨x, -, hex⟩ := hbkeys e he; omega) hh fun e he => by
    obtain ⟨x, hx, hex⟩ := hbkeys e he
    obtain ⟨hxl, hne⟩ := hout x hx
    unfold lineOf at hxl
    omega
  have hline : (st.1.cores.get core).wc.held = true → (st.1.cores.get core).wc.line = line := fun hheld => by
    by_cases hdone : done = []
    · rw [hempty hdone] at hheld; cases hheld
    · exact (hbuffer hdone).2.1
  obtain ⟨hq, hsnd, hwc⟩ := storeLane_combines (s := s) (st := st) (h := h) hcore hwcp hcls hl hline (by rw [hb]; exact hroom)
  rw [hb] at hwc
  refine ⟨hquiet.trans hq, hsnd.trans hhome, fun hnil => absurd hnil (by simp), fun _ => ?_, by rw [hwc]; exact hbwf, by rw [hwc]; exact hbkeys, fun off hoff => ?_, fun off hoff => ?_⟩
  · rw [hwc, ← hb]
    refine ⟨rfl, rfl, ?_, ?_⟩
    · by_cases hdone : done = []
      · simp [WcBuffer.take, hempty hdone]
      · simp [WcBuffer.take, (hbuffer hdone).2.2.1]
    · by_cases hdone : done = []
      · simp [WcBuffer.take, hempty hdone, hquiet.now]
      · simp [WcBuffer.take, (hbuffer hdone).1, (hbuffer hdone).2.2.2]
  · rw [hwc, hbmask, get_marks, bytesOf_append, List.any_append, hmask off hoff, Bool.or_comm]
    congr 1
    rw [Bool.eq_iff_iff, List.any_eq_true, List.any_eq_true]
    have hiff (x : Nat × Byte) (hx : x ∈ o.laneBytes h L) : x.1 % 64 = off ↔ x.1 = 64 * line + off := by
      have := hbs x hx
      unfold lineOf at this
      omega
    constructor
    · rintro ⟨x, hx, hxo⟩
      exact ⟨x, hx, by simpa using (hiff x hx).1 (by simpa using hxo)⟩
    · rintro ⟨x, hx, hxo⟩
      exact ⟨x, hx, by simpa using (hiff x hx).2 (by simpa using hxo)⟩
  · have hline' : lineOf (64 * line + off) = line := by unfold lineOf; omega
    have hmod : (64 * line + off) % 64 = off := by omega
    have hlaid := laid_offsets (a := 64 * line + off) (by rw [hline']; exact hbs) (st.1.cores.get core).wc.bytes.get
    rw [hmod] at hlaid
    rw [hwc, hbbytes, get_putBytes, hlaid, bytesOf_append, laid_append]
    exact laid_congr (hbytes off hoff)

theorem combined_all (hwc : (w.cores.get core).wc = {}) {ls : List Nat} (hlane : ∀ L ∈ ls, o.cls.get L = 2 ∧ o.pa.get L % h.bytes = 0 ∧ lineOf (o.pa.get L) = line)
    {hole : Nat} (hh : hole < 64) (hout : ∀ x ∈ o.bytesOf h ls, x.1 ≠ 64 * line + hole) :
    Combined w o h core line (s.ctxOf o.grp) ls (ls.foldl (s.storeLane o h) (w, false)) := by
  have hmem {done : List Nat} {L : Nat} (hsub : ∀ K ∈ done ++ [L], K ∈ ls) (x : Nat × Byte) (hx : x ∈ o.bytesOf h (done ++ [L])) : lineOf x.1 = line ∧ x.1 ≠ 64 * line + hole := by
    obtain ⟨K, hK, hxK⟩ := List.mem_flatMap.1 hx
    obtain ⟨-, hal, hl⟩ := hlane K (hsub K hK)
    exact ⟨(laneBytes_line hd hal hxK).trans hl, hout x (List.mem_flatMap.2 ⟨K, hsub K hK, hxK⟩)⟩
  have hall := foldl_upto (f := s.storeLane o h) (ls := ls) (fun done st => (∀ K ∈ done, K ∈ ls) ∧ Combined w o h core line (s.ctxOf o.grp) done st) (st := (w, false))
    (fun done L st hL hst => by
      have hsub : ∀ K ∈ done ++ [L], K ∈ ls := fun K hK => (List.mem_append.1 hK).elim (hst.1 K) (fun h => List.mem_singleton.1 h ▸ hL)
      obtain ⟨hc, hal, hl⟩ := hlane L hL
      exact ⟨hsub, combined_step hcore hd hwcp hc hal hl hh (hmem hsub) hst.2⟩) ⟨by simp, ?_⟩
  · exact hall.2
  · exact ⟨Quiet.refl w, rfl, fun _ => hwc, fun h => absurd rfl h, by rw [hwc]; rfl, (by rw [hwc]; intro e he; cases he), fun _ _ => by rw [hwc]; rfl, fun _ _ => by rw [hwc]; rfl⟩

end

/-! ### Write-combined and releasing stores at issue -/

/-- R241: a store that one line of the write-combining buffer takes. -/
theorem combines_of_starts {i : Instr} {la : BitVec 4} {h : Shape} {addr : State → Nat → DWord} (hs : shapeOf i = some h) (hm : h.move = .store)
    (hlda : isLda i = false) (hstl : isStl i = false) (hstart : StartsAccess i la h addr) (hd : h.bytes ∣ 64) (hregs : h.regs ≤ 4) {d : Reg} (hdest : h.d = d.toNat)
    (hwcp : isWc i = true) (hcls : (classesFor .store h.bytes).contains 1 = true ∧ (classesFor .store h.bytes).contains 2 = true)
    {s : State} {e : Nat → TlbEntry} {line : Nat} (hr : CanAccess s h.bytes false true (addr s) e)
    (hline : ∀ L, L < 32 → s.inPass L = true → (e L).cls = 2 ∧ lineOf ((e L).pa (addr s L)) = line)
    (hhole : ∃ off, off < 64 ∧ ∀ x ∈ lanesBytes s.focus.mask (fun L => (e L).pa (addr s L)) h.bytes (regsValue s d h.regs), x.1 ≠ 64 * line + off) :
    Completes i s (fun t => SameRegs s t ∧ SameBytes s t ∧ (t.op s.nextOp).live = false
      ∧ let w := (t.cores.get s.curCore).wc
        w.held = true ∧ w.line = line ∧ w.ctxs = [s.ctxOf s.focus.grp] ∧ w.since = s.now
        ∧ ∀ off, off < 64 → w.mask.get off = (lanesBytes s.focus.mask (fun L => (e L).pa (addr s L)) h.bytes (regsValue s d h.regs)).any (fun x => x.1 == 64 * line + off)
            ∧ w.bytes.get off = laid (lanesBytes s.focus.mask (fun L => (e L).pa (addr s L)) h.bytes (regsValue s d h.regs)) (fun _ => 0) (64 * line + off)) := by
  obtain ⟨hmask, -, -, hwc, hwatch, hlane⟩ := id hr
  obtain ⟨w, hw, hexec⟩ := store_starts hs hm hlda hstart hr (fun c hc => by
    have : c = 1 ∨ c = 2 := by simpa using hc
    rcases this with rfl | rfl
    · exact hcls.1
    · exact hcls.2)
  obtain ⟨hole, hh, hout⟩ := hhole
  have hfly := hw.flying
  have hbs := bytesOf_ready hfly (d := d) (by rw [hm]; simp) hregs hdest
  have hall : Combined (w.queued s.nextOp) _ h s.curCore line _ (lanesOf s.focus.mask) (w.acceptLanes s.nextOp h (lanesOf s.focus.mask)) :=
    combined_all hfly.core hd (by rw [hfly.op_instr]; exact hwcp) (by
      show (w.cores.get s.curCore).wc = {}
      rw [hw.cores, hwc]) (fun L hL => by
      obtain ⟨hlt, hin⟩ := mem_lanesOf.1 hL
      obtain ⟨-, hal, -⟩ := hlane L hlt hin
      have hpa := hfly.pa hL
      unfold State.lanePa at hpa
      rw [hfly.cls hL, hpa, pa_mod hd, (hline L hlt hin).1]
      exact ⟨rfl, hal, (hline L hlt hin).2⟩) hh (by rw [hbs]; exact hout)
  obtain ⟨hquiet, hhome, -, hbuffer, -, -, hmarks, hbytes⟩ := hall
  have hlaunch := store_launch hw hm hstl hwatch hquiet
  rw [hhome, if_neg (by simp)] at hlaunch
  have hq : Quiet w (w.acceptLanes s.nextOp h (lanesOf s.focus.mask)).1 := (quiet_queued w s.nextOp).trans hquiet
  obtain ⟨hheld, hbline, hctxs, hsince⟩ := hbuffer (lanesOf_ne_nil hmask)
  rw [hbs] at hmarks hbytes
  refine ⟨_, hexec.trans (congrArg Host.Outcome.next hlaunch), sameRegs_of_bare ((bare_completeOp _ _).trans (hq.bare.trans hw.bare)),
    (hw.sameBytes.trans hq.sameBytes).trans (sameBytes_completeOp _ _), live_completeOp _ _, hheld, hbline, hctxs.trans ?_, hsince.trans hw.now,
    fun off hoff => ⟨hmarks off hoff, hbytes off hoff⟩⟩
  rw [hfly.op_grp, hfly.ctxOf]

/-- R172: a releasing store at issue. -/
theorem releaseIssues_of_starts {i : Instr} {la : BitVec 4} {h : Shape} {addr : State → Nat → DWord} (hs : shapeOf i = some h) (hm : h.move = .store)
    (hlda : isLda i = false) (hstl : isStl i = true) (hstart : StartsAccess i la h addr) (hregs : h.regs ≤ 4) {d : Reg} (hdest : h.d = d.toNat)
    (hcls : ∀ c : BitVec 2, (classesFor .store h.bytes).contains c.toNat = true) : ReleaseIssues i la h.bytes h.regs d addr := by
  intro s e hr
  obtain ⟨-, -, -, -, hwatch, -⟩ := id hr
  obtain ⟨w, hw, hexec⟩ := store_starts hs hm hlda hstart hr (fun c _ => hcls c)
  have hfly := hw.flying
  have hlaunch : w.launchOp s.nextOp h = (w.onOp s.nextOp (fun x => { x with status := .flying })).post (.storeApply s.nextOp) := by
    unfold State.launchOp
    rw [hm]
    dsimp only
    rw [hw.op_instr, hstl]
    simp only [if_true]
    rw [hw.watch (quiet_onOp w _ _) hwatch]
  have hquiet : Quiet (w.onOp s.nextOp (fun x => { x with status := .flying })) ((w.onOp s.nextOp (fun x => { x with status := .flying })).post (.storeApply s.nextOp)) :=
    quiet_post _ _
  refine ⟨_, hexec.trans (congrArg Host.Outcome.next hlaunch), hfly.sameRegs hquiet, hfly.sameBytes.trans hquiet.sameBytes, issued_of_quiet hfly hquiet rfl,
    fun L k hL hk hin => ?_, List.mem_append_right _ (List.mem_singleton.2 rfl), hw.cores⟩
  have := hfly.data (by rw [hm]; simp) hregs L k hL hk hin
  rw [hdest, BitVec.ofNat_toNat, BitVec.setWidth_eq] at this
  exact this

/-! ### Logged stores (R267, R274) -/

/-- The entries that a lane's store enters. -/
def loggedWrites (pa n v cls stamp : Nat) : List WriteEntry := (wordsOf pa n).zipIdx.map (fun w =>
  if n < 4 then ⟨w.1, BitVec.ofNat 32 (v * 2 ^ (8 * (pa % 4))), BitVec.ofNat 4 ((2 ^ n - 1) * 2 ^ (pa % 4)), cls, stamp⟩
  else ⟨w.1, BitVec.ofNat 32 (v / 2 ^ (32 * w.2)), 15, cls, stamp⟩)

theorem map_fst_zipIdx (l : List Nat) : l.zipIdx.map Prod.fst = l := by simp

theorem storeWords_logs {t : TxLane} {pa n : Nat} (v cls stamp : Nat) (hfresh : ∀ w ∈ wordsOf pa n, ∀ x ∈ t.writes, x.pa ≠ w) :
    (wordsOf pa n).zipIdx.foldl (fun (t : TxLane) w =>
      if n < 4 then t.storeWord w.1 (BitVec.ofNat 32 (v * 2 ^ (8 * (pa % 4)))) (BitVec.ofNat 4 ((2 ^ n - 1) * 2 ^ (pa % 4))) cls stamp
      else t.storeWord w.1 (BitVec.ofNat 32 (v / 2 ^ (32 * w.2))) 15 cls stamp) t
      = { t with writes := t.writes ++ loggedWrites pa n v cls stamp } := by
  have hnd : ((wordsOf pa n).zipIdx.map Prod.fst).Nodup := by rw [map_fst_zipIdx]; exact wordsOf_nodup _ _
  have hfr : ∀ w ∈ (wordsOf pa n).zipIdx, ∀ x ∈ t.writes, x.pa ≠ w.1 := fun w hw => hfresh w.1 (by
    have := List.mem_map_of_mem (f := Prod.fst) hw
    rwa [map_fst_zipIdx] at this)
  unfold loggedWrites
  by_cases h4 : n < 4
  · simp only [h4, if_true]
    exact storeWords_fresh (fun _ => BitVec.ofNat 32 (v * 2 ^ (8 * (pa % 4)))) (fun _ => BitVec.ofNat 4 ((2 ^ n - 1) * 2 ^ (pa % 4))) cls stamp _ hnd t hfr
  · simp only [h4, if_false]
    exact storeWords_fresh (fun w => BitVec.ofNat 32 (v / 2 ^ (32 * w.2))) (fun _ => 15) cls stamp _ hnd t hfr

theorem txStore_logs {s : State} {g L n v : Nat} {a : DWord} {e : TlbEntry} (hcanon : canonical57 a = true) (hal : a.toNat % n = 0)
    (hlook : s.lookup (coreOfGroup g) (s.ctxOf g) a = .hit e) (hcls : e.cls = 1 ∨ e.cls = 2) (hw : e.w = true)
    (hroom : ((s.group g).tx.get L).writes.length + (n + 3) / 4 ≤ 8) (hfresh : ∀ w ∈ wordsOf (e.pa a) n, ∀ x ∈ ((s.group g).tx.get L).writes, x.pa ≠ w) :
    s.txStore g L a n v = (s.putTx g L { (s.group g).tx.get L with
      writes := ((s.group g).tx.get L).writes ++ loggedWrites (e.pa a) n v e.cls.toNat (s.stampFor g) }, true) := by
  have hpermit : permit e .write [1, 2] = none ∨ permit e .write [1, 2] = some (.faultP, 4) := by
    unfold permit
    rcases hcls with h | h <;> cases hc : e.cow <;> simp [h, hw]
  have hcount : ¬ 8 < ((s.group g).tx.get L).writes.length + ((wordsOf (e.pa a) n).filter (fun w => !isLogged ((s.group g).tx.get L) w true)).length := by
    have := List.length_filter_le (fun w => !isLogged ((s.group g).tx.get L) w true) (wordsOf (e.pa a) n)
    rw [wordsOf_length] at this
    omega
  unfold State.txStore
  rw [txAddress_ok hcanon hal hlook hcls hpermit]
  dsimp only
  rw [if_neg hcount, storeWords_logs _ _ _ hfresh]
  rfl

theorem loggedStores_of_plain {i : Instr} {la : BitVec 4} {h : Shape} {addr : State → Nat → DWord} (hs : shapeOf i = some h) (hm : h.move = .store)
    (hexec : ∀ s, exec i s = plainAccess i la addr s) (hregs : h.regs ≤ 4) {d : Reg} (hdest : h.d = d.toNat) : LoggedStores i h.bytes h.regs d addr := by
  intro s e hlog
  obtain ⟨hmask, hopen, -, hwatch, hlane⟩ := hlog
  have hrun := plainAccess_logs (la := la) (addr := addr) hs hmask hopen (fun L hL => by
    rw [(hlane L (mem_lanesOf.1 hL).1 (mem_lanesOf.1 hL).2).2.2.1]; simp) (if_pos (by rw [hm]; simp))
  rw [if_neg (by rw [hm]; simp), if_pos hm] at hrun
  have hvalue (L : Nat) (hL : L ∈ lanesOf s.focus.mask) :
      ({ data := s.takeData s.focus.mask (BitVec.ofNat 6 h.d) h.regs } : Op).lane h.regs L = regsValue s d h.regs L := by
    obtain ⟨hlt, hin⟩ := mem_lanesOf.1 hL
    unfold Op.lane regsValue
    congr 1
    refine List.map_congr_left fun k hk => ?_
    rw [get_takeData s _ _ hregs hlt (List.mem_range.1 hk) hin, hdest]
    simp
  have hall : Logs s (s.txStores h s.focus.mask (addr s) (fun L => ({ data := s.takeData s.focus.mask (BitVec.ofNat 6 h.d) h.regs } : Op).lane h.regs L))
      ∧ (s.txStores h s.focus.mask (addr s) (fun L => ({ data := s.takeData s.focus.mask (BitVec.ofNat 6 h.d) h.regs } : Op).lane h.regs L)).ops = s.ops
      ∧ ∀ L, ((s.txStores h s.focus.mask (addr s) (fun L => ({ data := s.takeData s.focus.mask (BitVec.ofNat 6 h.d) h.regs } : Op).lane h.regs L)).group s.focus.grp).tx.get L
        = if L ∈ lanesOf s.focus.mask then { s.cur.tx.get L with
            writes := (s.cur.tx.get L).writes ++ loggedWrites ((e L).pa (addr s L)) h.bytes (regsValue s d h.regs L) (e L).cls.toNat (s.stampFor s.focus.grp) }
          else s.cur.tx.get L := by
    unfold State.txStores
    refine foldl_upto_nodup (lanesOf_nodup _) (fun done st => Logs s st ∧ st.ops = s.ops ∧ ∀ L, (st.group s.focus.grp).tx.get L
        = if L ∈ done then { s.cur.tx.get L with
            writes := (s.cur.tx.get L).writes ++ loggedWrites ((e L).pa (addr s L)) h.bytes (regsValue s d h.regs L) (e L).cls.toNat (s.stampFor s.focus.grp) }
          else s.cur.tx.get L) (fun done L st hL hnew hst => ?_) ⟨Logs.refl s, rfl, fun L => by simp; rfl⟩
    obtain ⟨hlogs, hops, htx⟩ := hst
    obtain ⟨hlt, hin⟩ := mem_lanesOf.1 hL
    obtain ⟨hcanon, hal, hlook, hcls, ⟨hwr, hroom⟩, hfresh⟩ := hlane L hlt hin
    have htxL := (htx L).trans (if_neg hnew)
    have hgo := txStore_logs (s := st) (g := s.focus.grp) (L := L) (v := ({ data := s.takeData s.focus.mask (BitVec.ofNat 6 h.d) h.regs } : Op).lane h.regs L) hcanon hal
      (by rw [hlogs.lookup, hlogs.ctxOf]; exact hlook) hcls hwr (by rw [htxL]; exact hroom) (by rw [htxL]; exact fun w hw => (hfresh w hw).2)
    rw [htxL, hvalue L hL, hlogs.stampFor] at hgo
    have hput := hlogs.trans (logs_putTx st s.focus.grp L { s.cur.tx.get L with
      writes := (s.cur.tx.get L).writes ++ loggedWrites ((e L).pa (addr s L)) h.bytes (regsValue s d h.regs L) (e L).cls.toNat (s.stampFor s.focus.grp) })
    dsimp only
    rw [hvalue L hL, hgo]
    simp only [if_true]
    rw [watch_none (by rw [hput.launchOf]; exact hwatch)]
    refine ⟨hput, hops, fun K => ?_⟩
    rw [tx_putTx, htx K]
    by_cases hKL : K = L
    · subst hKL; simp
    · simp [hKL]
  generalize s.txStores h s.focus.mask (addr s) (fun L => ({ data := s.takeData s.focus.mask (BitVec.ofNat 6 h.d) h.regs } : Op).lane h.regs L) = v at hall hrun
  obtain ⟨hlogs, hops, htx⟩ := hall
  have hstamp := restamped_stampStore v
  refine ⟨_, (hexec s).trans hrun, fun g => ?_, fun a => ?_, ?_, fun L hL hin => ?_⟩
  · have hg : (v.stampStore.group g).unlogged = (s.group g).unlogged := (congrArg Group.unlogged (hstamp.group g) :).trans (hlogs.group g)
    exact (congrArg (fun k : Group => { k with ent := (s.group g).ent, spill := (s.group g).spill, stamp := (s.group g).stamp, tx := (s.group g).tx }) hg :)
  · exact (congrArg (fun x : State => x.byteAt a) hstamp.rest :).trans (hlogs.sameBytes a)
  · exact (congrArg State.ops hstamp.rest :).trans hops
  · have hcur : v.stampStore.cur = v.stampStore.group s.focus.grp := by
      show v.stampStore.group v.stampStore.focus.grp = _
      rw [hstamp.focus, hlogs.focus]
    dsimp only
    rw [hcur, show (v.stampStore.group s.focus.grp).tx = (v.group s.focus.grp).tx from (congrArg Group.tx (hstamp.group s.focus.grp) :), htx L,
      if_pos (mem_lanesOf.2 ⟨hL, hin⟩)]
    rfl

end Sys2Proof.Machine
end

section
/-! ## STG, STL and STGC at issue -/

namespace Sys2Proof.Machine

/-! ### STGC (R178) -/

theorem foldl_puts {α β : Type} [Inhabited α] [DecidableEq α] [Inhabited β] [DecidableEq β] (f : Nat → α) (g : Nat → β) (ks : List Nat) : ∀ acc : Store α × Store β,
    ks.foldl (fun (acc : Store α × Store β) k => (acc.1.put k (f k), acc.2.put k (g k))) acc
      = (ks.foldl (fun m k => m.put k (f k)) acc.1, ks.foldl (fun m k => m.put k (g k)) acc.2) := by
  induction ks with
  | nil => exact fun _ => rfl
  | cons k ks ih => exact fun acc => ih _

/-- R178: the addresses and the data of the elements of an STGC, by their numbers. -/
theorem get_compressElems (s : State) (d : Reg) (m : Mask) (base : DWord) {k : Nat} (hk : k < laneCount m) :
    (compressElems s d m base).1.get k = base + BitVec.ofNat 64 (4 * k)
    ∧ (compressElems s d m base).2.get k = s.vR d ((lanesOf m).getD k 0) := by
  have hmem : k ∈ List.range (lanesOf m).length := List.mem_range.2 hk
  have helems : compressElems s d m base = ((List.range (lanesOf m).length).foldl (fun (a : Store DWord) k => a.put k (base + BitVec.ofNat 64 (4 * k))) [],
      (List.range (lanesOf m).length).foldl (fun (a : Store Word) k => a.put k (s.vR d ((lanesOf m).getD k 0))) []) := by
    unfold compressElems
    rw [zipIdx_eq_range (lanesOf m) 0, List.foldl_map]
    exact foldl_puts _ _ _ _
  rw [helems]
  exact ⟨(get_putList _ _ _ _).trans (if_pos hmem), (get_putList _ _ _ _).trans (if_pos hmem)⟩

theorem compressAccess_eq {i : Instr} {la : BitVec 4} {d : Reg} {addr : State → Nat → DWord} (haddr : ∀ s u, Restamped s u → addr u = addr s) {s : State}
    (hm : s.focus.mask ≠ 0) (htx : s.focus.mask &&& s.cur.txOpen = 0) (hal : (addr s (lowLane s.focus.mask)).toNat % 4 = 0) :
    ∃ u, Restamped s u ∧ compressAccess i la d addr s = .next ((u.newOp { s.opHere i s.focus.mask with
      addr := (compressElems (s.doom s.focus.mask 5) d s.focus.mask (addr s (lowLane s.focus.mask))).1
      data := (compressElems (s.doom s.focus.mask 5) d s.focus.mask (addr s (lowLane s.focus.mask))).2 } la.toNat).1.post (.storeApply s.nextOp)) := by
  have hd : Restamped s (s.doom s.focus.mask 5) := restamped_doom htx 5
  have hu := hd.trans (restamped_stampStore (s.doom s.focus.mask 5))
  refine ⟨_, hu, ?_⟩
  have halign (t : State) (k : Out) : alignCheck t 4 [(lowLane s.focus.mask, addr s (lowLane s.focus.mask))] k = k := by
    have : misaligned 4 [(lowLane s.focus.mask, addr s (lowLane s.focus.mask))] = [] := List.filter_eq_nil_iff.2 fun x hx => by
      rw [List.mem_singleton.1 hx]
      simp [hal]
    unfold alignCheck
    rw [this]
  unfold compressAccess
  rw [plainLanes_eq _ _ _ hm htx]
  dsimp only
  rw [haddr _ _ hd, halign, hd.opHere, ← hu.nextOp]
  rfl

theorem stgc_issues (la : BitVec 4) (d a : Reg) (sp : BitVec 5) (m : Bool) (p : BitVec 2) {s : State} (hm : s.focus.mask ≠ 0) (htx : s.focus.mask &&& s.cur.txOpen = 0)
    (hal : (s.addrM sp m a (lowLane s.focus.mask)).toNat % 4 = 0) : Completes (.stgc la d a sp m p) s (fun t =>
      let o := t.op s.nextOp
      SameRegs s t ∧ SameBytes s t ∧ t.nextOp = s.nextOp + 1 ∧ o.live = true ∧ o.mask = s.focus.mask
      ∧ o.instr = .stgc la d a sp m p ∧ o.status = .flying ∧ .storeApply s.nextOp ∈ t.pending
      ∧ ∀ k, k < laneCount s.focus.mask →
          o.addr.get k = s.addrM sp m a (lowLane s.focus.mask) + BitVec.ofNat 64 (4 * k)
          ∧ o.data.get k = s.vR d ((lanesOf s.focus.mask).getD k 0)) := by
  obtain ⟨u, hu, hgo⟩ := compressAccess_eq (i := .stgc la d a sp m p) (la := la) (d := d) (addr := fun s L => s.addrM sp m a L) (addrM_restamped sp m a) hm htx hal
  have hd : Restamped s (s.doom s.focus.mask 5) := restamped_doom htx 5
  generalize ho : ({ s.opHere (.stgc la d a sp m p) s.focus.mask with
      addr := (compressElems (s.doom s.focus.mask 5) d s.focus.mask (s.addrM sp m a (lowLane s.focus.mask))).1
      data := (compressElems (s.doom s.focus.mask 5) d s.focus.mask (s.addrM sp m a (lowLane s.focus.mask))).2 } : Op) = o at hgo
  obtain ⟨hop, -, hnext, -, -⟩ := newOp_op u o la.toNat
  rw [hu.nextOp] at hop hnext
  have hopt : ((u.newOp o la.toNat).1.post (.storeApply s.nextOp)).op s.nextOp = { o with live := true } := hop
  refine ⟨_, hgo, sameRegs_of_bare ((bare_newOp u o la.toNat).trans hu.bare), fun x => ?_, hnext, ?_, ?_, ?_, ?_, List.mem_append_right _ (List.mem_singleton.2 rfl), fun k hk => ?_⟩
  · exact (congrArg (fun t : State => t.byteAt x) hu.rest :)
  · rw [hopt]
  · rw [hopt, ← ho]; rfl
  · rw [hopt, ← ho]; rfl
  · rw [hopt, ← ho]; rfl
  · rw [hopt, ← ho]
    obtain ⟨haddr, hdata⟩ := get_compressElems (s.doom s.focus.mask 5) d s.focus.mask (s.addrM sp m a (lowLane s.focus.mask)) hk
    exact ⟨haddr, hdata.trans (hd.vAt _ _)⟩

theorem dooms_stgc (la : BitVec 4) (d a : Reg) (sp : BitVec 5) (m : Bool) (p : BitVec 2) : Dooms (.stgc la d a sp m p) :=
  fun s hopen => (show exec (.stgc la d a sp m p) s = compressAccess (.stgc la d a sp m p) la d (fun s L => s.addrM sp m a L) s from rfl).trans
    (plainLanes_all_open s _ hopen)

/-! ### STG -/

/-- What every STG does at issue. -/
def PlainStore (i : Instr) (la : BitVec 4) (n regs : Nat) (d : Reg) (addr : State → Nat → DWord) : Prop :=
  PrivateStores i n regs d addr ∧ LoggedStores i n regs d addr
  ∧ if n = 16 then RegisterFaults i 16 false true addr else RegisterIssues i la n true addr

section
variable {i : Instr} {la : BitVec 4} {addr : State → Nat → DWord} {n regs : Nat} {d : Reg} (hs : shapeOf i = some ⟨.store, n, d.toNat, regs, false⟩)
  (hd : n ∣ 64) (hregs : regs ≤ 4) (hexec : ∀ s, exec i s = plainAccess i la addr s) (hlda : isLda i = false) (hstl : isStl i = false)
include hs hd hregs hexec hlda hstl

theorem plainStore_of_exec : PlainStore i la n regs d addr := by
  have hstart := startsAccess_plain (addr := addr) hs hexec hlda
  have hclasses : classesFor .store n = if n = 16 then [0, 1, 2] else [0, 1, 2, 3] := rfl
  refine ⟨privateStores_of_starts hs rfl hlda hstl hstart hd hregs rfl ?_, loggedStores_of_plain hs rfl hexec hregs rfl, ?_⟩
  · rw [hclasses]
    split <;> rfl
  · split
    · next h16 => subst h16; exact registerFaults_of_starts (rd := false) (wr := true) hs hlda hstart rfl rfl
    · next h16 =>
      refine registerIssues_store hs rfl hlda hstl hstart ?_
      rw [hclasses, if_neg h16]; rfl

theorem homeStore_of_exec (hwcp : isWc i = false) : StoreIssues i la n regs d addr := by
  refine storeIssues_of_starts hs rfl hlda hstl (startsAccess_plain (addr := addr) hs hexec hlda) hd hregs rfl hwcp ?_
  have hclasses : classesFor .store n = if n = 16 then [0, 1, 2] else [0, 1, 2, 3] := rfl
  rw [hclasses]
  split <;> exact ⟨rfl, rfl⟩

/-- R241: a store of the buffer, in terms of the statement. -/
theorem combinedStore_of_exec (hwcp : isWc i = true) (s : State) (e : Nat → TlbEntry) (line : Nat) (hr : CanAccess s n false true (addr s) e)
    (hline : ∀ L, L < 32 → s.inPass L = true → (e L).cls = 2 ∧ lineOf ((e L).pa (addr s L)) = line)
    (hhole : ∃ off, off < 64 ∧ ∀ x ∈ lanesBytes s.focus.mask (fun L => (e L).pa (addr s L)) n (regsValue s d regs), x.1 ≠ 64 * line + off) :
    Completes i s (fun t => SameRegs s t ∧ SameBytes s t ∧ (t.op s.nextOp).live = false
      ∧ let w := (t.cores.get s.curCore).wc
        w.held = true ∧ w.line = line ∧ w.ctxs = [s.ctxOf s.focus.grp] ∧ w.since = s.now
        ∧ ∀ off, off < 64 → w.mask.get off = (lanesBytes s.focus.mask (fun L => (e L).pa (addr s L)) n (regsValue s d regs)).any (fun x => x.1 == 64 * line + off)
            ∧ w.bytes.get off = laid (lanesBytes s.focus.mask (fun L => (e L).pa (addr s L)) n (regsValue s d regs)) (fun _ => 0) (64 * line + off)) := by
  refine combines_of_starts hs rfl hlda hstl (startsAccess_plain (addr := addr) hs hexec hlda) hd hregs rfl hwcp ?_ hr hline hhole
  have hclasses : classesFor .store n = if n = 16 then [0, 1, 2] else [0, 1, 2, 3] := rfl
  rw [hclasses]
  split <;> exact ⟨rfl, rfl⟩

end

/-! ### STL -/

theorem release_of_exec {i : Instr} {la : BitVec 4} {addr : State → Nat → DWord} {n regs : Nat} {d : Reg} (hs : shapeOf i = some ⟨.store, n, d.toNat, regs, false⟩)
    (hregs : regs ≤ 4) (hexec : ∀ s, exec i s = strongAccess i la addr s) (haddr : ∀ s u, Restamped s u → addr u = addr s) (hlda : isLda i = false)
    (hstl : isStl i = true) (h16 : n ≠ 16) : ReleaseIssues i la n regs d addr := by
  refine releaseIssues_of_starts hs rfl hlda hstl (startsAccess_strong (addr := addr) hs hexec haddr) hregs rfl fun c => ?_
  have hclasses : classesFor .store n = [0, 1, 2, 3] := if_neg h16
  have hlt := c.isLt
  rw [hclasses]
  simp only [List.contains_eq_mem, List.mem_cons, List.not_mem_nil, or_false, decide_eq_true_eq]
  omega

theorem isWc_false {p : BitVec 2} (hp : p ≠ 3) : (p == 3) = false := by simpa using hp

section
variable (la : BitVec 4) (d a : Reg) (sp : BitVec 5) (m : Bool) (p : BitVec 2)

theorem stg_issues : let at_ := fun (s : State) L => s.addrM sp m a L
    PlainStore (.stgB la d a sp m p) la 1 1 d at_ ∧ PlainStore (.stgH la d a sp m p) la 2 1 d at_ ∧ PlainStore (.stgW la d a sp m p) la 4 1 d at_
    ∧ PlainStore (.stgD la d a sp m p) la 8 2 d at_ ∧ PlainStore (.stgQ la d a sp m p) la 16 4 d at_ :=
  ⟨plainStore_of_exec rfl (by decide) (by decide) (fun _ => rfl) rfl rfl, plainStore_of_exec rfl (by decide) (by decide) (fun _ => rfl) rfl rfl,
    plainStore_of_exec rfl (by decide) (by decide) (fun _ => rfl) rfl rfl, plainStore_of_exec rfl (by decide) (by decide) (fun _ => rfl) rfl rfl,
    plainStore_of_exec rfl (by decide) (by decide) (fun _ => rfl) rfl rfl⟩

theorem stg_home (hp : p ≠ 3) : let at_ := fun (s : State) L => s.addrM sp m a L
    StoreIssues (.stgB la d a sp m p) la 1 1 d at_ ∧ StoreIssues (.stgH la d a sp m p) la 2 1 d at_ ∧ StoreIssues (.stgW la d a sp m p) la 4 1 d at_
    ∧ StoreIssues (.stgD la d a sp m p) la 8 2 d at_ ∧ StoreIssues (.stgQ la d a sp m p) la 16 4 d at_ :=
  have hwcp := isWc_false hp
  ⟨homeStore_of_exec rfl (by decide) (by decide) (fun _ => rfl) rfl rfl hwcp, homeStore_of_exec rfl (by decide) (by decide) (fun _ => rfl) rfl rfl hwcp,
    homeStore_of_exec rfl (by decide) (by decide) (fun _ => rfl) rfl rfl hwcp, homeStore_of_exec rfl (by decide) (by decide) (fun _ => rfl) rfl rfl hwcp,
    homeStore_of_exec rfl (by decide) (by decide) (fun _ => rfl) rfl rfl hwcp⟩

theorem stl_issues : let at_ := fun (s : State) L => s.addrM sp m a L
    ReleaseIssues (.stlW la d a sp m p) la 4 1 d at_ ∧ ReleaseIssues (.stlD la d a sp m p) la 8 2 d at_ :=
  ⟨release_of_exec (addr := fun s L => s.addrM sp m a L) rfl (by decide) (fun _ => rfl) (addrM_restamped sp m a) rfl rfl (by decide),
    release_of_exec (addr := fun s L => s.addrM sp m a L) rfl (by decide) (fun _ => rfl) (addrM_restamped sp m a) rfl rfl (by decide)⟩

theorem stl_dooms : Dooms (.stlW la d a sp m p) ∧ Dooms (.stlD la d a sp m p) :=
  ⟨dooms_strong (la := la) (addr := fun s L => s.addrM sp m a L) rfl (fun _ => rfl), dooms_strong (la := la) (addr := fun s L => s.addrM sp m a L) rfl (fun _ => rfl)⟩

end

/-- Settles O31, through what a store does lane by lane to lines (`privateStored_all`, `storedLanes_all`), to the write-combining
buffer (`combined_all`) and to write logs (`txStore_logs`). -/
theorem storesIssue : Obligations.StoresIssue := by
  refine ⟨fun la d a sp m p => ?_, ⟨?_, ?_, ?_, ?_, ?_, ?_, ?_, ?_⟩, ?_, ?_, ?_, ?_, ?_⟩
  · obtain ⟨b, h, w, dw, q⟩ := stg_issues la d a sp m p
    obtain ⟨lw, ld⟩ := stl_dooms la d a sp m p
    simp only [List.forall_mem_cons]
    exact ⟨⟨b, h, w, dw, q, List.forall_mem_nil _⟩, lw, ld, dooms_stgc la d a sp m p, List.forall_mem_nil _⟩
  · exact fun la d a sp m p hp => (stg_home la d a sp m p hp).1
  · exact fun la d a sp m p hp => (stg_home la d a sp m p hp).2.1
  · exact fun la d a sp m p hp => (stg_home la d a sp m p hp).2.2.1
  · exact fun la d a sp m p hp => (stg_home la d a sp m p hp).2.2.2.1
  · exact fun la d a sp m p hp => (stg_home la d a sp m p hp).2.2.2.2
  · exact fun la d a sp m c => (stl_issues la d a sp m c).1
  · exact fun la d a sp m c => (stl_issues la d a sp m c).2
  · exact fun la d a sp m p s hm htx hal => stgc_issues la d a sp m p hm htx hal
  all_goals exact fun la a sp m s e line d => combinedStore_of_exec (la := la) (addr := fun s L => s.addrM sp m a L) rfl (by decide) (by decide) (fun _ => rfl) rfl rfl rfl s e line

end Sys2Proof.Machine
end

section
/-! ## ATOM and RED at issue (R186, R187, R230, R278) -/

namespace Sys2Proof.Machine

/-! ### Elements of a line -/

theorem splitBytes_zipIdx (v n : Nat) : (splitBytes v n).zipIdx = (List.range n).map (fun i => (BitVec.ofNat 8 (v / 256 ^ i), i)) := by
  rw [zipIdx_eq_range (splitBytes v n) 0, splitBytes_length]
  refine List.map_congr_left fun i hi => ?_
  simp [splitBytes, List.getElem?_range (List.mem_range.1 hi)]

/-- The bytes of a value put at an address, read back. -/
theorem get_putValue (m : Store Byte) (a n v x : Nat) : (putBytes m ((splitBytes v n).zipIdx.map (fun e => (a + e.2, e.1)))).get x
    = if a ≤ x ∧ x < a + n then BitVec.ofNat 8 (v / 256 ^ (x - a)) else m.get x := by
  rw [splitBytes_zipIdx, List.map_map]
  have hput := get_putList ((List.range n).map (fun i => a + i)) (fun key => BitVec.ofNat 8 (v / 256 ^ (key - a))) x m
  rw [List.foldl_map] at hput
  simp only [Nat.add_sub_cancel_left] at hput
  unfold putBytes
  rw [List.foldl_map]
  refine hput.trans ?_
  have hmem : x ∈ (List.range n).map (fun i => a + i) ↔ a ≤ x ∧ x < a + n := by
    rw [List.mem_map]
    constructor
    · rintro ⟨i, hi, rfl⟩
      have := List.mem_range.1 hi
      omega
    · exact fun h => ⟨x - a, List.mem_range.2 (by omega), by omega⟩
  simp only [hmem]

theorem laid_value (old : Nat → Byte) (a n v x : Nat) : laid ((splitBytes v n).zipIdx.map (fun e => (a + e.2, e.1))) old x
    = if a ≤ x ∧ x < a + n then BitVec.ofNat 8 (v / 256 ^ (x - a)) else old x := by
  have hold : old x = (Store.put ([] : Store Byte) x (old x)).get x := (Store.get_put_same _ _ _).symm
  rw [laid_congr hold, ← get_putBytes, get_putValue, ← hold]

/-- The bytes of a value are those of the value. -/
theorem joinBytes_value (n : Nat) : ∀ v, joinBytes ((List.range n).map (fun i => BitVec.ofNat 8 (v / 256 ^ i))) = v % 256 ^ n := by
  induction n with
  | zero => intro v; simp [joinBytes, Nat.mod_one]
  | succ n ih =>
    intro v
    rw [List.range_succ_eq_map, List.map_cons, List.map_map]
    have htail : (List.range n).map ((fun i => BitVec.ofNat 8 (v / 256 ^ i)) ∘ Nat.succ) = (List.range n).map (fun i => BitVec.ofNat 8 (v / 256 / 256 ^ i)) := by
      refine List.map_congr_left fun i _ => ?_
      simp only [Function.comp, Nat.div_div_eq_div_mul, Nat.pow_succ, Nat.mul_comm]
    rw [htail]
    show (BitVec.ofNat 8 (v / 256 ^ 0)).toNat + 256 * joinBytes _ = _
    rw [ih, BitVec.toNat_ofNat, Nat.pow_zero, Nat.div_one]
    show v % 256 + 256 * (v / 256 % 256 ^ n) = _
    rw [Nat.pow_succ, Nat.mul_comm (256 ^ n) 256, Nat.mod_mul]

theorem lineElem_set (b : Store Byte) (off : Nat) {n v : Nat} (hv : v < 256 ^ n) : lineElem (setLineElem b off n v) off n = v := by
  unfold lineElem setLineElem
  have : (List.range n).map (fun i => (putBytes b ((splitBytes v n).zipIdx.map (fun e => (off + e.2, e.1)))).get (off + i))
      = (List.range n).map (fun i => BitVec.ofNat 8 (v / 256 ^ i)) := List.map_congr_left fun i hi => by
    have := List.mem_range.1 hi
    rw [get_putValue, if_pos (by omega), Nat.add_sub_cancel_left]
  rw [this, joinBytes_value, Nat.mod_eq_of_lt hv]

theorem lineElem_set_apart (b : Store Byte) {off off' n : Nat} (v : Nat) (h : off' + n ≤ off ∨ off + n ≤ off') :
    lineElem (setLineElem b off n v) off' n = lineElem b off' n := by
  unfold lineElem setLineElem
  congr 1
  refine List.map_congr_left fun i hi => ?_
  have := List.mem_range.1 hi
  rw [get_putValue, if_neg (by omega)]

/-- Two aligned elements are one, or lie apart. -/
theorem apart_of_aligned {a b n : Nat} (ha : a % n = 0) (hb : b % n = 0) (hne : a ≠ b) : a + n ≤ b ∨ b + n ≤ a := by
  obtain ⟨x, rfl⟩ := Nat.dvd_of_mod_eq_zero ha
  obtain ⟨y, rfl⟩ := Nat.dvd_of_mod_eq_zero hb
  rcases Nat.lt_trichotomy x y with h | h | h
  · left
    calc n * x + n = n * (x + 1) := by ring
      _ ≤ n * y := Nat.mul_le_mul_left n h
  · exact absurd (by rw [h]) hne
  · right
    calc n * y + n = n * (y + 1) := by ring
      _ ≤ n * x := Nat.mul_le_mul_left n h

/-! ### The forms of RED -/

/-- The operations of RED: of words by codes 0 to 10, the addition of doublewords by 11. -/
def RedForm (code n : Nat) : Prop := code ≤ 10 ∧ n = 4 ∨ code = 11 ∧ n = 8

theorem redFold_lt {code n : Nat} (h : RedForm code n) (old v : Nat) : redFold code old v < 256 ^ n := by
  have hw (x : Word) : x.toNat < 256 ^ 4 := lt_of_lt_of_eq x.isLt (by norm_num)
  rcases h with ⟨hc, rfl⟩ | ⟨rfl, rfl⟩
  · interval_cases code <;> exact hw _
  · exact lt_of_lt_of_eq (Nat.mod_lt _ (by norm_num)) (by norm_num)

/-- The fold of the lanes of a list that name an element, lanes ascending. -/
def foldAt (code : Nat) (pa value : Nat → Nat) (start : Nat) (ls : List Nat) (a : Nat) : Nat :=
  (ls.filter (fun K => pa K == a)).foldl (fun acc K => redFold code acc (value K)) start

theorem foldAt_append (code : Nat) (pa value : Nat → Nat) (start : Nat) (ls : List Nat) (L a : Nat) : foldAt code pa value start (ls ++ [L]) a
    = if pa L = a then redFold code (foldAt code pa value start ls a) (value L) else foldAt code pa value start ls a := by
  unfold foldAt
  rw [List.filter_append, List.foldl_append]
  by_cases h : pa L = a <;> simp [h]

end Sys2Proof.Machine
end

section
/-! ## The lanes of RED (R187, R230, R278) -/

namespace Sys2Proof.Machine

/-! ### Update-only lines -/

theorem updateOp_of_st {l : L1Line} {code n : Nat} (hc : code ≤ 11) (h : l.st = .updateOnly (BitVec.ofNat 4 code) n) : updateOp l = some (code, n) := by
  unfold updateOp
  rw [h]
  dsimp only
  rw [BitVec.toNat_ofNat, Nat.mod_eq_of_lt (by omega)]

/-- What an update-only line of an operation has at an offset: its element, or the identity where no RED has touched it. -/
def L1Line.partialElem (l : L1Line) (code n off : Nat) : Nat :=
  if updateOp l = some (code, n) ∧ l.touched.get off = true then lineElem l.bytes off n else redIdentity code

/-- The line that a RED folds into: an update-only one of its operation, or a fresh one. -/
def L1Line.updated (l : L1Line) (code n ctx : Nat) : L1Line :=
  if updateOp l = some (code, n) then l else { st := .updateOnly (BitVec.ofNat 4 code) n, ctx := ctx }

section
variable {l : L1Line} {code n : Nat} (ctx : Nat)

theorem updateOp_updated (hc : code ≤ 11) : updateOp (l.updated code n ctx) = some (code, n) := by
  unfold L1Line.updated
  split
  · assumption
  · exact updateOp_of_st hc rfl

theorem elem_updated (off : Nat) : (if (l.updated code n ctx).touched.get off = true then lineElem (l.updated code n ctx).bytes off n else redIdentity code)
    = l.partialElem code n off := by
  unfold L1Line.partialElem L1Line.updated
  by_cases h : updateOp l = some (code, n)
  · simp only [h, if_true, true_and]
  · simp only [h, if_false, false_and]
    rfl

end

/-- R278: a line with the value of one more lane folded into it. -/
def L1Line.fold (l : L1Line) (code n ctx cls own off v : Nat) : L1Line := { l.updated code n ctx with
  bytes := setLineElem (l.updated code n ctx).bytes off n (redFold code
    (if (l.updated code n ctx).touched.get off then lineElem (l.updated code n ctx).bytes off n else redIdentity code) v)
  touched := (l.updated code n ctx).touched.put off true
  cls := if updateOp l = some (code, n) then max l.cls cls else cls
  owners := if (l.updated code n ctx).owners.contains own then (l.updated code n ctx).owners else (l.updated code n ctx).owners ++ [own]
  ctxs := if (l.updated code n ctx).ctxs.contains ctx then (l.updated code n ctx).ctxs else (l.updated code n ctx).ctxs ++ [ctx] }

section
variable {code n : Nat} (l : L1Line) (ctx cls own v : Nat)

theorem updateOp_fold (hc : code ≤ 11) (off : Nat) : updateOp (l.fold code n ctx cls own off v) = some (code, n) := updateOp_updated ctx hc

theorem partialElem_fold_same (hr : RedForm code n) (off : Nat) :
    (l.fold code n ctx cls own off v).partialElem code n off = redFold code (l.partialElem code n off) v := by
  have hc : code ≤ 11 := by rcases hr with ⟨h, -⟩ | ⟨rfl, -⟩ <;> omega
  have htouch : (l.fold code n ctx cls own off v).touched.get off = true := Store.get_put_same (l.updated code n ctx).touched off true
  rw [← elem_updated (l := l) ctx off]
  exact (if_pos ⟨updateOp_fold l ctx cls own v hc off, htouch⟩).trans (lineElem_set _ off (redFold_lt hr _ v))

theorem partialElem_fold_apart (hc : code ≤ 11) {off off' : Nat} (hn : 0 < n) (h : off' + n ≤ off ∨ off + n ≤ off') :
    (l.fold code n ctx cls own off v).partialElem code n off' = l.partialElem code n off' := by
  have htouch : (l.fold code n ctx cls own off v).touched.get off' = (l.updated code n ctx).touched.get off' := by
    show ((l.updated code n ctx).touched.put off true).get off' = _
    rw [Store.get_put, if_neg (by omega)]
  rw [← elem_updated (l := l) ctx off']
  unfold L1Line.partialElem
  rw [htouch]
  simp only [updateOp_fold l ctx cls own v hc off, true_and]
  split
  · exact lineElem_set_apart _ _ h
  · rfl

end

/-! ### One lane of class 1 or 2 -/

/-- R278: a lane of an operation folds into a line of the core, and its split notes the line. -/
def State.foldRed (s : State) (o : Op) (core line code n ctx cls own off v : Nat) : State :=
  (s.putLine core line ((s.lineAt core line).fold code n ctx cls own off v)).onSplit o.grp o.uid (fun x => x.gather (line, some (scopeOf o.instr)))

section
variable {st : State} {i L core : Nat} {h : Shape} (hcore : core = coreOfGroup (st.op i).grp) (hwc : (st.cores.get core).wc.held = false)
include hcore hwc

/-- R278: a lane folds into a line that carries no other operation. -/
theorem redLane_home (h0 : (st.op i).cls.get L ≠ 0)
    (hl : updateOp (st.lineAt core (lineOf (st.lanePa i L))) = none ∨ updateOp (st.lineAt core (lineOf (st.lanePa i L))) = some (redCode (st.op i).instr, h.bytes)) :
    ∃ ctx cls own, st.redLane i h L = st.foldRed (st.op i) core (lineOf (st.lanePa i L)) (redCode (st.op i).instr) h.bytes ctx cls own
      (st.lanePa i L % 64) ((st.op i).lane h.regs L) := by
  subst hcore
  refine ⟨st.ctxOf (st.op i).grp, (st.op i).cls.get L, (st.blockOf (st.op i).grp).launch, ?_⟩
  unfold State.lineAt State.lanePa at hl
  have hsame : (match updateOp ((st.cores.get (coreOfGroup (st.op i).grp)).l1.get (lineOf ((st.op i).pa.get L))) with
      | some x => if x = (redCode (st.op i).instr, h.bytes) then st
          else (st.collectFrom (lineOf ((st.op i).pa.get L)) [coreOfGroup (st.op i).grp]).1
      | none => st) = st := by
    rcases hl with hl | hl <;> rw [hl]
    exact if_pos rfl
  unfold State.redLane
  dsimp only
  rw [flushWcFor_empty _ hwc, if_neg h0]
  exact congrArg (fun s1 : State => s1.foldRed (st.op i) (coreOfGroup (st.op i).grp) (lineOf (st.lanePa i L)) (redCode (st.op i).instr) h.bytes
    (st.ctxOf (st.op i).grp) ((st.op i).cls.get L) (st.blockOf (st.op i).grp).launch (st.lanePa i L % 64) ((st.op i).lane h.regs L)) hsame

/-- R230: a lane of a class 0 page folds into the core's own line. -/
theorem redLane_private (h0 : (st.op i).cls.get L = 0) : ∃ t₁,
    Lined st core (lineOf (st.lanePa i L)) (st.privateLine core (lineOf (st.lanePa i L)) (st.ctxOf (st.op i).grp)) t₁
    ∧ Lined t₁ core (lineOf (st.lanePa i L)) ((t₁.lineAt core (lineOf (st.lanePa i L))).take
        ((splitBytes (redFold (redCode (st.op i).instr) (lineElem (t₁.lineAt core (lineOf (st.lanePa i L))).bytes (st.lanePa i L % 64) h.bytes)
          ((st.op i).lane h.regs L)) h.bytes).zipIdx.map (fun e => (st.lanePa i L + e.2, e.1)))) (st.redLane i h L) := by
  subst hcore
  have h₁ := lined_fillPrivate st (coreOfGroup (st.op i).grp) (lineOf (st.lanePa i L)) (st.ctxOf (st.op i).grp)
  refine ⟨_, h₁, ?_⟩
  generalize hbs : (splitBytes _ h.bytes).zipIdx.map (fun e => (st.lanePa i L + e.2, e.1)) = bs
  have h₂ := lined_l1Update (st.fillPrivate (coreOfGroup (st.op i).grp) (st.ctxOf (st.op i).grp) (lineOf (st.lanePa i L))) (coreOfGroup (st.op i).grp) (lineOf (st.lanePa i L)) bs
  rw [if_pos (by unfold State.l1Valid; rw [h₁.lineAt, if_pos rfl, privateLine_st])] at h₂
  have hgo : st.redLane i h L = (st.fillPrivate (coreOfGroup (st.op i).grp) (st.ctxOf (st.op i).grp) (lineOf (st.lanePa i L))).l1Update (coreOfGroup (st.op i).grp) (lineOf (st.lanePa i L)) bs := by
    rw [← hbs]
    unfold State.redLane
    dsimp only
    rw [flushWcFor_empty _ hwc, if_pos h0]
    rfl
  rw [hgo]
  exact h₂

end

/-! ### All lanes of class 1 or 2 -/

/-- R187, R278: where a RED on pages of class 1 or 2 stands after some of its lanes. -/
structure RedLanes (w : State) (i core code n : Nat) (value : Nat → Nat) (ls done : List Nat) (st : State) : Prop where
  frame : StoreFrame w st core
  kind : ∀ L ∈ ls, updateOp (st.lineAt core (lineOf (w.lanePa i L))) = none ∨ updateOp (st.lineAt core (lineOf (w.lanePa i L))) = some (code, n)
  elem : ∀ L ∈ ls, (st.lineAt core (lineOf (w.lanePa i L))).partialElem code n (w.lanePa i L % 64)
    = foldAt code (w.lanePa i) value (redIdentity code) done (w.lanePa i L)
  touched : ∀ L ∈ done, updateOp (st.lineAt core (lineOf (w.lanePa i L))) = some (code, n)
    ∧ (st.lineAt core (lineOf (w.lanePa i L))).touched.get (w.lanePa i L % 64) = true

theorem redLanes_step {w st : State} {i core L : Nat} {h : Shape} {ls done : List Nat} (hcore : core = coreOfGroup (w.op i).grp)
    (hr : RedForm (redCode (w.op i).instr) h.bytes) (hlane : ∀ K ∈ ls, (w.op i).cls.get K ≠ 0 ∧ w.lanePa i K % h.bytes = 0) (hL : L ∈ ls)
    (hst : RedLanes w i core (redCode (w.op i).instr) h.bytes ((w.op i).lane h.regs) ls done st) :
    RedLanes w i core (redCode (w.op i).instr) h.bytes ((w.op i).lane h.regs) ls (done ++ [L]) (st.redLane i h L) := by
  obtain ⟨hf, hkind, helem, htouched⟩ := hst
  have hop : st.op i = w.op i := congrArg (fun m : Store Op => m.get i) hf.ops
  have hpa (K : Nat) : st.lanePa i K = w.lanePa i K := congrArg (fun o : Op => o.pa.get K) hop
  have hc : redCode (w.op i).instr ≤ 11 := by rcases hr with ⟨h, -⟩ | ⟨h, -⟩ <;> omega
  have hpos : 0 < h.bytes := by rcases hr with ⟨-, h⟩ | ⟨-, h⟩ <;> omega
  have hd : h.bytes ∣ 64 := by rcases hr with ⟨-, h⟩ | ⟨-, h⟩ <;> rw [h] <;> decide
  obtain ⟨ctx, cls, own, hgo⟩ := redLane_home (st := st) (i := i) (L := L) (h := h) (by rw [hop]; exact hcore) hf.wc (by rw [hop]; exact (hlane L hL).1)
    (by rw [hpa, hop]; exact hkind L hL)
  rw [hpa, hop] at hgo
  rw [hgo]
  have hline (n : Nat) : (st.foldRed (w.op i) core (lineOf (w.lanePa i L)) (redCode (w.op i).instr) h.bytes ctx cls own
      (w.lanePa i L % 64) ((w.op i).lane h.regs L)).lineAt core n
      = if n = lineOf (w.lanePa i L) then (st.lineAt core (lineOf (w.lanePa i L))).fold (redCode (w.op i).instr) h.bytes ctx cls own (w.lanePa i L % 64) ((w.op i).lane h.regs L)
        else st.lineAt core n := lineAt_putLine st core (lineOf (w.lanePa i L)) _ n
  refine ⟨⟨(hf.quiet.trans (quiet_putLine ..)).trans (quiet_onSplit _ _ _ _), (congrArg WcBuffer.held (wc_putLine st core _ _ core)).trans hf.wc, hf.ops⟩,
    fun K hK => ?_, fun K hK => ?_, fun K hK => ?_⟩
  · rw [hline]
    split
    · exact .inr (updateOp_fold _ _ _ _ _ hc _)
    · exact hkind K hK
  · rw [hline, foldAt_append]
    by_cases hsame : lineOf (w.lanePa i K) = lineOf (w.lanePa i L)
    · rw [if_pos hsame]
      by_cases hpaK : w.lanePa i L = w.lanePa i K
      · rw [if_pos hpaK, ← hpaK, partialElem_fold_same _ _ _ _ _ hr, helem L hL]
      · have hapart := apart_of_aligned (hlane K hK).2 (hlane L hL).2 (Ne.symm hpaK)
        rw [if_neg hpaK, partialElem_fold_apart _ _ _ _ _ hc hpos, ← hsame, helem K hK]
        unfold lineOf at hsame
        omega
    · rw [if_neg hsame, if_neg (fun hpaK => hsame (by rw [hpaK])), helem K hK]
  · rw [hline]
    by_cases hsame : lineOf (w.lanePa i K) = lineOf (w.lanePa i L)
    · rw [if_pos hsame]
      refine ⟨updateOp_fold _ _ _ _ _ hc _, ?_⟩
      show (((st.lineAt core (lineOf (w.lanePa i L))).updated _ _ _).touched.put (w.lanePa i L % 64) true).get (w.lanePa i K % 64) = true
      rw [Store.get_put]
      split
      · rfl
      · next hoff =>
        rcases List.mem_append.1 hK with hK | hK
        · obtain ⟨hup, ht⟩ := htouched K hK
          rw [← hsame]
          unfold L1Line.updated
          rw [if_pos hup]
          exact ht
        · exact absurd (by rw [List.mem_singleton.1 hK]) hoff
    · rw [if_neg hsame]
      rcases List.mem_append.1 hK with hK | hK
      · exact htouched K hK
      · exact absurd (by rw [List.mem_singleton.1 hK]) hsame

theorem redLanes_all {w : State} {i core : Nat} {h : Shape} {ls : List Nat} (hcore : core = coreOfGroup (w.op i).grp)
    (hr : RedForm (redCode (w.op i).instr) h.bytes) (hwc : (w.cores.get core).wc.held = false) (hlane : ∀ K ∈ ls, (w.op i).cls.get K ≠ 0 ∧ w.lanePa i K % h.bytes = 0)
    (hnone : ∀ K ∈ ls, updateOp (w.lineAt core (lineOf (w.lanePa i K))) = none) :
    RedLanes w i core (redCode (w.op i).instr) h.bytes ((w.op i).lane h.regs) ls ls (ls.foldl (fun st L => st.redLane i h L) w) := by
  refine foldl_upto (RedLanes w i core _ h.bytes _ ls) (fun done L st hL hst => redLanes_step hcore hr hlane hL hst)
    ⟨⟨Quiet.refl w, hwc, rfl⟩, fun K hK => .inl (hnone K hK), fun K hK => ?_, by simp⟩
  unfold L1Line.partialElem
  rw [hnone K hK, if_neg (by simp)]
  rfl

/-! ### All lanes of class 0 -/

/-- The element of a class 0 page as a core has it (R229, R230). -/
def privateElem (s : State) (core n pa : Nat) : Nat := joinBytes ((List.range n).map (fun j => privateByte s core (pa + j)))

theorem privateElem_congr {s t : State} {core n pa : Nat} (h : ∀ j, j < n → privateByte t core (pa + j) = privateByte s core (pa + j)) : privateElem t core n pa = privateElem s core n pa := by
  unfold privateElem
  congr 1
  exact List.map_congr_left fun j hj => h j (List.mem_range.1 hj)

/-- Of a line of class 0, the element of the line. -/
theorem privateElem_line {s : State} {core n pa : Nat} (hn : n ∣ 64) (hpa : pa % n = 0) (hp : (s.lineAt core (lineOf pa)).st = .priv) :
    lineElem (s.lineAt core (lineOf pa)).bytes (pa % 64) n = privateElem s core n pa := by
  unfold lineElem privateElem
  congr 1
  refine List.map_congr_left fun j hj => ?_
  obtain ⟨hl, hoff⟩ := lineOf_add hn hpa (List.mem_range.1 hj)
  rw [privateByte_eq, hl, hoff, if_pos hp]

/-- R230: where a RED on pages of class 0 stands after some of its lanes. -/
structure PrivateReduced (w : State) (i core code n : Nat) (value : Nat → Nat) (ls done : List Nat) (st : State) : Prop where
  frame : StoreFrame w st core
  priv : ∀ L ∈ done, (st.lineAt core (lineOf (w.lanePa i L))).st = .priv
  elem : ∀ L ∈ ls, privateElem st core n (w.lanePa i L) = foldAt code (w.lanePa i) value (privateElem w core n (w.lanePa i L)) done (w.lanePa i L)

theorem privateReduced_step {w st : State} {i core L : Nat} {h : Shape} {ls done : List Nat} (hcore : core = coreOfGroup (w.op i).grp)
    (hr : RedForm (redCode (w.op i).instr) h.bytes) (hlane : ∀ K ∈ ls, (w.op i).cls.get K = 0 ∧ w.lanePa i K % h.bytes = 0) (hL : L ∈ ls)
    (hst : PrivateReduced w i core (redCode (w.op i).instr) h.bytes ((w.op i).lane h.regs) ls done st) :
    PrivateReduced w i core (redCode (w.op i).instr) h.bytes ((w.op i).lane h.regs) ls (done ++ [L]) (st.redLane i h L) := by
  obtain ⟨hf, hpriv, helem⟩ := hst
  have hop : st.op i = w.op i := congrArg (fun m : Store Op => m.get i) hf.ops
  have hpa (K : Nat) : st.lanePa i K = w.lanePa i K := congrArg (fun o : Op => o.pa.get K) hop
  have hd : h.bytes ∣ 64 := by rcases hr with ⟨-, h⟩ | ⟨-, h⟩ <;> rw [h] <;> decide
  obtain ⟨t₁, h₁, h₂⟩ := redLane_private (st := st) (i := i) (L := L) (h := h) (by rw [hop]; exact hcore) hf.wc (by rw [hop]; exact (hlane L hL).1)
  rw [hpa, hop] at h₂
  rw [hpa] at h₁
  have hp₁ : (t₁.lineAt core (lineOf (w.lanePa i L))).st = .priv := by rw [h₁.lineAt, if_pos rfl]; exact privateLine_st ..
  rw [privateElem_line hd (hlane L hL).2 hp₁, privateElem_congr (fun j _ => privateByte_fill h₁ _), helem L hL] at h₂
  generalize hv : redFold (redCode (w.op i).instr) (foldAt (redCode (w.op i).instr) (w.lanePa i) ((w.op i).lane h.regs) (privateElem w core h.bytes (w.lanePa i L)) done (w.lanePa i L))
    ((w.op i).lane h.regs L) = v at h₂
  have hvlt : v < 256 ^ h.bytes := hv ▸ redFold_lt hr _ _
  have hbyte (a : Nat) : privateByte (st.redLane i h L) core a
      = if w.lanePa i L ≤ a ∧ a < w.lanePa i L + h.bytes then BitVec.ofNat 8 (v / 256 ^ (a - w.lanePa i L)) else privateByte st core a := by
    rw [privateByte_take hp₁ (fun x hx => ?_) h₂, laid_value, privateByte_fill h₁]
    obtain ⟨⟨b, j⟩, hb, rfl⟩ := List.mem_map.1 hx
    have := (List.mem_zipIdx hb).2.1
    rw [splitBytes_length] at this
    exact (lineOf_add hd (hlane L hL).2 (by omega)).1
  refine ⟨(hf.lined h₁).lined h₂, fun K hK => ?_, fun K hK => ?_⟩
  · rcases List.mem_append.1 hK with hK | hK
    · exact priv_kept h₂ (.inr rfl) (priv_kept h₁ (.inl (privateLine_st ..)) (hpriv K hK))
    · rw [List.mem_singleton.1 hK, h₂.lineAt, if_pos rfl]; exact hp₁
  · rw [foldAt_append]
    by_cases hpaK : w.lanePa i L = w.lanePa i K
    · rw [if_pos hpaK, ← hpaK, hv]
      unfold privateElem
      rw [show (List.range h.bytes).map (fun j => privateByte (st.redLane i h L) core (w.lanePa i L + j)) = (List.range h.bytes).map (fun j => BitVec.ofNat 8 (v / 256 ^ j)) from
        List.map_congr_left fun j hj => by
          have := List.mem_range.1 hj
          rw [hbyte, if_pos (by omega), Nat.add_sub_cancel_left], joinBytes_value, Nat.mod_eq_of_lt hvlt]
    · have hapart := apart_of_aligned (hlane K hK).2 (hlane L hL).2 (Ne.symm hpaK)
      rw [if_neg hpaK, ← helem K hK]
      exact privateElem_congr fun j hj => (hbyte _).trans (if_neg (by omega))

theorem privateReduced_all {w : State} {i core : Nat} {h : Shape} {ls : List Nat} (hcore : core = coreOfGroup (w.op i).grp)
    (hr : RedForm (redCode (w.op i).instr) h.bytes) (hwc : (w.cores.get core).wc.held = false) (hlane : ∀ K ∈ ls, (w.op i).cls.get K = 0 ∧ w.lanePa i K % h.bytes = 0) :
    PrivateReduced w i core (redCode (w.op i).instr) h.bytes ((w.op i).lane h.regs) ls ls (ls.foldl (fun st L => st.redLane i h L) w) :=
  foldl_upto (PrivateReduced w i core _ h.bytes _ ls) (fun done L st hL hst => privateReduced_step hcore hr hlane hL hst)
    ⟨⟨Quiet.refl w, hwc, rfl⟩, by simp, fun _ _ => rfl⟩

end Sys2Proof.Machine
end

section
/-! ## ATOM, RED and PFG at issue (R180, R186, R187, R230, R278) -/

namespace Sys2Proof.Machine

/-! ### Reads and writes of class 0, 1 or 2 -/

theorem permit_both {t : TlbEntry} {m : Move} {n : Nat} (hm : accessFor m = .both) (hc : (classesFor m n).contains t.cls.toNat = true)
    (hr : t.r = true) (hw : t.w = true ∧ t.cow = false) : permit t (accessFor m) (classesFor m n) = none := by
  unfold permit
  rw [hm, hc, hr, hw.1, hw.2]
  rfl

section
variable {s w : State} {i : Instr} {la : BitVec 4} {h : Shape} {addr : Nat → DWord} {e : Nat → TlbEntry}

/-- The value of a lane, from the registers of the state at issue. -/
theorem lane_ready {d : Reg} (hr : Ready s w i la h addr e) (hm : h.move ≠ .load) (hregs : h.regs ≤ 4) (hd : h.d = d.toNat) {L : Nat} (hL : L ∈ lanesOf s.focus.mask) :
    (w.op s.nextOp).lane h.regs L = regsValue s d h.regs L := by
  obtain ⟨hlt, hin⟩ := mem_lanesOf.1 hL
  have hreg : (BitVec.ofNat 6 h.d).toNat = d.toNat := by rw [hd]; simp
  unfold Op.lane regsValue
  congr 1
  refine List.map_congr_left fun k hk => ?_
  rw [hr.data hm hregs L k hlt (List.mem_range.1 hk) hin, hreg]

end

section
variable {i : Instr} {la : BitVec 4} {h : Shape} {addr : State → Nat → DWord} (hs : shapeOf i = some h) (hlda : isLda i = false) (hstart : StartsAccess i la h addr)
include hs hlda hstart

theorem both_starts (hm : accessFor h.move = .both) {s : State} {e : Nat → TlbEntry} {cls : BitVec 2 → Bool} (hreach : Reaches s h.bytes true true cls (addr s) e)
    (hcls : ∀ c, cls c = true → (classesFor h.move h.bytes).contains c.toNat = true) :
    ∃ w, Ready s w i la h (addr s) e ∧ exec i s = .next (w.launchOp s.nextOp h) :=
  access_starts hs hlda hstart hreach fun t hc hr hw => permit_both hm (hcls t.cls hc) (hr rfl) (hw rfl)

end

/-! ### ATOM at issue -/

theorem atomIssues_of_starts {i : Instr} {la : BitVec 4} {h : Shape} {d a : Reg} (hs : shapeOf i = some h) (hm : h.move = .atom) (hlda : isLda i = false)
    (hstart : StartsAccess i la h (fun s => s.vP a)) (hregs : h.regs ≤ 4) (hdest : h.d = d.toNat) : AtomIssues i la h.bytes h.regs d a := by
  intro s e hr
  obtain ⟨-, -, -, -, hwatch, -⟩ := id hr
  obtain ⟨w, hw, hexec⟩ := both_starts (addr := fun s => s.vP a) hs hlda hstart (by rw [hm]; rfl) hr (fun c hc => by
    have hne : c ≠ 3 := by simpa using hc
    have hlt := c.isLt
    have : c.toNat ≠ 3 := fun h => hne (BitVec.eq_of_toNat_eq h)
    rw [hm]
    show [0, 1, 2].contains c.toNat = true
    simp only [List.contains_eq_mem, List.mem_cons, List.not_mem_nil, or_false, decide_eq_true_eq]
    omega)
  have hfly := hw.flying
  have hlaunch : w.launchOp s.nextOp h = (w.onOp s.nextOp (fun x => { x with status := .flying })).post (.atomAtHome s.nextOp) := by
    unfold State.launchOp
    rw [hm]
    dsimp only
    rw [hw.watch (quiet_onOp w _ _) hwatch]
  have hquiet : Quiet (w.onOp s.nextOp (fun x => { x with status := .flying })) ((w.onOp s.nextOp (fun x => { x with status := .flying })).post (.atomAtHome s.nextOp)) :=
    quiet_post _ _
  refine ⟨_, hexec.trans (congrArg Host.Outcome.next hlaunch), hfly.sameRegs hquiet, hfly.sameBytes.trans hquiet.sameBytes, issued_of_quiet hfly hquiet rfl,
    fun L k hL hk hin => ?_, List.mem_append_right _ (List.mem_singleton.2 rfl)⟩
  have := hfly.data (by rw [hm]; simp) hregs L k hL hk hin
  rw [hdest, BitVec.ofNat_toNat, BitVec.setWidth_eq] at this
  exact this

/-! ### RED at issue -/

theorem foldAt_congr {code start : Nat} {pa pa' value value' : Nat → Nat} {ls : List Nat} {a : Nat} (hpa : ∀ K ∈ ls, pa K = pa' K) (hv : ∀ K ∈ ls, value K = value' K) :
    foldAt code pa value start ls a = (ls.filter (fun K => pa' K == a)).foldl (fun acc K => redFold code acc (value' K)) start := by
  unfold foldAt
  rw [List.filter_congr (fun K hK => by rw [hpa K hK])]
  refine List.foldl_ext _ _ _ fun acc K hK => ?_
  rw [hv K (List.mem_filter.1 hK).1]

section
variable {i : Instr} {la : BitVec 4} {h : Shape} {d a : Reg} (hs : shapeOf i = some h) (hm : h.move = .red) (hlda : isLda i = false)
  (hstart : StartsAccess i la h (fun s => s.vP a)) (hform : RedForm (redCode i) h.bytes) (hregs : h.regs ≤ 4) (hdest : h.d = d.toNat)
include hs hm hlda hstart hform hregs hdest

omit hform hregs hdest in
/-- A RED folds its lanes one after another, and is complete. -/
theorem red_starts {s : State} {e : Nat → TlbEntry} {cls : BitVec 2 → Bool} (hreach : Reaches s h.bytes true true cls (s.vP a) e)
    (hcls : ∀ c, cls c = true → c = 0 ∨ c = 1 ∨ c = 2)
    (hquiet : ∀ w, Ready s w i la h (s.vP a) e → Quiet w ((lanesOf s.focus.mask).foldl (fun st L => st.redLane s.nextOp h L) w)) :
    ∃ w, Ready s w i la h (s.vP a) e
      ∧ exec i s = .next (((lanesOf s.focus.mask).foldl (fun st L => st.redLane s.nextOp h L) w).completeOp s.nextOp) := by
  obtain ⟨-, -, -, -, hwatch, -⟩ := id hreach
  obtain ⟨w, hw, hexec⟩ := both_starts (addr := fun s => s.vP a) hs hlda hstart (by rw [hm]; rfl) hreach (fun c hc => by
    rw [hm]
    rcases hcls c hc with rfl | rfl | rfl <;> rfl)
  refine ⟨w, hw, hexec.trans (congrArg Host.Outcome.next ?_)⟩
  unfold State.launchOp
  rw [hm]
  dsimp only
  rw [hw.lanes, hw.watch (hquiet w hw) hwatch]

/-- R187, R278: RED on pages of class 1 or 2 at issue. -/
theorem redFolds_of_starts : RedFolds i h.bytes h.regs d a (redCode i) := by
  intro s e hr hnone
  obtain ⟨hmask, -, -, hwc, -, hlane⟩ := id hr
  have hd : h.bytes ∣ 64 := by rcases hform with ⟨-, h⟩ | ⟨-, h⟩ <;> rw [h] <;> decide
  have hall (w : State) (hw : Ready s w i la h (s.vP a) e) :
      RedLanes w s.nextOp s.curCore (redCode i) h.bytes ((w.op s.nextOp).lane h.regs) (lanesOf s.focus.mask) (lanesOf s.focus.mask)
        ((lanesOf s.focus.mask).foldl (fun st L => st.redLane s.nextOp h L) w) := by
    have := redLanes_all (ls := lanesOf s.focus.mask) hw.core (by rw [hw.op_instr]; exact hform) (by rw [hw.cores, hwc]) (fun K hK => by
      obtain ⟨hlt, hin⟩ := mem_lanesOf.1 hK
      obtain ⟨-, hal, -, hc, -⟩ := hlane K hlt hin
      have hc12 : (e K).cls = 1 ∨ (e K).cls = 2 := by simpa using hc
      rw [hw.cls hK, hw.pa hK, pa_mod hd]
      rcases hc12 with h | h <;> rw [h] <;> exact ⟨by decide, hal⟩) (fun K hK => by
      obtain ⟨hlt, hin⟩ := mem_lanesOf.1 hK
      rw [hw.lineAt, hw.pa hK]
      exact hnone K hlt hin)
    rw [hw.op_instr] at this
    exact this
  obtain ⟨w, hw, hexec⟩ := red_starts hs hm hlda hstart hr (fun c hc => .inr (by simpa using hc)) (fun w hw => (hall w hw).frame.quiet)
  obtain ⟨hf, -, helem, htouched⟩ := hall w hw
  refine ⟨_, hexec, sameRegs_of_bare ((bare_completeOp _ _).trans (hf.quiet.bare.trans hw.bare)),
    (hw.sameBytes.trans hf.quiet.sameBytes).trans (sameBytes_completeOp _ _), live_completeOp _ _, fun L hL hin => ?_⟩
  have hmem := mem_lanesOf.2 ⟨hL, hin⟩
  have hline : l1At (((lanesOf s.focus.mask).foldl (fun st L => st.redLane s.nextOp h L) w).completeOp s.nextOp) s.curCore ((e L).pa (s.vP a L))
      = ((lanesOf s.focus.mask).foldl (fun st L => st.redLane s.nextOp h L) w).lineAt s.curCore (lineOf (w.lanePa s.nextOp L)) := by rw [hw.pa hmem]; rfl
  obtain ⟨hup, ht⟩ := htouched L hmem
  have hvalue := helem L hmem
  unfold L1Line.partialElem at hvalue
  rw [if_pos ⟨hup, ht⟩, foldAt_congr (fun K hK => hw.pa hK) (fun K hK => lane_ready hw (by rw [hm]; simp) hregs hdest hK)] at hvalue
  dsimp only
  rw [hline, ← hw.pa hmem]
  refine ⟨hup, ht, hvalue.trans ?_⟩
  rfl

/-- R230: RED on pages of class 0 at issue. -/
theorem privateReds_of_starts : PrivateReds i h.bytes h.regs d a (redCode i) := by
  intro s e hr
  obtain ⟨hmask, -, -, hwc, -, hlane⟩ := id hr
  have hd : h.bytes ∣ 64 := by rcases hform with ⟨-, h⟩ | ⟨-, h⟩ <;> rw [h] <;> decide
  have hall (w : State) (hw : Ready s w i la h (s.vP a) e) :
      PrivateReduced w s.nextOp s.curCore (redCode i) h.bytes ((w.op s.nextOp).lane h.regs) (lanesOf s.focus.mask) (lanesOf s.focus.mask)
        ((lanesOf s.focus.mask).foldl (fun st L => st.redLane s.nextOp h L) w) := by
    have := privateReduced_all (ls := lanesOf s.focus.mask) hw.core (by rw [hw.op_instr]; exact hform) (by rw [hw.cores, hwc]) (fun K hK => by
      obtain ⟨hlt, hin⟩ := mem_lanesOf.1 hK
      obtain ⟨-, hal, -, hc, -⟩ := hlane K hlt hin
      have hc0 : (e K).cls = 0 := by simpa using hc
      rw [hw.cls hK, hw.pa hK, pa_mod hd, hc0]
      exact ⟨rfl, hal⟩)
    rw [hw.op_instr] at this
    exact this
  obtain ⟨w, hw, hexec⟩ := red_starts hs hm hlda hstart hr (fun c hc => .inl (by simpa using hc)) (fun w hw => (hall w hw).frame.quiet)
  obtain ⟨hf, hpriv, helem⟩ := hall w hw
  refine ⟨_, hexec, sameRegs_of_bare ((bare_completeOp _ _).trans (hf.quiet.bare.trans hw.bare)),
    (hw.sameBytes.trans hf.quiet.sameBytes).trans (sameBytes_completeOp _ _), live_completeOp _ _, fun L hL hin => ?_⟩
  have hmem := mem_lanesOf.2 ⟨hL, hin⟩
  have hp := hpriv L hmem
  have hvalue := helem L hmem
  rw [foldAt_congr (fun K hK => hw.pa hK) (fun K hK => lane_ready hw (by rw [hm]; simp) hregs hdest hK),
    privateElem_congr (s := s) (fun j _ => privateByte_of_ready hw _ _)] at hvalue
  rw [hw.pa hmem] at hp hvalue
  exact ⟨hp, hvalue⟩

end

end Sys2Proof.Machine
end

section
/-! ## Prefetches, and every atomic form at issue (R180, R186, R187, R195) -/

namespace Sys2Proof.Machine

/-! ### One lane of a prefetch -/

theorem raisePol_again : ∀ a b : BitVec 2, raisePol (raisePol a b) b = raisePol a b := by decide

/-- R169: a line with the priority of one more access. -/
def L1Line.raised (l : L1Line) (p : BitVec 2) : L1Line := { l with pol := raisePol l.pol (polOf p) }

theorem raised_again (l : L1Line) (p : BitVec 2) : (l.raised p).raised p = l.raised p := by
  unfold L1Line.raised
  rw [raisePol_again]

theorem Quiet.lookup {s t : State} (h : Quiet s t) (core ctx : Nat) (a : DWord) : t.lookup core ctx a = s.lookup core ctx a := by
  unfold State.lookup
  rw [show t.ctxs = s.ctxs from (congrArg State.ctxs h.rest :), show t.dies = s.dies from (congrArg State.dies h.rest :),
    show (t.cores.get core).tlb = (s.cores.get core).tlb from (congrArg Core.tlb (h.cores core) :)]

theorem lookupNow_hit {s : State} {core ctx : Nat} {a : DWord} {e : TlbEntry} (h : s.lookup core ctx a = .hit e) : s.lookupNow core ctx a = (.hit e, s) := by
  unfold State.lookupNow State.lookupWalked
  rw [h]
  simp

theorem st_of_valid {s : State} {l : L1Line} (h : s.l1Valid l = true) : (∃ x, l.st = .leased x) ∨ l.st = .priv := by
  unfold State.l1Valid at h
  split at h
  · next x hx => exact .inl ⟨x, hx⟩
  · next hx => exact .inr hx
  · cases h

section
variable {st : State} {core line : Nat}

/-- A line that is held keeps the higher priority. -/
theorem lined_raised (hv : (st.lineAt core line).st ≠ .invalid) (p : BitVec 2) : Lined st core line ((st.lineAt core line).raised p) (st.polL1 core line true p) := by
  by_cases hq : (st.lineAt core line).st = .invalid ∨ (st.lineAt core line).pol = raisePol (st.lineAt core line).pol (polOf p)
  · refine .inr ⟨if_pos hq, ?_⟩
    unfold L1Line.raised
    rw [← hq.resolve_left hv]
  · exact .inl (if_neg hq)

end

/-- What a prefetch makes of a line that it names: it raises the priority of one that the core holds, has one that it does not hold
filled, and leaves the state of one on its way or update-only. -/
def Prefetched (s : State) (p : BitVec 2) (l l' : L1Line) : Prop :=
  if s.l1Valid l = true then l' = l.raised p
  else (l'.st = l.st ∧ ((updateOp l).isSome = true ∨ ∃ sent, l.st = .filling sent)) ∨ ∃ sent, l'.st = .filling sent

section
variable {st : State} {p : BitVec 2} {a : DWord} {e : TlbEntry}

theorem prefetchLane_line (hcanon : canonical57 a = true) (hlook : st.lookup st.curCore (st.ctxOf st.focus.grp) a = .hit e)
    (hcls : e.cls = 1 ∨ e.cls = 2) (hr : e.r = true) (hwc : (st.cores.get st.curCore).wc.held = false) :
    StoreFrame st (st.prefetchLane p a) st.curCore ∧ ∃ l', Prefetched st p (st.lineAt st.curCore (lineOf (e.pa a))) l'
      ∧ ∀ n, (st.prefetchLane p a).lineAt st.curCore n = if n = lineOf (e.pa a) then l' else st.lineAt st.curCore n := by
  have hpermit : permit e .read [0, 1, 2] = none := by
    unfold permit
    rcases hcls with h | h <;> simp [h, hr]
  have h0 : e.cls ≠ 0 := by rcases hcls with h | h <;> rw [h] <;> decide
  have hframe : StoreFrame st st st.curCore := ⟨Quiet.refl st, hwc, rfl⟩
  generalize hline : lineOf (e.pa a) = line
  have hgo : st.prefetchLane p a = match (st.lineAt st.curCore line).st with
      | .filling _ => st.polL1 st.curCore line (decide ((st.lineAt st.curCore line).st ≠ .invalid)) p
      | .updateOnly _ _ => st.polL1 st.curCore line (decide ((st.lineAt st.curCore line).st ≠ .invalid)) p
      | _ => if st.l1Valid (st.lineAt st.curCore line) = true then st.polL1 st.curCore line (decide ((st.lineAt st.curCore line).st ≠ .invalid)) p
        else ((st.putLine st.curCore line { st := .filling st.now, ctx := st.ctxOf st.focus.grp }).polL1 st.curCore line
          (decide ((st.lineAt st.curCore line).st ≠ .invalid)) p).post (.fillGrant st.curCore line) := by
    unfold State.prefetchLane
    dsimp only
    rw [hcanon, lookupNow_hit hlook]
    dsimp only
    rw [hpermit, flushWcFor_empty _ hwc, if_neg h0, hline]
    rfl
  generalize hwas : decide ((st.lineAt st.curCore line).st ≠ .invalid) = was at hgo
  -- a line on its way, or one that carries updates, keeps its state
  have hkept (hcase : (updateOp (st.lineAt st.curCore line)).isSome = true ∨ ∃ sent, (st.lineAt st.curCore line).st = .filling sent)
      (h : st.prefetchLane p a = st.polL1 st.curCore line was p)
      (hv : st.l1Valid (st.lineAt st.curCore line) = false) :
      StoreFrame st (st.prefetchLane p a) st.curCore ∧ ∃ l', Prefetched st p (st.lineAt st.curCore line) l'
        ∧ ∀ n, (st.prefetchLane p a).lineAt st.curCore n = if n = line then l' else st.lineAt st.curCore n := by
    obtain ⟨q, hq⟩ := lined_polL1 st st.curCore line was p
    rw [h]
    refine ⟨hframe.lined hq, _, ?_, hq.lineAt⟩
    unfold Prefetched
    rw [if_neg (by rw [hv]; simp)]
    exact .inl ⟨rfl, hcase⟩
  cases hst : (st.lineAt st.curCore line).st
  case filling sent =>
    exact hkept (.inr ⟨sent, hst⟩) (by rw [hgo, hst]) (by unfold State.l1Valid; rw [hst])
  case updateOnly op size =>
    exact hkept (.inl (by unfold updateOp; rw [hst]; rfl)) (by rw [hgo, hst]) (by unfold State.l1Valid; rw [hst])
  all_goals
    rw [hst] at hgo
    dsimp only at hgo
    by_cases hv : st.l1Valid (st.lineAt st.curCore line) = true
    · have hne : (st.lineAt st.curCore line).st ≠ .invalid := fun hi => by
        rcases st_of_valid hv with ⟨x, hx⟩ | hx <;> rw [hi] at hx <;> cases hx
      rw [if_pos hv, ← hwas, decide_eq_true hne] at hgo
      have hq := lined_raised hne p
      rw [hgo]
      refine ⟨hframe.lined hq, _, ?_, hq.lineAt⟩
      unfold Prefetched
      rw [if_pos hv]
    · rw [if_neg hv] at hgo
      rw [hgo]
      generalize hfresh : ({ st := .filling st.now, ctx := st.ctxOf st.focus.grp } : L1Line) = fresh
      obtain ⟨q, hq⟩ := lined_polL1 (st.putLine st.curCore line fresh) st.curCore line was p
      have hput : Lined st st.curCore line fresh (st.putLine st.curCore line fresh) := .inl rfl
      rw [lineAt_putLine, if_pos rfl] at hq
      have hf := (hframe.lined hput).lined hq
      refine ⟨⟨hf.quiet.trans (quiet_post _ _), hf.wc, hf.ops⟩, { fresh with pol := q }, ?_, fun n => (hq.lineAt n).trans ?_⟩
      · unfold Prefetched
        rw [if_neg hv, ← hfresh]
        exact .inr ⟨st.now, rfl⟩
      · split
        · rfl
        · next hn => rw [lineAt_putLine, if_neg hn]

end

/-! ### All lanes of a prefetch -/

/-- R180: where a prefetch stands after some of its lanes. -/
structure PrefetchedLanes (s : State) (p : BitVec 2) (line : Nat → Nat) (done : List Nat) (st : State) : Prop where
  frame : StoreFrame s st s.curCore
  apart : ∀ n, (∀ L ∈ done, line L ≠ n) → st.lineAt s.curCore n = s.lineAt s.curCore n
  named : ∀ L ∈ done, Prefetched s p (s.lineAt s.curCore (line L)) (st.lineAt s.curCore (line L))

/-- A line that a prefetch has named is left so by another. -/
theorem prefetched_again {s t : State} {p : BitVec 2} {l l' l'' : L1Line} (hnow : ∀ l, t.l1Valid l = s.l1Valid l) (h : Prefetched s p l l') (k : Prefetched t p l' l'') :
    Prefetched s p l l'' := by
  unfold Prefetched at h k ⊢
  by_cases hv : s.l1Valid l = true
  · rw [if_pos hv] at h ⊢
    rw [hnow, if_pos (by rw [h]; exact hv)] at k
    rw [k, h, raised_again]
  · rw [if_neg hv] at h ⊢
    have hst : (updateOp l').isSome = true ∧ l'.st = l.st ∨ ∃ sent, l'.st = .filling sent := by
      rcases h with ⟨hst, hup | ⟨sent, hf⟩⟩ | hf
      · exact .inl ⟨by unfold updateOp at hup ⊢; rw [hst]; exact hup, hst⟩
      · exact .inr ⟨sent, hst.trans hf⟩
      · exact .inr hf
    have hv' : ¬ t.l1Valid l' = true := by
      rw [hnow]
      intro hv'
      rcases hst with ⟨hup, -⟩ | ⟨sent, hf⟩ <;> rcases st_of_valid hv' with ⟨x, hx⟩ | hx
      · unfold updateOp at hup; rw [hx] at hup; cases hup
      · unfold updateOp at hup; rw [hx] at hup; cases hup
      · rw [hf] at hx; cases hx
      · rw [hf] at hx; cases hx
    rw [if_neg hv'] at k
    rcases k with ⟨hkst, -⟩ | hk
    · rcases hst with ⟨hup, hst⟩ | ⟨sent, hf⟩
      · exact .inl ⟨hkst.trans hst, .inl (by unfold updateOp at hup ⊢; rw [← hst]; exact hup)⟩
      · exact .inr ⟨sent, hkst.trans hf⟩
    · exact .inr hk

theorem prefetchedLanes_all {s : State} {p : BitVec 2} {addr : Nat → DWord} {e : Nat → TlbEntry} (hwc : (s.cores.get s.curCore).wc.held = false) {ls : List Nat}
    (hlane : ∀ L ∈ ls, canonical57 (addr L) = true ∧ s.lookup s.curCore (s.ctxOf s.focus.grp) (addr L) = .hit (e L) ∧ ((e L).cls = 1 ∨ (e L).cls = 2) ∧ (e L).r = true) :
    PrefetchedLanes s p (fun L => lineOf ((e L).pa (addr L))) ls (ls.foldl (fun st L => st.prefetchLane p (addr L)) s) := by
  refine foldl_upto (PrefetchedLanes s p (fun L => lineOf ((e L).pa (addr L)))) (fun done L st hL hst => ?_) ⟨⟨Quiet.refl s, hwc, rfl⟩, fun _ _ => rfl, by simp⟩
  obtain ⟨hf, hapart, hnamed⟩ := hst
  obtain ⟨hcanon, hlook, hcls, hr⟩ := hlane L hL
  have hcore : st.curCore = s.curCore := by unfold State.curCore; rw [hf.quiet.focus]
  obtain ⟨hgo, l', hl', hline⟩ := prefetchLane_line (st := st) (p := p) hcanon (by rw [hcore, hf.quiet.focus, hf.quiet.ctxOf, hf.quiet.lookup]; exact hlook) hcls hr
    (by rw [hcore]; exact hf.wc)
  rw [hcore] at hgo hl' hline
  refine ⟨⟨hf.quiet.trans hgo.quiet, hgo.wc, hgo.ops.trans hf.ops⟩, fun n hn => ?_, fun K hK => ?_⟩
  · rw [hline, if_neg (fun h => hn L (List.mem_append_right _ (List.mem_singleton.2 rfl)) h.symm)]
    exact hapart n fun K hK => hn K (List.mem_append_left _ hK)
  · rw [hline]
    have hnow (l : L1Line) : st.l1Valid l = s.l1Valid l := hf.quiet.l1Valid l
    split
    · next hsame =>
      by_cases hold : ∃ M ∈ done, lineOf ((e M).pa (addr M)) = lineOf ((e L).pa (addr L))
      · obtain ⟨M, hM, hML⟩ := hold
        have := hnamed M hM
        rw [hML] at this
        rw [hsame]
        exact prefetched_again hnow this hl'
      · rw [hapart _ (fun M hM hML => hold ⟨M, hM, hML⟩)] at hl'
        rw [hsame]
        unfold Prefetched at hl' ⊢
        rw [hnow] at hl'
        exact hl'
    · next hother =>
      rcases List.mem_append.1 hK with hK | hK
      · exact hnamed K hK
      · exact absurd (by rw [List.mem_singleton.1 hK]) hother

/-! ### PFG at issue -/

/-- R180, R195: in lanes that all have open transactions a prefetch does nothing. -/
theorem pfg_all_open (la : BitVec 4) (a : Reg) (sp : BitVec 5) (m : Bool) (p : BitVec 2) {s : State} (hopen : s.focus.mask &&& ~~~s.cur.txOpen = 0) :
    exec (.pfg la a sp m p) s = .next s := by
  show prefetchAccess p (fun s L => s.addrM sp m a L) s = _
  unfold prefetchAccess State.walkerWait
  rw [hopen, show lanesOf (0 : Mask) = [] from lanesOf_zero]
  simp

theorem pfg_issues (la : BitVec 4) (a : Reg) (sp : BitVec 5) (m : Bool) (p : BitVec 2) {s : State} {e : Nat → TlbEntry} (hr : CanAccess s 1 true false (s.addrM sp m a) e) :
    ∃ t, exec (.pfg la a sp m p) s = .next t ∧ PrefetchedLanes s p (fun L => lineOf ((e L).pa (s.addrM sp m a L))) (lanesOf s.focus.mask) t := by
  obtain ⟨-, htx, -, hwc, -, hlane⟩ := hr
  have hlanes : s.focus.mask &&& ~~~s.cur.txOpen = s.focus.mask := by
    have : s.focus.mask = s.focus.mask &&& s.cur.txOpen ||| s.focus.mask &&& ~~~s.cur.txOpen := by
      rw [← BitVec.and_or_distrib_left, BitVec.or_not_self, BitVec.and_allOnes]
    rw [htx, show (0 : Mask) = 0#32 from rfl, BitVec.zero_or] at this
    exact this.symm
  have hall := prefetchedLanes_all (p := p) (addr := s.addrM sp m a) (e := e) (by rw [hwc]) (ls := lanesOf s.focus.mask) fun L hL => by
    obtain ⟨hlt, hin⟩ := mem_lanesOf.1 hL
    obtain ⟨hcanon, -, hlook, hc, hrd, -⟩ := hlane L hlt hin
    exact ⟨hcanon, hlook, by simpa using hc, hrd rfl⟩
  have hwait : s.walkerWait ((lanesOf s.focus.mask).map (s.addrM sp m a)) = false := by
    unfold State.walkerWait
    rw [Bool.and_eq_false_iff]
    refine .inr (List.any_eq_false.2 fun x hx => ?_)
    obtain ⟨L, hL, rfl⟩ := List.mem_map.1 hx
    obtain ⟨hlt, hin⟩ := mem_lanesOf.1 hL
    rw [(hlane L hlt hin).2.2.1]
    simp
  refine ⟨_, ?_, hall⟩
  show prefetchAccess p (fun s L => s.addrM sp m a L) s = _
  unfold prefetchAccess
  rw [hlanes]
  dsimp only
  rw [show (lanesOf s.focus.mask).map (fun L => s.addrM sp m a L) = (lanesOf s.focus.mask).map (s.addrM sp m a) from rfl, hwait]
  rfl

/-! ### Every form -/

/-- What every ATOM does at issue. -/
def AtomForm (i : Instr) (la : BitVec 4) (n regs : Nat) (d a : Reg) : Prop :=
  AtomIssues i la n regs d a ∧ Dooms i ∧ RegisterFaults i n true true (fun s => s.vP a)

/-- What every RED does at issue. -/
def RedAtIssue (i : Instr) (n regs : Nat) (d a : Reg) (code : Nat) : Prop :=
  RedFolds i n regs d a code ∧ PrivateReds i n regs d a code ∧ Dooms i ∧ RegisterFaults i n true true (fun s => s.vP a)

section
variable {i : Instr} {la : BitVec 4} {d a : Reg} {n regs : Nat} {sg : Bool}

theorem atomForm_of_exec (hs : shapeOf i = some ⟨.atom, n, d.toNat, regs, sg⟩) (hregs : regs ≤ 4) (hexec : ∀ s, exec i s = strongAccess i la (fun s L => s.vP a L) s)
    (hlda : isLda i = false) : AtomForm i la n regs d a := by
  have hstart := startsAccess_strong (addr := fun s => s.vP a) hs hexec (vP_restamped a)
  exact ⟨atomIssues_of_starts hs rfl hlda hstart hregs rfl, dooms_strong hs hexec, registerFaults_of_starts (rd := true) (wr := true) hs hlda hstart rfl rfl⟩

theorem redForm_of_exec (hs : shapeOf i = some ⟨.red, n, d.toNat, regs, sg⟩) (hform : RedForm (redCode i) n) (hregs : regs ≤ 4)
    (hexec : ∀ s, exec i s = strongAccess i la (fun s L => s.vP a L) s) (hlda : isLda i = false) : RedAtIssue i n regs d a (redCode i) := by
  have hstart := startsAccess_strong (addr := fun s => s.vP a) hs hexec (vP_restamped a)
  exact ⟨redFolds_of_starts hs rfl hlda hstart hform hregs rfl, privateReds_of_starts hs rfl hlda hstart hform hregs rfl, dooms_strong hs hexec,
    registerFaults_of_starts (rd := true) (wr := true) hs hlda hstart rfl rfl⟩

end

theorem atomForms_issue (la : BitVec 4) (d a : Reg) (c : BitVec 2) : ∀ x ∈ atomForms la d a c, AtomForm x.1 la x.2.1 x.2.2 d a := by
  unfold atomForms
  simp only [List.forall_mem_cons]
  refine ⟨?_, ?_, ?_, ?_, ?_, ?_, ?_, ?_, ?_, ?_, ?_, ?_, ?_, ?_, ?_, ?_, List.forall_mem_nil _⟩
  all_goals exact atomForm_of_exec rfl (by decide) (fun _ => rfl) rfl

theorem redForms_issue (la : BitVec 4) (d a : Reg) (c : BitVec 2) : ∀ x ∈ redForms la d a c, RedAtIssue x.1 x.2.1 x.2.2.1 d a x.2.2.2 := by
  unfold redForms
  simp only [List.forall_mem_cons]
  refine ⟨?_, ?_, ?_, ?_, ?_, ?_, ?_, ?_, ?_, ?_, ?_, ?_, List.forall_mem_nil _⟩
  case' refine_12 => exact redForm_of_exec rfl (.inr ⟨rfl, rfl⟩) (by decide) (fun _ => rfl) rfl
  all_goals exact redForm_of_exec rfl (.inl ⟨of_decide_eq_true rfl, rfl⟩) (by decide) (fun _ => rfl) rfl

/-- Settles O32, through what a RED does lane by lane to update-only lines (`redLanes_all`) and to the core's own ones of class 0 (`privateReduced_all`),
and a prefetch to the lines that it names (`prefetchedLanes_all`). -/
theorem atomsIssue : Obligations.AtomsIssue := by
  refine ⟨fun la d a c => ⟨atomForms_issue la d a c, redForms_issue la d a c⟩, fun la a sp m p s => pfg_all_open la a sp m p, fun la a sp m p s e hr => ?_⟩
  obtain ⟨t, hexec, hf, -, hnamed⟩ := pfg_issues la a sp m p hr
  refine ⟨t, hexec, hf.quiet.sameRegs, hf.quiet.sameBytes, hf.ops, fun L hL hin => ?_⟩
  have hL' := hnamed L (mem_lanesOf.2 ⟨hL, hin⟩)
  unfold Prefetched at hL'
  dsimp only
  rw [l1At_eq, l1At_eq]
  split
  · next hv => rw [if_pos hv] at hL'; exact hL'
  · next hv =>
    rw [if_neg hv] at hL'
    rcases hL' with ⟨hst, hup | ⟨sent, hfill⟩⟩ | hfill
    · exact .inl hup
    · exact .inr ⟨sent, hst.trans hfill⟩
    · exact .inr hfill

end Sys2Proof.Machine
end

section
/-! ## The correctly rounded functions: issue and return (R98, R99, R101, R155) -/

namespace Sys2Proof.Machine

/-! ### Issue -/

/-- Words of lanes, each at the first key of its lane. -/
def laneWords (m : Mask) (f : Nat → Word) : Store Word := (lanesOf m).foldl (fun (a : Store Word) L => a.put (4 * L) (f L)) []

theorem get_laneWords (m : Mask) (f : Nat → Word) {L : Nat} (hL : L < 32) (hin : inMask m L = true) : (laneWords m f).get (4 * L) = f L := by
  have := foldl_upto (f := fun (a : Store Word) K => a.put (4 * K) (f K)) (ls := lanesOf m) (fun done a => ∀ K ∈ done, a.get (4 * K) = f K)
    (fun done K a _ ha M hM => by
      rw [Store.get_put]
      split
      · next h => rw [show M = K by omega]
      · next h =>
        rcases List.mem_append.1 hM with hM | hM
        · exact ha M hM
        · exact absurd (by rw [List.mem_singleton.1 hM]) h) (st := ([] : Store Word)) (by simp)
  exact this L (mem_lanesOf.2 ⟨hL, hin⟩)

theorem group_newOp (s : State) (o : Op) (la : Nat) : (s.newOp o la).1.group o.grp
    = (s.group o.grp).onSplit o.uid (fun x => { x with out := x.out ++ [⟨s.nextOp, la + 1⟩] }) :=
  (group_onGroup _ _ _ _).trans (if_pos rfl)

theorem longOp_none {s : State} (h : s.focus.mask = 0) (i : Instr) (la : BitVec 4) (f : Nat → Word) : longOp s i la f = .next s := if_pos h

theorem longIssue_of_exec {i : Instr} {la : BitVec 4} {f : State → Nat → Word} (hexec : ∀ s, exec i s = longOp s i la (f s)) : LongIssue i la f := by
  intro s hm
  generalize hgot : laneWords s.focus.mask (f s) = got
  generalize ho : ({ s.opHere i s.focus.mask with status := .accepted, got := got, have_ := s.focus.mask } : Op) = o
  have hgo : exec i s = .next ((s.newOp o la.toNat).1.post (.loadDataReturn s.nextOp)) := by
    rw [hexec, ← ho, ← hgot]
    exact if_neg hm
  obtain ⟨hop, -, hnext, hmem, hhome⟩ := newOp_op s o la.toNat
  have hregs := newOp_regs s o la.toNat s.focus.grp
  have hop' : ((s.newOp o la.toNat).1.post (.loadDataReturn s.nextOp)).op s.nextOp = { o with live := true } := hop
  refine ⟨_, hgo, by rw [hop'], ?_, ?_, ?_, ?_, ?_, fun L hL hin => ?_, rfl, hnext, (congrArg Group.v hregs :), (congrArg Group.s hregs :), (congrArg Group.p hregs :),
    fun a => rfl, fun x hx hux => ?_⟩
  · rw [hop', ← ho]; rfl
  · rw [hop', ← ho]; rfl
  · rw [hop', ← ho]; rfl
  · rw [hop', ← ho]; rfl
  · rw [hop', ← ho]
  · rw [hop', ← ho]
    refine (congrArg (fun m : Store Word => m.get (4 * L)) hgot.symm).trans ?_
    exact get_laneWords _ _ hL hin
  · have hsplits : ((s.newOp o la.toNat).1.post (.loadDataReturn s.nextOp)).cur.splits = s.cur.splits.map (fun x =>
        if x.uid = s.focus.uid then { x with out := x.out ++ [⟨s.nextOp, la.toNat + 1⟩] } else x) := by
      have hgrp : ((s.newOp o la.toNat).1.post (.loadDataReturn s.nextOp)).cur
          = s.cur.onSplit s.focus.uid (fun x => { x with out := x.out ++ [⟨s.nextOp, la.toNat + 1⟩] }) := by
        have := group_newOp s o la.toNat
        rw [show o.grp = s.focus.grp by rw [← ho]; rfl, show o.uid = s.focus.uid by rw [← ho]; rfl] at this
        exact this
      rw [hgrp]
      exact splits_onSplit s.cur s.focus.uid (fun x => { x with out := x.out ++ [⟨s.nextOp, la.toNat + 1⟩] }) (fun _ => rfl)
    refine ⟨_, ?_, rfl⟩
    rw [hsplits]
    exact List.mem_map.2 ⟨x, hx, if_pos hux⟩

/-! ### Return -/

theorem group_completeOp {s : State} {i g : Nat} (hg : g ≠ (s.op i).grp) : (s.completeOp i).group g = s.group g :=
  (group_onGroup _ _ _ _).trans (if_neg hg)

theorem group_writeDest_other (s : State) (i d n : Nat) (f : Word → Word) {g : Nat} (hg : g ≠ (s.op i).grp) : (s.writeDest i d n f).group g = s.group g := by
  induction n with
  | zero => rfl
  | succ n ih => rw [writeDest_succ, group_onGroup, if_neg hg, ih]

/-- R99: what an instruction of the correctly rounded functions is, for its return. -/
structure Long (i : Instr) (d : Reg) : Prop where
  shape : shapeOf i = none
  dest : destOf i = some (d.toNat, 1, id)
  count : countDest i = none
  lda : isLda i = false

theorem long_of_form {la : BitVec 4} {d a b : Reg} {i : Instr} (h : i ∈ longForms la d a b) : Long i d := by
  have : ∀ i ∈ longForms la d a b, Long i d := by
    unfold longForms
    simp only [List.forall_mem_cons]
    refine ⟨?_, ?_, ?_, ?_, ?_, ?_, ?_, ?_, ?_, ?_, ?_, List.forall_mem_nil _⟩ <;> exact ⟨rfl, rfl, rfl, rfl⟩
  exact this i h

theorem long_returns {s : State} {n : Nat} {d : Reg} (hi : Long (s.op n).instr d) (hlive : (s.op n).live = true) (hst : (s.op n).status = .accepted) :
    Completes (.loadDataReturn n) s (fun t =>
      (∀ r L, L < 32 → (t.group (s.op n).grp).vAt r L = if r = d.toNat ∧ inMask (s.op n).mask L = true
          ∧ (s.op n).wrote.get (4 * L) = false
        then (s.op n).got.get (4 * L) else (s.group (s.op n).grp).vAt r L)
      ∧ (∀ g, g ≠ (s.op n).grp → t.group g = s.group g)
      ∧ (t.group (s.op n).grp).s = (s.group (s.op n).grp).s ∧ (t.group (s.op n).grp).p = (s.group (s.op n).grp).p
      ∧ (t.op n).live = false ∧ SameBytes s t) := by
  obtain ⟨hshape, hdest, hcount, hlda⟩ := hi
  have hgo : exec (.loadDataReturn n) s = .next (s.finishOp n) := by
    show execLoadDataReturn n s = _
    unfold execLoadDataReturn
    simp only [hlive, hshape, hst, Bool.not_true, Bool.false_eq_true, if_false, if_true]
  obtain ⟨hdone, hbytes, hsp, hv⟩ := finishOp_delivers hdest hcount (fun h => absurd h (by rw [hlda]; decide))
  have hop : (s.writeDest n d.toNat 1 id).op n = s.op n := congrArg (fun m : Store Op => m.get n) (congrArg State.ops (writeDest_frame s n d.toNat id 1).1 :)
  have hfin : s.finishOp n = (s.writeDest n d.toNat 1 id).completeOp n := by
    unfold State.finishOp State.writeCount State.noteDone
    rw [hdest]
    dsimp only
    rw [hop, hcount]
    dsimp only
    rw [hop, hlda, hcount, hshape]
    simp
  refine ⟨_, hgo, fun r L hL => ?_, fun g hg => ?_, (hsp _).1, (hsp _).2, hdone, hbytes⟩
  · rw [hv _ r L hL]
    by_cases hr : r = d.toNat
    · subst hr
      simp
    · rw [if_neg (by omega), if_neg (fun h => hr h.1)]
  · rw [hfin, group_completeOp (by rw [hop]; exact hg), group_writeDest_other _ _ _ _ _ hg]

theorem long_none {la : BitVec 4} {d a b : Reg} {i : Instr} {s : State} (h : i ∈ longForms la d a b) (hm : s.focus.mask = 0) : exec i s = .next s := by
  have : ∀ i ∈ longForms la d a b, exec i s = .next s := by
    unfold longForms
    simp only [List.forall_mem_cons]
    refine ⟨?_, ?_, ?_, ?_, ?_, ?_, ?_, ?_, ?_, ?_, ?_, List.forall_mem_nil _⟩ <;> exact longOp_none hm _ la _
  exact this i h

end Sys2Proof.Machine
end

section
/-! ## The nearest FP32 value (R86) -/

namespace Sys2Proof.Machine

/-! ### Dyadic numbers -/

/-- Units of an exponent, counted in units of a smaller one. -/
theorem units_of_le (n : Nat) {u h : Int} (hle : u ≤ h) : (n : ℝ) * 2 ^ h = ((n * 2 ^ (h - u).toNat : Nat) : ℝ) * 2 ^ u := by
  obtain ⟨k, hk⟩ := Int.eq_ofNat_of_zero_le (Int.sub_nonneg.2 hle)
  rw [hk, Int.toNat_natCast, show h = k + u by omega, zpow_add₀ (by norm_num : (2 : ℝ) ≠ 0), zpow_natCast]
  push_cast
  ring

theorem two_zpow_pos (u : Int) : (0 : ℝ) < 2 ^ u := zpow_pos (by norm_num) u

theorem units_le_iff {a b : ℝ} {u : Int} : a * 2 ^ u ≤ b * 2 ^ u ↔ a ≤ b := mul_le_mul_iff_of_pos_right (two_zpow_pos u)
theorem units_lt_iff {a b : ℝ} {u : Int} : a * 2 ^ u < b * 2 ^ u ↔ a < b := mul_lt_mul_iff_of_pos_right (two_zpow_pos u)

theorem zpow_pred (u : Int) : (2 : ℝ) ^ u = 2 * 2 ^ (u - 1) := by
  rw [zpow_sub_one₀ (by norm_num)]
  ring

/-! ### Finite words -/

/-- R73: what the units and the exponent of a finite FP32 magnitude are. -/
structure FiniteWord (w : Word) (neg : Bool) (m : Nat) (e : Int) : Prop where
  value : f32 w = .fin neg m e
  width : m < 2 ^ 24
  place : -149 ≤ e
  normal : e = -149 ∨ 2 ^ 23 ≤ m
  largest : e ≤ 104
  odd : w.getLsbD 0 = decide (m % 2 = 1)
  sign : w.getLsbD 31 = neg

theorem finiteWord_of_finite {w : Word} (h : isFinite w = true) : ∃ neg m e, FiniteWord w neg m e := by
  have hw := f32_eq w
  have hm : w.toNat % 2 ^ 23 < 2 ^ 23 := Nat.mod_lt _ (by decide)
  have he : w.toNat / 2 ^ 23 % 2 ^ 8 < 2 ^ 8 := Nat.mod_lt _ (by decide)
  have hbit0 : w.getLsbD 0 = decide (w.toNat % 2 = 1) := by
    unfold BitVec.getLsbD
    rw [Nat.testBit_zero]
  have hbit31 : w.getLsbD 31 = decide (w.toNat / 2 ^ 31 % 2 = 1) := by
    unfold BitVec.getLsbD
    rw [Nat.testBit_eq_decide_div_mod_eq]
  unfold isFinite at h
  by_cases htop : w.toNat / 2 ^ 23 % 2 ^ 8 = 255
  · rw [if_pos htop] at hw
    rw [hw] at h
    split at h
    · next hv => split at hv <;> cases hv
    · cases h
  · rw [if_neg htop] at hw
    by_cases hsub : w.toNat / 2 ^ 23 % 2 ^ 8 = 0
    · rw [if_pos hsub] at hw
      refine ⟨_, _, _, hw, by omega, le_refl _, .inl rfl, by omega, hbit0.trans (decide_eq_decide.2 ?_), hbit31⟩
      omega
    · rw [if_neg hsub] at hw
      refine ⟨_, _, _, hw, by omega, by omega, .inr (by omega), by omega, hbit0.trans (decide_eq_decide.2 ?_), hbit31⟩
      omega

theorem isFinite_of_value {w : Word} {neg : Bool} {m : Nat} {e : Int} (h : f32 w = .fin neg m e) : isFinite w = true := by
  unfold isFinite
  rw [h]

theorem valueOf_fin {w : Word} {neg : Bool} {m : Nat} {e : Int} (h : f32 w = .fin neg m e) : valueOf w = (if neg then -1 else 1) * m * (2 : ℚ) ^ e := by
  unfold valueOf
  rw [h]

theorem abs_valueOf {w : Word} {neg : Bool} {m : Nat} {e : Int} (h : f32 w = .fin neg m e) : |valueOf w| = m * (2 : ℚ) ^ e := by
  rw [valueOf_fin h, abs_mul, abs_mul, Nat.abs_cast, abs_of_pos (zpow_pos (by norm_num : (0 : ℚ) < 2) e)]
  cases neg <;> simp

theorem abs_valueOf_real {w : Word} {neg : Bool} {m : Nat} {e : Int} (h : f32 w = .fin neg m e) : ((|valueOf w| : ℚ) : ℝ) = m * (2 : ℝ) ^ e := by
  rw [abs_valueOf h]
  push_cast
  rfl

/-! ### Neighbours -/

/-- A finite magnitude below q units of 2^u is at least a unit below, but where q is the least of its binade. -/
theorem below_by_unit {m q : Nat} {h u : Int} (hm : m < 2 ^ 24) (hplace : -149 ≤ h) (hq : u ≠ -149 → 2 ^ 23 < q)
    (hlt : (m : ℝ) * 2 ^ h < q * 2 ^ u) : (m : ℝ) * 2 ^ h ≤ (q - 1) * 2 ^ u := by
  by_cases hle : u ≤ h
  · rw [units_of_le m hle, units_lt_iff, Nat.cast_lt] at hlt
    rw [units_of_le m hle, units_le_iff]
    have : ((m * 2 ^ (h - u).toNat + 1 : Nat) : ℝ) ≤ q := Nat.cast_le.2 hlt
    push_cast at this ⊢
    linarith
  · have hq' := hq (by omega)
    have hstep : (m : ℝ) * 2 ^ h ≤ 2 ^ 24 * 2 ^ (u - 1) :=
      mul_le_mul (by exact_mod_cast hm.le) (zpow_le_zpow_right₀ (by norm_num) (by omega)) (two_zpow_pos h).le (by norm_num)
    have hq1 : (2 ^ 23 : ℝ) ≤ q - 1 := by
      have : ((2 ^ 23 + 1 : Nat) : ℝ) ≤ q := Nat.cast_le.2 hq'
      push_cast at this
      linarith
    have := units_le_iff (u := u).2 hq1
    rw [zpow_pred u] at this ⊢
    linarith

/-- A finite magnitude above q units of 2^u is at least a unit above. -/
theorem above_by_unit {m q : Nat} {h u : Int} (hm : m < 2 ^ 24) (hplace : -149 ≤ h) (hq : u = -149 ∨ 2 ^ 23 ≤ q)
    (hlt : (q : ℝ) * 2 ^ u < m * 2 ^ h) : (q + 1 : ℝ) * 2 ^ u ≤ m * 2 ^ h := by
  by_cases hle : u ≤ h
  · rw [units_of_le m hle, units_lt_iff, Nat.cast_lt] at hlt
    rw [units_of_le m hle, units_le_iff]
    have : ((q + 1 : Nat) : ℝ) ≤ ((m * 2 ^ (h - u).toNat : Nat) : ℝ) := Nat.cast_le.2 hlt
    push_cast at this ⊢
    linarith
  · have hq' : 2 ^ 23 ≤ q := hq.resolve_left (by omega)
    have hstep : (m : ℝ) * 2 ^ h ≤ 2 ^ 24 * 2 ^ (u - 1) :=
      mul_le_mul (by exact_mod_cast hm.le) (zpow_le_zpow_right₀ (by norm_num) (by omega)) (two_zpow_pos h).le (by norm_num)
    have hq1 : (2 ^ 23 : ℝ) ≤ q := by exact_mod_cast hq'
    have := units_le_iff (u := u).2 hq1
    rw [zpow_pred u] at this hlt
    linarith

/-! ### Rounding to nearest -/

/-- R86: q units of 2^u are a real number rounded to nearest, ties to even, in the place of its size. -/
structure RoundsTo (v : ℝ) (q : Nat) (u : Int) : Prop where
  place : -149 ≤ u
  normal : u = -149 ∨ 2 ^ 23 ≤ q
  bottom : u ≠ -149 → 2 ^ 23 * 2 ^ u ≤ v
  low : (2 * q - 1 : ℝ) * 2 ^ (u - 1) ≤ v ∧ (v = (2 * q - 1 : ℝ) * 2 ^ (u - 1) → q % 2 = 0)
  high : v ≤ (2 * q + 1 : ℝ) * 2 ^ (u - 1) ∧ (v = (2 * q + 1 : ℝ) * 2 ^ (u - 1) → q % 2 = 0)

/-- R86, R155: a word of such units is the nearest to the number, of all finite words. -/
theorem nearest_of_roundsTo {v : ℝ} {q : Nat} {u : Int} {r : Word} {notAbove notBelow : ℚ → Prop} (hv : RoundsTo v q u)
    (hr : ((|valueOf r| : ℚ) : ℝ) = q * 2 ^ u) (hodd : r.getLsbD 0 = decide (q % 2 = 1))
    (habove : ∀ t, 0 ≤ t → (notAbove t ↔ (t : ℝ) ≤ v)) (hbelow : ∀ t, 0 ≤ t → (notBelow t ↔ v ≤ (t : ℝ))) : Nearest r notAbove notBelow := by
  intro w hw
  obtain ⟨neg, m, e, hfin⟩ := finiteWord_of_finite hw
  have hwv := abs_valueOf_real hfin.value
  have heven (h : q % 2 = 0) : r.getLsbD 0 = false := by rw [hodd, h]; rfl
  have hmid : (0 : ℚ) ≤ (|valueOf r| + |valueOf w|) / 2 := by positivity
  have hcast : (((|valueOf r| + |valueOf w|) / 2 : ℚ) : ℝ) = (q * 2 ^ u + m * 2 ^ e) / 2 := by
    push_cast at hr hwv ⊢
    rw [hr, hwv]
  dsimp only
  rw [habove _ hmid, hbelow _ hmid, hcast]
  have hlt (a b : ℚ) : a < b ↔ (a : ℝ) < b := Rat.cast_lt.symm
  rw [hlt, hlt, hr, hwv]
  constructor
  · intro hless
    by_cases hbottom : u ≠ -149 ∧ q = 2 ^ 23
    · have hb := hv.bottom hbottom.1
      have hq : (q : ℝ) = 2 ^ 23 := by rw [hbottom.2]; norm_num
      rw [hq] at hless ⊢
      exact ⟨by linarith, fun h => by linarith⟩
    · have hunit := below_by_unit hfin.width hfin.place (fun hne => by
        have := hv.normal.resolve_left hne
        have : q ≠ 2 ^ 23 := fun h => hbottom ⟨hne, h⟩
        omega) hless
      obtain ⟨hle, htie⟩ := hv.low
      rw [zpow_pred u] at hunit hless ⊢
      exact ⟨by linarith, fun h => heven (htie (by linarith))⟩
  · intro hmore
    have hunit := above_by_unit hfin.width hfin.place hv.normal hmore
    obtain ⟨hle, htie⟩ := hv.high
    rw [zpow_pred u] at hunit hmore ⊢
    exact ⟨by linarith, fun h => heven (htie (by linarith))⟩

end Sys2Proof.Machine
end

section
/-! ## Rounding a magnitude to FP32 (R86) -/

namespace Sys2Proof.Machine

/-! ### The word of rounded units -/

theorem f32_normal (neg : Bool) {e m : Nat} (he : 0 < e) (he' : e < 255) (hm : m < 2 ^ 23) {w : Word} (hw : w.toNat = layFP32.signBit neg + e * 2 ^ 23 + m) :
    f32 w = .fin neg (2 ^ 23 + m) (-149 + (e : Int) - 1) := by
  have hs : layFP32.signBit neg = if neg then 2 ^ 31 else 0 := rfl
  rw [hs] at hw
  have h23 : w.toNat / 2 ^ 23 % 2 ^ 8 = e := by cases neg <;> simp at hw <;> omega
  have hlow : w.toNat % 2 ^ 23 = m := by cases neg <;> simp at hw <;> omega
  have htop : decide (w.toNat / 2 ^ 31 % 2 = 1) = neg := by cases neg <;> simp at hw ⊢ <;> omega
  rw [f32_eq, h23, hlow, htop, if_neg (by omega), if_neg (by omega)]

theorem f32_subnormal (neg : Bool) {m : Nat} (hm : m < 2 ^ 23) {w : Word} (hw : w.toNat = layFP32.signBit neg + m) : f32 w = .fin neg m (-149) := by
  have hs : layFP32.signBit neg = if neg then 2 ^ 31 else 0 := rfl
  rw [hs] at hw
  have h23 : w.toNat / 2 ^ 23 % 2 ^ 8 = 0 := by cases neg <;> simp at hw <;> omega
  have hlow : w.toNat % 2 ^ 23 = m := by cases neg <;> simp at hw <;> omega
  have htop : decide (w.toNat / 2 ^ 31 % 2 = 1) = neg := by cases neg <;> simp at hw ⊢ <;> omega
  rw [f32_eq, h23, hlow, htop, if_neg (by omega), if_pos rfl]

theorem signBit_lt (neg : Bool) : layFP32.signBit neg ≤ 2 ^ 31 := by cases neg <;> decide

theorem toNat_ofNat_word {n : Nat} (h : n < 2 ^ 32) : (BitVec.ofNat 32 n).toNat = n := by rw [BitVec.toNat_ofNat, Nat.mod_eq_of_lt h]

/-- R73: what a word of q units of 2^u says. -/
structure UnitsWord (r : Word) (neg : Bool) (q : Nat) (u : Int) : Prop where
  finite : isFinite r = true
  value : ((|valueOf r| : ℚ) : ℝ) = q * 2 ^ u
  odd : r.getLsbD 0 = decide (q % 2 = 1)
  sign : r.getLsbD 31 = neg

theorem unitsWord_of_value {r : Word} {neg : Bool} {q : Nat} {u : Int} (h : f32 r = .fin neg q u) : UnitsWord r neg q u := by
  obtain ⟨neg', m, e, hf⟩ := finiteWord_of_finite (isFinite_of_value h)
  have := hf.value
  rw [h] at this
  cases this
  exact ⟨isFinite_of_value h, abs_valueOf_real h, hf.odd, hf.sign⟩

/-- R86: the word of rounded units within the range of FP32. -/
theorem unitsWord_encode (neg : Bool) {q : Nat} {u : Int} (hq : q ≤ 2 ^ 24) (hplace : -149 ≤ u) (hnormal : u = -149 ∨ 2 ^ 23 ≤ q)
    (hlargest : u ≤ 104) (hcarry : q = 2 ^ 24 → u ≤ 103) : UnitsWord (BitVec.ofNat 32 (layFP32.encodeUnits neg q u)) neg q u := by
  have hs := signBit_lt neg
  have hmbits : layFP32.mbits = 23 := rfl
  have hemin : layFP32.emin = -149 := rfl
  obtain ⟨k, hk⟩ := Int.eq_ofNat_of_zero_le (show 0 ≤ u - (-149) by omega)
  have htoNat : (u - (-149)).toNat = k := by omega
  unfold Layout.encodeUnits
  rw [hmbits, hemin, htoNat]
  split
  · next hsub =>
    have hu : u = -149 := hnormal.resolve_right (by omega)
    rw [hu]
    exact unitsWord_of_value (f32_subnormal neg hsub (toNat_ofNat_word (by omega)))
  · next hsub =>
    split
    · next hn =>
      have h := f32_normal neg (e := k + 1) (m := q - 2 ^ 23) (by omega) (by omega) (by omega) (toNat_ofNat_word (by omega))
      rw [show 2 ^ 23 + (q - 2 ^ 23) = q by omega, show -149 + ((k + 1 : Nat) : Int) - 1 = u by push_cast; omega] at h
      exact unitsWord_of_value h
    · next hn =>
      have hq24 : q = 2 ^ 24 := by omega
      have hu := hcarry hq24
      have hw := toNat_ofNat_word (n := layFP32.signBit neg + (k + 2) * 2 ^ 23) (by omega)
      have h := unitsWord_of_value (f32_normal neg (e := k + 2) (m := 0) (by omega) (by omega) (by omega) (hw.trans (Nat.add_zero _).symm))
      obtain ⟨hfin, hval, hodd, hsign⟩ := h
      refine ⟨hfin, hval.trans ?_, hodd.trans (by rw [hq24]; decide), hsign⟩
      rw [hq24, show -149 + ((k + 2 : Nat) : Int) - 1 = u + 1 by push_cast; omega, zpow_add_one₀ (by norm_num)]
      push_cast
      ring

/-! ### Rounded units -/

theorem shiftRound_units {m k : Nat} (neg : Bool) (hk : 0 < k) (e : Int) : let q := shiftRound .rne neg m k
    ((2 * q - 1 : ℝ) * 2 ^ (e + k - 1) ≤ m * 2 ^ e ∧ (m * 2 ^ e = (2 * q - 1 : ℝ) * 2 ^ (e + k - 1) → q % 2 = 0))
    ∧ (m * 2 ^ e ≤ (2 * q + 1 : ℝ) * 2 ^ (e + k - 1) ∧ (m * 2 ^ e = (2 * q + 1 : ℝ) * 2 ^ (e + k - 1) → q % 2 = 0)) := by
  obtain ⟨hnear, htie⟩ := shiftRound_rne_nearest neg m k
  generalize shiftRound .rne neg m k = q at hnear htie
  have hunit : (2 : ℝ) ^ (e + k - 1) = 2 ^ (k - 1) * 2 ^ e := by
    rw [show e + k - 1 = ((k - 1 : Nat) : Int) + e by omega, zpow_add₀ (by norm_num), zpow_natCast]
  have hk2 : 2 ^ k = 2 * 2 ^ (k - 1) := by rw [← Nat.pow_succ', Nat.succ_eq_add_one, Nat.sub_add_cancel hk]
  have hpos : 0 < 2 ^ (k - 1) := by positivity
  rw [hk2] at hnear htie
  generalize hp : 2 ^ (k - 1) = p at hnear htie hpos
  have hpR : (2 : ℝ) ^ (k - 1) = p := by rw [← hp]; push_cast; rfl
  rw [hunit, hpR]
  have hmul : ((2 * p * q : Nat) : Int) = 2 * (p * q) := by push_cast; ring
  rw [hmul] at hnear htie
  have hle₁ : (2 * (q : Int) - 1) * p ≤ m := by
    have : (2 * (q : Int) - 1) * p = 2 * (p * q) - p := by ring
    omega
  have hle₂ : (m : Int) ≤ (2 * q + 1) * p := by
    have : (2 * (q : Int) + 1) * p = 2 * (p * q) + p := by ring
    omega
  have hcast₁ : ((2 * (q : ℝ) - 1) * p) = (((2 * (q : Int) - 1) * p : Int) : ℝ) := by push_cast; ring
  have hcast₂ : ((2 * (q : ℝ) + 1) * p) = (((2 * (q : Int) + 1) * p : Int) : ℝ) := by push_cast; ring
  have hcastm : (m : ℝ) = ((m : Int) : ℝ) := by push_cast; rfl
  dsimp only
  rw [← mul_assoc, ← mul_assoc, units_le_iff, units_le_iff, mul_left_inj' (two_zpow_pos e).ne', mul_left_inj' (two_zpow_pos e).ne', hcast₁, hcast₂, hcastm,
    Int.cast_le, Int.cast_le, Int.cast_inj, Int.cast_inj]
  refine ⟨⟨hle₁, fun h => htie hk ?_⟩, hle₂, fun h => htie hk ?_⟩
  · have : (2 * (q : Int) - 1) * p = 2 * (p * q) - p := by ring
    omega
  · have : (2 * (q : Int) + 1) * p = 2 * (p * q) + p := by ring
    omega

/-- R86: the last place of a magnitude, and the units in it. -/
theorem roundUnits_roundsTo (neg : Bool) {m : Nat} (hm : m ≠ 0) (e : Int) : ∃ q u, layFP32.roundUnits .rne neg m e = (q, u)
    ∧ RoundsTo ((m : ℝ) * 2 ^ e) q u ∧ q ≤ 2 ^ 24 ∧ e + (Nat.log2 m : Int) - 23 ≤ u := by
  have hmbits : layFP32.mbits = 23 := rfl
  have hemin : layFP32.emin = -149 := rfl
  have hlo : 2 ^ Nat.log2 m ≤ m := Nat.log2_self_le hm
  have hhi : m < 2 ^ (Nat.log2 m + 1) := Nat.lt_log2_self
  unfold Layout.roundUnits Layout.place
  rw [hmbits, hemin]
  generalize hL : Nat.log2 m = L at hlo hhi
  generalize hu : max (-149) (e + (L : Int) - 23) = u
  have hplace : -149 ≤ u := by omega
  have hlast : e + (L : Int) - 23 ≤ u := by omega
  have hcase : u = -149 ∨ u = e + L - 23 := by omega
  have hbottom (hne : u ≠ -149) : (2 : ℝ) ^ 23 * 2 ^ u ≤ m * 2 ^ e := by
    have hbin : (2 : ℝ) ^ 23 * 2 ^ u = ((2 ^ L : Nat) : ℝ) * 2 ^ e := by
      rw [hcase.resolve_left hne, show e + (L : Int) - 23 = (L : Int) + (e - 23) by ring, zpow_add₀ (by norm_num), zpow_natCast, zpow_sub₀ (by norm_num)]
      push_cast
      ring
    rw [hbin, units_le_iff]
    exact Nat.cast_le.2 hlo
  have hgap : ((L : Int) + e - u) ≤ 23 := by omega
  dsimp only
  by_cases hle : u ≤ e
  · rw [if_pos hle]
    have hv := units_of_le m hle
    obtain ⟨k, hk⟩ := Int.eq_ofNat_of_zero_le (Int.sub_nonneg.2 hle)
    have htoNat : (e - u).toNat = k := by omega
    rw [htoNat] at hv ⊢
    generalize hq : m * 2 ^ k = q at hv
    have hqlt : q < 2 ^ 24 := by
      have h1 : q < 2 ^ (L + 1) * 2 ^ k := hq ▸ Nat.mul_lt_mul_of_pos_right hhi (by positivity)
      rw [← pow_add] at h1
      exact h1.trans_le (Nat.pow_le_pow_right (by norm_num) (by omega))
    refine ⟨q, u, rfl, ⟨hplace, ?_, hbottom, ⟨?_, ?_⟩, ?_, ?_⟩, hqlt.le, hlast⟩
    · refine hcase.imp id fun hne => ?_
      have h1 : 2 ^ L * 2 ^ k ≤ q := hq ▸ Nat.mul_le_mul_right _ hlo
      rw [← pow_add, show L + k = 23 by omega] at h1
      exact h1
    all_goals
      rw [hv, zpow_pred u]
      have := two_zpow_pos (u - 1)
    · nlinarith
    · intro h; exfalso; nlinarith
    · nlinarith
    · intro h; exfalso; nlinarith
  · rw [if_neg hle]
    obtain ⟨k, hk⟩ := Int.eq_ofNat_of_zero_le (show 0 ≤ u - e by omega)
    have htoNat : (u - e).toNat = k := by omega
    have hkpos : 0 < k := by omega
    rw [htoNat]
    obtain ⟨hlow, hhigh⟩ := shiftRound_units (m := m) neg hkpos e
    rw [show e + (k : Int) - 1 = u - 1 by omega] at hlow hhigh
    have hq := shiftRound_rne neg m k
    have hdiv : m / 2 ^ k < 2 ^ 24 := by
      rw [Nat.div_lt_iff_lt_mul (by positivity), ← pow_add]
      exact hhi.trans_le (Nat.pow_le_pow_right (by norm_num) (by omega))
    refine ⟨_, u, rfl, ⟨hplace, ?_, hbottom, hlow, hhigh⟩, ?_, hlast⟩
    · refine hcase.imp id fun hne => ?_
      have : 2 ^ 23 ≤ m / 2 ^ k := by
        rw [Nat.le_div_iff_mul_le (by positivity), ← pow_add, show 23 + k = L by omega]
        exact hlo
      rw [hq]
      split <;> omega
    · rw [hq]
      split <;> omega

/-! ### Rounding to a word -/

theorem isFinite_inf (neg : Bool) : isFinite (BitVec.ofNat 32 (layFP32.infBits neg)) = false := by cases neg <;> rfl

theorem magLe_iff {m n : Nat} {e k : Int} : magLe m e n k = true ↔ (m : ℝ) * 2 ^ e ≤ n * 2 ^ k := by
  unfold magLe
  split
  · next h => rw [units_of_le n h, units_le_iff, Nat.cast_le, decide_eq_true_iff]
  · next h => rw [units_of_le m (Int.le_of_lt (Int.not_le.1 h)), units_le_iff, Nat.cast_le, decide_eq_true_iff]

/-- What a magnitude within the range of FP32 rounds to. -/
def Rounded (r : Word) (neg : Bool) (m : Nat) (e : Int) : Prop :=
  ∃ q u, RoundsTo ((m : ℝ) * 2 ^ e) q u ∧ UnitsWord r neg q u ∧ e + (Nat.log2 m : Int) - 23 ≤ u

theorem round_rne (neg : Bool) {m : Nat} (hm : m ≠ 0) {e : Int} {q : Nat} {u : Int} (h : layFP32.roundUnits .rne neg m e = (q, u)) :
    layFP32.round .rne (.fin neg m e) = if magLt (2 ^ 24 - 1) 104 q u = true then layFP32.infBits neg else layFP32.encodeUnits neg q u := by
  have hmax : layFP32.maxMag = (2 ^ 24 - 1, 104) := by decide
  simp only [Layout.round, hm, if_false, h, hmax]

/-- R86: a magnitude rounds to the nearest word, or, where its units are above the largest, to an infinity. -/
theorem toF32_rounded (neg : Bool) {m : Nat} (hm : m ≠ 0) (e : Int) :
    (Rounded (toF32 .rne (.fin neg m e)) neg m e) ∨ (isFinite (toF32 .rne (.fin neg m e)) = false ∧ (2 : ℝ) ^ 127 ≤ m * 2 ^ e) := by
  obtain ⟨q, u, hunits, hr, hq, hlast⟩ := roundUnits_roundsTo neg hm e
  unfold toF32
  rw [round_rne neg hm hunits]
  have hqR : (q : ℝ) ≤ 2 ^ 24 := by exact_mod_cast hq
  by_cases hover : magLt (2 ^ 24 - 1) 104 q u = true
  · rw [if_pos hover]
    refine .inr ⟨isFinite_inf neg, ?_⟩
    unfold magLt at hover
    rw [Bool.not_eq_true', ← Bool.not_eq_true, magLe_iff, not_le] at hover
    have hu : 104 ≤ u := by
      by_contra hu
      have h1 : (q : ℝ) * 2 ^ u ≤ 2 ^ 24 * 2 ^ (103 : Int) :=
        mul_le_mul hqR (zpow_le_zpow_right₀ (by norm_num) (by omega)) (two_zpow_pos _).le (by norm_num)
      norm_num at h1 hover
      linarith
    calc (2 : ℝ) ^ 127 = 2 ^ 23 * 2 ^ (104 : Int) := by norm_num
      _ ≤ 2 ^ 23 * 2 ^ u := mul_le_mul_of_nonneg_left (zpow_le_zpow_right₀ (by norm_num) hu) (by norm_num)
      _ ≤ m * 2 ^ e := hr.bottom (by omega)
  · rw [if_neg hover]
    unfold magLt at hover
    rw [Bool.not_eq_true', Bool.not_eq_false, magLe_iff] at hover
    refine .inl ⟨q, u, hr, unitsWord_encode neg hq hr.place hr.normal ?_ ?_, hlast⟩
    · by_contra hu
      have hq23 := hr.normal.resolve_left (by omega)
      have h1 : (2 ^ 23 : ℝ) * 2 ^ (105 : Int) ≤ q * 2 ^ u :=
        mul_le_mul (by exact_mod_cast hq23) (zpow_le_zpow_right₀ (by norm_num) (by omega)) (two_zpow_pos _).le (by positivity)
      norm_num at h1 hover
      linarith
    · intro hq24
      by_contra hu
      have h1 : (2 ^ 24 : ℝ) * 2 ^ (104 : Int) ≤ q * 2 ^ u :=
        mul_le_mul (by rw [hq24]; norm_num) (zpow_le_zpow_right₀ (by norm_num) (by omega)) (two_zpow_pos _).le (by positivity)
      norm_num at h1 hover
      linarith

end Sys2Proof.Machine
end

section
/-! ## Quotients and square roots, rounded once (R155) -/

namespace Sys2Proof.Machine

/-! ### A last bit for what is left -/

/-- A magnitude m·2^x whose last bit is 1 where the real number that it stands for is not a whole number of units. -/
structure Sticky (v : ℝ) (Q : Nat) (m : Nat) (x : Int) : Prop where
  lower : (Q : ℝ) * 2 ^ (x + 1) ≤ v
  upper : v < (Q + 1 : ℝ) * 2 ^ (x + 1)
  exact : v = (Q : ℝ) * 2 ^ (x + 1) → m = 2 * Q
  rest : v ≠ (Q : ℝ) * 2 ^ (x + 1) → m = 2 * Q + 1

/-- Such a magnitude lies to every number of whole units as the real number does. -/
theorem Sticky.grid {v : ℝ} {Q m : Nat} {x w : Int} (h : Sticky v Q m x) (hw : x + 1 ≤ w) (N : Int) :
    ((N : ℝ) * 2 ^ w ≤ m * 2 ^ x ↔ (N : ℝ) * 2 ^ w ≤ v) ∧ ((m : ℝ) * 2 ^ x ≤ N * 2 ^ w ↔ v ≤ N * 2 ^ w) := by
  obtain ⟨hlower, hupper, hexact, hrest⟩ := h
  obtain ⟨k, hk⟩ := Int.eq_ofNat_of_zero_le (show 0 ≤ w - (x + 1) by omega)
  have hN : (N : ℝ) * 2 ^ w = ((N * 2 ^ k : Int) : ℝ) * 2 ^ (x + 1) := by
    rw [show w = k + (x + 1) by omega, zpow_add₀ (by norm_num), zpow_natCast]
    push_cast
    ring
  have hone : (2 : ℝ) ^ (x + 1) = 2 * 2 ^ x := by rw [zpow_add_one₀ (by norm_num)]; ring
  rw [hN]
  generalize N * 2 ^ k = M
  have hpos := two_zpow_pos x
  by_cases hv : v = (Q : ℝ) * 2 ^ (x + 1)
  · have : (m : ℝ) * 2 ^ x = v := by
      rw [hv, hexact hv, hone]
      push_cast
      ring
    rw [this]
    exact ⟨Iff.rfl, Iff.rfl⟩
  · have hm : (m : ℝ) * 2 ^ x = Q * 2 ^ (x + 1) + 2 ^ x := by
      rw [hrest hv, hone]
      push_cast
      ring
    have hlt : (Q : ℝ) * 2 ^ (x + 1) < v := lt_of_le_of_ne hlower (Ne.symm hv)
    rw [hm]
    rcases le_or_gt M Q with hle | hgt
    · have hMQ : (M : ℝ) * 2 ^ (x + 1) ≤ Q * 2 ^ (x + 1) := units_le_iff.2 (by exact_mod_cast hle)
      exact ⟨⟨fun _ => by linarith, fun _ => by linarith⟩, fun h => absurd h (by linarith), fun h => absurd h (by linarith)⟩
    · have hMQ : (Q + 1 : ℝ) * 2 ^ (x + 1) ≤ M * 2 ^ (x + 1) := units_le_iff.2 (by exact_mod_cast hgt)
      have hQ1 : (Q + 1 : ℝ) * 2 ^ (x + 1) = Q * 2 ^ (x + 1) + 2 * 2 ^ x := by rw [hone]; ring
      exact ⟨⟨fun h => absurd h (by linarith), fun h => absurd h (by linarith)⟩, fun _ => by linarith, fun _ => by linarith⟩

/-- What the magnitude rounds to, the real number does. -/
theorem Sticky.roundsTo {v : ℝ} {Q m q : Nat} {x u : Int} (h : Sticky v Q m x) (hu : x + 2 ≤ u) (hr : RoundsTo ((m : ℝ) * 2 ^ x) q u) : RoundsTo v q u := by
  obtain ⟨hplace, hnormal, hbottom, ⟨hlow, hlow'⟩, hhigh, hhigh'⟩ := hr
  have h₁ := h.grid (w := u - 1) (by omega) (2 * q - 1)
  have h₂ := h.grid (w := u - 1) (by omega) (2 * q + 1)
  have h₃ := h.grid (w := u) (by omega) 8388608
  have h23 : (2 : ℝ) ^ 23 = 8388608 := by norm_num
  push_cast at h₁ h₂ h₃
  rw [h23] at hbottom
  exact ⟨hplace, hnormal, fun hne => by rw [h23]; exact h₃.1.1 (hbottom hne), ⟨h₁.1.1 hlow, fun he => hlow' (le_antisymm (h₁.2.2 he.le) hlow)⟩,
    h₂.2.1 hhigh, fun he => hhigh' (le_antisymm hhigh (h₂.1.2 he.ge))⟩

theorem log2_sticky {Q m : Nat} (hm : m = 2 * Q ∨ m = 2 * Q + 1) (hQ : 2 ^ 25 ≤ Q) : 25 ≤ Nat.log2 m :=
  (Nat.le_log2 (by omega)).2 (by omega)

theorem Sticky.last {v : ℝ} {Q m : Nat} {x : Int} (h : Sticky v Q m x) : m = 2 * Q ∨ m = 2 * Q + 1 := by
  by_cases hv : v = (Q : ℝ) * 2 ^ (x + 1)
  · exact .inl (h.exact hv)
  · exact .inr (h.rest hv)

/-- R86, R155: a word rounded from such a magnitude, of more bits than FP32 has, is the nearest to the real number. -/
theorem nearest_of_sticky {v : ℝ} {Q m : Nat} {x : Int} {neg : Bool} {notAbove notBelow : ℚ → Prop} (h : Sticky v Q m x) (hQ : 2 ^ 25 ≤ Q)
    (hr : Rounded (toF32 .rne (.fin neg m x)) neg m x)
    (habove : ∀ t, 0 ≤ t → (notAbove t ↔ (t : ℝ) ≤ v)) (hbelow : ∀ t, 0 ≤ t → (notBelow t ↔ v ≤ (t : ℝ))) :
    isFinite (toF32 .rne (.fin neg m x)) = true ∧ (toF32 .rne (.fin neg m x)).getLsbD 31 = neg ∧ Nearest (toF32 .rne (.fin neg m x)) notAbove notBelow := by
  obtain ⟨q, u, hround, hword, hlast⟩ := hr
  have hlog := log2_sticky h.last hQ
  exact ⟨hword.finite, hword.sign, nearest_of_roundsTo (h.roundsTo (by omega) hround) hword.value hword.odd habove hbelow⟩

/-! ### Quotients -/

theorem divMag_eq (m : Nat) (e : Int) (n : Nat) (k : Int) :
    divMag m e n k = (2 * (m * 2 ^ 80 / n) + (if m * 2 ^ 80 % n = 0 then 0 else 1), e - k - 81) := rfl

theorem divMag_sticky {m n : Nat} (hn : n ≠ 0) (e k : Int) :
    Sticky ((m : ℝ) * 2 ^ e / (n * 2 ^ k)) (m * 2 ^ 80 / n) (divMag m e n k).1 (divMag m e n k).2 := by
  have hnR : (0 : ℝ) < n := by exact_mod_cast Nat.pos_of_ne_zero hn
  have hv : (m : ℝ) * 2 ^ e / (n * 2 ^ k) = ((m * 2 ^ 80 : Nat) : ℝ) / n * 2 ^ (e - k - 81 + 1) := by
    rw [show e - k - 81 + 1 = e - k - (80 : Nat) by push_cast; ring, zpow_sub₀ (by norm_num), zpow_sub₀ (by norm_num), zpow_natCast]
    push_cast
    field_simp
    norm_num
  have hmod : n * (m * 2 ^ 80 / n) + m * 2 ^ 80 % n = m * 2 ^ 80 := Nat.div_add_mod _ _
  have hlt : m * 2 ^ 80 % n < n := Nat.mod_lt _ (Nat.pos_of_ne_zero hn)
  rw [hv, divMag_eq]
  generalize m * 2 ^ 80 = t at hmod hlt
  generalize hq : t / n = q at hmod
  have hmodR : (n : ℝ) * q + (t % n : Nat) = t := by exact_mod_cast hmod
  have heq : (t : ℝ) / n * 2 ^ (e - k - 81 + 1) = q * 2 ^ (e - k - 81 + 1) ↔ t % n = 0 := by
    rw [mul_left_inj' (two_zpow_pos _).ne', div_eq_iff hnR.ne']
    constructor
    · intro h
      have : ((t % n : Nat) : ℝ) = 0 := by linarith
      exact_mod_cast this
    · intro h
      rw [h, Nat.cast_zero] at hmodR
      linarith
  refine ⟨units_le_iff.2 ((le_div_iff₀ hnR).2 ?_), units_lt_iff.2 ((div_lt_iff₀ hnR).2 ?_), fun h => ?_, fun h => ?_⟩
  · have : (0 : ℝ) ≤ (t % n : Nat) := Nat.cast_nonneg _
    linarith
  · have : ((t % n : Nat) : ℝ) < n := by exact_mod_cast hlt
    linarith
  · rw [if_pos (heq.1 h), Nat.add_zero]
  · rw [if_neg (fun h0 => h (heq.2 h0))]

theorem divMag_bits {m n : Nat} (hm : m ≠ 0) (hn : n < 2 ^ 24) (hn0 : n ≠ 0) : 2 ^ 25 ≤ m * 2 ^ 80 / n := by
  rw [Nat.le_div_iff_mul_le (Nat.pos_of_ne_zero hn0)]
  calc 2 ^ 25 * n ≤ 2 ^ 25 * 2 ^ 24 := Nat.mul_le_mul_left _ hn.le
    _ ≤ 1 * 2 ^ 80 := by norm_num
    _ ≤ m * 2 ^ 80 := Nat.mul_le_mul_right _ (Nat.pos_of_ne_zero hm)

theorem valueOf_eq_zero_iff {w : Word} {neg : Bool} {m : Nat} {e : Int} (h : f32 w = .fin neg m e) : valueOf w = 0 ↔ m = 0 := by
  rw [← abs_eq_zero, abs_valueOf h, mul_eq_zero, Nat.cast_eq_zero, or_iff_left (zpow_ne_zero e (by norm_num))]

/-- R155: the quotient of two finite magnitudes, rounded once; of a zero too. -/
theorem numDiv_nearest {y r : Word} {a b : Bool} {m n : Nat} {e k : Int} {X : ℚ} (hX : X = m * (2 : ℚ) ^ e) (hy : f32 y = .fin b n k) (hn : n ≠ 0)
    (hr : r = toF32 .rne (numDiv (.fin a m e) (.fin b n k))) (hfin : isFinite r = true) :
    r.getLsbD 31 = (a ^^ b) ∧ Nearest r (fun t => t * |valueOf y| ≤ X) (fun t => X ≤ t * |valueOf y|) := by
  obtain ⟨_, _, _, hw⟩ := finiteWord_of_finite (isFinite_of_value hy)
  have hnlt : n < 2 ^ 24 := by
    have := hw.value
    rw [hy] at this
    cases this
    exact hw.width
  have hypos : 0 < |valueOf y| := abs_pos.2 fun h => hn ((valueOf_eq_zero_iff hy).1 h)
  have hyR := abs_valueOf_real hy
  have hsign : (a != b) = (a ^^ b) := by cases a <;> cases b <;> rfl
  by_cases hm : m = 0
  · have hdiv : numDiv (.fin a m e) (.fin b n k) = .fin (a != b) 0 0 := by
      simp only [numDiv, hn, hm, if_true, if_false]
    have hword : f32 r = .fin (a != b) 0 (-149) := by
      rw [hr, hdiv]
      exact f32_subnormal _ (m := 0) (by norm_num) ((toNat_ofNat_word ((signBit_lt _).trans_lt (by norm_num))).trans (Nat.add_zero _).symm)
    have hX0 : X = 0 := by rw [hX, hm]; simp
    refine ⟨(unitsWord_of_value hword).sign.trans hsign, fun w hfw => ?_⟩
    have hr0 : valueOf r = 0 := (valueOf_eq_zero_iff hword).2 rfl
    dsimp only
    rw [hr0, hX0, abs_zero]
    refine ⟨fun h => absurd h (not_lt.2 (abs_nonneg _)), fun h => ⟨by positivity, fun h' => ?_⟩⟩
    have : 0 < (0 + |valueOf w|) / 2 * |valueOf y| := by positivity
    exact absurd h' (not_le.2 this)
  · have hdiv : numDiv (.fin a m e) (.fin b n k) = .fin (a != b) (divMag m e n k).1 (divMag m e n k).2 := by
      simp only [numDiv, hn, hm, if_false]
    have hsticky := divMag_sticky (m := m) hn e k
    have hbits := divMag_bits hm hnlt hn
    have hne : (divMag m e n k).1 ≠ 0 := by have := hsticky.last; omega
    rw [hdiv] at hr
    have hround := (toF32_rounded (a != b) hne (divMag m e n k).2).resolve_right (fun h => by rw [← hr, hfin] at h; exact Bool.noConfusion h.1)
    have hv : ((X / |valueOf y| : ℚ) : ℝ) = (m : ℝ) * 2 ^ e / (n * 2 ^ k) := by
      rw [Rat.cast_div, hyR, hX]
      push_cast
      rfl
    obtain ⟨-, hs, hnear⟩ := nearest_of_sticky (notAbove := fun t => t * |valueOf y| ≤ X) (notBelow := fun t => X ≤ t * |valueOf y|) hsticky hbits hround
      (fun t _ => by rw [← hv, Rat.cast_le, le_div_iff₀ hypos]) (fun t _ => by rw [← hv, Rat.cast_le, div_le_iff₀ hypos])
    rw [hr]
    exact ⟨hs.trans hsign, hnear⟩

/-! ### Square roots -/

/-- The last bit of a root, from its square. -/
theorem sticky_of_square {v T : ℝ} {Q m : Nat} {x : Int} (hv : 0 ≤ v) (hT : v * v = T * (2 ^ (x + 1) * 2 ^ (x + 1))) (hlower : ((Q * Q : Nat) : ℝ) ≤ T)
    (hupper : T < (((Q + 1) * (Q + 1) : Nat) : ℝ)) (hexact : T = ((Q * Q : Nat) : ℝ) → m = 2 * Q) (hrest : T ≠ ((Q * Q : Nat) : ℝ) → m = 2 * Q + 1) : Sticky v Q m x := by
  have hpos := two_zpow_pos (x + 1)
  have hQ : (0 : ℝ) ≤ Q := Nat.cast_nonneg _
  push_cast at hlower hupper hexact hrest
  have hsq : v = (Q : ℝ) * 2 ^ (x + 1) ↔ T = (Q : ℝ) * Q := by
    rw [← mul_self_inj hv (by positivity), hT, mul_mul_mul_comm, mul_left_inj' (by positivity)]
  refine ⟨?_, ?_, fun h => hexact (hsq.1 h), fun h => hrest fun h' => h (hsq.2 h')⟩
  · rw [mul_self_le_mul_self_iff (by positivity) hv, hT, mul_mul_mul_comm]
    exact mul_le_mul_of_nonneg_right hlower (by positivity)
  · rw [mul_self_lt_mul_self_iff hv (by positivity), hT, mul_mul_mul_comm]
    exact mul_lt_mul_of_pos_right hupper (by positivity)

/-- The exponent made even. -/
def evenUnits (m : Nat) (e : Int) : Nat × Int := if e % 2 = 0 then (m, e) else (2 * m, e - 1)

theorem evenUnits_value (m : Nat) (e : Int) : ((evenUnits m e).1 : ℝ) * 2 ^ (evenUnits m e).2 = m * 2 ^ e := by
  unfold evenUnits
  split
  · rfl
  · dsimp only
    rw [zpow_pred e]
    push_cast
    ring

theorem evenUnits_bounds {m : Nat} {e : Int} (hm : m ≠ 0) (hlt : m < 2 ^ 24) (he : -149 ≤ e) (he' : e ≤ 104) :
    (evenUnits m e).1 ≠ 0 ∧ (evenUnits m e).1 < 2 ^ 25 ∧ -150 ≤ (evenUnits m e).2 ∧ (evenUnits m e).2 ≤ 104 ∧ (evenUnits m e).2 / 2 + (evenUnits m e).2 / 2 = (evenUnits m e).2 := by
  unfold evenUnits
  split <;> dsimp only <;> omega

theorem cast_square_eq {t q : Nat} : (t : ℝ) = ((q * q : Nat) : ℝ) ↔ q * q = t := by rw [Nat.cast_inj, eq_comm]

theorem fSqrt_nearest {x : Word} {m : Nat} {e : Int} (hx : f32 x = .fin false m e) (hm : m ≠ 0) :
    isFinite (fSqrt x 0) = true ∧ (fSqrt x 0).getLsbD 31 = false ∧ Nearest (fSqrt x 0) (fun t => t * t ≤ valueOf x) (fun t => valueOf x ≤ t * t) := by
  obtain ⟨_, _, _, hw⟩ := finiteWord_of_finite (isFinite_of_value hx)
  have hw' := hw.value
  rw [hx] at hw'
  cases hw'
  obtain ⟨h0, hlt, hlo, hhi, heven⟩ := evenUnits_bounds hm hw.width hw.place hw.largest
  have hval : ((valueOf x : ℚ) : ℝ) = ((evenUnits m e).1 : ℝ) * 2 ^ (evenUnits m e).2 := by
    rw [evenUnits_value, valueOf_fin hx]
    push_cast
    simp
  have hgo : fSqrt x 0 = toF32 .rne (.fin false (2 * Nat.sqrt ((evenUnits m e).1 * 2 ^ 80)
      + (if Nat.sqrt ((evenUnits m e).1 * 2 ^ 80) * Nat.sqrt ((evenUnits m e).1 * 2 ^ 80) = (evenUnits m e).1 * 2 ^ 80 then 0 else 1)) ((evenUnits m e).2 / 2 - 41)) := by
    unfold fSqrt numSqrt
    rw [hx]
    dsimp only
    rw [if_neg hm, if_neg Bool.false_ne_true]
    rfl
  rw [hgo]
  generalize (evenUnits m e).1 = m1 at h0 hlt hval
  generalize (evenUnits m e).2 = e1 at hlo hhi heven hval
  have hle := Nat.sqrt_le (m1 * 2 ^ 80)
  have hsucc := Nat.lt_succ_sqrt (m1 * 2 ^ 80)
  have hbits : 2 ^ 25 ≤ Nat.sqrt (m1 * 2 ^ 80) := Nat.le_sqrt.2 (by omega)
  have hsmall : Nat.sqrt (m1 * 2 ^ 80) < 2 ^ 53 := Nat.sqrt_lt.2 (by omega)
  generalize hQ : Nat.sqrt (m1 * 2 ^ 80) = Q at hle hsucc hbits hsmall
  have hvpos : (0 : ℝ) ≤ ((valueOf x : ℚ) : ℝ) := by rw [hval]; positivity
  have hsq : √((valueOf x : ℚ) : ℝ) * √((valueOf x : ℚ) : ℝ) = ((m1 * 2 ^ 80 : Nat) : ℝ) * (2 ^ (e1 / 2 - 41 + 1) * 2 ^ (e1 / 2 - 41 + 1)) := by
    rw [Real.mul_self_sqrt hvpos, hval, ← zpow_add₀ (by norm_num), show e1 / 2 - 41 + 1 + (e1 / 2 - 41 + 1) = e1 - (80 : Nat) by push_cast; omega,
      zpow_sub₀ (by norm_num), zpow_natCast]
    push_cast
    field_simp
    norm_num
  have hsticky : Sticky (√((valueOf x : ℚ) : ℝ)) Q (2 * Q + (if Q * Q = m1 * 2 ^ 80 then 0 else 1)) (e1 / 2 - 41) :=
    sticky_of_square (Real.sqrt_nonneg _) hsq (Nat.cast_le.2 hle) (Nat.cast_lt.2 hsucc) (fun h => by rw [if_pos (cast_square_eq.1 h), Nat.add_zero])
      (fun h => by rw [if_neg (fun h' => h (cast_square_eq.2 h'))])
  have hlast := hsticky.last
  generalize (2 * Q + (if Q * Q = m1 * 2 ^ 80 then 0 else 1)) = M at hsticky hlast
  refine nearest_of_sticky hsticky hbits ((toF32_rounded false (by omega) _).resolve_right fun h => ?_) (fun t ht => ?_) (fun t ht => ?_)
  · have hM : (M : ℝ) ≤ 2 ^ 54 := by exact_mod_cast (show M ≤ 2 ^ 54 by omega)
    have hexp : (2 : ℝ) ^ (e1 / 2 - 41) ≤ 2 ^ (11 : Int) := zpow_le_zpow_right₀ (by norm_num) (by omega)
    have := mul_le_mul hM hexp (two_zpow_pos _).le (by norm_num)
    have h2 := h.2
    norm_num at this h2
    linarith
  · have htR : (0 : ℝ) ≤ (t : ℝ) := Rat.cast_nonneg.2 ht
    rw [mul_self_le_mul_self_iff htR (Real.sqrt_nonneg _), Real.mul_self_sqrt hvpos, ← Rat.cast_mul, Rat.cast_le]
  · have htR : (0 : ℝ) ≤ (t : ℝ) := Rat.cast_nonneg.2 ht
    rw [mul_self_le_mul_self_iff (Real.sqrt_nonneg _) htR, Real.mul_self_sqrt hvpos, ← Rat.cast_mul, Rat.cast_le]

theorem fRsq_nearest {x : Word} {m : Nat} {e : Int} (hx : f32 x = .fin false m e) (hm : m ≠ 0) :
    isFinite (fRsq x 0) = true ∧ (fRsq x 0).getLsbD 31 = false ∧ Nearest (fRsq x 0) (fun t => t * t * valueOf x ≤ 1) (fun t => 1 ≤ t * t * valueOf x) := by
  obtain ⟨_, _, _, hw⟩ := finiteWord_of_finite (isFinite_of_value hx)
  have hw' := hw.value
  rw [hx] at hw'
  cases hw'
  obtain ⟨h0, hlt, hlo, hhi, heven⟩ := evenUnits_bounds hm hw.width hw.place hw.largest
  have hval : ((valueOf x : ℚ) : ℝ) = ((evenUnits m e).1 : ℝ) * 2 ^ (evenUnits m e).2 := by
    rw [evenUnits_value, valueOf_fin hx]
    push_cast
    simp
  have hgo : fRsq x 0 = toF32 .rne (.fin false (2 * Nat.sqrt (2 ^ 200 / (evenUnits m e).1)
      + (if Nat.sqrt (2 ^ 200 / (evenUnits m e).1) * Nat.sqrt (2 ^ 200 / (evenUnits m e).1) = 2 ^ 200 / (evenUnits m e).1
          ∧ 2 ^ 200 / (evenUnits m e).1 * (evenUnits m e).1 = 2 ^ 200 then 0 else 1)) (-((evenUnits m e).2 / 2) - 101)) := by
    unfold fRsq
    rw [hx]
    dsimp only
    rw [if_neg hm, if_neg Bool.false_ne_true]
    rfl
  rw [hgo]
  generalize (evenUnits m e).1 = m1 at h0 hlt hval
  generalize (evenUnits m e).2 = e1 at hlo hhi heven hval
  have hm1 : (0 : ℝ) < m1 := by exact_mod_cast Nat.pos_of_ne_zero h0
  have hmod : m1 * (2 ^ 200 / m1) + 2 ^ 200 % m1 = 2 ^ 200 := Nat.div_add_mod _ _
  have hmodlt : 2 ^ 200 % m1 < m1 := Nat.mod_lt _ (Nat.pos_of_ne_zero h0)
  have hbig : 2 ^ 175 ≤ 2 ^ 200 / m1 := by
    rw [Nat.le_div_iff_mul_le (Nat.pos_of_ne_zero h0)]
    calc 2 ^ 175 * m1 ≤ 2 ^ 175 * 2 ^ 25 := Nat.mul_le_mul_left _ hlt.le
      _ = 2 ^ 200 := by norm_num
  have hthi : 2 ^ 200 / m1 ≤ 2 ^ 200 := Nat.div_le_self _ _
  generalize ht : 2 ^ 200 / m1 = t at hmod hbig hthi
  have hle := Nat.sqrt_le t
  have hsucc := Nat.lt_succ_sqrt t
  have hbits : 2 ^ 25 ≤ Nat.sqrt t := Nat.le_sqrt.2 (le_trans (by norm_num) hbig)
  have hsmall : Nat.sqrt t < 2 ^ 101 := Nat.sqrt_lt.2 (lt_of_le_of_lt hthi (by norm_num))
  generalize Nat.sqrt t = Q at hle hsucc hbits hsmall
  have hvpos : (0 : ℝ) < ((valueOf x : ℚ) : ℝ) := by rw [hval]; exact mul_pos hm1 (two_zpow_pos _)
  have hroot : (0 : ℝ) < 1 / √((valueOf x : ℚ) : ℝ) := one_div_pos.2 (Real.sqrt_pos.2 hvpos)
  have hself : 1 / √((valueOf x : ℚ) : ℝ) * (1 / √((valueOf x : ℚ) : ℝ)) = 1 / ((valueOf x : ℚ) : ℝ) := by
    rw [div_mul_div_comm, one_mul, Real.mul_self_sqrt hvpos.le]
  have hsq : 1 / √((valueOf x : ℚ) : ℝ) * (1 / √((valueOf x : ℚ) : ℝ)) = ((2 ^ 200 : Nat) : ℝ) / m1 * (2 ^ (-(e1 / 2) - 101 + 1) * 2 ^ (-(e1 / 2) - 101 + 1)) := by
    rw [hself, hval, ← zpow_add₀ (by norm_num), show -(e1 / 2) - 101 + 1 + (-(e1 / 2) - 101 + 1) = -(200 : Nat) - e1 by push_cast; omega,
      zpow_sub₀ (by norm_num), zpow_neg, zpow_natCast]
    push_cast
    field_simp
    norm_num
  have hmodR : (m1 : ℝ) * t + (2 ^ 200 % m1 : Nat) = ((2 ^ 200 : Nat) : ℝ) := by exact_mod_cast hmod
  have hexact : ((2 ^ 200 : Nat) : ℝ) / m1 = ((Q * Q : Nat) : ℝ) ↔ Q * Q = t ∧ t * m1 = 2 ^ 200 := by
    rw [div_eq_iff hm1.ne', ← Nat.cast_mul, Nat.cast_inj]
    constructor
    · intro h
      have hQt : Q * Q = t := by
        rw [h, Nat.mul_div_cancel _ (Nat.pos_of_ne_zero h0)] at ht
        exact ht
      exact ⟨hQt, by rw [← hQt, h]⟩
    · rintro ⟨h1, h2⟩
      rw [h1, h2]
  have hsticky : Sticky (1 / √((valueOf x : ℚ) : ℝ)) Q (2 * Q + (if Q * Q = t ∧ t * m1 = 2 ^ 200 then 0 else 1)) (-(e1 / 2) - 101) := by
    refine sticky_of_square hroot.le hsq ((le_div_iff₀ hm1).2 ?_) ((div_lt_iff₀ hm1).2 ?_) (fun h => by rw [if_pos (hexact.1 h), Nat.add_zero])
      (fun h => by rw [if_neg (fun h' => h (hexact.2 h'))])
    · rw [← Nat.cast_mul, Nat.cast_le]
      calc Q * Q * m1 ≤ t * m1 := Nat.mul_le_mul_right _ hle
        _ ≤ 2 ^ 200 := by rw [Nat.mul_comm]; omega
    · rw [← Nat.cast_mul, Nat.cast_lt]
      calc 2 ^ 200 < m1 * t + m1 := by omega
        _ = (t + 1) * m1 := by ring
        _ ≤ (Q + 1) * (Q + 1) * m1 := Nat.mul_le_mul_right _ hsucc
  have hlast := hsticky.last
  generalize (2 * Q + (if Q * Q = t ∧ t * m1 = 2 ^ 200 then 0 else 1)) = M at hsticky hlast
  have hcancel : 1 / ((valueOf x : ℚ) : ℝ) * ((valueOf x : ℚ) : ℝ) = 1 := one_div_mul_cancel hvpos.ne'
  refine nearest_of_sticky hsticky hbits ((toF32_rounded false (by omega) _).resolve_right fun h => ?_) (fun r hr => ?_) (fun r hr => ?_)
  · have hM : (M : ℝ) ≤ 2 ^ 103 := by exact_mod_cast (show M ≤ 2 ^ 103 by omega)
    have hexp : (2 : ℝ) ^ (-(e1 / 2) - 101) ≤ 2 ^ (-26 : Int) := zpow_le_zpow_right₀ (by norm_num) (by omega)
    have := mul_le_mul hM hexp (two_zpow_pos _).le (by norm_num)
    have h2 := h.2
    norm_num at this h2
    linarith
  · have hrR : (0 : ℝ) ≤ (r : ℝ) := Rat.cast_nonneg.2 hr
    rw [mul_self_le_mul_self_iff hrR hroot.le, hself, le_div_iff₀ hvpos]
    exact_mod_cast Iff.rfl
  · have hrR : (0 : ℝ) ≤ (r : ℝ) := Rat.cast_nonneg.2 hr
    rw [mul_self_le_mul_self_iff hroot.le hrR, hself, div_le_iff₀ hvpos]
    exact_mod_cast Iff.rfl

/-! ### The four of them -/

theorem roundedOnce : RoundedOnce := by
  refine ⟨fun x y hx hy hy0 hfin => ?_, fun x hx hx0 hfin => ?_, fun x hx hpos => ?_⟩
  · obtain ⟨a, m, e, hxw⟩ := finiteWord_of_finite hx
    obtain ⟨b, n, k, hyw⟩ := finiteWord_of_finite hy
    have := numDiv_nearest (r := fDiv x y) (a := a) (abs_valueOf hxw.value) hyw.value (fun h => hy0 ((valueOf_eq_zero_iff hyw.value).2 h))
      (by rw [← hxw.value, ← hyw.value]; rfl) hfin
    rw [hxw.sign, hyw.sign]
    exact this
  · obtain ⟨b, n, k, hxw⟩ := finiteWord_of_finite hx
    have := numDiv_nearest (r := fRcp x 0) (a := false) (m := 1) (e := 0) (X := 1) (by norm_num) hxw.value (fun h => hx0 ((valueOf_eq_zero_iff hxw.value).2 h))
      (by rw [← hxw.value]; rfl) hfin
    rw [hxw.sign]
    simpa using this
  · obtain ⟨b, m, e, hxw⟩ := finiteWord_of_finite hx
    have hm : m ≠ 0 := fun h => hpos.ne' ((valueOf_eq_zero_iff hxw.value).2 h)
    have hb : b = false := by
      have := valueOf_fin hxw.value
      cases b
      · rfl
      · exfalso
        have h2 : (0 : ℚ) ≤ m * 2 ^ e := by positivity
        simp only [if_true] at this
        linarith
    subst hb
    obtain ⟨h1, h2, h3⟩ := fRsq_nearest hxw.value hm
    exact ⟨fSqrt_nearest hxw.value hm, h1, h2, h3⟩

end Sys2Proof.Machine
end

section
/-! ## The special cases of the correctly rounded functions (R156) -/

namespace Sys2Proof.Machine

/-! ### Words of a sign -/

/-- A zero of a sign. -/
def signWord (neg : Bool) : Word := if neg then 0x80000000 else 0

theorem sign_eq (x : Word) : x &&& 0x80000000 = signWord (x.getLsbD 31) := BitVec.and_twoPow x 31

theorem sign_xor (x y : Word) : (x ^^^ y) &&& 0x80000000 = signWord (x.getLsbD 31 != y.getLsbD 31) := by
  rw [sign_eq, BitVec.getLsbD_xor]

theorem signWord_eq_zero (neg : Bool) : signWord neg = 0 ↔ neg = false := by cases neg <;> decide

theorem toF32_zero (neg : Bool) (e : Int) : toF32 .rne (.fin neg 0 e) = signWord neg := by cases neg <;> rfl
theorem toF32_inf (neg : Bool) : toF32 .rne (.inf neg) = signWord neg ||| 0x7F800000 := by cases neg <;> rfl

theorem eq_of_f32 {x : Word} {n : Num} (h : f32 x = n) (hn : n ≠ .nan) : x = toF32 .rne n := by
  rw [← h, toF32_f32]
  exact Bool.eq_false_iff.2 fun hnan => hn (h.symm.trans ((isNaN32_iff x).1 hnan))

/-! ### The kinds of operands -/

theorem fin_of_finite {x : Word} (h : isFinite x = true) : ∃ m e, f32 x = .fin (x.getLsbD 31) m e := by
  obtain ⟨neg, m, e, hw⟩ := finiteWord_of_finite h
  exact ⟨m, e, by rw [hw.sign]; exact hw.value⟩

theorem zero_of_finite {x : Word} (h : isFinite x = true) (h0 : valueOf x = 0) : ∃ e, f32 x = .fin (x.getLsbD 31) 0 e := by
  obtain ⟨m, e, hw⟩ := fin_of_finite h
  exact ⟨e, by rw [← (valueOf_eq_zero_iff hw).1 h0]; exact hw⟩

theorem nonzero_of_finite {x : Word} (h : isFinite x = true) (h0 : valueOf x ≠ 0) : ∃ m e, m ≠ 0 ∧ f32 x = .fin (x.getLsbD 31) m e := by
  obtain ⟨m, e, hw⟩ := fin_of_finite h
  exact ⟨m, e, fun hm => h0 ((valueOf_eq_zero_iff hw).2 hm), hw⟩

theorem inf_of_isInf {x : Word} (h : isInf x = true) : f32 x = .inf (x.getLsbD 31) := by
  unfold isInf at h
  split at h
  · next neg hx =>
    have := eq_of_f32 hx (by simp)
    rw [hx, this]
    cases neg <;> rfl
  · cases h

/-! ### The rows of the table -/

theorem fDiv_nan {x y : Word} (h : isNaN32 x = true ∨ isNaN32 y = true) : fDiv x y = 0x7FC00000 := by
  unfold fDiv
  rcases h with h | h
  · rw [(isNaN32_iff x).1 h]; rfl
  · rw [(isNaN32_iff y).1 h]
    cases f32 x <;> rfl

theorem long_nan {x : Word} (h : isNaN32 x = true) : ∀ f ∈ [fSqrt, fRcp, fRsq, fExp2, fLog2, fSinT, fCosT, fTanh, fSigm, fErf], f x 0 = 0x7FC00000 := by
  have hx := (isNaN32_iff x).1 h
  simp only [List.forall_mem_cons]
  refine ⟨?_, ?_, ?_, ?_, ?_, ?_, ?_, ?_, ?_, ?_, List.forall_mem_nil _⟩
  · unfold fSqrt; rw [hx]; rfl
  · unfold fRcp; rw [hx]; rfl
  · unfold fRsq; rw [hx]; rfl
  · unfold fExp2; rw [hx]; rfl
  · unfold fLog2; rw [hx]; rfl
  · unfold fSinT; rw [hx]; rfl
  · unfold fCosT; rw [hx]; rfl
  · unfold fTanh; rw [hx]; rfl
  · unfold fSigm; rw [hx]; rfl
  · unfold fErf; rw [hx]; rfl

theorem long_negative {x : Word} (h : (isFinite x = true ∧ valueOf x ≠ 0) ∨ isInf x = true) (hneg : x.getLsbD 31 = true) :
    ∀ f ∈ [fSqrt, fRsq, fLog2], f x 0 = 0x7FC00000 := by
  have hx : (∃ m e, m ≠ 0 ∧ f32 x = .fin true m e) ∨ f32 x = .inf true := by
    rw [← hneg]
    exact h.imp (fun h => nonzero_of_finite h.1 h.2) inf_of_isInf
  simp only [List.forall_mem_cons]
  refine ⟨?_, ?_, ?_, List.forall_mem_nil _⟩
  · unfold fSqrt
    rcases hx with ⟨m, e, hm, hx⟩ | hx
    · rw [hx]; simp only [numSqrt, hm, if_false, if_true]; rfl
    · rw [hx]; rfl
  · unfold fRsq
    rcases hx with ⟨m, e, hm, hx⟩ | hx
    · rw [hx]; simp only [hm, if_false, if_true]; rfl
    · rw [hx]; rfl
  · unfold fLog2
    rcases hx with ⟨m, e, hm, hx⟩ | hx
    · rw [hx]; simp only [hm, if_false, if_true]; rfl
    · rw [hx]; rfl

section
variable {x y : Word}

theorem fDiv_by_zero (hx : isFinite x = true) (hx0 : valueOf x ≠ 0) (hy : isFinite y = true) (hy0 : valueOf y = 0) : fDiv x y = (x ^^^ y) &&& 0x80000000 ||| 0x7F800000 := by
  obtain ⟨m, e, hm, hxw⟩ := nonzero_of_finite hx hx0
  obtain ⟨k, hyw⟩ := zero_of_finite hy hy0
  rw [sign_xor, ← toF32_inf]
  unfold fDiv
  rw [hxw, hyw]
  simp only [numDiv, hm, if_true, if_false]

theorem fDiv_zero_zero (hx : isFinite x = true) (hx0 : valueOf x = 0) (hy : isFinite y = true) (hy0 : valueOf y = 0) : fDiv x y = 0x7FC00000 := by
  obtain ⟨e, hxw⟩ := zero_of_finite hx hx0
  obtain ⟨k, hyw⟩ := zero_of_finite hy hy0
  unfold fDiv
  rw [hxw, hyw]
  rfl

theorem fDiv_inf_inf (hx : isInf x = true) (hy : isInf y = true) : fDiv x y = 0x7FC00000 := by
  unfold fDiv
  rw [inf_of_isInf hx, inf_of_isInf hy]
  rfl

theorem fDiv_fin_inf (hx : isFinite x = true) (hy : isInf y = true) : fDiv x y = (x ^^^ y) &&& 0x80000000 := by
  obtain ⟨m, e, hxw⟩ := fin_of_finite hx
  rw [sign_xor, ← toF32_zero _ 0]
  unfold fDiv
  rw [hxw, inf_of_isInf hy]
  rfl

theorem fDiv_inf_fin (hx : isInf x = true) (hy : isFinite y = true) : fDiv x y = (x ^^^ y) &&& 0x80000000 ||| 0x7F800000 := by
  obtain ⟨m, e, hyw⟩ := fin_of_finite hy
  rw [sign_xor, ← toF32_inf]
  unfold fDiv
  rw [inf_of_isInf hx, hyw]
  rfl

end

/-- R156: both zeros of the functions of one operand. -/
theorem long_zeros {x : Word} (hx : isFinite x = true) (hx0 : valueOf x = 0) :
    fSqrt x 0 = x ∧ fRcp x 0 = x &&& 0x80000000 ||| 0x7F800000 ∧ fRsq x 0 = x &&& 0x80000000 ||| 0x7F800000 ∧ fExp2 x 0 = 0x3F800000 ∧ fLog2 x 0 = 0xFF800000
    ∧ fTanh x 0 = x ∧ fErf x 0 = x ∧ fSigm x 0 = 0x3F000000 := by
  obtain ⟨e, hxw⟩ := zero_of_finite hx hx0
  have hword : x = signWord (x.getLsbD 31) := (eq_of_f32 hxw (by simp)).trans (toF32_zero _ _)
  rw [sign_eq]
  generalize x.getLsbD 31 = neg at hxw hword
  have hrcp : numDiv (.fin false 1 0) (.fin neg 0 e) = .inf neg := by cases neg <;> simp [numDiv]
  unfold fSqrt fRcp fRsq fExp2 fLog2 fTanh fErf fSigm
  rw [hxw, hrcp, hword]
  cases neg <;> exact ⟨rfl, rfl, rfl, rfl, rfl, rfl, rfl, rfl⟩

/-- R156: both infinities of the functions of one operand. -/
theorem long_infinities {x : Word} (hx : isInf x = true) :
    fRcp x 0 = x &&& 0x80000000 ∧ fSinT x 0 = 0x7FC00000 ∧ fCosT x 0 = 0x7FC00000 ∧ fTanh x 0 = x &&& 0x80000000 ||| 0x3F800000
    ∧ fErf x 0 = x &&& 0x80000000 ||| 0x3F800000 ∧ fExp2 x 0 = (if x &&& 0x80000000 = 0 then 0x7F800000 else 0) ∧ fSigm x 0 = (if x &&& 0x80000000 = 0 then 0x3F800000 else 0)
    ∧ (x &&& 0x80000000 = 0 → fSqrt x 0 = 0x7F800000 ∧ fRsq x 0 = 0 ∧ fLog2 x 0 = 0x7F800000) := by
  have hxw := inf_of_isInf hx
  rw [sign_eq]
  generalize x.getLsbD 31 = neg at hxw
  unfold fRcp fSinT fCosT fTanh fErf fExp2 fSigm fSqrt fRsq fLog2
  rw [hxw]
  cases neg
  · exact ⟨rfl, rfl, rfl, rfl, rfl, rfl, rfl, fun _ => ⟨rfl, rfl, rfl⟩⟩
  · exact ⟨rfl, rfl, rfl, rfl, rfl, rfl, rfl, fun h => absurd h (by decide)⟩

/-! ### Quarter turns -/

/-- The sine at k quarters of a turn, or, with shift 1, the cosine a quarter before. -/
def quarterWord (shift : Nat) (neg : Bool) (k : Nat) : Word :=
  if k = 0 ∨ k = 2 then (if shift = 0 ∧ neg then 0x80000000 else 0) else if k = 1 then 0x3F800000 else 0xBF800000

theorem quarterSplit_whole {F j : Nat} : quarterSplit (F * 2 ^ (j - 2)) j = (F, false, 0) := by
  have hpos : 0 < 2 ^ (j - 2) := by positivity
  unfold quarterSplit
  dsimp only
  generalize 2 ^ (j - 2) = h at hpos
  have hq : (2 * (F * h) + h) / (2 * h) = F := by
    rw [show 2 * (F * h) + h = h + 2 * h * F by ring, Nat.add_mul_div_left _ _ (by omega), Nat.div_eq_of_lt (by omega), Nat.zero_add]
  rw [hq]
  simp

/-- The quarters of a turn, of a magnitude of A quarters with a sign. -/
def turnQuarters (neg : Bool) (A : Nat) : Nat := (if neg then 4 - A % 4 else A % 4) % 4

theorem turns_quarters (id shift : Nat) (x : Word) (neg : Bool) {m A : Nat} {e : Int} (hA : (m : ℝ) * 2 ^ e * 4 = A) :
    turns id shift x neg m e = quarterWord shift neg ((turnQuarters neg A + shift) % 4) := by
  generalize hj : max 2 (-e).toNat = j
  have hj2 : 2 ≤ j := by omega
  obtain ⟨k, hk⟩ := Int.eq_ofNat_of_zero_le (show 0 ≤ e + (j : Int) by omega)
  have htoNat : (e + (j : Int)).toNat = k := by omega
  have hturn : 2 ^ j = 4 * 2 ^ (j - 2) := by rw [show j = j - 2 + 2 by omega, pow_add, Nat.add_sub_cancel]; ring
  have hunits : m * 2 ^ k = A * 2 ^ (j - 2) := by
    have hreal : (m : ℝ) * 2 ^ k = A * 2 ^ (j - 2) := by
      rw [← hA, ← zpow_natCast (2 : ℝ) k, ← zpow_natCast (2 : ℝ) (j - 2), ← hk, show e + (j : Int) = e + ((j - 2 : Nat) : Int) + 2 by omega, zpow_add₀ (by norm_num), zpow_add₀ (by norm_num)]
      norm_num
      ring
    exact_mod_cast hreal
  have hfull : (if neg then 2 ^ j - A * 2 ^ (j - 2) % 2 ^ j else A * 2 ^ (j - 2) % 2 ^ j) % 2 ^ j = turnQuarters neg A * 2 ^ (j - 2) := by
    rw [hturn, Nat.mul_mod_mul_right]
    unfold turnQuarters
    cases neg
    · rw [if_neg Bool.false_ne_true, if_neg Bool.false_ne_true, Nat.mul_mod_mul_right]
    · rw [if_pos rfl, if_pos rfl, ← Nat.sub_mul, Nat.mul_mod_mul_right]
  unfold turns
  dsimp only
  rw [hj, htoNat, hunits, hfull, quarterSplit_whole]
  rfl

/-- The quarters of a signed number of quarters. -/
theorem turnQuarters_eq {neg : Bool} {A : Nat} {N : Int} (h : N = if neg then -(A : Int) else A) : (turnQuarters neg A : Int) = N % 4 := by
  unfold turnQuarters
  cases neg <;> simp at h ⊢ <;> omega

/-- R156: FSINT and FCOST of a whole number of quarters. -/
theorem sinCos_quarters {x : Word} {N : Int} (hx : isFinite x = true) (hN : 4 * valueOf x = N) :
    fSinT x 0 = quarterWord 0 (x.getLsbD 31) (N % 4).toNat ∧ fCosT x 0 = quarterWord 1 (x.getLsbD 31) ((N + 1) % 4).toNat := by
  obtain ⟨m, e, hw⟩ := fin_of_finite hx
  have hval := valueOf_fin hw
  generalize x.getLsbD 31 = neg at hw hval
  by_cases hm : m = 0
  · subst hm
    have hN0 : N = 0 := by
      rw [(valueOf_eq_zero_iff hw).2 rfl, mul_zero] at hN
      exact_mod_cast hN.symm
    unfold fSinT fCosT
    rw [hw, hN0]
    cases neg <;> exact ⟨rfl, rfl⟩
  · have hA : (m : ℚ) * 2 ^ e * 4 = (N.natAbs : ℚ) := by
      have : ((N.natAbs : Int) : ℚ) = |4 * valueOf x| := by rw [hN, Int.natCast_natAbs, Int.cast_abs]
      rw [Int.cast_natCast] at this
      rw [this, abs_mul, abs_valueOf hw]
      norm_num
      ring
    have hAR : (m : ℝ) * 2 ^ e * 4 = (N.natAbs : ℝ) := by
      have := congrArg (Rat.cast : ℚ → ℝ) hA
      push_cast at this ⊢
      exact this
    have hpos : (0 : ℚ) < m * 2 ^ e := mul_pos (by exact_mod_cast Nat.pos_of_ne_zero hm) (zpow_pos (by norm_num) e)
    have hsigned : N = if neg then -(N.natAbs : Int) else N.natAbs := by
      have hNQ : (N : ℚ) = if neg then -(N.natAbs : ℚ) else N.natAbs := by
        rw [← hN, ← hA, hval]
        cases neg <;> simp <;> ring
      cases neg
      · simp only [Bool.false_eq_true, if_false] at hNQ ⊢
        exact Int.cast_injective (hNQ.trans (Int.cast_natCast _).symm)
      · simp only [if_true] at hNQ ⊢
        exact Int.cast_injective (hNQ.trans (by rw [Int.cast_neg, Int.cast_natCast]))
    have hturn := turnQuarters_eq hsigned
    have hsin := turns_quarters 2 0 x neg hAR
    have hcos := turns_quarters 3 1 x neg hAR
    unfold fSinT fCosT
    rw [hw]
    dsimp only
    rw [if_neg hm, if_neg hm, hsin, hcos]
    generalize turnQuarters neg N.natAbs = F at hturn
    constructor
    · congr 1
      omega
    · congr 1
      omega

theorem turns_special {x : Word} {n : Int} (hx : isFinite x = true) :
    (2 * valueOf x = n → fSinT x 0 = x &&& 0x80000000)
    ∧ (valueOf x = n + 1 / 4 → fSinT x 0 = 0x3F800000 ∧ fCosT x 0 = 0)
    ∧ (valueOf x = n - 1 / 4 → fSinT x 0 = 0xBF800000 ∧ fCosT x 0 = 0)
    ∧ (valueOf x = n → fCosT x 0 = 0x3F800000)
    ∧ (valueOf x = n + 1 / 2 → fCosT x 0 = 0xBF800000) := by
  refine ⟨fun h => ?_, fun h => ?_, fun h => ?_, fun h => ?_, fun h => ?_⟩
  · obtain ⟨hsin, -⟩ := sinCos_quarters (N := 2 * n) hx (by push_cast; linarith)
    rw [hsin, sign_eq]
    refine (if_pos ?_).trans ?_
    · omega
    · cases x.getLsbD 31 <;> rfl
  · obtain ⟨hsin, hcos⟩ := sinCos_quarters (N := 4 * n + 1) hx (by push_cast; linarith)
    rw [hsin, hcos, show ((4 * n + 1) % 4).toNat = 1 by omega, show ((4 * n + 1 + 1) % 4).toNat = 2 by omega]
    exact ⟨rfl, rfl⟩
  · obtain ⟨hsin, hcos⟩ := sinCos_quarters (N := 4 * n - 1) hx (by push_cast; linarith)
    rw [hsin, hcos, show ((4 * n - 1) % 4).toNat = 3 by omega, show ((4 * n - 1 + 1) % 4).toNat = 0 by omega]
    exact ⟨rfl, rfl⟩
  · obtain ⟨-, hcos⟩ := sinCos_quarters (N := 4 * n) hx (by push_cast; linarith)
    rw [hcos, show ((4 * n + 1) % 4).toNat = 1 by omega]
    rfl
  · obtain ⟨-, hcos⟩ := sinCos_quarters (N := 4 * n + 2) hx (by push_cast; linarith)
    rw [hcos, show ((4 * n + 2 + 1) % 4).toNat = 3 by omega]
    rfl

theorem fLog2_one : fLog2 0x3F800000 0 = 0 := by decide

theorem longSpecials : LongSpecials :=
  ⟨fun _ _ h => fDiv_nan h, fun _ h => long_nan h, fun _ h hneg => long_negative h hneg,
    fun _ _ => ⟨fDiv_by_zero, fDiv_zero_zero, fDiv_inf_inf, fDiv_fin_inf, fDiv_inf_fin⟩, fun _ h h0 => long_zeros h h0, fun _ h => long_infinities h, fLog2_one,
    fun _ _ h => turns_special h⟩

/-! ### All of it -/

/-- Settles O20: what rounds to nearest is the nearest word (`nearest_of_roundsTo`), a quotient or a root with a last bit for what is left
rounds as the exact one (`Sticky.roundsTo`); the special cases row by row; the issue and the return of any of the eleven (`longIssue_of_exec`, `long_returns`). -/
theorem longFunctions : Obligations.LongFunctions := by
  refine ⟨roundedOnce, longSpecials, ⟨?_, ?_, ?_, ?_, ?_, ?_, ?_, ?_, ?_, ?_, ?_, fun la d a b i s hi hm => long_none hi hm⟩,
    fun s n la d a b i hi hlive hinstr hst => long_returns (by rw [hinstr]; exact long_of_form hi) hlive hst⟩
  · exact fun la d a b => longIssue_of_exec fun _ => rfl
  all_goals exact fun la d a => longIssue_of_exec fun _ => rfl

end Sys2Proof.Machine
end
